-- ==== Sys2Proof/Word.lean ====
section
/-! DEFINITION. The words of the Fennak and the two plain containers the state is built from.
A `Tab` is a sparse table: strictly rising keys, one value each (rule R5 fixes the byte order elsewhere). -/

namespace Sys2Proof

/-- One byte of memory, of a record or of a token. -/
abbrev Byte := BitVec 8

/-- A management register, a k register or a window slot (R52, R186). -/
abbrev Word32 := BitVec 32

/-- A narrow token (R168) or an address operand. -/
abbrev Word64 := BitVec 64

/-- A wide token (R168). -/
abbrev Word256 := BitVec 256

/-- A node word (R255). -/
abbrev NodeWord := BitVec 128

/-- A sparse table from numbers to values; its operations keep the keys strictly rising. -/
abbrev Tab (α : Type) := List (Nat × α)

end Sys2Proof
end

