-- ==== Sys2Proof/Syntax.lean ====
section
/-! DEFINITION. The steps of the machine: one constructor of `Instr` for each row of the opcode table.
The first group are the 190 node instructions, already split into named fields (R255 to R273); the second are the
device's own events (registers, links, boot, Rambler, queues, dispatch, commit, scheduler). -/

namespace Sys2Proof

/-! ## Fields of a node word -/

/-- The type codes of R235. -/
inductive Ty where
  | b32 | b64 | s32 | s64 | n32 | n64 | s8 | n8 | s4 | n4
  | f32 | bf16 | f16 | e4m3 | e5m2 | e2m1 | e8m0 | t2 | mxe4m3 | mxe5m2 | mxe2m1 | mxs8
  deriving DecidableEq, Repr

/-- The TAG operations of R256. -/
inductive Tag where
  | keep | winc | wrst | join | repl | pret
  deriving DecidableEq, Repr

/-- The source kinds of R257 with their indices. -/
inductive Src where
  | none
  | port (p : Fin 3)
  | win (n : Fin 48)
  | kreg (n : Fin 128)
  | imm
  | sr (n : Fin 12)
  | pool (n : Fin 8192)
  deriving DecidableEq, Repr

/-- What bits [63:48] hold (R259): a source, an immediate, a sequence field, or bits an unordered node ignores. -/
inductive Low where
  | src (s : Src)
  | imm (v : BitVec 16)
  | seq (seq : BitVec 8) (pred succ : BitVec 4)
  | ignored (v : BitVec 16)
  deriving DecidableEq, Repr

/-- The networks of R168, and the edge-port destinations of R261. -/
inductive Net where
  | narrow | wide | pred | edge
  deriving DecidableEq, Repr

/-- The steer conditions of R261. -/
inductive Steer where
  | always | onOne | onZero
  deriving DecidableEq, Repr

/-- A destination descriptor with V = 1 (R261). -/
structure Dst where
  net : Net
  page : Fin 64
  pe : Fin 16
  slot : Fin 8
  port : Fin 3
  steer : Steer
  deriving DecidableEq, Repr

/-- The fields every node shares (R255). -/
structure Node where
  ty : Ty
  ari : Fin 4
  tag : Tag
  a : Src
  b : Src
  low : Low
  d0 : Option Dst
  d1 : Option Dst
  deriving DecidableEq, Repr

/-- The class of a carrying node (R284). -/
inductive Cls where
  | narrow | wide | pred
  deriving DecidableEq, Repr

/-- The rounding modes of R245. -/
inductive Rnd where
  | rn | rz | rp | rm | rs
  deriving DecidableEq, Repr

/-- RND and SAT together (R245). -/
structure Round where
  rnd : Rnd
  sat : Bool
  deriving DecidableEq, Repr

/-- The address spaces of R201. -/
inductive Sp where
  | g | l | s | p | k
  deriving DecidableEq, Repr

/-- The scopes of R219. -/
inductive Scope where
  | crew | team | clu | die | dev | sys
  deriving DecidableEq, Repr

/-- The memory class's flags (R265). -/
structure MemFlags where
  unord : Bool
  scope : Scope
  acq : Bool
  rel : Bool
  sc : Bool
  deriving DecidableEq, Repr

/-- The tests of PTEST (R309). -/
inductive PTest where
  | nz | z | bit
  deriving DecidableEq, Repr

/-- The integer comparisons of R318. -/
inductive ITest where
  | eq | ne | lt | le | gt | ge
  deriving DecidableEq, Repr

/-- The float comparisons of R325. -/
inductive FTest where
  | eq | ne | lt | le | gt | ge | ord | uno
  deriving DecidableEq, Repr

/-- ADD, MIN and MAX, as VRED, SCAN and SRED select them. -/
inductive RedOp where
  | add | min | max
  deriving DecidableEq, Repr

/-- The reductions of CRED, CSCAN, CSEG and CMB. -/
inductive CombOp where
  | add | min | max | and | or | xor
  deriving DecidableEq, Repr

/-- The polls of CPOLL (R341). -/
inductive Poll where
  | some | every | same | most
  deriving DecidableEq, Repr

/-- What CPULL reads past the end of the crew (R342). -/
inductive Pull where
  | wrap | edge | zero
  deriving DecidableEq, Repr

/-- The scale code SC of a tile node (R351). -/
inductive ScaleKind where
  | none | e8m0 | f32 | bf16
  deriving DecidableEq, Repr

/-! ## What the outside world hands to an event -/

/-- The three paths to the management registers (R52). -/
inductive MgmtPath where
  | kamub | i3c | jtag
  deriving DecidableEq, Repr

/-- What the ECC reports with a response (R28, R29). -/
inductive Ecc where
  | ok | corrected | uncorrectable
  deriving DecidableEq, Repr

/-- What the random sources give a Rambler slot at its start (R42). -/
structure Fresh where
  session : Word32
  secret : List Byte
  nonce : List Byte
  deriving DecidableEq, Repr, Inhabited

/-- HELLO or REPLY of the handshake (R42); `sig` is empty in HELLO. -/
structure Hello where
  session : Word32
  pub : List Byte
  nonce : List Byte
  ident : List Byte
  sig : List Byte
  deriving DecidableEq, Repr

/-- A firmware image slot of the boot flash (R58). -/
structure FwImage where
  header : List Byte
  body : List Byte
  deriving DecidableEq, Repr

/-- An inbound Ethernet packet, by what it asks for (R36, R37). -/
inductive EthKind where
  | uud
  | secured
  | atomic
  | trimmed
  | write (va : Word64) (data : List Byte)
  | send (tag : Word32) (data : List Byte)
  deriving DecidableEq, Repr

/-! ## The instructions and events -/

/-- One constructor for each row of the opcode table. -/
inductive Instr where
  -- flow nodes (R284 to R307)
  | livein (n : Node) (wide : Bool)
  | liveout (n : Node) (wide : Bool)
  | const (n : Node)
  | constw (n : Node)
  | steer (n : Node) (c : Cls)
  | merge (n : Node) (c : Cls)
  | select (n : Node) (c : Cls)
  | gate (n : Node) (c : Cls)
  | sink (n : Node) (unord : Bool)
  | dup (n : Node) (c : Cls)
  | exit (n : Node)
  | exitc (n : Node)
  | call (n : Node) (f1 : Fin 32)
  | calli (n : Node) (f1 : Fin 32)
  | ret (n : Node)
  | wave (n : Node) (c : Cls)
  | waveb (n : Node) (c : Cls)
  | loopx (n : Node) (c : Cls)
  | pass (n : Node) (c : Cls)
  | passPret (n : Node) (c : Cls)
  | pand (n : Node)
  | por (n : Node)
  | pxor (n : Node)
  | pnot (n : Node)
  | ptest (n : Node) (t : PTest)
  -- integer nodes (R310 to R318)
  | add (n : Node) (sat : Bool)
  | sub (n : Node) (sat : Bool)
  | mul (n : Node) (sat : Bool)
  | mulhi (n : Node)
  | mulw (n : Node)
  | mad (n : Node) (sat : Bool)
  | div (n : Node) (sat : Bool)
  | rem (n : Node)
  | neg (n : Node) (sat : Bool)
  | abs (n : Node) (sat : Bool)
  | min (n : Node)
  | max (n : Node)
  | and (n : Node)
  | or (n : Node)
  | xor (n : Node)
  | not (n : Node)
  | andn (n : Node)
  | shl (n : Node)
  | shr (n : Node)
  | sar (n : Node)
  | rol (n : Node)
  | ror (n : Node)
  | xtr (n : Node)
  | lea (n : Node) (s : Fin 8) (sx : Bool)
  | bfx (n : Node)
  | bfi (n : Node)
  | popc (n : Node)
  | clz (n : Node)
  | ctz (n : Node)
  | brev (n : Node)
  | bswap (n : Node)
  | ext (n : Node) (from_ : Fin 3)
  | dotb (n : Node) (as bs h2 sat : Bool)
  | sad (n : Node) (sat : Bool)
  | cmp (n : Node) (t : ITest)
  -- floating-point nodes (R319 to R328)
  | fadd (n : Node) (r : Round)
  | fsub (n : Node) (r : Round)
  | fmul (n : Node) (r : Round)
  | ffma (n : Node) (r : Round)
  | fdiv (n : Node) (r : Round)
  | fsqrt (n : Node) (r : Round)
  | frcp (n : Node) (sat : Bool)
  | frsq (n : Node) (sat : Bool)
  | fexp2 (n : Node) (sat : Bool)
  | flog2 (n : Node) (sat : Bool)
  | fsin (n : Node) (sat : Bool)
  | fcos (n : Node) (sat : Bool)
  | ftanh (n : Node) (sat : Bool)
  | fmin (n : Node)
  | fmax (n : Node)
  | fabs (n : Node)
  | fneg (n : Node)
  | fcpys (n : Node)
  | fcmp (n : Node) (t : FTest)
  | fclass (n : Node)
  | frint (n : Node) (rnd : Rnd)
  | cvt (n : Node) (from_ : Ty) (r : Round)
  -- packed vector nodes (R329 to R337)
  | vadd (n : Node) (r : Round)
  | vsub (n : Node) (r : Round)
  | vmul (n : Node) (r : Round)
  | vfma (n : Node) (r : Round)
  | vmin (n : Node) (r : Round)
  | vmax (n : Node) (r : Round)
  | vpack (n : Node) (lane : Fin 64)
  | vunpack (n : Node) (lane : Fin 64)
  | vperm (n : Node)
  | vbcast (n : Node)
  | vred (n : Node) (op : RedOp) (r : Round)
  | vdot (n : Node) (r : Round)
  | vscale (n : Node) (r : Round)
  | srnd (n : Node) (r : Round)
  | vcvt (n : Node) (from_ : Ty) (r : Round) (pos : Fin 8)
  | vcmp (n : Node) (t : FTest)
  -- crew collectives (R338 to R345, R428)
  | cpoll (n : Node) (op : Poll) (slot : Fin 64) (all : Bool)
  | cmask (n : Node) (part : Bool) (slot : Fin 64) (all : Bool)
  | cpull (n : Node) (op : Pull) (slot : Fin 64) (all : Bool)
  | cred (n : Node) (op : CombOp) (slot : Fin 64) (all : Bool)
  | cscan (n : Node) (op : CombOp) (excl : Bool) (slot : Fin 64) (all : Bool)
  | cseg (n : Node) (op : CombOp) (incl : Bool) (slot : Fin 64) (all : Bool)
  | cmatch (n : Node) (slot : Fin 64) (all : Bool)
  | celect (n : Node) (first : Bool) (slot : Fin 64) (all : Bool)
  | kwr (n : Node) (k : Fin 128)
  -- tile, systolic, stream and sparse nodes (R346 to R368)
  | tload (n : Node) (sc : ScaleKind) (l : Bool)
  | tstore (n : Node) (sc : ScaleKind) (l ca : Bool)
  | tfill (n : Node)
  | tmma (n : Node) (w : Ty) (ca cb : Bool)
  | ttern (n : Node) (ca cb : Bool)
  | tgrp (n : Node) (w : Ty) (ca cb : Bool)
  | tcvt (n : Node) (from_ : Ty) (r : Round) (ca : Bool)
  | ttrans (n : Node) (ca : Bool)
  | tscale (n : Node) (sc : ScaleKind) (r : Round) (ca : Bool)
  | syscfg (n : Node) (w : Ty)
  | sysw (n : Node) (ca : Bool)
  | sysa (n : Node) (ca : Bool)
  | sysd (n : Node)
  | strmOpen (n : Node) (unord : Bool)
  | strmSub (n : Node) (unord : Bool)
  | strmPub (n : Node) (unord ca : Bool)
  | strmCloseEnd (n : Node) (unord : Bool)
  | strmCloseLeave (n : Node) (unord : Bool)
  | scan (n : Node) (op : RedOp) (excl : Bool)
  | isect (n : Node)
  | union (n : Node) (cnt : Bool)
  | repeat_ (n : Node)
  | sred (n : Node) (op : RedOp)
  | gather (n : Node) (sp : Sp) (sx unord : Bool)
  | gathert (n : Node) (sp : Sp) (sx : Bool) (sc : ScaleKind) (unord : Bool)
  | scatter (n : Node) (sp : Sp) (sx unord : Bool)
  | scatadd (n : Node) (sp : Sp) (sx : Bool) (m : MemFlags)
  -- memory, atomic, synchronisation and engine nodes (R370 to R401)
  | ld (n : Node) (sp : Sp) (m : MemFlags)
  | ldu (n : Node) (sp : Sp)
  | st (n : Node) (sp : Sp) (m : MemFlags)
  | stu (n : Node) (sp : Sp)
  | ldw (n : Node) (sp : Sp) (m : MemFlags)
  | stw (n : Node) (sp : Sp) (m : MemFlags)
  | spwait (n : Node) (sp : Sp) (unord : Bool)
  | spset (n : Node) (sp : Sp) (unord : Bool)
  | spclr (n : Node) (sp : Sp) (unord : Bool)
  | iread (n : Node) (sp : Sp)
  | iwrite (n : Node) (sp : Sp)
  | aadd (n : Node) (sp : Sp) (m : MemFlags)
  | afadd (n : Node) (sp : Sp) (m : MemFlags)
  | amin (n : Node) (sp : Sp) (m : MemFlags)
  | amax (n : Node) (sp : Sp) (m : MemFlags)
  | aand (n : Node) (sp : Sp) (m : MemFlags)
  | aor (n : Node) (sp : Sp) (m : MemFlags)
  | axor (n : Node) (sp : Sp) (m : MemFlags)
  | axchg (n : Node) (sp : Sp) (m : MemFlags)
  | acas (n : Node) (sp : Sp) (m : MemFlags)
  | ainc (n : Node) (sp : Sp) (m : MemFlags)
  | adec (n : Node) (sp : Sp) (m : MemFlags)
  | cmb (n : Node) (op : CombOp)
  | fence (n : Node) (scope : Scope)
  | flushr (n : Node) (scope : Scope)
  | discr (n : Node)
  | pref (n : Node) (l2 : Bool)
  | barArrive (n : Node) (scope : Scope)
  | barWait (n : Node) (scope : Scope)
  | barSync (n : Node) (scope : Scope)
  | cbar (n : Node)
  | csync (n : Node) (scope : Scope)
  | semp (n : Node) (scope : Scope)
  | semv (n : Node) (scope : Scope)
  | semtry (n : Node) (scope : Scope)
  | semdec (n : Node) (scope : Scope)
  | copy (n : Node) (srcS dstS : Bool) (unord : Bool)
  | copys (n : Node) (srcS dstS : Bool) (unord : Bool)
  | port (n : Node)
  | nsend (n : Node) (unord : Bool)
  | nrecv (n : Node) (unord : Bool)
  | nfence (n : Node)
  | launch (n : Node)
  | lwait (n : Node)
  -- system nodes (R402 to R407)
  | abort (n : Node)
  | trap (n : Node)
  | brk (n : Node)
  | assert_ (n : Node)
  | rdsr (n : Node) (index : Fin 16)
  | yield (n : Node)
  | halt (n : Node)
  | nop (n : Node)
  | probe (n : Node) (sp : Sp)
  -- a trapped word of an unassigned major or variant (R195)
  | undef (w : NodeWord)
  -- management registers (R7, R24, R30, R35, R37, R41, R52, R63, R137, R146, R149, R395)
  | registerWrite (via : MgmtPath) (off : Nat) (data : Word32)
  | i3cEntdaa (addr : BitVec 7)
  | limitW (data : Word32)
  | govPowerRead
  | merrStatusRead
  | klStatusRead
  | ethStatusRead (port : Fin 16)
  | skimStatusRead
  | skimAbortsRead
  | skimShareRead (die : Fin 4)
  | dispStatusRead
  | plcStatusRead (die : Fin 4)
  | netStatusRead (space : Fin 64)
  | dirtyWordLoRead
  | debugWindowRead (word : Fin 1024)
  -- Rambler commands (R42, R48, R49, R51)
  | send (slot : Fin 4) (fresh : Fresh)
  | recv (slot : Fin 4) (fresh : Fresh)
  | cut (slot : Fin 4)
  | resume (slot : Fin 4)
  | cancel (slot : Fin 4)
  -- starts, freezes, attestation (R56 to R61)
  | cold (data : Word32)
  | warm (data : Word32)
  | freeze (data : Word32)
  | thaw (data : Word32)
  | attest (data : Word32)
  | attestDone
  | extend (data : Word32)
  | extendDone
  -- translation registers (R76 to R85)
  | shootdown (data : Word32)
  | shootdownDone
  | xlatFqEnable (data : Word32)
  | xlatFqConsWrite (data : Word32)
  | retry
  | fatal
  | asCtrlWrite (space : Fin 64) (data : Word32)
  | queueEnable (q : Fin 64) (data : Word32)
  | queueDisable (q : Fin 64) (data : Word32)
  | kill (data : Word32)
  | killAll (data : Word32)
  | plcRingEnable (die : Fin 4) (log : Bool) (data : Word32)
  -- power, thermal, links (R20 to R37, R53, R56, R61)
  | powerOn
  | freezeNLow
  | freezeNHigh
  | governorSample (power : Nat) (temps : List Nat)
  | powerHold
  | hot (die : Fin 4) (temp : Nat)
  | thermalTrip (die : Fin 4) (temp : Nat)
  | flitCrcError (port : Fin 4)
  | portDown (port : Fin 4)
  | portTrainRetry (port : Fin 4)
  | portUp (port : Fin 4)
  | ethLinkUp (port : Fin 16) (llr : Bool)
  | companionRead (pa : Nat) (len : Nat) (keep : Bool)
  | companionWrite (pa : Nat) (data : List Byte) (own : Bool)
  | ethRx (port : Fin 16) (space : Fin 64) (conn : Nat) (kind : EthKind)
  | uetReadRequest (port : Fin 16) (space : Fin 64) (conn : Nat) (va : Word64) (len : Nat)
  | ethTrimNack (op : Nat)
  | nsendAck (op : Nat) (ok : Bool)
  -- the stages of a start (R53 to R59)
  | rom
  | image (a b : FwImage)
  | fuse (ecc : Bool) (differs : Option (Fin 4))
  | rails (bad : Option (Fin 6)) (temps : List Nat)
  | railsTimeout (die : Fin 4)
  | hbm (failed : Option (Fin 12)) (temps : List Nat)
  | bist (llc : Option (Fin 4)) (bond : Option (Fin 4))
  | fill (bad : Option (Fin 12))
  | init (bad : Option (Fin 4))
  | ready
  -- the Rambler's frames (R42 to R51)
  | rmblHello (slot : Fin 4) (m : Hello)
  | rmblReply (slot : Fin 4) (m : Hello)
  | rmblFinish (slot : Fin 4) (sig : List Byte)
  | rmblBegin (slot : Fin 4) (frame : List Byte)
  | rmblPage (slot : Fin 4) (frame : List Byte)
  | rmblZero (slot : Fin 4) (frame : List Byte)
  | rmblRoundEnd (slot : Fin 4) (frame : List Byte)
  | rmblQueue (slot : Fin 4) (frame : List Byte)
  | rmblLaunch (slot : Fin 4) (frame : List Byte)
  | rmblEnd (slot : Fin 4) (frame : List Byte)
  | rmblAck (slot : Fin 4) (seq : Nat)
  | rmblRound (slot : Fin 4)
  | rmblGraceExpiry (slot : Fin 4)
  | rmblNetFail (slot : Fin 4)
  -- queues, dispatch, pre-emption (R87 to R91, R138 to R165)
  | queueTailRead (q : Fin 64)
  | recordTake (q : Fin 64)
  | depWordRead (q : Fin 64) (index : Nat) (word : Fin 4)
  | depPoll (q : Fin 64) (index : Nat) (word : Fin 4)
  | dispatch
  | teamReady (launch : Nat)
  | completionWord (launch : Nat)
  | preempt (launch : Nat)
  | save (launch : Nat)
  | saveDone (launch : Nat) (core : Nat)
  | restore (launch : Nat)
  | deadline (launch : Nat)
  | hang (launch : Nat)
  | pageMigrate (space : Fin 64) (va : Word64) (die : Fin 4)
  -- the Skim (R109 to R136)
  | commitRequest (launch : Nat) (team : Option Nat)
  | commitStart
  | commitWalk (die : Fin 4)
  | commitFlip
  | commitRelease
  | lineDrain (vt : Nat) (line : Nat)
  | abortComplete (vt : Nat)
  | shadowEvict (vt : Nat) (line : Nat)
  | rsbWriteback (die : Fin 4) (line : Nat)
  | scTokenHop
  -- the core (R170 to R216, R296, R362, R391)
  | orderedIssue (thread : Nat)
  | accessResponse (access : Nat) (ecc : Ecc)
  | copyWordArrival (access : Nat) (word : Nat)
  | strmCopy (access : Nat) (sub : Nat)
  | semWake (core : Nat) (launch team sem : Nat)
  | parkResume (access : Nat)
  | tokenArrive (index : Nat)
  | tokenReturn (index : Nat)
  | ageRenumber (core : Nat)
  | schedEval (core : Nat)
  | blockResident (core launch block : Nat)
  | inject (core launch block replica : Nat)
  | evict (core launch block : Nat)
  | hamperMove (core : Nat)
  | departureComplete (thread : Nat)
  | clusterReset (cluster : Nat)
  -- the ends of steps that take time (R37, R45, R145, R156)
  | killDone
  | restoreDone (launch : Nat)
  | ethLinkDown (port : Fin 16)
  | rmblUnknownTag (slot : Fin 4) (frame : List Byte)
  deriving DecidableEq, Repr

end Sys2Proof
end

