-- ==== Sys2Proof/Config.lean ====
section
/-! DEFINITION. What is fixed for one device and what the manual leaves open: the free values (opaque, so
nothing can be proved of them beyond their type), the schedule of the outside world, and fixed secrets. -/

namespace Sys2Proof

/-- An access to the management register space as its path carries it (R52). -/
inductive MgmtReq where
  /-- Kamub configuration space: an offset from 0x0001_0000, a width in bytes, and the data of a write -/
  | kamub (off width : Nat) (data : Option Nat)
  /-- a private write on the I3C bus -/
  | i3cWrite (addr : BitVec 7) (bytes : List Byte)
  /-- a private write of an offset and, after a repeated start, a private read of four bytes -/
  | i3cRead (addr : BitVec 7) (bytes : List Byte)
  /-- an update of the data register that the JTAG instruction MGMTACC selects -/
  | jtag (dr : Word64)
  deriving DecidableEq, Repr, Inhabited

/-- What a cache, a translation cache or the companion side may do on its own before a step: eviction
times are not architected (R112, R211, R76). (DESIGN CHOICE, log 1) (DESIGN CHOICE, log 5) -/
inductive Ambient where
  /-- a dirty line of its home die's caches reaches home memory -/
  | writeBack (line : Nat)
  /-- a die drops a clean copy of a remote-homed line (R211 (a)) -/
  | dropCopy (die line : Nat)
  /-- a core's L1 evicts a line (R208) -/
  | evictL1 (core line : Nat)
  /-- a parity error on a seam link of a cluster (R200) -/
  | seamParity (cluster : Nat)
  /-- a unit of allowance comes back over a seam link (R199, R200) -/
  | seamUnit (link : Nat)
  /-- a core drops its clean copy of a companion line (R213) -/
  | dropCompCopy (core line : Nat)
  /-- a translation cache drops an entry (R76) -/
  | dropTlb (core space vpn : Nat)
  /-- the companion backs a range of its own memory (R31) -/
  | compBacks (lo len : Nat)
  /-- the companion stores into its own memory -/
  | compStore (pa : Nat) (data : List Byte)
  /-- a snoop filter that is full evicts an entry (R32 (d)) -/
  | snoopEvict (line : Nat)
  /-- from now on a Skim entry or a group reader set takes `bytes` of a home's shadow share (R114) -/
  | share (die bytes : Nat)
  /-- check bits go bad in one of the memories of R29, on a die: of the word at `x`, or in the launch `x`'s own storage -/
  | ecc (source die x : Nat)
  /-- a flit of a Kamub port gets through, which ends its retries (R35) -/
  | flitOk (port : Nat)
  /-- accesses to the management registers that arrive in one management cycle (R52) -/
  | mgmt (reqs : List MgmtReq)
  deriving DecidableEq, Repr, Inhabited

/-- What one step of the machine is: some time passes, caches do as they may, then one event happens or
one processing element fires. (DESIGN CHOICE, log 1) -/
inductive What where
  | fire (pe : Nat)
  | event (i : Instr)
  deriving DecidableEq, Repr

/-- One entry of the schedule. `dt` counts fabric cycles and `half` names the second network cycle of a fabric cycle (R6); `late` leaves the access that the step
issues to be performed when its response returns (R216, R214). (DESIGN CHOICE, log 1) -/
structure Turn where
  dt : Nat
  half : Bool
  ambient : List Ambient
  late : Bool
  what : What
  deriving DecidableEq, Repr

namespace Config

/-- What happens next where the schedule held by the state has run out. (DESIGN CHOICE, log 1) -/
opaque freeTurn : Nat → Option Turn

/-- The fused root key hash, the fused secret and the fused minimum security version (R58, R60). (DESIGN CHOICE, log 6) -/
opaque fusedRootHash : List Byte
opaque fusedSecret : List Byte
opaque fusedMinSvn : Nat

/-- The fuse configuration that the firmware extends MEAS_B with (R59). (DESIGN CHOICE, log 6) -/
opaque fuseConfig : List Byte

/-- What the random sources give a Rambler session that a register access starts (R42). (DESIGN CHOICE, log 6) -/
opaque freeFresh : Nat → Fresh

/-- The hash that spreads Kamub traffic over the ports that are up: line, then one bit per port (R31, R35). (DESIGN CHOICE, log 16) -/
opaque kamubPort : Nat → Nat → Nat

/-- The die whose pages an image's history favours, for a space, an image address and the number of the team placed (R142). (DESIGN CHOICE, log 17) -/
opaque affinityDie : Nat → Nat → Nat → Option Nat

/-- The candidate results of the approximate functions FRCP to FTANH (R322), by function number and
operand; the meaning takes a candidate only where it meets the bound of the rule. (DESIGN CHOICE, log 7) -/
opaque approx : Nat → Word32 → Word32

end Config
end Sys2Proof
end

