-- ==== Sys2Proof/Machine/Formats.lean ====
section
/-! DEFINITION. Number formats and exact arithmetic (R235 to R251): type codes, integer fitting, floating values and
their one rounding, conversions, immediates and the stochastic generator. -/

namespace Sys2Proof.Machine

/-! ## Type codes (R235) -/

/-- The TY code of a type. -/
def tyCode : Ty → Nat
  | .b32 => 0x00 | .b64 => 0x01 | .s32 => 0x02 | .s64 => 0x03 | .n32 => 0x04 | .n64 => 0x05
  | .s8 => 0x06 | .n8 => 0x07 | .s4 => 0x08 | .n4 => 0x09
  | .f32 => 0x10 | .bf16 => 0x11 | .f16 => 0x12 | .e4m3 => 0x13 | .e5m2 => 0x14 | .e2m1 => 0x15
  | .e8m0 => 0x16 | .t2 => 0x17 | .mxe4m3 => 0x18 | .mxe5m2 => 0x19 | .mxe2m1 => 0x1A | .mxs8 => 0x1B

/-- Every type, in the order of its code. -/
def allTys : List Ty :=
  [.b32, .b64, .s32, .s64, .n32, .n64, .s8, .n8, .s4, .n4, .f32, .bf16, .f16, .e4m3, .e5m2, .e2m1, .e8m0, .t2,
   .mxe4m3, .mxe5m2, .mxe2m1, .mxs8]

/-- The type of a code; reserved codes have none. -/
def tyOf (c : Nat) : Option Ty := allTys.find? (fun t => tyCode t == c)

/-- The width of one element in bits; for an MX type, of the element without its scale. -/
def tyBits : Ty → Nat
  | .b64 | .s64 | .n64 => 64
  | .b32 | .s32 | .n32 | .f32 => 32
  | .bf16 | .f16 => 16
  | .s8 | .n8 | .e4m3 | .e5m2 | .e8m0 | .mxe4m3 | .mxe5m2 | .mxs8 => 8
  | .s4 | .n4 | .e2m1 | .mxe2m1 => 4
  | .t2 => 2

def isB (t : Ty) : Bool := t == .b32 || t == .b64
def isS (t : Ty) : Bool := t == .s32 || t == .s64 || t == .s8 || t == .s4
def isN (t : Ty) : Bool := t == .n32 || t == .n64 || t == .n8 || t == .n4
def isInt (t : Ty) : Bool := isS t || isN t
def isFloat (t : Ty) : Bool :=
  t == .f32 || t == .bf16 || t == .f16 || t == .e4m3 || t == .e5m2 || t == .e2m1
def isMx (t : Ty) : Bool := t == .mxe4m3 || t == .mxe5m2 || t == .mxe2m1 || t == .mxs8

/-! ## Integers (R236, R237) -/

/-- The exact value of the low `w` bits. -/
def intOperand (v w : Nat) (sg : Bool) : Int :=
  let x := v % 2 ^ w
  if sg && 2 ^ (w - 1) ≤ x then (x : Int) - 2 ^ w else x

/-- `int_result` of R237. -/
def intResult (x : Int) (w : Nat) (sg sat : Bool) : Nat :=
  let lo : Int := if sg then -(2 ^ (w - 1)) else 0
  let hi : Int := if sg then 2 ^ (w - 1) - 1 else 2 ^ w - 1
  let y := if sat then (if x < lo then lo else if hi < x then hi else x) else x
  (y % 2 ^ w).toNat

/-! ## Exact values (R239) -/

/-- An exact value before rounding; `neg` is the sign of a zero. -/
inductive Exact where
  | nan
  | inf (neg : Bool)
  | fin (neg : Bool) (q : Rat)
  deriving DecidableEq, Repr

/-- 2 to an integer power. -/
def pow2 (e : Int) : Rat := if 0 ≤ e then ((2 ^ e.toNat : Nat) : Rat) else mkRat 1 (2 ^ (-e).toNat)

def ratAbs (q : Rat) : Rat := if q < 0 then -q else q

/-- The sign of an exact value. -/
def exSign : Exact → Bool
  | .nan => false
  | .inf n => n
  | .fin n q => if q = 0 then n else q < 0

def exNeg : Exact → Exact
  | .nan => .nan
  | .inf n => .inf (!n)
  | .fin n q => .fin (!n) (-q)

def exOfInt (i : Int) : Exact := .fin false i

/-- A product: 0 × ∞ is NaN, an exact zero takes the xor of the signs (R321). -/
def exMul (a b : Exact) : Exact :=
  let s := exSign a != exSign b
  match a, b with
  | .nan, _ | _, .nan => .nan
  | .inf _, .inf _ => .inf s
  | .inf _, .fin _ q => if q = 0 then .nan else .inf s
  | .fin _ q, .inf _ => if q = 0 then .nan else .inf s
  | .fin _ p, .fin _ q => .fin s (p * q)

/-- A quotient (R321). -/
def exDiv (a b : Exact) : Exact :=
  let s := exSign a != exSign b
  match a, b with
  | .nan, _ | _, .nan => .nan
  | .inf _, .inf _ => .nan
  | .inf _, .fin _ _ => .inf s
  | .fin _ _, .inf _ => .fin s 0
  | .fin _ p, .fin _ q => if q = 0 then (if p = 0 then .nan else .inf s) else .fin s (p / q)

def exIsNan (x : Exact) : Bool := x == .nan
def exFin (x : Exact) : Rat := match x with | .fin _ q => q | _ => 0

/-- The exact sum of a list; an exact zero is −0 when every addend is −0, +0 when none is negative, and
otherwise as the mode has it (R246, R321). -/
def exSum (rnd : Rnd) (l : List Exact) : Exact :=
  if l.any exIsNan then .nan
  else if l.contains (.inf false) && l.contains (.inf true) then .nan
  else if l.contains (.inf false) then .inf false
  else if l.contains (.inf true) then .inf true
  else
    let q := l.foldl (fun a x => a + exFin x) (0 : Rat)
    let neg := if l.all exSign then true else if l.any exSign then rnd == .rm else false
    .fin neg q

/-! ## Floating formats (R238) -/

/-- A floating format: exponent and significand widths, bias, width, the code of the largest finite magnitude. -/
structure Fmt where
  e : Nat
  m : Nat
  bias : Nat
  n : Nat
  top : Nat
  deriving DecidableEq, Repr

/-- The format of a floating type; other types read as F32. -/
def fmtOf : Ty → Fmt
  | .bf16 => { e := 8, m := 7, bias := 127, n := 16, top := 0x7F7F }
  | .f16 => { e := 5, m := 10, bias := 15, n := 16, top := 0x7BFF }
  | .e4m3 | .mxe4m3 => { e := 4, m := 3, bias := 7, n := 8, top := 0x7E }
  | .e5m2 | .mxe5m2 => { e := 5, m := 2, bias := 15, n := 8, top := 0x7B }
  | .e2m1 | .mxe2m1 => { e := 2, m := 1, bias := 1, n := 4, top := 0x7 }
  | _ => { e := 8, m := 23, bias := 127, n := 32, top := 0x7F7FFFFF }

/-- Formats with infinities; E4M3 has none and E2M1 neither infinity nor NaN. -/
def fmtInf (f : Fmt) : Bool := f.top + 1 == (2 ^ f.e - 1) * 2 ^ f.m
def fmtE2m1 (f : Fmt) : Bool := f.n == 4

/-- The canonical NaN of R238; +0 for E2M1 (R240). -/
def canonicalNan (f : Fmt) : Nat :=
  if fmtE2m1 f then 0
  else if fmtInf f then (2 ^ f.e - 1) * 2 ^ f.m + 2 ^ (f.m - 1)
  else 0x7F

def isNanCode (f : Fmt) (b : Nat) : Bool :=
  let g := b % 2 ^ (f.n - 1)
  if fmtInf f then decide ((2 ^ f.e - 1) * 2 ^ f.m < g) else decide (f.top < g)

def isInfCode (f : Fmt) (b : Nat) : Bool := fmtInf f && b % 2 ^ (f.n - 1) == f.top + 1

def signBit (f : Fmt) (b : Nat) : Bool := b.testBit (f.n - 1)

/-- `float_value` of R239. -/
def floatValue (f : Fmt) (b : Nat) : Exact :=
  let s := signBit f b
  if isNanCode f b then .nan
  else if isInfCode f b then .inf s
  else
    let e := b % 2 ^ (f.n - 1) / 2 ^ f.m
    let m := b % 2 ^ f.m
    let mag : Rat := if e = 0 then (m : Rat) * pow2 (1 - (f.bias : Int) - f.m)
      else ((2 ^ f.m + m : Nat) : Rat) * pow2 ((e : Int) - f.bias - f.m)
    .fin s (if s then -mag else mag)

/-- ⌊log2 q⌋ of a positive value. -/
def floorLog2 (q : Rat) : Int :=
  let k : Int := (Nat.log2 q.num.toNat : Int) - Nat.log2 q.den
  if pow2 k ≤ q then k else k - 1

/-- A magnitude code with its sign. -/
def withSign (f : Fmt) (neg : Bool) (mag : Nat) : Nat := mag + (if neg then 2 ^ (f.n - 1) else 0)

/-- `overflow_code` of R246. (DEDUCED, log 19) -/
def overflowCode (f : Fmt) (neg sat : Bool) : Nat :=
  if sat || fmtE2m1 f then withSign f neg f.top else withSign f neg (f.top + 1)

/-- Does the magnitude round away from zero? `k` is the lower grid value in units of the last place. -/
def roundsUp (rnd : Rnd) (neg : Bool) (u : Nat) (k : Nat) (frac : Rat) : Bool :=
  if frac = 0 then false
  else match rnd with
    | .rn => decide (mkRat 1 2 < frac) || (decide (frac = mkRat 1 2) && k % 2 == 1)
    | .rz => false
    | .rp => !neg
    | .rm => neg
    | .rs => decide (65536 ≤ (frac * 65536).floor.toNat + u)

/-- `encode_float` of R246: `u` is the draw of R249, used by RS alone. (DEDUCED, log 19) -/
def encodeFloat (f : Fmt) (x : Exact) (rnd : Rnd) (sat : Bool) (u : Nat) : Nat :=
  match x with
  | .nan => canonicalNan f
  | .inf n => overflowCode f n sat
  | .fin n q =>
    if q = 0 then withSign f n 0
    else
      let neg := decide (q < 0)
      let a := ratAbs q
      let ex := max (floorLog2 a) (1 - (f.bias : Int))
      let g := a / pow2 (ex - f.m)
      let k := g.floor.toNat
      let k' := if roundsUp rnd neg u k (g - (k : Rat)) then k + 1 else k
      let mag := (ex + f.bias - 1).toNat * 2 ^ f.m + k'
      if f.top < mag then overflowCode f neg sat else withSign f neg mag

/-- A value rounded to an integer, as `encode_float` with an ulp of 1 (R250, R327). -/
def roundInt (rnd : Rnd) (q : Rat) : Int :=
  let neg := decide (q < 0)
  let a := ratAbs q
  let k := a.floor.toNat
  let k' : Nat := if roundsUp rnd neg 0 k (a - (k : Rat)) then k + 1 else k
  if neg then -(k' : Int) else k'

/-! ## Square roots, by their integer part and a sticky half (R321) -/

/-- The integer square root, bit by bit from bit `n`. -/
def isqrt : Nat → Nat → Nat → Nat
  | 0, x, r => if (r + 1) * (r + 1) ≤ x then r + 1 else r
  | n + 1, x, r => isqrt n x (if (r + 2 ^ (n + 1)) * (r + 2 ^ (n + 1)) ≤ x then r + 2 ^ (n + 1) else r)

/-- A value that rounds as the square root does: exact, or strictly between two neighbours 2^−200 apart. (DESIGN CHOICE, log 7) -/
def sqrtRat (q : Rat) : Rat :=
  let x := (q * pow2 400).floor.toNat
  let r := isqrt 400 x 0
  if ((r * r : Nat) : Rat) = q * pow2 400 then mkRat r (2 ^ 200) else mkRat (2 * r + 1) (2 ^ 201)

def exSqrt (x : Exact) : Exact :=
  match x with
  | .nan => .nan
  | .inf n => if n then .nan else .inf false
  | .fin n q => if q = 0 then .fin n 0 else if q < 0 then .nan else .fin false (sqrtRat q)

/-! ## E8M0 and conversions (R241, R250, R328) -/

/-- The value of an E8M0 code. -/
def scaleValue (c : Nat) : Exact := if c = 0xFF then .nan else .fin false (pow2 ((c : Int) - 127))

/-- The exact value of a scalar of a numeric type. -/
def exactOf (t : Ty) (b : Nat) : Exact :=
  if t == .e8m0 then scaleValue (b % 256)
  else if isFloat t then floatValue (fmtOf t) (b % 2 ^ tyBits t)
  else exOfInt (intOperand b (tyBits t) (isS t))

/-- A conversion under R250. -/
def convert (dst src : Ty) (r : Round) (u b : Nat) : Nat :=
  let w := tyBits dst
  let x := b % 2 ^ tyBits src
  if isB dst || isB src then x % 2 ^ w
  else if isFloat dst then encodeFloat (fmtOf dst) (exactOf src x) r.rnd r.sat u
  else if isInt src then intResult (intOperand x (tyBits src) (isS src)) w (isS dst) r.sat
  else match exactOf src x with
    | .nan => 0
    | .inf n => intResult (if n then -(2 ^ 200) else 2 ^ 200) w (isS dst) true
    | .fin _ q => intResult (roundInt r.rnd q) w (isS dst) true

/-! ## Immediates (R251) -/

/-- The 16-bit immediate at a type; none where it does not extend. (DEDUCED, log 20) -/
def extendImm (t : Ty) (v : BitVec 16) : Option Nat :=
  let n := v.toNat
  match t with
  | .b32 | .s32 => some (intOperand n 16 true % 2 ^ 32).toNat
  | .b64 | .s64 => some (intOperand n 16 true % 2 ^ 64).toNat
  | .n32 | .n64 => some n
  | .s8 | .n8 | .s4 | .n4 =>
    let w := tyBits t
    if (intOperand n w (isS t) % 2 ^ 16).toNat = n then some (n % 2 ^ w) else none
  | .f32 | .bf16 | .f16 | .e4m3 | .e5m2 | .e2m1 =>
    let f := fmtOf t
    (match floatValue (fmtOf .bf16) n with
     | .nan => if t == .e2m1 then none else some (canonicalNan f)
     | .inf s => if t == .e2m1 then none else some (overflowCode f s false)
     | .fin s q =>
       let c := encodeFloat f (.fin s q) .rn false 0
       if floatValue f c = .fin s q then some c else none)
  | .e8m0 | .t2 | .mxe4m3 | .mxe5m2 | .mxe2m1 | .mxs8 => none

/-! ## The stochastic generator (R248) -/

def prngSeed (seed : Word64) (g : Word32) : Word32 :=
  let st := seed.setWidth 32 ^^^ (seed >>> 32).setWidth 32 ^^^ ((g + 1) * 0x9E3779B9)
  if st = 0 then 0x6D2B79F5 else st

/-- The next generator state; the draw is its upper half. -/
def prngNext (st : Word32) : Word32 :=
  let a := st ^^^ (st <<< 13)
  let b := a ^^^ (a >>> 17)
  b ^^^ (b <<< 5)

def prngDraw (st : Word32) : Word32 × Nat := (prngNext st, (prngNext st).toNat / 65536)

/-- `n` draws in element order (R249): the state after them and the draws. -/
def prngDraws : Nat → Word32 → Word32 × List Nat
  | 0, st => (st, [])
  | n + 1, st =>
    let (st, u) := prngDraw st
    let (st, us) := prngDraws n st
    (st, u :: us)

end Sys2Proof.Machine
end

