-- ==== Sys2Proof/Machine/Flags.lean ====
section
/-! DEFINITION. Tests, orders and classes: the comparisons of R309, R318, R325 and R337, least and greatest (R311, R323),
and the class bits of R326. -/

namespace Sys2Proof.Machine

/-- The exact integer of a value at a type. -/
def asInt (t : Ty) (v : Nat) : Int := intOperand v (tyBits t) (isS t)

/-- The float of a value at a type. -/
def asFloat (t : Ty) (v : Nat) : Exact := floatValue (fmtOf t) (v % 2 ^ tyBits t)

/-- PTEST (R309). -/
def ptestHolds (w : Nat) (t : PTest) (a b : Nat) : Bool :=
  match t with
  | .nz => a % 2 ^ w != 0
  | .z => a % 2 ^ w == 0
  | .bit => decide (b < w) && a.testBit b

/-- An integer comparison (R318). -/
def itestHolds (t : ITest) (a b : Int) : Bool :=
  match t with
  | .eq => decide (a = b)
  | .ne => decide (a ≠ b)
  | .lt => decide (a < b)
  | .le => decide (a ≤ b)
  | .gt => decide (b < a)
  | .ge => decide (b ≤ a)

/-- Is one value below another? NaN is below nothing and nothing is below it. -/
def exLt (a b : Exact) : Bool :=
  match a, b with
  | .nan, _ | _, .nan => false
  | .inf x, .inf y => x && !y
  | .inf x, .fin _ _ => x
  | .fin _ _, .inf y => !y
  | .fin _ p, .fin _ q => decide (p < q)

/-- Are two values equal? −0 equals +0. -/
def exEq (a b : Exact) : Bool :=
  match a, b with
  | .nan, _ | _, .nan => false
  | .inf x, .inf y => x == y
  | .fin _ p, .fin _ q => decide (p = q)
  | _, _ => false

/-- A float comparison (R325). -/
def ftestHolds (t : FTest) (a b : Exact) : Bool :=
  let un := exIsNan a || exIsNan b
  match t with
  | .eq => exEq a b
  | .ne => un || !exEq a b
  | .lt => exLt a b
  | .le => exLt a b || exEq a b
  | .gt => exLt b a
  | .ge => exLt b a || exEq a b
  | .uno => un
  | .ord => !un

/-- A test of R337 on integer lanes. -/
def ftestInt (t : FTest) (a b : Int) : Bool :=
  match t with
  | .eq => decide (a = b)
  | .ne => decide (a ≠ b)
  | .lt => decide (a < b)
  | .le => decide (a ≤ b)
  | .gt => decide (b < a)
  | .ge => decide (b ≤ a)
  | .uno => false
  | .ord => true

/-- Least and greatest of two integers of a type. -/
def intMin (t : Ty) (a b : Nat) : Nat := if asInt t b < asInt t a then b % 2 ^ tyBits t else a % 2 ^ tyBits t
def intMax (t : Ty) (a b : Nat) : Nat := if asInt t a < asInt t b then b % 2 ^ tyBits t else a % 2 ^ tyBits t

/-- The order of R323: −0 lies below +0. -/
def fltBelow (t : Ty) (a b : Nat) : Bool :=
  exLt (asFloat t a) (asFloat t b) || (exEq (asFloat t a) (asFloat t b) && exSign (asFloat t a) && !exSign (asFloat t b))

/-- FMIN and FMAX (R323): the chosen operand's encoding, or the canonical NaN. -/
def fltPick (t : Ty) (greatest : Bool) (a b : Nat) : Nat :=
  let a := a % 2 ^ tyBits t
  let b := b % 2 ^ tyBits t
  if exIsNan (asFloat t a) && exIsNan (asFloat t b) then canonicalNan (fmtOf t)
  else if exIsNan (asFloat t a) then b
  else if exIsNan (asFloat t b) then a
  else if greatest then (if fltBelow t a b then b else a)
  else (if fltBelow t b a then b else a)

/-- Least and greatest at any numeric type. (DEDUCED, log 21) -/
def pickMin (t : Ty) (a b : Nat) : Nat := if isFloat t then fltPick t false a b else intMin t a b
def pickMax (t : Ty) (a b : Nat) : Nat := if isFloat t then fltPick t true a b else intMax t a b

/-- FCLASS (R326): one bit of nine. -/
def classBit (t : Ty) (v : Nat) : Nat :=
  let f := fmtOf t
  let b := v % 2 ^ f.n
  let neg := signBit f b
  let mag := b % 2 ^ (f.n - 1)
  if isNanCode f b then 2 ^ 8
  else if isInfCode f b then (if neg then 1 else 2 ^ 7)
  else if mag = 0 then (if neg then 2 ^ 3 else 2 ^ 4)
  else if mag < 2 ^ f.m then (if neg then 2 ^ 2 else 2 ^ 5)
  else if neg then 2 else 2 ^ 6

end Sys2Proof.Machine
end

