-- ==== Sys2Proof/Machine/Encoding.lean ====
section
/-! DEFINITION. The encoding tables of the nodes (R255 to R271, R284, R308 to R318, R320, R330, R338, R351 to R361,
R364, R366, R370, R371): for each constructor its major, variant, flags and what its description allows. -/

namespace Sys2Proof.Machine

/-! ## Codes of the fields -/

/-- TAG codes (R256). -/
def tagCode : Tag → Nat
  | .keep => 0 | .winc => 1 | .wrst => 2 | .join => 3 | .repl => 4 | .pret => 5

def tagOf : Nat → Option Tag
  | 0 => some .keep | 1 => some .winc | 2 => some .wrst | 3 => some .join | 4 => some .repl | 5 => some .pret
  | _ => none

/-- A number below a bound. -/
def finOf (n x : Nat) : Option (Fin n) := if h : x < n then some ⟨x, h⟩ else none

/-- A source descriptor (R257). -/
def srcCode : Src → Nat
  | .none => 0
  | .port p => 0x2000 + p.val
  | .win n => 0x4000 + n.val
  | .kreg n => 0x6000 + n.val
  | .imm => 0x8000
  | .sr n => 0xA000 + n.val
  | .pool n => 0xC000 + n.val

def srcOf (d : Nat) : Option Src :=
  let i := d % 8192
  match d / 8192 with
  | 0 => if i = 0 then some .none else none
  | 1 => (finOf 3 i).map .port
  | 2 => (finOf 48 i).map .win
  | 3 => (finOf 128 i).map .kreg
  | 4 => if i = 0 then some .imm else none
  | 5 => (finOf 12 i).map .sr
  | 6 => (finOf 8192 i).map .pool
  | _ => none

def netCode : Net → Nat
  | .narrow => 0 | .wide => 1 | .pred => 2 | .edge => 3

def netOf : Nat → Net
  | 0 => .narrow | 1 => .wide | 2 => .pred | _ => .edge

def steerCode : Steer → Nat
  | .always => 0 | .onOne => 1 | .onZero => 2

def steerOf : Nat → Option Steer
  | 0 => some .always | 1 => some .onOne | 2 => some .onZero | _ => none

/-- A destination descriptor (R261). -/
def dstCode : Option Dst → Nat
  | none => 0
  | some d => 2 ^ 23 + netCode d.net * 2 ^ 21 + d.page.val * 2 ^ 15 + d.pe.val * 2 ^ 11 + d.slot.val * 2 ^ 8 +
      d.port.val * 2 ^ 6 + steerCode d.steer * 2 ^ 4

/-- A valid destination descriptor of R261; nothing for a reserved port, steer code or low bit. -/
def dstOfV (x : Nat) : Option Dst :=
  match finOf 64 (bits' x 20 15), finOf 16 (bits' x 14 11), finOf 8 (bits' x 10 8), finOf 3 (bits' x 7 6),
      steerOf (bits' x 5 4) with
  | some page, some pe, some slot, some port, some st =>
    if x % 16 = 0 then some { net := netOf (bits' x 22 21), page := page, pe := pe, slot := slot, port := port,
                              steer := st }
    else none
  | _, _, _, _, _ => none
where
  /-- Bits [hi:lo]. -/
  bits' (v hi lo : Nat) : Nat := v / 2 ^ lo % 2 ^ (hi + 1 - lo)

def dstOf (x : Nat) : Option (Option Dst) :=
  if x / 2 ^ 23 % 2 = 0 then (if x = 0 then some none else none) else (dstOfV x).map some

/-- Bits [63:48] (R215, R259). -/
def lowCode : Low → Nat
  | .src s => srcCode s
  | .imm v => v.toNat
  | .seq q p u => q.toNat * 256 + p.toNat * 16 + u.toNat
  | .ignored v => v.toNat

/-- What bits [63:48] of a node hold (R259): a sequence field, ignored bits, or an immediate or SRCC. -/
inductive SeqKind where
  | seq | ignored | plain
  deriving DecidableEq, Repr

def lowOf (k : SeqKind) (a b : Src) (x : Nat) : Option Low :=
  match k with
  | .seq => some (.seq (BitVec.ofNat 8 (x / 256)) (BitVec.ofNat 4 (x / 16)) (BitVec.ofNat 4 x))
  | .ignored => some (.ignored (BitVec.ofNat 16 x))
  | .plain => if a == .imm || b == .imm then some (.imm (BitVec.ofNat 16 x)) else (srcOf x).map .src

def clsCode : Cls → Nat
  | .narrow => 0 | .wide => 1 | .pred => 2
def clsOf : Nat → Option Cls
  | 0 => some .narrow | 1 => some .wide | 2 => some .pred | _ => none
def clsNet : Cls → Net
  | .narrow => .narrow | .wide => .wide | .pred => .pred

/-- RND codes (R245). -/
def rndCode : Rnd → Nat
  | .rn => 0 | .rz => 1 | .rp => 2 | .rm => 3 | .rs => 4
def rndOf : Nat → Option Rnd
  | 0 => some .rn | 1 => some .rz | 2 => some .rp | 3 => some .rm | 4 => some .rs | _ => none
def b2n (b : Bool) : Nat := if b then 1 else 0
def roundCode (r : Round) : Nat := rndCode r.rnd + 8 * b2n r.sat

/-- Spaces (R271). -/
def spCode : Sp → Nat
  | .g => 0 | .l => 1 | .s => 2 | .p => 3 | .k => 4
def spOf : Nat → Option Sp
  | 0 => some .g | 1 => some .l | 2 => some .s | 3 => some .p | 4 => some .k | _ => none

/-- Scopes (R219). -/
def scopeCode : Scope → Nat
  | .crew => 0 | .team => 1 | .clu => 2 | .die => 3 | .dev => 4 | .sys => 5
def scopeOf : Nat → Option Scope
  | 0 => some .crew | 1 => some .team | 2 => some .clu | 3 => some .die | 4 => some .dev | 5 => some .sys | _ => none

/-- The memory class's FLG (R265). -/
def memCode (m : MemFlags) : Nat :=
  b2n m.unord + 2 * scopeCode m.scope + 16 * b2n m.acq + 32 * b2n m.rel + 64 * b2n m.sc

def pollCode : Poll → Nat
  | .some => 0 | .every => 1 | .same => 2 | .most => 3
def pollOf : Nat → Option Poll
  | 0 => some .some | 1 => some .every | 2 => some .same | 3 => some .most | _ => none
def pullCode : Pull → Nat
  | .wrap => 0 | .edge => 1 | .zero => 2
def pullOf : Nat → Option Pull
  | 0 => some .wrap | 1 => some .edge | 2 => some .zero | _ => none
def redCode : RedOp → Nat
  | .add => 0 | .min => 1 | .max => 2
def redOf : Nat → Option RedOp
  | 0 => some .add | 1 => some .min | 2 => some .max | _ => none
def combCode : CombOp → Nat
  | .add => 0 | .min => 1 | .max => 2 | .and => 3 | .or => 4 | .xor => 5
def combOf : Nat → Option CombOp
  | 0 => some .add | 1 => some .min | 2 => some .max | 3 => some .and | 4 => some .or | 5 => some .xor | _ => none
def itestCode : ITest → Nat
  | .eq => 0 | .ne => 1 | .lt => 2 | .le => 3 | .gt => 4 | .ge => 5
def itestOf : Nat → Option ITest
  | 0 => some .eq | 1 => some .ne | 2 => some .lt | 3 => some .le | 4 => some .gt | 5 => some .ge | _ => none
def ftestCode : FTest → Nat
  | .eq => 0 | .ne => 1 | .lt => 2 | .le => 3 | .gt => 4 | .ge => 5 | .uno => 6 | .ord => 7
def ftestOf : Nat → Option FTest
  | 0 => some .eq | 1 => some .ne | 2 => some .lt | 3 => some .le | 4 => some .gt | 5 => some .ge | 6 => some .uno
  | 7 => some .ord | _ => none
def ptestCode : PTest → Nat
  | .nz => 0 | .z => 1 | .bit => 2
def scaleCode : ScaleKind → Nat
  | .none => 0 | .e8m0 => 1 | .f32 => 2 | .bf16 => 3
def scaleOf : Nat → Option ScaleKind
  | 0 => some .none | 1 => some .e8m0 | 2 => some .f32 | 3 => some .bf16 | _ => none

/-! ## Type groups -/

def tyI : List Ty := [.s8, .n8, .s4, .n4, .s32, .n32, .s64, .n64]
def tyL : List Ty := tyI ++ [.b32, .b64]
def tyW : List Ty := [.s32, .n32, .s64, .n64, .b32, .b64]
def tyS : List Ty := [.s8, .s4, .s32, .s64]
def tyFs : List Ty := [.f32, .bf16, .f16]
def tyVf : List Ty := [.f32, .bf16, .f16, .e4m3, .e5m2]
def tyVi : List Ty := [.s32, .n32, .s8, .n8]
def tyV : List Ty := tyVf ++ tyVi
def tyVall : List Ty := tyV ++ [.b32, .e2m1, .s4, .n4]
def tyCvt : List Ty :=
  [.b32, .b64, .s32, .s64, .n32, .n64, .s8, .n8, .s4, .n4, .f32, .bf16, .f16, .e4m3, .e5m2, .e2m1]
def tyNarrowFloat : List Ty := [.bf16, .f16, .e4m3, .e5m2, .e2m1]
def tyLt : List Ty := [.s8, .n8, .s32, .n32, .s64, .n64, .b32, .b64, .f32, .bf16, .f16, .e4m3, .e5m2, .e8m0]
def tyAr : List Ty := [.s32, .n32, .s64, .n64]
def tyBits6 : List Ty := [.b32, .b64, .s32, .n32, .s64, .n64]
def ty3264 : List Ty := [.b32, .s32, .n32, .f32, .b64, .s64, .n64]
def tyMx : List Ty := [.mxe4m3, .mxe5m2, .mxe2m1, .mxs8]
/-- The codes 0x02–0x09 and 0x10–0x15. -/
def tyPlain : List Ty := [.s32, .s64, .n32, .n64, .s8, .n8, .s4, .n4, .f32, .bf16, .f16, .e4m3, .e5m2, .e2m1]
/-- The TH_ELEM codes of R346. -/
def tyTile : List Ty := tyPlain ++ [.t2] ++ tyMx
def tyFill : List Ty := [.s32, .n32, .s8, .n8, .s4, .n4, .f32, .bf16, .f16, .e4m3, .e5m2, .e2m1]
def tyFloats : List Ty := [.f32, .bf16, .f16, .e4m3, .e5m2, .e2m1]

/-! ## Operands (R257, R258) -/

/-- What a description admits in one operand: source kinds, and immediates (R251, R258). -/
structure Opn where
  ok : Src → Bool
  imm : BitVec 16 → Bool

/-- Kinds of 8, 16 and 32-bit operands. -/
def kinds32 : Src → Bool
  | .none => false
  | .win n => n.val < 32
  | _ => true

/-- Kinds of 64-bit operands. -/
def kinds64 : Src → Bool
  | .none => false
  | .win n => n.val ≤ 30
  | .kreg n => n.val ≤ 126
  | _ => true

/-- Kinds of predicate operands. -/
def kindsP : Src → Bool
  | .port _ => true
  | .win n => 32 ≤ n.val
  | .imm => true
  | _ => false

/-- Kinds of wide operands; an immediate on packed-vector nodes only. -/
def kindsW (imm : Bool) : Src → Bool
  | .port _ => true
  | .win n => n.val ≤ 24
  | .pool _ => true
  | .imm => imm
  | _ => false

def isPortSrc : Src → Bool
  | .port _ => true
  | _ => false

def immAs (t : Ty) (v : BitVec 16) : Bool := (extendImm t v).isSome
def anyImm (_ : BitVec 16) : Bool := true

def opNone : Opn := { ok := fun s => s == .none, imm := anyImm }
def op32 (t : Ty) : Opn := { ok := kinds32, imm := immAs t }
def op64 (t : Ty) : Opn := { ok := kinds64, imm := immAs t }
/-- An operand of the class of a type's width (R282). -/
def opT (t : Ty) : Opn := if tyBits t = 64 then op64 t else op32 t
def opP : Opn := { ok := kindsP, imm := fun v => v == 0 || v == 1 }
/-- A wide operand of a packed-vector node whose immediate extends to lanes of `t`. -/
def opV (t : Ty) : Opn := { ok := kindsW true, imm := immAs t }
/-- A wide operand without an immediate. -/
def opW : Opn := { ok := kindsW false, imm := anyImm }
def opPort (p : Fin 3) : Opn := { ok := fun s => s == .port p, imm := anyImm }
def opOptPort (p : Fin 3) : Opn := { ok := fun s => s == .none || s == .port p, imm := anyImm }
def opAnyPort : Opn := { ok := isPortSrc, imm := anyImm }
/-- None, or a trigger on port a where SRCA is not a port (R284, R370). -/
def opTrig (a : Src) : Opn := { ok := fun s => s == .none || (s == .port 0 && !isPortSrc a), imm := anyImm }
/-- A mask of R339: a k register, an immediate, or none where `all` says so. (DEDUCED, log 20) -/
def opMask (none : Bool) : Opn :=
  { ok := fun s => match s with | .kreg _ => true | .imm => true | .none => none | _ => false, imm := anyImm }
/-- A value of a carrying node's class (R284). -/
def opCls (c : Cls) : Opn :=
  match c with
  | .narrow => op64 .b64
  | .wide => opW
  | .pred => opP
def opOr (a : Opn) : Opn := { a with ok := fun s => s == .none || a.ok s }

/-- The window slot of LIVEIN and LIVEOUT (R285, R286). -/
def opSlot (t : Ty) (wide : Bool) : Opn :=
  { ok := fun s => match s with
      | .win n => if wide then n.val ≤ 24 else if t == .b64 then n.val ≤ 30 else true
      | _ => false
    imm := anyImm }

/-- Does the description name operand C (R259)? -/
inductive CUse where
  | absent | optional | required
  deriving DecidableEq, Repr

/-- What a description says of one node: its encoding and what it admits. -/
structure Form where
  node : Node
  opc : Nat
  var : Nat := 0
  flg : Nat := 0
  ty : Bool
  ariLo : Nat := 1
  ariHi : Nat := 3
  tags : List Tag
  net : Option Net
  a : Opn
  b : Opn := opNone
  c : Src → Bool := fun s => s == .none
  cUse : CUse := .absent
  seq : SeqKind := .plain
  rest : Bool := true

/-- The TAG codes of R274: by whether the node sends a result, and whether it is narrow. -/
def tagsOf : Option Net → List Tag
  | some .narrow => [.keep, .winc, .wrst, .repl]
  | some _ => [.keep, .winc, .wrst]
  | none => [.keep]

/-! ## Shapes that many nodes share -/

/-- A node of one operand. -/
def form1 (n : Node) (opc var flg : Nat) (tys : List Ty) (net : Net) (a : Opn) (rest : Bool := true) : Form :=
  { node := n, opc := opc, var := var, flg := flg, ty := tys.contains n.ty, ariHi := 1, tags := tagsOf net, net := net,
    a := a, rest := rest }

/-- A node of two operands. -/
def form2 (n : Node) (opc var flg : Nat) (tys : List Ty) (net : Net) (a b : Opn) (rest : Bool := true) : Form :=
  { node := n, opc := opc, var := var, flg := flg, ty := tys.contains n.ty, ariHi := 2, tags := tagsOf net, net := net,
    a := a, b := b, rest := rest }

/-- A node of three operands. -/
def form3 (n : Node) (opc var flg : Nat) (tys : List Ty) (net : Net) (a b c : Opn) (rest : Bool := true) : Form :=
  { node := n, opc := opc, var := var, flg := flg, ty := tys.contains n.ty, ariHi := 3, tags := tagsOf net, net := net,
    a := a, b := b, c := c.ok, cUse := .required, rest := rest }

/-- A departure node or another that sends nothing. -/
def formEnd (n : Node) (opc flg : Nat) (ty : Ty) (hi : Nat) (a b : Opn) : Form :=
  { node := n, opc := opc, flg := flg, ty := n.ty == ty, ariHi := hi, tags := [.keep], net := none, a := a, b := b }

/-- A carrying node of one value (R284). -/
def formCarry (n : Node) (opc : Nat) (c : Cls) (a : Opn) : Form :=
  form1 n opc (clsCode c) 0 [.b64] (clsNet c) a

/-- A collective (R338). -/
def formCrew (n : Node) (opc var flg : Nat) (tys : List Ty) (net : Net) (b : Opn) (rest : Bool) : Form :=
  { node := n, opc := opc, var := var, flg := flg, ty := tys.contains n.ty, ariHi := 1, tags := [.join], net := net,
    a := opPort 0, b := b, rest := rest }

/-- A memory node (R370): the two operands, the sequence field, and the ARI range of the table. -/
def formMem (n : Node) (opc var flg : Nat) (tys : List Ty) (hi : Nat) (net : Net) (a b : Opn) (rest : Bool) : Form :=
  { node := n, opc := opc, var := var, flg := flg, ty := tys.contains n.ty, ariHi := hi, tags := tagsOf net, net := net,
    a := a, b := b, seq := .seq, rest := rest }

/-- A node of the `Imm` column of R370. -/
def formImm (n : Node) (opc var flg hi : Nat) (net : Option Net) (tags : List Tag) (a b : Opn) (rest : Bool := true) :
    Form :=
  { node := n, opc := opc, var := var, flg := flg, ty := n.ty == .b64, ariHi := hi, tags := tags, net := net,
    a := a, b := b, rest := rest }

/-- A node of three ports with a sequence field. -/
def formPorts (n : Node) (opc var flg : Nat) (tys : List Ty) (net : Net) (rest : Bool := true) : Form :=
  { node := n, opc := opc, var := var, flg := flg, ty := tys.contains n.ty, ariLo := 3, tags := tagsOf net, net := net,
    a := opPort 0, b := opPort 1, cUse := .required, seq := .seq, rest := rest }

def seqIf (unord : Bool) : SeqKind := if unord then .ignored else .seq

/-! ## Limits of single descriptions -/

/-- RND and SAT of a node that rounds arithmetically (R320, R331). -/
def rndArith (r : Round) : Bool := r.rnd != .rs

/-- RND and SAT of a conversion (R245, R328). -/
def rndCvt (dst src : Ty) (r : Rnd) : Bool :=
  if isB dst || isB src || (isInt dst && isInt src) then r == .rn
  else if r == .rs then tyNarrowFloat.contains dst || isMx dst
  else true

/-- RND of a packed node by its lanes (R331, R333). (DEDUCED, log 21) -/
def rndLanes (t : Ty) (r : Round) : Bool := if isInt t then r.rnd == .rn else rndArith r

/-- SLOT of a collective that reads a predicate, or a window slot of a type (R338, R340). -/
def slotP (s : Fin 64) : Bool := 32 ≤ s.val && s.val ≤ 47
def slotW (t : Ty) (s : Fin 64) : Bool := if tyBits t = 64 then s.val ≤ 30 else s.val ≤ 31
def crewFlg (slot : Fin 64) (all : Bool) : Nat := slot.val + 64 * b2n all
def combTys (op : CombOp) : List Ty :=
  match op with
  | .add | .min | .max => [.s32, .n32, .s64, .n64, .f32]
  | _ => tyBits6

/-- SC of a tile node (R346, R351). -/
def scOk (t : Ty) (sc : ScaleKind) : Bool :=
  match sc with
  | .e8m0 => isMx t
  | .none => !isMx t
  | _ => tyNarrowFloat.contains t

/-- The pairs of R354. -/
def pairOk (a w : Ty) : Bool :=
  let e (t : Ty) : Bool := t == .e4m3 || t == .e5m2
  let x (t : Ty) : Bool := t == .mxe4m3 || t == .mxe5m2
  let b (t : Ty) : Bool := t == .s8 || t == .n8
  (a == .bf16 && w == .bf16) || (a == .f16 && w == .f16) || (e a && e w) || (x a && x w) || (a == .mxs8 && w == .mxs8) ||
  (a == .e2m1 && w == .e2m1) || (a == .mxe2m1 && w == .mxe2m1) || (b a && b w) || (a == .s4 && (w == .s4 || w == .s8))

def ternPair (a w : Ty) : Bool := a == .s8 && w == .t2

/-- The atomic operations' types (R379) by VAR[3:0]. -/
def atomTys (op : Nat) : List Ty :=
  if op = 0 ∨ op = 2 ∨ op = 3 then tyAr
  else if op = 1 then [.f32]
  else if op = 9 ∨ op = 10 then [.n32, .n64]
  else if op = 7 ∨ op = 8 then tyBits6 ++ [.f32]
  else tyBits6

/-- FLG of an atomic (R371). -/
def atomFlags (sp : Sp) (m : MemFlags) : Bool :=
  (!m.unord || (!m.acq && !m.rel && !m.sc)) && (!m.sc || (!m.acq && !m.rel && (sp == .g || sp == .l)))

/-- An atomic of one operand, and ACAS. -/
def formAtom (n : Node) (op : Nat) (sp : Sp) (m : MemFlags) : Form :=
  { formMem n 0xEA (op + 16 * spCode sp) (memCode m) (atomTys op) 2 .narrow (op64 .b64) (opT n.ty)
      (atomFlags sp m && sp != .k) with seq := seqIf m.unord }
def formAcas (n : Node) (sp : Sp) (m : MemFlags) : Form :=
  { formPorts n 0xEA (8 + 16 * spCode sp) (memCode m) (atomTys 8) .narrow (atomFlags sp m && sp != .k) with
    seq := seqIf m.unord }

/-- FLG of LD and LDW, and of ST and STW (R371). -/
def loadFlags (m : MemFlags) : Bool := !m.unord && !m.rel && !m.sc && (m.acq || m.scope == .crew)
def storeFlags (m : MemFlags) : Bool := !m.unord && !m.acq && !m.sc && (m.rel || m.scope == .crew)
def scopeFlg (s : Scope) : Nat := 2 * scopeCode s

def immOf (n : Node) : Nat := match n.low with | .imm v => v.toNat | _ => 0
def isImmSrc (s : Src) : Bool := s == .imm
/-- The immediate that names a barrier or a semaphore stands in SRCB. -/
def opImm : Opn := { ok := isImmSrc, imm := anyImm }
/-- IMM16 of a barrier node (R387). -/
def barOk (n : Node) (wait : Bool) : Bool :=
  let v := immOf n
  v < 32768 && v / 16 ≤ 1024 && (!wait || v / 16 == 0)
/-- IMM16 of a semaphore node (R389). -/
def semOk (n : Node) : Bool := immOf n < 256

/-- The descriptor of LIVEIN's and LIVEOUT's network: predicate for p slots (R284). -/
def liveNet (s : Src) (wide : Bool) : Net :=
  match s with
  | .win n => if wide then .wide else if 32 ≤ n.val then .pred else .narrow
  | _ => .narrow
def liveTy (n : Node) (s : Src) (wide : Bool) : Bool :=
  let p := match s with | .win k => decide (32 ≤ k.val) | _ => false
  if wide then n.ty == .b32 && !p else if p then n.ty == .b32 else n.ty == .b32 || n.ty == .b64

/-! ## The forms -/

/-- Flow nodes (R284 to R309). -/
def formFlow : Instr → Option Form
  | .livein n w => some
      { node := n, opc := 0x01, var := b2n w, ty := liveTy n n.a w, ariLo := 0, ariHi := 1,
        tags := tagsOf (liveNet n.a w), net := liveNet n.a w, a := opSlot n.ty w, b := opOptPort 0 }
  | .liveout n w => some
      { node := n, opc := 0x02, var := b2n w, ty := liveTy n n.b w, ariHi := 1,
        tags := tagsOf (liveNet n.b w), net := liveNet n.b w, a := opPort 0, b := opSlot n.ty w }
  | .const n => some
      { node := n, opc := 0x03, ty := tyCvt.contains n.ty, ariLo := 0, ariHi := 1,
        tags := tagsOf (some .narrow), net := some .narrow, b := opOptPort 0,
        a := { opT n.ty with ok := fun s => (opT n.ty).ok s && (match s with | .port _ | .win _ => false | _ => true) } }
  | .constw n => some
      { node := n, opc := 0x04, ty := n.ty == .b64, ariLo := 0, ariHi := 1, tags := tagsOf (some .narrow),
        net := some .narrow, a := opNone, b := opOptPort 0 }
  | .steer n c => some (form2 n 0x05 (clsCode c) 0 [.b64] (clsNet c) (opCls c) opP)
  | .merge n c => some
      { form2 n 0x06 (clsCode c) 0 [.b64] (clsNet c) (opPort 0) (opPort 1) with
        ariLo := 2, ariHi := 3, c := (opOptPort 2).ok }
  | .select n c => some (form3 n 0x07 (clsCode c) 0 [.b64] (clsNet c) opP (opCls c) (opCls c))
  | .gate n c => some
      { form2 n 0x08 (clsCode c) 0 [.b64] (clsNet c) (opCls c) opAnyPort with
        ariLo := 2, ariHi := 3, c := fun s => s == .none || isPortSrc s, cUse := .optional }
  | .sink n u => some
      { node := n, opc := 0x09, flg := b2n u, ty := n.ty == .b64, tags := [.keep], net := none,
        a := opPort 0, b := opOptPort 1, c := fun s => s == .none || isPortSrc s, cUse := .optional, seq := if u then .plain else .seq }
  | .dup n c => some (formCarry n 0x0A c (opCls c))
  | .exit n => some (formEnd n 0x0B 0 .n32 2 (opPort 0) (op32 .n32))
  | .exitc n => some (formEnd n 0x0C 0 .n32 2 (opPort 0) (op32 .n32))
  | .call n f => some (formEnd n 0x0D f.val .n32 1 (opPort 0)
      { ok := fun s => match s with | .pool _ => true | _ => false, imm := anyImm })
  | .calli n f => some (formEnd n 0x0E f.val .n32 2 (opPort 0)
      { ok := fun s => match s with | .port _ | .win _ | .kreg _ => kinds32 s | _ => false, imm := anyImm })
  | .ret n => some (formEnd n 0x0F 0 .n32 1 (opPort 0) opNone)
  | .wave n c => some { formCarry n 0x10 c (opPort 0) with tags := [.winc] }
  | .waveb n c => some (formCarry n 0x11 c (opPort 0))
  | .loopx n c => some { formCarry n 0x12 c (opPort 0) with tags := [.wrst] }
  | .pass n c => some (formCarry n 0x13 c (opCls c))
  | .passPret n c => some { formCarry n 0x13 c (opPort 0) with net := some .narrow, ariLo := 2, ariHi := 2, tags := [.pret], b := opPort 1 }
  | .pand n => some (form2 n 0x14 0 0 [.b32] .pred opP opP)
  | .por n => some (form2 n 0x15 0 0 [.b32] .pred opP opP)
  | .pxor n => some (form2 n 0x16 0 0 [.b32] .pred opP opP)
  | .pnot n => some (form1 n 0x17 0 0 [.b32] .pred opP)
  | .ptest n t => some (form2 n 0x18 (ptestCode t) 0 [.b32, .b64] .pred (opT n.ty) (if t = .bit then opT n.ty else opNone))
  | _ => none

/-- A plain integer node of one, two or three operands (R311). -/
def int1 (n : Node) (opc : Nat) (tys : List Ty) (sat : Bool := false) : Option Form :=
  some (form1 n opc 0 (8 * b2n sat) tys .narrow (opT n.ty))
def int2 (n : Node) (opc : Nat) (tys : List Ty) (sat : Bool := false) : Option Form :=
  some (form2 n opc 0 (8 * b2n sat) tys .narrow (opT n.ty) (opT n.ty))
def int3 (n : Node) (opc : Nat) (tys : List Ty) (sat : Bool := false) : Option Form :=
  some (form3 n opc 0 (8 * b2n sat) tys .narrow (opT n.ty) (opT n.ty) (opT n.ty))

/-- Integer nodes (R311 to R318). -/
def formInt : Instr → Option Form
  | .add n s => int2 n 0x20 tyI s
  | .sub n s => int2 n 0x21 tyI s
  | .mul n s => int2 n 0x22 tyI s
  | .mulhi n => int2 n 0x23 tyI
  | .mulw n => int2 n 0x24 [.s32, .n32]
  | .mad n s => int3 n 0x25 tyI s
  | .div n s => int2 n 0x26 tyI s
  | .rem n => int2 n 0x27 tyI
  | .neg n s => int1 n 0x28 tyS s
  | .abs n s => int1 n 0x29 tyS s
  | .min n => int2 n 0x2A tyI
  | .max n => int2 n 0x2B tyI
  | .and n => int2 n 0x2C tyL
  | .or n => int2 n 0x2D tyL
  | .xor n => int2 n 0x2E tyL
  | .not n => int1 n 0x2F tyL
  | .andn n => int2 n 0x30 tyL
  | .shl n => int2 n 0x31 tyL
  | .shr n => int2 n 0x32 tyL
  | .sar n => int2 n 0x33 tyL
  | .rol n => int2 n 0x34 tyL
  | .ror n => int2 n 0x35 tyL
  | .xtr n => int3 n 0x36 tyW
  | .lea n k sx => some
      { form3 n 0x37 (k.val + 8 * b2n sx) 0 [.b64] .narrow (op64 .b64)
        (if sx then op32 .b64 else op64 .b64) (op64 .b64) with c := (opOr (op64 .b64)).ok, cUse := .optional }
  | .bfx n => some (form2 n 0x38 0 0 tyL .narrow (opT n.ty) (op32 n.ty))
  | .bfi n => some (form3 n 0x39 0 0 tyL .narrow (opT n.ty) (op32 n.ty) (opT n.ty))
  | .popc n => int1 n 0x3A tyL
  | .clz n => int1 n 0x3B tyL
  | .ctz n => int1 n 0x3C tyL
  | .brev n => int1 n 0x3D tyL
  | .bswap n => int1 n 0x3E tyW
  | .ext n k => some (form1 n 0x3F k.val 0 [.s32, .s64, .n32, .n64] .narrow (opT n.ty) (decide (8 * 2 ^ k.val < tyBits n.ty)))
  | .dotb n x y h s => some (form3 n 0x40 (b2n x + 2 * b2n y + 4 * b2n h) (8 * b2n s) [.s32] .narrow
      (op32 .s32) (op32 .s32) (op32 .s32))
  | .sad n s => some (form3 n 0x41 0 (8 * b2n s) [.n32] .narrow (op32 .n32) (op32 .n32) (op32 .n32))
  | .cmp n t => some (form2 n 0x42 (itestCode t) 0 tyL .pred (opT n.ty) (opT n.ty)
      (!isB n.ty || t == .eq || t == .ne))
  | _ => none

/-- A scalar floating node that rounds (R320). -/
def flt1 (n : Node) (opc : Nat) (r : Round) : Option Form :=
  some (form1 n opc 0 (roundCode r) tyFs .narrow (opT n.ty) (rndArith r))
def flt2 (n : Node) (opc : Nat) (r : Round) : Option Form :=
  some (form2 n opc 0 (roundCode r) tyFs .narrow (opT n.ty) (opT n.ty) (rndArith r))
/-- An approximate function of F32 (R322). -/
def fltF (n : Node) (opc : Nat) (sat : Bool) : Option Form :=
  some (form1 n opc 0 (8 * b2n sat) [.f32] .narrow (op32 .f32))

/-- Scalar floating nodes (R320 to R328). -/
def formFloat : Instr → Option Form
  | .fadd n r => flt2 n 0x60 r
  | .fsub n r => flt2 n 0x61 r
  | .fmul n r => flt2 n 0x62 r
  | .ffma n r => some (form3 n 0x63 0 (roundCode r) tyFs .narrow (opT n.ty) (opT n.ty) (opT n.ty) (rndArith r))
  | .fdiv n r => flt2 n 0x64 r
  | .fsqrt n r => flt1 n 0x65 r
  | .frcp n s => fltF n 0x66 s
  | .frsq n s => fltF n 0x67 s
  | .fexp2 n s => fltF n 0x68 s
  | .flog2 n s => fltF n 0x69 s
  | .fsin n s => fltF n 0x6A s
  | .fcos n s => fltF n 0x6B s
  | .ftanh n s => fltF n 0x6C s
  | .fmin n => int2 n 0x6D tyFs
  | .fmax n => int2 n 0x6E tyFs
  | .fabs n => int1 n 0x6F tyFs
  | .fneg n => int1 n 0x70 tyFs
  | .fcpys n => int2 n 0x71 tyFs
  | .fcmp n t => some (form2 n 0x72 (ftestCode t) 0 tyFs .pred (opT n.ty) (opT n.ty))
  | .fclass n => int1 n 0x73 tyFs
  | .frint n r => some (form1 n 0x74 0 (rndCode r) tyFs .narrow (opT n.ty) (r != .rs))
  | .cvt n s r => some (form1 n 0x75 (tyCode s) (roundCode r) tyCvt .narrow { opT s with imm := immAs n.ty }
      ((tyCvt.contains s || s == .e8m0) && rndCvt n.ty s r.rnd))
  | _ => none

/-- A packed node of two wide operands that rounds (R330, R331). -/
def vec2 (n : Node) (opc : Nat) (r : Round) : Option Form :=
  some (form2 n opc 0 (roundCode r) tyV .wide (opV n.ty) (opV n.ty) (rndLanes n.ty r))
def laneOk (n : Node) (k : Fin 64) : Bool := decide (k.val < 256 / tyBits n.ty)

/-- Packed vector nodes (R330 to R337). -/
def formVec : Instr → Option Form
  | .vadd n r => vec2 n 0x90 r
  | .vsub n r => vec2 n 0x91 r
  | .vmul n r => vec2 n 0x92 r
  | .vfma n r => some (form3 n 0x93 0 (roundCode r) tyV .wide (opV n.ty) (opV n.ty) (opV n.ty) (rndLanes n.ty r))
  | .vmin n r => vec2 n 0x94 r
  | .vmax n r => vec2 n 0x95 r
  | .vpack n k => some (form2 n 0x96 k.val 0 tyVall .wide (opV n.ty) (op64 n.ty) (laneOk n k))
  | .vunpack n k => some (form1 n 0x97 k.val 0 tyVall .narrow (opV n.ty) (laneOk n k))
  | .vperm n => some (form2 n 0x98 0 0 tyVall .wide (opV n.ty) opW (decide (tyBits n.ty ≠ 4)))
  | .vbcast n => some (form1 n 0x99 0 0 tyVall .wide (op64 n.ty))
  | .vred n op r => some (form1 n 0x9A (redCode op) (roundCode r) tyV .narrow (opV n.ty)
      (if op = .add then rndLanes n.ty r else r.rnd == .rn && !r.sat))
  | .vdot n r => some (form3 n 0x9B 0 (roundCode r) [.bf16, .f16, .e4m3, .e5m2, .e2m1, .s8, .n8] .narrow
      (opV n.ty) (opV n.ty) (op64 n.ty) (rndLanes n.ty r))
  | .vscale n r => some (form2 n 0x9C 0 (roundCode r) tyVf .wide (opV n.ty) (op64 .s32) (rndArith r))
  | .srnd n r => some (form1 n 0x9D 0 (roundCode r) tyNarrowFloat .wide { opV .f32 with imm := immAs n.ty })
  | .vcvt n s r k => some (form2 n 0x9E (tyCode s) (roundCode r + 16 * k.val) tyVall .wide { opV s with imm := immAs n.ty } (opOr (opV n.ty))
      (tyVall.contains s && rndCvt n.ty s r.rnd &&
       (if tyBits n.ty ≤ tyBits s then decide (k.val < tyBits s / tyBits n.ty)
        else decide (k.val < tyBits n.ty / tyBits s) && n.b == .none)))
  | .vcmp n t => some (form2 n 0x9F (ftestCode t) 0 tyV .narrow (opV n.ty) (opV n.ty)
      (isFloat n.ty || decide (ftestCode t < 6)))
  | _ => none

/-- Crew collectives (R338 to R344, R428). -/
def formCrewOp : Instr → Option Form
  | .cpoll n op s al => some (formCrew n 0xA0 (pollCode op) (crewFlg s al) [.b32] .pred (if al then opNone else opMask false) (slotP s))
  | .cmask n p s al => some (formCrew n 0xA1 (b2n p) (crewFlg s al) [.b64] .narrow (if al then opNone else opMask false)
      (if p then decide (s.val = 0) else slotP s))
  | .cpull n op s al => some (formCrew n 0xA2 (pullCode op) (crewFlg s al) [.b32, .b64] .narrow
      (if al then opNone else opMask false) (slotW n.ty s))
  | .cred n op s al => some (formCrew n 0xA3 (combCode op) (crewFlg s al) (combTys op) .narrow
      (if al then opNone else opMask false) (slotW n.ty s))
  | .cscan n op ex s al => some (formCrew n 0xA4 (combCode op + 8 * b2n ex) (crewFlg s al) (combTys op) .narrow
      (if al then opNone else opMask false) (slotW n.ty s))
  | .cseg n op inc s al => some (formCrew n 0xA5 (combCode op + 8 * b2n inc) (crewFlg s al) (combTys op) .narrow
      (if al then opNone else opMask false) (slotW n.ty s))
  | .cmatch n s al => some (formCrew n 0xA6 0 (crewFlg s al) [.b32, .b64] .narrow (if al then opNone else opMask false)
      (slotW n.ty s))
  | .celect n f s al => some (formCrew n 0xA7 (b2n f) (crewFlg s al) [.b32] .pred (if al then opNone else opMask false)
      (if f then slotP s else decide (s.val = 0)))
  | .kwr n k => some (formCrew n 0xA8 0 k.val [.b32, .b64] .narrow (opMask true)
      (n.ty != .b64 || decide (k.val ≤ 126)))
  | _ => none

/-- A tile node of two narrow operands (R349, R351). -/
def tile2 (n : Node) (opc var flg : Nat) (tys : List Ty) (rest : Bool := true) : Option Form :=
  some (formMem n opc var flg tys 2 .narrow (op64 .b64) (op64 .b64) rest)
def tile1 (n : Node) (opc flg : Nat) : Option Form :=
  some { formMem n opc 0 flg [.b64] 1 .narrow (op64 .b64) opNone true with a := op64 .b64 }
def strm2 (n : Node) (opc flg : Nat) (u : Bool) : Option Form :=
  some { formMem n opc 0 (flg + b2n u) [.b64] 2 .narrow (op64 .b64) (op64 .b64) true with seq := seqIf u }
def strm1 (n : Node) (var : Nat) (u : Bool) : Option Form :=
  some { formMem n 0xC0 var (b2n u) [.b64] 1 .narrow (op64 .b64) opNone true with seq := seqIf u }

/-- Tile, systolic, stream, sparse, gather and scatter nodes (R349 to R366). -/
def formTile : Instr → Option Form
  | .tload n sc l => tile2 n 0xB0 (scaleCode sc + 4 * b2n l) 0 tyTile (scOk n.ty sc)
  | .tstore n sc l ca => tile2 n 0xB1 (scaleCode sc + 4 * b2n l) (16 * b2n ca) tyTile (scOk n.ty sc)
  | .tfill n => tile2 n 0xB2 0 0 tyFill
  | .tmma n w ca cb => some (formPorts n 0xB3 (tyCode w) (16 * b2n ca + 32 * b2n cb) allTys .narrow (pairOk n.ty w))
  | .ttern n ca cb => some (formPorts n 0xB4 0x17 (16 * b2n ca + 32 * b2n cb) [.s8] .narrow)
  | .tgrp n w ca cb => some (formPorts n 0xB5 (tyCode w) (16 * b2n ca + 32 * b2n cb) allTys .narrow (pairOk n.ty w))
  | .tcvt n s r ca => tile2 n 0xB6 (tyCode s) (roundCode r + 16 * b2n ca) (tyPlain ++ tyMx)
      ((tyPlain ++ tyMx).contains s && rndCvt n.ty s r.rnd)
  | .ttrans n ca => tile2 n 0xB7 0 (16 * b2n ca) (tyPlain ++ [.t2])
  | .tscale n sc r ca => some (formPorts n 0xB8 (scaleCode sc) (roundCode r + 16 * b2n ca) (tyFloats ++ tyMx) .narrow
      (scOk n.ty sc && rndArith r && (!isMx n.ty || (r.rnd == .rn && !r.sat))))
  | .syscfg n w => some
      { form2 n 0xB9 (tyCode w) 0 allTys .narrow { op64 n.ty with ok := fun s => s != .imm && kinds64 s } { ok := fun s => s == .none || isPortSrc s, imm := anyImm }
        (pairOk n.ty w || ternPair n.ty w) with ariHi := 2 }
  | .sysw n ca => tile1 n 0xBA (16 * b2n ca)
  | .sysa n ca => tile1 n 0xBB (16 * b2n ca)
  | .sysd n => tile1 n 0xBC 0
  | .strmOpen n u => strm2 n 0xBD 0 u
  | .strmSub n u => strm2 n 0xBE 0 u
  | .strmPub n u ca => strm2 n 0xBF (128 * b2n ca) u
  | .strmCloseEnd n u => strm1 n 0 u
  | .strmCloseLeave n u => strm1 n 1 u
  | .scan n op ex => some (form2 n 0xC1 (redCode op + 4 * b2n ex) 0 [.s32, .n32, .f32] .wide opW (op64 n.ty))
  | .isect n => some (form2 n 0xC2 0 0 [.n32] .narrow opW opW)
  | .union n cnt => some (form2 n 0xC3 (b2n cnt) 0 [.n32] (if cnt then .narrow else .wide) opW opW)
  | .repeat_ n => some (form2 n 0xC4 0 0 [.n32] .wide opW (op64 .n32))
  | .sred n op => some (form2 n 0xC5 (redCode op) 0 [.s32, .n32, .f32] .wide opW opW)
  | .gather n sp sx u => some
      { formMem n 0xD0 (spCode sp + 8 * b2n sx) (b2n u) ty3264 2 .wide (op64 .b64) opW (sp != .k) with
        seq := seqIf u }
  | .gathert n sp sx sc u => some
      { formPorts n 0xD1 (spCode sp + 8 * b2n sx + 16 * scaleCode sc) (b2n u) (tyPlain ++ tyMx)
        .narrow (sp != .k && scOk n.ty sc) with seq := seqIf u }
  | .scatter n sp sx u => some { formPorts n 0xD2 (spCode sp + 8 * b2n sx) (b2n u) ty3264 .narrow (sp != .k) with seq := seqIf u }
  | .scatadd n sp sx m => some
      { formPorts n 0xD3 (spCode sp + 8 * b2n sx) (memCode m) [.s32, .n32, .f32, .s64, .n64] .narrow
        (sp != .k && !m.acq && !m.rel && !m.sc) with seq := seqIf m.unord }
  | _ => none

def spS (sp : Sp) : Bool := sp == .s || sp == .p

/-- Memory, atomic, synchronisation and engine nodes (R370, R371). -/
def formMemOp : Instr → Option Form
  | .ld n sp m => some (formMem n 0xE0 (spCode sp) (memCode m) tyLt 1 .narrow (op64 .b64) (opTrig n.a) (loadFlags m))
  | .ldu n sp => some { formMem n 0xE1 (spCode sp) 1 tyLt 1 .narrow (op64 .b64) (opTrig n.a) true with seq := .ignored }
  | .st n sp m => some (formMem n 0xE2 (spCode sp) (memCode m) tyLt 2 .narrow (op64 .b64) (opT n.ty) (storeFlags m && sp != .k))
  | .stu n sp => some { formMem n 0xE3 (spCode sp) 1 tyLt 2 .narrow (op64 .b64) (opT n.ty) (sp != .k) with seq := .ignored }
  | .ldw n sp m => some (formMem n 0xE4 (spCode sp) (memCode m) [.b64] 1 .wide (op64 .b64) (opTrig n.a) (loadFlags m))
  | .stw n sp m => some (formMem n 0xE5 (spCode sp) (memCode m) [.b64] 2 .narrow (op64 .b64) opW (storeFlags m && sp != .k))
  | .spwait n sp u => some { formMem n 0xE6 (spCode sp) (b2n u) [.b64] 2 .narrow (op64 .b64) (op64 .b64) (spS sp) with seq := seqIf u }
  | .spset n sp u => some { formMem n 0xE7 (16 * (spCode sp - 2)) (b2n u) [.b64] 2 .narrow (op64 .b64) (op64 .b64) (spS sp) with seq := seqIf u }
  | .spclr n sp u => some { formMem n 0xE7 (1 + 16 * (spCode sp - 2)) (b2n u) [.b64] 2 .narrow (op64 .b64) (op64 .b64) (spS sp) with seq := seqIf u }
  | .iread n sp => some (formMem n 0xE8 (spCode sp) 0 [.b32, .b64] 1 .narrow (op64 .b64) (opTrig n.a) (spS sp))
  | .iwrite n sp => some (formMem n 0xE9 (spCode sp) 0 [.b32, .b64] 2 .narrow (op64 .b64) (opT n.ty) (spS sp))
  | .aadd n sp m => some (formAtom n 0 sp m)
  | .afadd n sp m => some (formAtom n 1 sp m)
  | .amin n sp m => some (formAtom n 2 sp m)
  | .amax n sp m => some (formAtom n 3 sp m)
  | .aand n sp m => some (formAtom n 4 sp m)
  | .aor n sp m => some (formAtom n 5 sp m)
  | .axor n sp m => some (formAtom n 6 sp m)
  | .axchg n sp m => some (formAtom n 7 sp m)
  | .acas n sp m => some (formAcas n sp m)
  | .ainc n sp m => some (formAtom n 9 sp m)
  | .adec n sp m => some (formAtom n 10 sp m)
  | .cmb n op => some
      { form2 n 0xEB (combCode op) 0
        (match op with | .add => tyAr | .min | .max => tyAr ++ [.f32] | _ => [.b32, .b64]) .narrow (opPort 0) (opMask false)
        (decide (n.b ≠ .imm ∨ immOf n ≠ 0)) with ariHi := 1 }
  | .fence n sc => some (formMem n 0xEC 0 (scopeFlg sc) [.b64] 1 .narrow (opPort 0) opNone true)
  | .flushr n sc => some (formMem n 0xED 0 (scopeFlg sc) [.b64] 2 .narrow (op64 .b64) (op64 .b64) true)
  | .discr n => some (formMem n 0xEE 0 0 [.b64] 2 .narrow (op64 .b64) (op64 .b64) true)
  | .pref n l2 => some (formImm n 0xEF (b2n l2) 1 1 (some .narrow) (tagsOf (some .narrow)) (op64 .b64) (opTrig n.a))
  | .barArrive n sc => some (formImm n 0xF0 0 (scopeFlg sc) 1 (some .narrow) (tagsOf (some .narrow)) (opPort 0) opImm
      (barOk n false && sc != .crew))
  | .barWait n sc => some (formImm n 0xF0 1 (scopeFlg sc) 1 (some .narrow) (tagsOf (some .narrow)) (opPort 0) opImm
      (barOk n true && sc != .crew))
  | .barSync n sc => some (formImm n 0xF0 2 (scopeFlg sc) 1 (some .narrow) (tagsOf (some .narrow)) (opPort 0) opImm
      (barOk n false && sc != .crew))
  | .cbar n => some (formImm n 0xF1 0 0 1 (some .narrow) [.join] (opPort 0) (opMask true))
  | .csync n sc => some (formImm n 0xF1 1 (scopeFlg sc) 1 (some .narrow) [.join] (opPort 0) (opMask true))
  | .semp n sc => some (formImm n 0xF2 0 (scopeFlg sc) 1 (some .narrow) (tagsOf (some .narrow)) (opPort 0) opImm
      (semOk n && decide (3 ≤ scopeCode sc)))
  | .semv n sc => some (formImm n 0xF2 1 (scopeFlg sc) 1 (some .narrow) (tagsOf (some .narrow)) (opPort 0) opImm
      (semOk n && decide (3 ≤ scopeCode sc)))
  | .semtry n sc => some (formImm n 0xF2 2 (scopeFlg sc) 1 (some .narrow) (tagsOf (some .narrow)) (opPort 0) opImm
      (semOk n && decide (3 ≤ scopeCode sc)))
  | .semdec n sc => some (formImm n 0xF2 3 (scopeFlg sc) 1 (some .narrow) (tagsOf (some .narrow)) (opPort 0) opImm
      (semOk n && decide (3 ≤ scopeCode sc)))
  | .copy n s d u => some { formPorts n 0xF3 (16 * b2n s + 32 * b2n d) (b2n u) [.b64] .narrow with seq := seqIf u }
  | .copys n s d u => some { formPorts n 0xF3 (1 + 16 * b2n s + 32 * b2n d) (b2n u) [.b64] .narrow with seq := seqIf u }
  | .port n => some (formMem n 0xF4 0 0 [.b64] 1 .narrow (opPort 0) opNone true)
  | .nsend n u => some { formPorts n 0xF5 0 (b2n u) [.b64] .narrow with seq := seqIf u }
  | .nrecv n u => some { formPorts n 0xF5 1 (b2n u) [.b64] .narrow with seq := seqIf u }
  | .nfence n => some (formMem n 0xF5 2 0 [.b64] 1 .narrow (opPort 0) opNone true)
  | .launch n => some (formMem n 0xF6 0 0 [.b64] 1 .narrow (op64 .b64) (opTrig n.a) true)
  | .lwait n => some (formMem n 0xF7 0 0 [.b64] 1 .narrow (op64 .b64) (opTrig n.a) true)
  | _ => none

/-- System nodes (R370, R402 to R407). -/
def formSys : Instr → Option Form
  | .abort n => some (formImm n 0xF8 0 0 1 none [.keep] (op64 .b64) (opTrig n.a))
  | .trap n => some (formImm n 0xF9 0 0 1 none [.keep] (op64 .b64) (opTrig n.a))
  | .brk n => some (formImm n 0xFA 0 0 1 (some .narrow) (tagsOf (some .narrow)) (opPort 0) opNone)
  | .assert_ n => some (formImm n 0xFB 0 0 2 (some .narrow) (tagsOf (some .narrow))
      { ok := fun s => kinds64 s || kindsP s, imm := anyImm } (opOr (op64 .b64)))
  | .rdsr n k => some (formMem n 0xFC k.val 0 [.b64] 1 .narrow (opPort 0) opNone true)
  | .yield n => some (formImm n 0xFD 0 0 1 (some .narrow) (tagsOf (some .narrow)) (opPort 0) opNone)
  | .halt n => some (formImm n 0xFD 1 0 1 none [.keep] (opPort 0) opNone)
  | .nop n => some (formImm n 0xFD 2 0 1 (some .narrow) (tagsOf (some .narrow)) (opPort 0) opNone)
  | .probe n sp => some (formImm n 0xFE (spCode sp) 0 1 (some .narrow) (tagsOf (some .narrow)) (op64 .b64) (opTrig n.a)
      (sp == .g || sp == .s || sp == .p))
  | _ => none

/-- The form of a node instruction; none for an event. -/
def form (i : Instr) : Option Form :=
  formFlow i <|> formInt i <|> formFloat i <|> formVec i <|> formCrewOp i <|> formTile i <|> formMemOp i <|> formSys i

/-- The word of R255 with its fields in place. -/
def packWord (f : Form) : NodeWord :=
  BitVec.ofNat 128 (f.opc * 2 ^ 120 + f.var * 2 ^ 114 + tyCode f.node.ty * 2 ^ 109 + f.node.ari.val * 2 ^ 107 +
    tagCode f.node.tag * 2 ^ 104 + f.flg * 2 ^ 96 + srcCode f.node.a * 2 ^ 80 + srcCode f.node.b * 2 ^ 64 +
    lowCode f.node.low * 2 ^ 48 + dstCode f.node.d0 * 2 ^ 24 + dstCode f.node.d1)

/-! ## What a form admits -/

/-- The ports that the descriptors of a node name (R257, R259). -/
def namedPorts (f : Form) : List Nat :=
  let p (s : Src) : List Nat := match s with | .port k => [k.val] | _ => []
  p f.node.a ++ p f.node.b ++
  (match f.node.low with
   | .src s => p s
   | _ => if f.cUse = .required || (f.cUse = .optional && f.node.ari.val == 3) then [2] else [])

def portsOk (f : Form) : Bool :=
  (List.range 3).all (fun k => (namedPorts f).contains k == decide (k < f.node.ari.val))

/-- Two valid destinations never name one node and port; NET = 3 has its other fields zero (R261, R262). -/
def dstsOk (f : Form) : Bool :=
  (match f.node.d0, f.node.d1 with
   | some x, some y => x.net == .edge || y.net == .edge ||
       !(x.page == y.page && x.pe == y.pe && x.slot == y.slot && x.port == y.port)
   | _, _ => true) &&
  (match f.node.d0 with
   | some x => x.net != .edge || (f.opc == 0xF4 && x.page.val == 0 && x.slot.val == 0 && x.port.val == 0)
   | none => true) &&
  (match f.node.d1 with
   | some y => y.net != .edge || (f.opc == 0xF4 && y.page.val == 0 && y.slot.val == 0 && y.port.val == 0)
   | none => true) &&
  (f.net.isSome || (f.node.d0.isNone && f.node.d1.isNone))

/-- The kind of low field that the form has, with the operands' immediates (R259). -/
def lowOk (f : Form) : Bool :=
  match f.node.low with
  | .seq _ _ _ => f.seq == .seq && f.node.a != .imm && f.node.b != .imm
  | .ignored _ => f.seq == .ignored && f.node.a != .imm && f.node.b != .imm
  | .imm _ => f.seq == .plain && (f.node.a == .imm || f.node.b == .imm) && !(f.node.a == .imm && f.node.b == .imm)
  | .src s => f.seq == .plain && f.node.a != .imm && f.node.b != .imm && s != .imm && f.c s

/-- Everything of a node that REASON 17 covers and that its word alone shows (R272 (d)). -/
def reservedOk (f : Form) : Bool :=
  f.ty && decide (f.ariLo ≤ f.node.ari.val) && decide (f.node.ari.val ≤ f.ariHi) && f.tags.contains f.node.tag &&
  f.a.ok f.node.a && f.b.ok f.node.b && lowOk f && portsOk f && dstsOk f && f.rest

/-- The immediate extends (R251, R258; REASON 18). -/
def immediateOk (f : Form) : Bool :=
  match f.node.low with
  | .imm v => (f.node.a != .imm || f.a.imm v) && (f.node.b != .imm || f.b.imm v)
  | _ => true

/-- The network that a node's result goes out on: replicate sends a narrow result on the wide network (R262). -/
def resultNet (f : Form) : Option Net := if f.node.tag = .repl then some .wide else f.net

/-- The valid destinations name the result's network, for a port-return the narrow one (R262, R293); PORT's first names an edge port (R262, R394; REASON 19). -/
def networkOk (f : Form) : Bool :=
  let d (x : Option Dst) : Bool := match x with | some y => some y.net == resultNet f | none => true
  if f.opc = 0xF4 then (match f.node.d0 with | some x => x.net == .edge | none => false) && d f.node.d1
  else d f.node.d0 && d f.node.d1

end Sys2Proof.Machine
end

