-- ==== Sys2Proof/WellFormed.lean ====
section
/-! DEFINITION. Well-formed instructions. A node is well formed when its word, taken alone, passes the load check
(R97, R255 to R265, R272 (d)); an event is well formed when its data have the shape of the thing it stands for. -/

namespace Sys2Proof

/-- Why a node word is refused, or a node is ill formed: the rows of R97 that a word alone shows. -/
inductive Reject where
  /-- all 128 bits zero: an empty slot, no node (R266) -/
  | emptySlot
  /-- an unassigned major or variant, or major 0xFF (R270 to R272) -/
  | unassigned
  /-- a reserved field, value, TY code or FLG bit (R272 (d)) -/
  | reserved
  /-- an immediate that does not extend (R251) -/
  | immediate
  /-- a destination on a network that is not the result's (R262) -/
  | network
  deriving DecidableEq, Repr

namespace Reject

/-- The REASON of R97. -/
def reason : Reject → Nat
  | emptySlot => 0
  | unassigned => 16
  | reserved => 17
  | immediate => 18
  | network => 19

end Reject

/-- What the load check finds against a node, in the order of R97. -/
def Machine.flaw (f : Machine.Form) : Option Reject :=
  if !Machine.reservedOk f then some .reserved
  else if !Machine.immediateOk f then some .immediate
  else if !Machine.networkOk f then some .network
  else none

namespace WellFormed

/-- Four die temperatures below the sensors' 8 bits (R22). -/
def temps4 (l : List Nat) : Bool := l.length == 4 && l.all (fun t => decide (t < 256))

/-- Twelve stack temperatures. -/
def temps12 (l : List Nat) : Bool := l.length == 12 && l.all (fun t => decide (t < 256))

/-- What the random sources give a session (R42). -/
def fresh (f : Fresh) : Bool := f.secret.length == 32 && f.nonce.length == 32

/-- HELLO and REPLY (R42). -/
def hello (m : Hello) (sig : Bool) : Bool :=
  m.pub.length == 32 && m.nonce.length == 32 && m.ident.length == 32 && m.sig.length == (if sig then 64 else 0)

/-- The header of a firmware slot is 256 bytes (R58). -/
def fwImage (m : FwImage) : Bool := m.header.length == 256

/-- The events whose data have a shape to keep. -/
def event : Instr → Bool
  | .registerWrite _ off _ => off % 4 == 0
  | .send _ f => fresh f
  | .recv _ f => fresh f
  | .governorSample p t => decide (p < 65536) && temps4 t
  | .hot _ t => decide (t < 256)
  | .thermalTrip _ t => decide (t < 256)
  | .companionRead _ len _ => decide (1 ≤ len)
  | .companionWrite _ data _ => decide (1 ≤ data.length)
  | .image a b => fwImage a && fwImage b
  | .rails _ t => temps4 t
  | .hbm _ t => temps12 t
  | .rmblHello _ m => hello m false
  | .rmblReply _ m => hello m true
  | .rmblFinish _ sig => sig.length == 64
  | .copyWordArrival _ _ => true
  | _ => true

end WellFormed

/-- The one check of an instruction. -/
def Instr.wf (i : Instr) : Bool :=
  match Machine.form i with
  | some f => (Machine.flaw f).isNone
  | none => WellFormed.event i

end Sys2Proof
end

