-- ==== Sys2Proof/Decode.lean ====
section
/-! DEFINITION. From 128-bit node words to instructions, total and refusing by name (R255 to R272), and back. The
device's own events have no words. -/

namespace Sys2Proof.Machine

/-- Takes a variant field's meaning; a value without one is an unassigned variant (R271). -/
def variant {α : Type} (o : Option α) : Except Reject α := match o with | some x => .ok x | none => .error .unassigned

/-- Takes a flag field's or a reserved value's meaning (R272 (d)). -/
def assigned {α : Type} (o : Option α) : Except Reject α := match o with | some x => .ok x | none => .error .reserved

def zero (x : Nat) : Option Unit := if x = 0 then some () else none
def only (x y : Nat) : Option Unit := if x = y then some () else none
/-- Bit `i` of a field. -/
def flag (x i : Nat) : Bool := x / 2 ^ i % 2 == 1
/-- A field below 2 that is a truth value. -/
def boolOf (x : Nat) : Option Bool := if x = 0 then some false else if x = 1 then some true else none

/-- FLG with SAT alone (R265). -/
def satOf (flg : Nat) : Option Bool := if flg = 0 then some false else if flg = 8 then some true else none
/-- FLG with RND and SAT (R245). -/
def roundOf (flg : Nat) : Option Round :=
  if flg < 16 then (rndOf (flg % 8)).map (fun r => { rnd := r, sat := flag flg 3 }) else none
/-- FLG of the memory class (R265). -/
def memOf (flg : Nat) : Option MemFlags :=
  if flg < 128 then (scopeOf (flg / 2 % 8)).map (fun sc =>
    { unord := flag flg 0, scope := sc, acq := flag flg 4, rel := flag flg 5, sc := flag flg 6 }) else none
/-- FLG with SCOPE alone. -/
def onlyScope (flg : Nat) : Option Scope := if flg % 2 = 0 ∧ flg < 16 then scopeOf (flg / 2) else none
/-- FLG with SLOT and ALL (R338). -/
def slotOf (flg : Nat) : Option (Fin 64 × Bool) :=
  if flg < 128 then (finOf 64 (flg % 64)).map (fun k => (k, flag flg 6)) else none
/-- FLG with CA, or with CA and CB (R351, R354). -/
def caOf (flg : Nat) : Option Bool := if flg = 0 then some false else if flg = 16 then some true else none
def cacbOf (flg : Nat) : Option (Bool × Bool) :=
  if flg % 16 = 0 ∧ flg < 64 then some (flag flg 4, flag flg 5) else none
/-- FLG with RND, SAT and CA (R351). -/
def roundCaOf (flg : Nat) : Option (Round × Bool) := if flg < 32 then (roundOf (flg % 16)).map (fun r => (r, flag flg 4)) else none
/-- A space in a 2-bit field (R370). -/
def sp3 (x : Nat) : Option Sp := if x < 4 then spOf x else none
/-- A scratchpad space in VAR[2:0] (R370). -/
def spPad (x : Nat) : Option Sp := if x = 2 then some .s else if x = 3 then some .p else none
/-- A type code in VAR[4:0] with VAR[5] reserved (R328, R336, R354). -/
def varTy (var : Nat) : Option Ty := if var < 32 then tyOf var else none

/-- The source code of TCVT in VAR[4:0], among the codes that R351 assigns. -/
def varFrom (var : Nat) : Option Ty := (varTy var).filter (fun t => (tyPlain ++ tyMx).contains t)

/-- A constructor that its node field completes. -/
abbrev Make := Except Reject (Node → Instr)

/-- A node without variants and flags. -/
def plain (var flg : Nat) (mk : Node → Instr) : Make := do
  variant (zero var)
  assigned (zero flg)
  pure mk

/-- A carrying node (R284). -/
def carry (var flg : Nat) (mk : Node → Cls → Instr) : Make := do
  let c ← variant (clsOf var)
  assigned (zero flg)
  pure (fun n => mk n c)

/-- A node whose one flag is SAT. -/
def satNode (var flg : Nat) (mk : Node → Bool → Instr) : Make := do
  variant (zero var)
  let s ← assigned (satOf flg)
  pure (fun n => mk n s)

/-- A node with RND and SAT. -/
def roundNode (var flg : Nat) (mk : Node → Round → Instr) : Make := do
  variant (zero var)
  let r ← assigned (roundOf flg)
  pure (fun n => mk n r)

/-- A collective whose variant is already read. -/
def crewNode (flg : Nat) (mk : Node → Fin 64 → Bool → Instr) : Make := do
  let x ← assigned (slotOf flg)
  pure (fun n => mk n x.1 x.2)

/-- Majors 0x01 to 0x18 (R270, R284, R308). -/
def decodeFlow (opc var flg tag : Nat) : Make :=
  match opc with
  | 0x01 => do
    let w ← variant (boolOf var)
    assigned (zero flg)
    pure (fun n => .livein n w)
  | 0x02 => do
    let w ← variant (boolOf var)
    assigned (zero flg)
    pure (fun n => .liveout n w)
  | 0x03 => plain var flg .const
  | 0x04 => plain var flg .constw
  | 0x05 => carry var flg .steer
  | 0x06 => carry var flg .merge
  | 0x07 => carry var flg .select
  | 0x08 => carry var flg .gate
  | 0x09 => do
    variant (zero var)
    let u ← assigned (boolOf flg)
    pure (fun n => .sink n u)
  | 0x0A => carry var flg .dup
  | 0x0B => plain var flg .exit
  | 0x0C => plain var flg .exitc
  | 0x0D => do
    variant (zero var)
    let f ← assigned (finOf 32 flg)
    pure (fun n => .call n f)
  | 0x0E => do
    variant (zero var)
    let f ← assigned (finOf 32 flg)
    pure (fun n => .calli n f)
  | 0x0F => plain var flg .ret
  | 0x10 => carry var flg .wave
  | 0x11 => carry var flg .waveb
  | 0x12 => carry var flg .loopx
  | 0x13 => if tag = 5 then carry var flg .passPret else carry var flg .pass
  | 0x14 => plain var flg .pand
  | 0x15 => plain var flg .por
  | 0x16 => plain var flg .pxor
  | 0x17 => plain var flg .pnot
  | 0x18 => do
    let t ← variant (if var = 0 then some PTest.nz else if var = 1 then some .z else if var = 2 then some .bit else none)
    assigned (zero flg)
    pure (fun n => .ptest n t)
  | _ => .error .unassigned

/-- Majors 0x20 to 0x42 (R270, R311 to R318). -/
def decodeInt (opc var flg : Nat) : Make :=
  match opc with
  | 0x20 => satNode var flg .add
  | 0x21 => satNode var flg .sub
  | 0x22 => satNode var flg .mul
  | 0x23 => plain var flg .mulhi
  | 0x24 => plain var flg .mulw
  | 0x25 => satNode var flg .mad
  | 0x26 => satNode var flg .div
  | 0x27 => plain var flg .rem
  | 0x28 => satNode var flg .neg
  | 0x29 => satNode var flg .abs
  | 0x2A => plain var flg .min
  | 0x2B => plain var flg .max
  | 0x2C => plain var flg .and
  | 0x2D => plain var flg .or
  | 0x2E => plain var flg .xor
  | 0x2F => plain var flg .not
  | 0x30 => plain var flg .andn
  | 0x31 => plain var flg .shl
  | 0x32 => plain var flg .shr
  | 0x33 => plain var flg .sar
  | 0x34 => plain var flg .rol
  | 0x35 => plain var flg .ror
  | 0x36 => plain var flg .xtr
  | 0x37 => do
    let s ← variant (if var < 16 then finOf 8 (var % 8) else none)
    assigned (zero flg)
    pure (fun n => .lea n s (flag var 3))
  | 0x38 => plain var flg .bfx
  | 0x39 => plain var flg .bfi
  | 0x3A => plain var flg .popc
  | 0x3B => plain var flg .clz
  | 0x3C => plain var flg .ctz
  | 0x3D => plain var flg .brev
  | 0x3E => plain var flg .bswap
  | 0x3F => do
    let k ← variant (finOf 3 var)
    assigned (zero flg)
    pure (fun n => .ext n k)
  | 0x40 => do
    variant (if var < 8 then some () else none)
    let s ← assigned (satOf flg)
    pure (fun n => .dotb n (flag var 0) (flag var 1) (flag var 2) s)
  | 0x41 => satNode var flg .sad
  | 0x42 => do
    let t ← variant (itestOf var)
    assigned (zero flg)
    pure (fun n => .cmp n t)
  | _ => .error .unassigned

/-- Majors 0x60 to 0x75 (R270, R320). -/
def decodeFloat (opc var flg : Nat) : Make :=
  match opc with
  | 0x60 => roundNode var flg .fadd
  | 0x61 => roundNode var flg .fsub
  | 0x62 => roundNode var flg .fmul
  | 0x63 => roundNode var flg .ffma
  | 0x64 => roundNode var flg .fdiv
  | 0x65 => roundNode var flg .fsqrt
  | 0x66 => satNode var flg .frcp
  | 0x67 => satNode var flg .frsq
  | 0x68 => satNode var flg .fexp2
  | 0x69 => satNode var flg .flog2
  | 0x6A => satNode var flg .fsin
  | 0x6B => satNode var flg .fcos
  | 0x6C => satNode var flg .ftanh
  | 0x6D => plain var flg .fmin
  | 0x6E => plain var flg .fmax
  | 0x6F => plain var flg .fabs
  | 0x70 => plain var flg .fneg
  | 0x71 => plain var flg .fcpys
  | 0x72 => do
    let t ← variant (ftestOf var)
    assigned (zero flg)
    pure (fun n => .fcmp n t)
  | 0x73 => plain var flg .fclass
  | 0x74 => do
    variant (zero var)
    let r ← assigned (if flg < 8 then rndOf flg else none)
    pure (fun n => .frint n r)
  | 0x75 => do
    let s ← assigned (varTy var)
    let r ← assigned (roundOf flg)
    pure (fun n => .cvt n s r)
  | _ => .error .unassigned

/-- Majors 0x90 to 0x9F (R270, R330). -/
def decodeVec (opc var flg : Nat) : Make :=
  match opc with
  | 0x90 => roundNode var flg .vadd
  | 0x91 => roundNode var flg .vsub
  | 0x92 => roundNode var flg .vmul
  | 0x93 => roundNode var flg .vfma
  | 0x94 => roundNode var flg .vmin
  | 0x95 => roundNode var flg .vmax
  | 0x96 => do
    let k ← variant (finOf 64 var)
    assigned (zero flg)
    pure (fun n => .vpack n k)
  | 0x97 => do
    let k ← variant (finOf 64 var)
    assigned (zero flg)
    pure (fun n => .vunpack n k)
  | 0x98 => plain var flg .vperm
  | 0x99 => plain var flg .vbcast
  | 0x9A => do
    let op ← variant (redOf var)
    let r ← assigned (roundOf flg)
    pure (fun n => .vred n op r)
  | 0x9B => roundNode var flg .vdot
  | 0x9C => roundNode var flg .vscale
  | 0x9D => roundNode var flg .srnd
  | 0x9E => do
    let s ← if var < 32 then variant ((tyOf var).bind (fun t => if tyVall.contains t then some t else none)) else assigned none
    let r ← assigned (if flg < 128 then roundOf (flg % 16) else none)
    let k ← assigned (finOf 8 (flg / 16))
    pure (fun n => .vcvt n s r k)
  | 0x9F => do
    let t ← variant (ftestOf var)
    assigned (zero flg)
    pure (fun n => .vcmp n t)
  | _ => .error .unassigned

/-- Majors 0xA0 to 0xA8 (R270, R340, R428). -/
def decodeCrew (opc var flg : Nat) : Make :=
  match opc with
  | 0xA0 => do
    let op ← variant (pollOf var)
    crewNode flg (fun n => .cpoll n op)
  | 0xA1 => do
    let p ← variant (boolOf var)
    crewNode flg (fun n => .cmask n p)
  | 0xA2 => do
    let op ← variant (pullOf var)
    crewNode flg (fun n => .cpull n op)
  | 0xA3 => do
    let op ← variant (combOf var)
    crewNode flg (fun n => .cred n op)
  | 0xA4 => do
    let op ← variant (if var < 16 then combOf (var % 8) else none)
    crewNode flg (fun n => .cscan n op (flag var 3))
  | 0xA5 => do
    let op ← variant (if var < 16 then combOf (var % 8) else none)
    crewNode flg (fun n => .cseg n op (flag var 3))
  | 0xA6 => do
    variant (zero var)
    crewNode flg .cmatch
  | 0xA7 => do
    let f ← variant (boolOf var)
    crewNode flg (fun n => .celect n f)
  | 0xA8 => do
    variant (zero var)
    let k ← assigned (finOf 128 flg)
    pure (fun n => .kwr n k)
  | _ => .error .unassigned

/-- Majors 0xB0 to 0xC5 and 0xD0 to 0xD3 (R270, R351 to R366). -/
def decodeTile (opc var flg : Nat) : Make :=
  match opc with
  | 0xB0 => do
    let sc ← variant (if var < 8 then scaleOf (var % 4) else none)
    assigned (zero flg)
    pure (fun n => .tload n sc (flag var 2))
  | 0xB1 => do
    let sc ← variant (if var < 8 then scaleOf (var % 4) else none)
    let ca ← assigned (caOf flg)
    pure (fun n => .tstore n sc (flag var 2) ca)
  | 0xB2 => plain var flg .tfill
  | 0xB3 => do
    let w ← assigned (varTy var)
    let c ← assigned (cacbOf flg)
    pure (fun n => .tmma n w c.1 c.2)
  | 0xB4 => do
    assigned (only var 0x17)
    let c ← assigned (cacbOf flg)
    pure (fun n => .ttern n c.1 c.2)
  | 0xB5 => do
    let w ← assigned (varTy var)
    let c ← assigned (cacbOf flg)
    pure (fun n => .tgrp n w c.1 c.2)
  | 0xB6 => do
    let s ← variant (varFrom var)
    let x ← assigned (roundCaOf flg)
    pure (fun n => .tcvt n s x.1 x.2)
  | 0xB7 => do
    variant (zero var)
    let ca ← assigned (caOf flg)
    pure (fun n => .ttrans n ca)
  | 0xB8 => do
    let sc ← variant (scaleOf var)
    let x ← assigned (roundCaOf flg)
    pure (fun n => .tscale n sc x.1 x.2)
  | 0xB9 => do
    variant (if var < 32 then some () else none)
    let w ← assigned (tyOf var)
    assigned (zero flg)
    pure (fun n => .syscfg n w)
  | 0xBA => do
    variant (zero var)
    let ca ← assigned (caOf flg)
    pure (fun n => .sysw n ca)
  | 0xBB => do
    variant (zero var)
    let ca ← assigned (caOf flg)
    pure (fun n => .sysa n ca)
  | 0xBC => plain var flg .sysd
  | 0xBD => do
    variant (zero var)
    let u ← assigned (boolOf flg)
    pure (fun n => .strmOpen n u)
  | 0xBE => do
    variant (zero var)
    let u ← assigned (boolOf flg)
    pure (fun n => .strmSub n u)
  | 0xBF => do
    variant (zero var)
    let u ← assigned (boolOf (flg % 128))
    pure (fun n => .strmPub n u (flag flg 7))
  | 0xC0 => do
    let l ← variant (boolOf var)
    let u ← assigned (boolOf flg)
    pure (fun n => if l then .strmCloseLeave n u else .strmCloseEnd n u)
  | 0xC1 => do
    let op ← variant (if var < 8 then redOf (var % 4) else none)
    assigned (zero flg)
    pure (fun n => .scan n op (flag var 2))
  | 0xC2 => plain var flg .isect
  | 0xC3 => do
    let c ← variant (boolOf var)
    assigned (zero flg)
    pure (fun n => .union n c)
  | 0xC4 => plain var flg .repeat_
  | 0xC5 => do
    let op ← variant (redOf var)
    assigned (zero flg)
    pure (fun n => .sred n op)
  | 0xD0 => do
    let sp ← variant (if var < 16 then sp3 (var % 8) else none)
    let u ← assigned (boolOf flg)
    pure (fun n => .gather n sp (flag var 3) u)
  | 0xD1 => do
    let sp ← variant (sp3 (var % 8))
    let sc ← variant (scaleOf (var / 16))
    let u ← assigned (boolOf flg)
    pure (fun n => .gathert n sp (flag var 3) sc u)
  | 0xD2 => do
    let sp ← variant (if var < 16 then sp3 (var % 8) else none)
    let u ← assigned (boolOf flg)
    pure (fun n => .scatter n sp (flag var 3) u)
  | 0xD3 => do
    let sp ← variant (if var < 16 then sp3 (var % 8) else none)
    let m ← assigned (memOf flg)
    pure (fun n => .scatadd n sp (flag var 3) m)
  | _ => .error .unassigned

/-- The atomics of major 0xEA (R271). -/
def decodeAtom (op : Nat) (sp : Sp) (m : MemFlags) : Make :=
  match op with
  | 0 => pure (fun n => .aadd n sp m)
  | 1 => pure (fun n => .afadd n sp m)
  | 2 => pure (fun n => .amin n sp m)
  | 3 => pure (fun n => .amax n sp m)
  | 4 => pure (fun n => .aand n sp m)
  | 5 => pure (fun n => .aor n sp m)
  | 6 => pure (fun n => .axor n sp m)
  | 7 => pure (fun n => .axchg n sp m)
  | 8 => pure (fun n => .acas n sp m)
  | 9 => pure (fun n => .ainc n sp m)
  | 10 => pure (fun n => .adec n sp m)
  | _ => .error .unassigned

/-- A node with a memory space and the memory class's flags. -/
def memNode (sp : Option Sp) (flg : Nat) (mk : Node → Sp → MemFlags → Instr) : Make := do
  let sp ← variant sp
  let m ← assigned (memOf flg)
  pure (fun n => mk n sp m)

/-- A node with SCOPE alone in FLG. -/
def scopeNode (flg : Nat) (mk : Node → Scope → Instr) : Make := do
  let sc ← assigned (onlyScope flg)
  pure (fun n => mk n sc)

/-- Majors 0xE0 to 0xF5 (R270, R271, R370, R371). -/
def decodeMem (opc var flg : Nat) : Make :=
  match opc with
  | 0xE0 => memNode (spOf var) flg .ld
  | 0xE1 => do
    let sp ← variant (spOf var)
    assigned (only flg 1)
    pure (fun n => .ldu n sp)
  | 0xE2 => memNode (sp3 var) flg .st
  | 0xE3 => do
    let sp ← variant (sp3 var)
    assigned (only flg 1)
    pure (fun n => .stu n sp)
  | 0xE4 => memNode (spOf var) flg .ldw
  | 0xE5 => memNode (sp3 var) flg .stw
  | 0xE6 => do
    let sp ← variant (spPad var)
    let u ← assigned (boolOf flg)
    pure (fun n => .spwait n sp u)
  | 0xE7 => do
    let c ← variant (boolOf (var % 16))
    let sp ← variant (spPad (var / 16 + 2))
    let u ← assigned (boolOf flg)
    pure (fun n => if c then .spclr n sp u else .spset n sp u)
  | 0xE8 => do
    let sp ← variant (spPad var)
    assigned (zero flg)
    pure (fun n => .iread n sp)
  | 0xE9 => do
    let sp ← variant (spPad var)
    assigned (zero flg)
    pure (fun n => .iwrite n sp)
  | 0xEA => do
    variant (if var % 16 < 11 then some () else none)
    let sp ← variant (sp3 (var / 16))
    let m ← assigned (memOf flg)
    decodeAtom (var % 16) sp m
  | 0xEB => do
    let op ← variant (combOf var)
    assigned (zero flg)
    pure (fun n => .cmb n op)
  | 0xEC => do
    variant (zero var)
    scopeNode flg .fence
  | 0xED => do
    variant (zero var)
    scopeNode flg .flushr
  | 0xEE => plain var flg .discr
  | 0xEF => do
    let l ← variant (boolOf var)
    assigned (only flg 1)
    pure (fun n => .pref n l)
  | 0xF0 => do
    variant (if var < 3 then some () else none)
    scopeNode flg (if var = 0 then .barArrive else if var = 1 then .barWait else .barSync)
  | 0xF1 =>
    if var = 0 then plain var flg .cbar
    else do
      variant (only var 1)
      scopeNode flg .csync
  | 0xF2 => do
    variant (if var < 4 then some () else none)
    scopeNode flg (if var = 0 then .semp else if var = 1 then .semv else if var = 2 then .semtry else .semdec)
  | 0xF3 => do
    let rows ← variant (boolOf (var % 16))
    let u ← assigned (boolOf flg)
    pure (fun n => if rows then .copys n (flag var 4) (flag var 5) u else .copy n (flag var 4) (flag var 5) u)
  | 0xF4 => plain var flg .port
  | 0xF5 =>
    if var = 2 then plain 0 flg .nfence
    else do
      let r ← variant (boolOf var)
      let u ← assigned (boolOf flg)
      pure (fun n => if r then .nrecv n u else .nsend n u)
  | _ => .error .unassigned

/-- Majors 0xF6 to 0xFE (R270, R271, R370, R405). -/
def decodeSys (opc var flg : Nat) : Make :=
  match opc with
  | 0xF6 => plain var flg .launch
  | 0xF7 => plain var flg .lwait
  | 0xF8 => plain var flg .abort
  | 0xF9 => plain var flg .trap
  | 0xFA => plain var flg .brk
  | 0xFB => plain var flg .assert_
  | 0xFC => do
    let k ← variant (finOf 16 var)
    assigned (zero flg)
    pure (fun n => .rdsr n k)
  | 0xFD => do
    variant (if var < 3 then some () else none)
    assigned (zero flg)
    pure (if var = 0 then .yield else if var = 1 then .halt else .nop)
  | 0xFE => do
    let sp ← variant (if var = 0 then some .g else spPad var)
    assigned (zero flg)
    pure (fun n => .probe n sp)
  | _ => .error .unassigned

/-- The instruction that a major, a variant and flags name (R270, R271). -/
def decodeOp (opc var flg tag : Nat) : Make :=
  if opc < 0x20 then decodeFlow opc var flg tag
  else if opc < 0x60 then decodeInt opc var flg
  else if opc < 0x90 then decodeFloat opc var flg
  else if opc < 0xA0 then decodeVec opc var flg
  else if opc < 0xB0 then decodeCrew opc var flg
  else if opc < 0xE0 then decodeTile opc var flg
  else if opc < 0xF6 then decodeMem opc var flg
  else decodeSys opc var flg

/-- A node whose fields are all empty: the form's low field is read from it. -/
def blankNode : Node :=
  { ty := .b32, ari := 0, tag := .keep, a := .none, b := .none, low := .ignored 0, d0 := none, d1 := none }

/-- The fields of a word that every node shares (R255). -/
def nodeFields (k : SeqKind) (w : Nat) : Option Node := do
  let ty ← tyOf (w / 2 ^ 109 % 32)
  let ari ← finOf 4 (w / 2 ^ 107 % 4)
  let tag ← tagOf (w / 2 ^ 104 % 8)
  let a ← srcOf (w / 2 ^ 80 % 65536)
  let b ← srcOf (w / 2 ^ 64 % 65536)
  let low ← lowOf k a b (w / 2 ^ 48 % 65536)
  let d0 ← dstOf (w / 2 ^ 24 % 2 ^ 24)
  let d1 ← dstOf (w % 2 ^ 24)
  some { ty := ty, ari := ari, tag := tag, a := a, b := b, low := low, d0 := d0, d1 := d1 }

/-- How an instruction's bits [63:48] are read (R259). -/
def seqOf (i : Instr) : SeqKind := match form i with | some f => f.seq | none => .plain

/-- Reads the fields of a word without the limits of the description: major and variant first, then the rest. -/
def parse (w : Nat) : Except Reject Instr :=
  if w = 0 then .error .emptySlot
  else if w / 2 ^ 120 % 256 = 0 then .error .reserved
  else do
    let mk ← decodeOp (w / 2 ^ 120 % 256) (w / 2 ^ 114 % 64) (w / 2 ^ 96 % 256) (w / 2 ^ 104 % 8)
    let n ← assigned (nodeFields (seqOf (mk blankNode)) w)
    pure (mk n)

end Sys2Proof.Machine

namespace Sys2Proof

/-- DECODE: the node that a word holds, or the first row of R97 that it fails. -/
def decode (w : NodeWord) : Except Reject Instr := do
  let i ← Machine.parse w.toNat
  match Machine.form i with
  | some f => match Machine.flaw f with
    | some r => .error r
    | none => pure i
  | none => .error .unassigned

/-- ENCODE: the word of a node (R255); a trapped word is itself, and an event has none. -/
def encode (i : Instr) : NodeWord :=
  match Machine.form i with
  | some f => Machine.packWord f
  | none => match i with
    | .undef w => w
    | _ => 0

namespace Machine

/-- What the load check examines of a word of an unassigned major or variant under EMULATE = 1: ARI, TAG, source
kinds and indices, and destinations (R272 (c)). No description names crew-join or port-return for it, so it admits neither (R256, R274). -/
def emulatedOk (w : NodeWord) : Bool :=
  let x := w.toNat
  let ari := x / 2 ^ 107 % 4
  let port (s : Src) : Bool := match s with | .port k => decide (k.val < ari) | _ => true
  match tagOf (x / 2 ^ 104 % 8), srcOf (x / 2 ^ 80 % 65536), srcOf (x / 2 ^ 64 % 65536),
      dstOf (x / 2 ^ 24 % 2 ^ 24), dstOf (x % 2 ^ 24) with
  | some t, some a, some b, some d0, some d1 =>
    port a && port b && t != .pret && t != .join &&
    (match d0 with | some d => d.net != .edge | none => true) && (match d1 with | some d => d.net != .edge | none => true) &&
    (match d0, d1 with
     | some p, some q => !(p.page == q.page && p.pe == q.pe && p.slot == q.slot && p.port == q.port)
     | _, _ => true)
  | _, _, _, _, _ => false

/-- Is the word's major or variant unassigned, other than major 0xFF (R272 (a), (b))? -/
def emulates (w : NodeWord) : Bool :=
  decide (w.toNat / 2 ^ 120 ≠ 0xFF) && (match Machine.parse w.toNat with | .error .unassigned => true | _ => false)

/-- The instruction of a word in an image: under EMULATE = 1 an unassigned one loads and traps when it fires. -/
def decodeIn (emulate : Bool) (w : NodeWord) : Except Reject Instr :=
  if emulate && emulates w then (if emulatedOk w then .ok (.undef w) else .error .reserved) else decode w

end Machine

/-- What the decoder reads from a word given as the opcode table numbers its bits; bits above `nbits` are 0. -/
def decodeTableWord (nbits w : Nat) : Option Instr :=
  match decode (BitVec.ofNat 128 (w % 2 ^ nbits)) with
  | .ok i => some i
  | .error _ => none

end Sys2Proof
end

