-- ==== Sys2Proof/Machine/State.lean ====
section
/-! DEFINITION. The state of the machine: every register, memory, queue and engine the manual names, as plain
data, and the state right after the application of VMGT. Section names follow the chapters. -/

namespace Sys2Proof.Machine

/-! ## Power, start and security (R12 to R66) -/

/-- What the attestation unit works on (R59, R60): a report, or an extend of a measurement register with a digest. -/
inductive AttJob where
  | attest
  | extend (index : BitVec 3) (digest : List Byte)
  deriving DecidableEq, Repr

/-- The management controller's own registers and what a start works on (R53 to R66). `stageAge` is the
time for which the stage in progress has run, `preserveNow` and `carveNow` what stages 4 and 7 read as they began. -/
structure Boot where
  stage : Nat
  stageAge : Nat
  preserveNow : Bool
  carveNow : BitVec 4
  failed : Bool
  warmStart : Bool
  imageB : Bool
  code : Nat
  unit_ : Nat
  preserve : Bool
  carve : BitVec 4
  carved : Nat
  kept : BitVec 12
  frozenCmd : Bool
  frozenPin : Bool
  tripped : Bool
  selfRefresh : Bool
  vcore : Bool
  released : Bool
  alert : BitVec 6
  alertEn : BitVec 6
  meas : List (BitVec 512)
  measData : List Byte
  attNonce : List Byte
  attReport : List Byte
  attIndex : BitVec 3
  attBusy : Bool
  attErr : Bool
  attJob : Option AttJob
  fwrev : Word64
  svn : Word32
  statusAtReady : Word32
  identity : List Byte
  dbgSel : Word32
  dbgSelHi : BitVec 20
  brk : Word64
  brkHit : Word32
  brkNode : Word32
  i3cAddr : Option (BitVec 7)
  trained : List (Option Nat)
  dieTemps : List Nat
  stackTemps : List Nat
  deriving DecidableEq, Repr

/-- The power governor (R20 to R24). `overFor` counts the samples for which power has stayed above the
limit at DUTY 8. -/
structure Gov where
  limit : BitVec 12
  duty : Nat
  causePower : Bool
  causeThermal : Bool
  hot : Bool
  tempMax : Nat
  power : Nat
  peak : Nat
  overFor : Nat
  deriving DecidableEq, Repr

/-- The error log (R30). (DESIGN CHOICE, log 3) -/
structure Merr where
  ce : Nat
  ue : Nat
  ueValid : Bool
  source : Nat
  die : Nat
  addr : Nat
  deriving DecidableEq, Repr

/-! ## Links and the Rambler (R31 to R51) -/

/-- A line of device memory that the companion holds, with its bytes if it has modified them (R32). -/
structure CompCopy where
  line : Nat
  dirty : Option (List Byte)
  deriving DecidableEq, Repr

/-- A request of the companion that waits in the I/O die during a freeze (R62). -/
inductive CompReq where
  | read (pa len : Nat) (keep : Bool)
  | write (pa : Nat) (data : List Byte) (own : Bool)
  deriving DecidableEq, Repr

/-- The Kamub Link (R31 to R35). (DESIGN CHOICE, log 3) -/
structure Kamub where
  up : BitVec 4
  down : BitVec 4
  retries : List Nat
  retryCount : Nat
  linkAborts : Nat
  copies : List CompCopy
  backed : List (Nat × Nat)
  held : List CompReq
  deriving DecidableEq, Repr

/-- One Ethernet port (R37). -/
structure EthPort where
  up : Bool
  llr : Bool
  uudDrop : Nat
  trimRx : Nat
  refused : Nat
  deriving DecidableEq, Repr

/-- One Rambler slot (R42 to R51). `begun` holds once the session keys stand; `cutAt` is the cycle of the cut-over until the
final round begins; `transcript` holds the plaintext records by sequence number. -/
structure Rambler where
  state : Nat
  round : Nat
  err : Nat
  src : Bool
  space : BitVec 6
  grace : BitVec 16
  ports : BitVec 16
  sent : Nat
  logLo : Word32
  logHi : Word32
  logSize : Word32
  peerAddr : List Word32
  peerKey : List Word32
  session : Word32
  secret : List Byte
  nonce : List Byte
  hello : Option Hello
  reply : Option Hello
  key : List Byte
  salt : List Byte
  seqOut : Nat
  accepted : List Nat
  unacked : List Nat
  roundSent : Nat
  roundEnd : Bool
  ended : Bool
  cutAt : Option Nat
  transcript : Tab (List Byte)
  logUsed : Nat
  begun : Bool
  deriving DecidableEq, Repr

/-! ## Spaces, translation and queues (R67 to R104) -/

/-- The registers of one address space (R69, R162, R395). -/
structure Space where
  rootLo : Word32
  rootHi : Word32
  enable : Bool
  hmLo : Word32
  hmHi : Word32
  hmSize : Word32
  hmCount : Nat
  hmTrunc : Bool
  hmErr : Bool
  ctLo : Word32
  ctHi : Word32
  ctCount : BitVec 13
  sendFail : Nat
  deferFail : Nat
  cutOver : Bool
  dropEth : Bool
  deriving DecidableEq, Repr

/-- A translation as a translation cache holds it (R71, R76). -/
structure TlbEntry where
  core : Nat
  space : Nat
  vpn : Nat
  pte : Word64
  level : Nat
  deriving DecidableEq, Repr

/-- An outstanding parked fault (R81, R82). `id = none` while no record could be written for it. (DEDUCED, log 26) -/
structure FaultRec where
  key : Nat
  id : Option Nat
  space : Nat
  va : Nat
  kind : Nat
  reason : Nat
  vt : Nat
  core : Nat
  cookie : Word64
  deriving DecidableEq, Repr

/-- What a shootdown in progress covers: SPACE, SCOPE, SIZE and the address (R76, R77). -/
structure Shootdown where
  sp : Nat
  scope : Nat
  size : Nat
  va : Nat
  deriving DecidableEq, Repr

/-- The translation registers and the fault ring (R76 to R84). `invHeld` and `invLines` are the accesses and the lines of remote
store buffers that a shootdown waits for (R77). -/
structure Xlat where
  invLo : Word32
  invHi : Word32
  invCtrl : Word32
  invBusy : Bool
  invErr : Bool
  invHeld : List Nat
  invLines : List Nat
  invNow : Shootdown
  fqLo : Word32
  fqHi : Word32
  fqLog : BitVec 4
  fqEnable : Bool
  badId : Bool
  lost : Bool
  prod : Nat
  cons : Word32
  respId : Word32
  faults : List FaultRec
  nextFault : Nat
  tlb : List TlbEntry
  deriving DecidableEq, Repr

/-- A record that a queue has taken and that is not yet dispatched (R138); `sat`, `monitored` and `faults` go by its four
dependency words (R139). -/
structure Waiting where
  index : Nat
  raw : List Byte
  sat : List Bool
  monitored : List (Option Nat)
  faults : List (Option Nat)
  wasElig : Bool
  deriving DecidableEq, Repr

/-- One hardware queue (R85 to R88, R140). -/
structure Queue where
  baseLo : Word32
  baseHi : Word32
  space : BitVec 6
  prio : BitVec 2
  logSize : BitVec 4
  enable : Bool
  err : Nat
  stopped : Bool
  head : Nat
  tail : Nat
  needHead : Bool
  fair : Nat
  elig : Bool
  fault : Option Nat
  waiting : List Waiting
  deriving DecidableEq, Repr

/-! ## Kernel images (R95 to R104, R266 to R269) -/

/-- A block of an image as the load check saw it (R100): its header fields, whether a node of it is ordered (R215), its
node words and its lists; `off` is where its pages begin in the image. -/
structure Block where
  pages : Nat
  off : Nat
  loop_ : Bool
  coll : Bool
  syst : Bool
  handler : Bool
  waveB : Nat
  sysMask : Word64
  ordered : Bool
  entries : List Nat
  words : Tab NodeWord
  formats : Tab (Nat × Nat × Nat)
  reason : Nat
  badNode : Nat
  badEdge : Nat
  source : List Nat
  deriving DecidableEq, Repr

/-- An image with its verdict (R97, R100); `frames` are the 4 KiB frames that the verdict came from (R79). -/
structure Image where
  pa : Nat
  frames : List Nat
  creww : Nat
  emulate : Bool
  stitch : Bool
  entry : Nat
  emuh : Nat
  width : Nat
  scratch : Nat
  teamMax : Nat
  cpool : List Byte
  blocks : List Block
  deriving DecidableEq, Repr

/-! ## Launches, teams, threads (R138 to R165, R179 to R190) -/

/-- What a node or access reports in the abort report (R164). -/
structure Report where
  nodeValid : Bool
  addrValid : Bool
  block : Nat
  node : Nat
  thread : Nat
  team : Nat
  depth : Nat
  vt : Nat
  addr : Word64
  deriving DecidableEq, Repr

/-- Where a launch stands. -/
inductive Phase where
  | dispatching | running | saving | held | restoring | aborted | committed | done
  deriving DecidableEq, Repr

/-- A part of a held launch's stream that has been written (R154): an LSTART record (`core` none), or the records of the
save unit that the launch had on a core; `home` is where the model keeps what the unit holds. (DEDUCED, log 14) -/
structure SavedUnit where
  launch : Nat
  core : Option Nat
  home : Nat
  records : Nat
  bytes : Nat
  deriving DecidableEq, Repr

/-- One launch (R3, R138): its record, its place in the family of launches, and its counters. A top-level launch names in `dies` the
dies on which teams of its family have run (R231). `causeVt` is the tag that R144 named for it as its cause took effect, `faultVa` the
address at which it waits on `fault` (R164). -/
structure Launch where
  id : Nat
  raw : List Byte
  queue : Nat
  index : Nat
  space : Nat
  prio : Nat
  order : Nat
  parent : Option Nat
  parentTeam : Nat
  number : Nat
  depth : Nat
  vt : Option Nat
  phase : Phase
  image : Image
  params : List Byte
  nextTeam : Nat
  retired : Nat
  teamCommits : Nat
  cause : Option Nat
  causeAt : Nat
  causeVt : Nat
  report : Option Report
  tern : Bool
  deadline : Nat
  hang : Nat
  freeStacks : List Nat
  fault : Option Nat
  faultVa : Nat
  requeue : Bool
  ran : Bool
  dies : List Nat
  stream : Option (Nat × Nat)
  units : List SavedUnit
  deriving DecidableEq, Repr

/-- A barrier of a team (R386, R387). -/
structure Barrier where
  num : Nat
  phase : Word32
  arrived : Nat
  target : Nat
  deriving DecidableEq, Repr

/-- A ready team (R141): its core, its crew slots, its barriers, its children. `key` names its scratchpad. -/
structure Team where
  key : Nat
  launch : Nat
  num : Nat
  core : Nat
  crews : List Nat
  size : Nat
  vt : Option Nat
  retired : Bool
  requested : Bool
  barriers : List Barrier
  children : List Nat
  status : Tab Nat
  deriving DecidableEq, Repr

/-- The state of a thread (R179). -/
inductive ThreadSt where
  | waiting (block : Nat)
  | inBlock (block : Nat)
  | departing (block target fp : Nat)
  | retired
  deriving DecidableEq, Repr

/-- One episode of a thread's program order (R215), in the handler block one for each invocation `inv` (R197): the SEQ expected next (none before its first access), whether its
chain has closed, and the WAVEB nodes that its wave has fired (R306). (DEDUCED, log 11) -/
structure Episode where
  block : Nat
  wave : Nat
  inv : Nat
  expect : Option Nat
  closed : Bool
  passed : List Nat
  deriving DecidableEq, Repr

/-- A resident thread; its key is core × 8192 + slot (R170). -/
structure Thread where
  launch : Nat
  team : Nat
  tid : Nat
  fp : Nat
  st : ThreadSt
  saved : Bool
  since : Nat
  replica : Nat
  prng : Word32
  episodes : List Episode
  deriving DecidableEq, Repr

/-- A hardware crew slot in use; its key is core × 256 + slot (R186, R190). `target` is the LO that a move in progress
works towards, `done` the rows it has exchanged, `moving` the fault it waits on, at `movingVa` (R189, R190). -/
structure Crew where
  team : Nat
  index : Nat
  lo : Nat
  target : Nat
  done : Nat
  high : Nat
  stack : Nat
  moving : Option Nat
  movingVa : Nat
  deriving DecidableEq, Repr

/-! ## Tokens and accesses (R170 to R178, R191, R216) -/

/-- Where a token stands: in an output buffer, or still with the collective that made it until that buffer has a place (`due`), or with
the port that sends it (`port`); on a network or a seam link; in a store; in the overflow area (R173, R174, R176, R185, R199). (DESIGN
CHOICE, log 40) -/
inductive Place where
  | out | due | port | net | general | completion | overflow
  | seam (link : Nat)
  deriving DecidableEq, Repr

/-- A token (R170). `port` 3 marks the injection of an entry node; `seq` is its place on its arc (R168), `inv` the handler
invocation that it belongs to, 0 outside the handler block (R197). -/
structure Token where
  thread : Nat
  wave : Nat
  net : Net
  val : Word256
  launch : Nat
  block : Nat
  replica : Nat
  node : Nat
  port : Nat
  age : Nat
  place : Place
  src : Nat
  seq : Nat
  count : Nat
  inv : Nat
  deriving DecidableEq, Repr

/-- One firing of a node: whose it is, and the tokens it consumed. -/
structure Firing where
  thread : Nat
  core : Nat
  launch : Nat
  block : Nat
  replica : Nat
  node : Nat
  wave : Nat
  toks : List Token
  deriving DecidableEq, Repr

/-- The mask of a crew-join node for one key, as the key's first token read it (R339). -/
structure JoinMask where
  launch : Nat
  block : Nat
  replica : Nat
  node : Nat
  wave : Nat
  team : Nat
  crew : Nat
  mask : Nat
  deriving DecidableEq, Repr

/-- A BRK that starts a freeze: its firing, its node, the value that it sends after the THAW, and whether the clocks have stopped (R404). -/
structure Broken where
  f : Firing
  n : Node
  val : Nat
  stopped : Bool
  deriving DecidableEq, Repr

/-- Where an access of a node stands (R191, R204, R216, R230); `held` is in flight and holds its port, since its core has no
entry free to park it in (R204). -/
inductive AccSt where
  | waiting
  | flight
  | held
  | blocked
  | parked (kind : Nat) (addr : Nat) (fault : Option Nat)
  | done
  deriving DecidableEq, Repr

/-- A memory, synchronisation, engine or tile node that has fired and not yet sent its result. `left` holds
the pieces of an engine operation still to be moved; `got` the bytes it has captured; `fence` the place of the first sync node
that has completed after it issued (R216 (c)); `issued` the cycle in which it issued. -/
structure Access where
  id : Nat
  i : Instr
  f : Firing
  a : Word256
  b : Word256
  c : Word256
  st : AccSt
  order : Nat
  left : List Nat
  got : List Byte
  result : Word256
  drop : Bool
  age : Nat
  fence : Option Nat
  issued : Nat
  deriving DecidableEq, Repr

/-- A block placed on a core's fabric, or on a cluster's (R181, R198). In the cycle before `injectAt` it injected last, and replicas
below `injectTo` have had their turn in that cycle (R183). `fault` is what the fetch of its pages waits on, at `faultVa` (R80). -/
structure Placed where
  core : Nat
  launch : Nat
  block : Nat
  replicas : List (List Nat)
  resident : Bool
  stopped : Bool
  since : Nat
  fired : Nat
  pointer : Nat
  injectAt : Nat
  injectTo : Nat
  loading : Nat
  yielded : Bool
  stale : Bool
  fault : Option Nat
  faultVa : Nat
  deriving DecidableEq, Repr

/-- The state of a systolic region (R357): `kr = 0` while no configuration is present; W as one packet, or none while it is
zero; the queued activation tiles as packets. -/
structure Region where
  core : Nat
  launch : Nat
  block : Nat
  kr : Nat
  nc : Nat
  fa : Ty
  fw : Ty
  w : List (List Byte)
  tiles : List (List Byte)
  deriving DecidableEq, Repr

/-- A subscription to a stream (R362). -/
structure Sub where
  team : Nat
  ring : Word64
  next : Nat
  deriving DecidableEq, Repr

/-- An open stream of the Trestle (R360). -/
structure Strm where
  team : Nat
  num : Nat
  minsub : Nat
  subs : List Sub
  deriving DecidableEq, Repr

/-! ## The Skim (R105 to R137) -/

/-- The states of a version tag (R109); a tag that has no entry in the table is FREE. -/
inductive TagSt where
  | active | queued | committing | draining | aborting
  deriving DecidableEq, Repr

/-- A version tag in use. -/
structure VTag where
  st : TagSt
  launch : Nat
  team : Option Nat
  parent : Option Nat
  cause : Nat
  charge : Nat
  logged : List Nat
  deriving DecidableEq, Repr

/-- Where a shadow line lives (R136). -/
inductive ShadowAt where
  | l2 (die : Nat) | llc | log
  deriving DecidableEq, Repr

/-- A shadow line of a tag: byte offsets written, with their bytes (R111). -/
structure Shadow where
  vt : Nat
  line : Nat
  place : ShadowAt
  bytes : Tab Byte
  used : Nat
  deriving DecidableEq, Repr

/-- A Skim entry of one conflict unit (R114). -/
structure SkimEntry where
  unit_ : Nat
  len : Nat
  writers : List Nat
  readers : List Nat
  overflow : Bool
  deriving DecidableEq, Repr

/-- A deferred send or discard (R133, R134), in the order its node performed. -/
structure Deferred where
  vt : Nat
  space : Nat
  send : Option (Nat × Word32 × List Byte)
  lines : List Nat
  deriving DecidableEq, Repr

/-- The commit the unit is performing (R121). -/
structure Commit where
  vt : Nat
  walked : List Nat
  deriving DecidableEq, Repr

/-- The Skim (R105 to R137); `words` lists the committed top-level launches whose completion word is to come, in commit
order (R120), `reqAt` the network cycle in which each request reached the unit, `room` the bytes that an entry or a reader set
takes of each home's shadow share (R114; what it holds at reset: DESIGN CHOICE, log 30). -/
structure Skim where
  tags : Tab VTag
  lines : List Shadow
  entries : List SkimEntry
  groups : Tab (List Nat)
  requests : List Nat
  reqAt : Tab Nat
  current : Option Commit
  releasing : List Nat
  words : List Nat
  deferred : List Deferred
  commits : Nat
  conflictN : Nat
  fullN : Nat
  spills : List Nat
  room : List Nat
  deriving DecidableEq, Repr

/-! ## The dispatcher and the placer (R138 to R158) -/

/-- The dispatcher's registers and the save pool (R146, R153). -/
structure Disp where
  preempt : Bool
  migrate : Bool
  hold : Bool
  saveLo : Word32
  saveHi : Word32
  saveSize : BitVec 16
  killQ : BitVec 6
  killAll : Bool
  killBusy : Bool
  killed : List Nat
  killLo : Word32
  killHi : Word32
  preempts : Nat
  replays : Nat
  kills : Nat
  nextOrder : Nat
  nextLaunch : Nat
  nextTeam : Nat
  deriving DecidableEq, Repr

/-- A migration that the placer has begun: the page, the leaf as it was read, and the new frame (R148). -/
structure Move where
  space : Nat
  va : Nat
  leaf : Nat
  frame : Nat
  deriving DecidableEq, Repr

/-- The placer's registers of one die (R149), with the migration to that die that it has begun. -/
structure Placer where
  freeLo : Word32
  freeHi : Word32
  freeLog : BitVec 4
  freeOn : Bool
  freeProd : Word32
  freeCons : Word32
  logLo : Word32
  logHi : Word32
  logLog : BitVec 4
  logOn : Bool
  logProd : Word32
  logCons : Word32
  migrated : Nat
  abandoned : Nat
  badFrame : Nat
  job : Option Move
  deriving DecidableEq, Repr

/-! ## Memory (R68, R201 to R213) -/

/-- What an L1 holds of a line of device memory: read copies of some of its sectors, or the sectors that it
owns; `unit_` is the coherence unit in bytes that the line's page gives it (R208, R209). -/
structure L1Line where
  sectors : BitVec 4
  unit_ : Nat
  owned : BitVec 4
  deriving DecidableEq, Repr

/-- Memory and what the caches hold of it: home memory, dirty bytes of the home die's caches, the remote
store buffers (key die × 2^52 + address), clean copies of remote-homed lines (key die × 2^45 + line),
the cores' clean copies of companion lines (key core × 2^45 + line), the L1 lines of device memory (key core × 2^45 + line), the
cycles of each die's accesses to each 2 MiB frame in the last millisecond (key die × 2^40 + frame, R147), the dirty bits that are clear, and
the 32-byte words that hold an uncorrectable error, with the memory and the die that it arose in (R29). (DESIGN CHOICE, log 5) -/
structure Mem where
  home : List Host.Cell
  comp : List Host.Cell
  dirty : Tab Byte
  rsb : Tab Byte
  copies : Tab (List Byte)
  compCopies : Tab (List Byte)
  l1 : Tab L1Line
  uses : Tab (List Nat)
  clean : Tab Unit
  bad : Tab (Nat × Nat)
  dirtySel : Word32
  latch : Word64
  deriving DecidableEq, Repr

/-- The refusals an Ethernet port answers with (R37, R397). -/
inductive EthAnswer where
  | unsupported | accessError | notReady | nack | ok
  deriving DecidableEq, Repr

/-- What the device has handed to the outside world and not yet had taken: frames of an Ethernet port,
answers on the companion's side, and the alert, which drives ALERT_N, the I3C in-band interrupt and the interrupt in Kamub configuration
space (R64). (DESIGN CHOICE, log 45) -/
inductive Output where
  | ethSend (op space conn : Nat) (tag : Word32) (data : List Byte)
  | ethResponse (port : Nat) (what : EthAnswer)
  | ethRead (port : Nat) (data : List Byte)
  | hello (slot : Nat) (m : Hello)
  | reply (slot : Nat) (m : Hello)
  | finish (slot : Nat) (sig : List Byte)
  | frame (slot seq : Nat) (data : List Byte)
  | companion (data : Option (List Byte))
  | invalidate (line : Nat)
  | alert (raised : Bool)
  deriving DecidableEq, Repr

/-- A posted receive (R397). -/
structure Posted where
  access : Nat
  space : Nat
  conn : Nat
  tag : Word32
  cycle : Nat
  deriving DecidableEq, Repr

/-- What one processing element has fired (R21, R167). (DESIGN CHOICE, log 12) -/
structure PeUse where
  last : Nat
  window : Nat
  used : Nat
  deriving DecidableEq, Repr

/-- A write of the cycle at hand to a window slot or a k register: what the word held before the cycle, which that cycle's firings still
read (R260), the node that wrote it, the bits that it wrote, and their values (R286). -/
structure Wrote where
  kreg : Bool
  key : Nat
  old : Word32
  node : Nat
  mask : Word32
  val : Word32
  deriving DecidableEq, Repr

/-- The core's storage (R186, R203): window slots keyed (crew slot × 64 + row) × 32 + lane with crew slot =
core × 256 + slot; k registers keyed crew slot × 128 + k; scratchpad bytes keyed team × 2^20 + offset;
words whose presence bit is clear keyed team × 2^17 + word; each core's age origin (R170); and for each
processing element the last cycle it fired in, plus one, with its use of the governor's window (R21); `wrote` lists what the
firings of cycle `wroteAt` have written over. -/
structure Core where
  lvs : Tab Word32
  kregs : Tab Word32
  scratch : Tab Byte
  absent : Tab Unit
  ageBase : Tab Nat
  pes : Tab PeUse
  wrote : List Wrote
  wroteAt : Nat
  deriving DecidableEq, Repr

/-- The machine. `scAt` is the network cycle in which the serialising token came to its home and `scLast` the one after that of its last use there (R229), `seams` the units of allowance spent on each seam link (R199), `dawn` the number of the first
token that the cycle at hand has made (R168, R260), `masks` the masks that crew-join nodes have read (R339), `brks` the BRKs that wait for
a THAW (R404), `turns` is the schedule still to run, `half` the network cycle within the fabric cycle (R6), `cur` the firing whose node `exec` runs, `readData` what
the last management read returned, `freeCtr` the number of turns that the surroundings have chosen (log 1). -/
structure State where
  boot : Boot
  gov : Gov
  merr : Merr
  kamub : Kamub
  eth : List EthPort
  ramblers : List Rambler
  spaces : List Space
  queues : List Queue
  xlat : Xlat
  skim : Skim
  disp : Disp
  placers : List Placer
  mem : Mem
  core : Core
  launches : List Launch
  teams : List Team
  threads : Tab Thread
  crews : Tab Crew
  tokens : List Token
  accesses : List Access
  resumed : List Firing
  placed : List Placed
  regions : List Region
  strms : List Strm
  posted : List Posted
  images : List (Nat × Image)
  scToken : Nat
  scWaiting : List Nat
  scAt : Nat
  scLast : Nat
  seams : Tab Nat
  cycles : Nat
  half : Bool
  clock : Nat
  pollAt : Nat
  nextId : Nat
  dawn : Nat
  masks : List JoinMask
  brks : List Broken
  freeCtr : Nat
  turns : List Turn
  late : Bool
  cur : Option Firing
  readData : Word32
  outputs : List Output
  deriving DecidableEq, Repr

/-- Why the machine stops with a fault. It has no constructor: the manual gives every step of the machine an effect, and a turn of
the schedule that can come to nothing passes. -/
inductive Fault where
  deriving DecidableEq, Repr

/-- Why a step is refused. -/
inductive Refusal where
  /-- An instruction whose meaning is not written. Safe: nothing is claimed of it. -/
  | notModelled (mnemonic : String)
  deriving DecidableEq, Repr

/-! ## Reset -/

/-- A Rambler slot with no session (R51). (DESIGN CHOICE, log 3) -/
def Rambler.reset : Rambler :=
  { state := 0, round := 0, err := 0, src := false, space := 0, grace := 0, ports := 0, sent := 0, logLo := 0,
    logHi := 0, logSize := 0, peerAddr := List.replicate 4 0, peerKey := List.replicate 8 0, session := 0,
    secret := [], nonce := [], hello := none, reply := none, key := [], salt := [], seqOut := 0, accepted := [],
    unacked := [], roundSent := 0, roundEnd := false, ended := false, cutAt := none,
    transcript := [], logUsed := 0, begun := false }

/-- The registers of a space after a start (R69, R162, R395). (DESIGN CHOICE, log 3) -/
def Space.reset : Space :=
  { rootLo := 0, rootHi := 0, enable := false, hmLo := 0, hmHi := 0, hmSize := 0, hmCount := 0, hmTrunc := false,
    hmErr := false, ctLo := 0, ctHi := 0, ctCount := 0, sendFail := 0, deferFail := 0, cutOver := false,
    dropEth := false }

/-- An unbound queue (R85). (DESIGN CHOICE, log 3) -/
def Queue.reset : Queue :=
  { baseLo := 0, baseHi := 0, space := 0, prio := 0, logSize := 0, enable := false, err := 0, stopped := false,
    head := 0, tail := 0, needHead := false, fair := 0, elig := false, fault := none, waiting := [] }

/-- The placer's registers of a die (R149). (DESIGN CHOICE, log 3) -/
def Placer.reset : Placer :=
  { freeLo := 0, freeHi := 0, freeLog := 0, freeOn := false, freeProd := 0, freeCons := 0, logLo := 0, logHi := 0,
    logLog := 0, logOn := false, logProd := 0, logCons := 0, migrated := 0, abandoned := 0, badFrame := 0, job := none }

/-- A port that is not trained (R37). (DESIGN CHOICE, log 3) -/
def EthPort.reset : EthPort := { up := false, llr := false, uudDrop := 0, trimRx := 0, refused := 0 }

/-- The management controller's registers after the application of VMGT (R53, R56, R65). (DESIGN CHOICE, log 3) -/
def Boot.reset : Boot :=
  { stage := 0, stageAge := 0, preserveNow := false, carveNow := 0, failed := false, warmStart := false, imageB := false, code := 0, unit_ := 0, preserve := false,
    carve := 0, carved := 0, kept := 0, frozenCmd := false, frozenPin := false, tripped := false,
    selfRefresh := false, vcore := false, released := false, alert := 0, alertEn := 0x3F, meas := List.replicate 8 0,
    measData := List.replicate 64 0, attNonce := List.replicate 32 0, attReport := List.replicate 664 0,
    attIndex := 0, attBusy := false, attErr := false, attJob := none, fwrev := 0, svn := 0, statusAtReady := 0,
    identity := [], dbgSel := 0, dbgSelHi := 0, brk := 0, brkHit := 0, brkNode := 0, i3cAddr := none,
    trained := List.replicate 12 none, dieTemps := List.replicate 4 0, stackTemps := List.replicate 12 0 }

/-- The governor after a start (R24). (DESIGN CHOICE, log 3) -/
def Gov.reset : Gov :=
  { limit := 0x960, duty := 64, causePower := false, causeThermal := false, hot := false, tempMax := 0, power := 0,
    peak := 0, overFor := 0 }

/-- The translation registers after a start (R76). (DESIGN CHOICE, log 3) -/
def Xlat.reset : Xlat :=
  { invLo := 0, invHi := 0, invCtrl := 0, invBusy := false, invErr := false, invHeld := [], invLines := [], invNow := { sp := 0, scope := 0, size := 0, va := 0 }, fqLo := 0, fqHi := 0,
    fqLog := 0, fqEnable := false, badId := false, lost := false, prod := 0, cons := 0, respId := 0, faults := [],
    nextFault := 0, tlb := [] }

/-- The Skim after a start: every tag FREE (R109, R137). (DESIGN CHOICE, log 3) -/
def Skim.reset : Skim :=
  { tags := [], lines := [], entries := [], groups := [], requests := [], reqAt := [], current := none, releasing := [], words := [],
    deferred := [], commits := 0, conflictN := 0, fullN := 0, spills := List.replicate 4 0,
    room := List.replicate 4 64 }

/-- The dispatcher after a start (R146): DISP_CTRL holds 0x3. (DESIGN CHOICE, log 3) -/
def Disp.reset : Disp :=
  { preempt := true, migrate := true, hold := false, saveLo := 0, saveHi := 0, saveSize := 0, killQ := 0,
    killAll := false, killBusy := false, killed := [], killLo := 0, killHi := 0, preempts := 0, replays := 0,
    kills := 0, nextOrder := 0, nextLaunch := 0, nextTeam := 0 }

/-- Memory with nothing listed, every dirty bit set (R39) and no cached copy. (DESIGN CHOICE, log 3) (DESIGN CHOICE, log 4) -/
def Mem.reset : Mem :=
  { home := [], comp := [], dirty := [], rsb := [], copies := [], compCopies := [], l1 := [], uses := [], clean := [], bad := [],
    dirtySel := 0, latch := 0 }

/-- The machine right after the application of VMGT: stage 0 of a cold start (R53, R56). (DESIGN CHOICE, log 3) -/
def State.reset : State :=
  { boot := Boot.reset, gov := Gov.reset,
    merr := { ce := 0, ue := 0, ueValid := false, source := 0, die := 0, addr := 0 },
    kamub := { up := 0, down := 0, retries := List.replicate 4 0, retryCount := 0, linkAborts := 0, copies := [],
               backed := [], held := [] },
    eth := List.replicate 16 EthPort.reset, ramblers := List.replicate 4 Rambler.reset,
    spaces := List.replicate 64 Space.reset, queues := List.replicate 64 Queue.reset, xlat := Xlat.reset,
    skim := Skim.reset, disp := Disp.reset, placers := List.replicate 4 Placer.reset, mem := Mem.reset,
    core := { lvs := [], kregs := [], scratch := [], absent := [], ageBase := [], pes := [], wrote := [], wroteAt := 0 },
    launches := [], teams := [], threads := [], crews := [], tokens := [], accesses := [], resumed := [],
    placed := [], regions := [], strms := [], posted := [], images := [], scToken := 0, scWaiting := [], scAt := 0, scLast := 0, seams := [],
    cycles := 0, half := false, clock := 0, pollAt := 0, nextId := 0, dawn := 0, masks := [], brks := [], freeCtr := 0, turns := [], late := false, cur := none,
    readData := 0, outputs := [] }

end Sys2Proof.Machine
end

