-- ==== Sys2Proof/Machine/Tab.lean ====
section
/-! DEFINITION. Operations on sparse tables and lists, and the byte order of R5. -/

namespace Sys2Proof.Machine

/-- The value at a key, if the table lists one. -/
def tabFind {α : Type} : Tab α → Nat → Option α
  | [], _ => none
  | (k, v) :: t, x => if k = x then some v else if x < k then none else tabFind t x

/-- The value at a key, or the default of an unlisted key. -/
def tabGet {α : Type} (d : α) (t : Tab α) (x : Nat) : α := (tabFind t x).getD d

/-- Lists a value at a key. -/
def tabPut {α : Type} : Tab α → Nat → α → Tab α
  | [], x, v => [(x, v)]
  | (k, w) :: t, x, v =>
    if k = x then (x, v) :: t else if x < k then (x, v) :: (k, w) :: t else (k, w) :: tabPut t x v

/-- Unlists a key. -/
def tabDel {α : Type} : Tab α → Nat → Tab α
  | [], _ => []
  | (k, w) :: t, x => if k = x then t else if x < k then (k, w) :: t else (k, w) :: tabDel t x

/-- Writes a value where unlisted keys read as `d`: writing `d` unlists the key. -/
def tabSet {α : Type} [DecidableEq α] (d : α) (t : Tab α) (x : Nat) (v : α) : Tab α :=
  if v = d then tabDel t x else tabPut t x v

/-- Changes a listed value. -/
def tabMod {α : Type} (t : Tab α) (x : Nat) (f : α → α) : Tab α :=
  match tabFind t x with
  | some v => tabPut t x (f v)
  | none => t

/-- Keys strictly rise, each above `b`. -/
def tabAbove {α : Type} : Nat → Tab α → Bool
  | _, [] => true
  | b, (k, _) :: t => decide (b < k) && tabAbove k t

/-- The canonical form of a table: strictly rising keys. -/
def tabWf {α : Type} : Tab α → Bool
  | [] => true
  | (k, _) :: t => tabAbove k t

/-- A memory's canonical form: strictly rising addresses, and no entry that an unlisted address reads as. -/
def memWf (m : List (Nat × Byte)) : Bool := tabWf m && m.all (fun e => decide (e.2 ≠ 0))

/-- Unlists every key of `[lo, lo + n)`. -/
def tabClear {α : Type} (t : Tab α) (lo n : Nat) : Tab α := t.filter (fun e => e.1 < lo || lo + n ≤ e.1)

/-- Replaces the element at an index. -/
def listMod {α : Type} : List α → Nat → (α → α) → List α
  | [], _, _ => []
  | x :: t, 0, f => f x :: t
  | x :: t, n + 1, f => x :: listMod t n f

/-- Changes every element that satisfies `p`. -/
def modWhere {α : Type} (p : α → Bool) (f : α → α) (l : List α) : List α := l.map (fun x => if p x then f x else x)

/-- Adds a number to a set kept as a list without repeats. -/
def insertNew (x : Nat) (l : List Nat) : List Nat := if l.contains x then l else l ++ [x]

/-- Applies a state change for each element in turn. -/
def each {α σ : Type} (f : α → σ → σ) : List α → σ → σ
  | [], s => s
  | x :: t, s => each f t (f x s)

/-- Addition that saturates (counters of the management space). -/
def satAdd (top n k : Nat) : Nat := Nat.min top (n + k)

/-- The bytes of a value, lowest address first (R5). -/
def toBytes : Nat → Nat → List Byte
  | 0, _ => []
  | n + 1, v => BitVec.ofNat 8 v :: toBytes n (v / 256)

/-- The value of bytes, lowest address first (R5). -/
def ofBytes : List Byte → Nat
  | [] => 0
  | b :: t => b.toNat + 256 * ofBytes t

/-- Bytes [hi:lo] of a record, as the record tables name them. -/
def field (r : List Byte) (lo n : Nat) : Nat := ofBytes ((r.drop lo).take n)

/-- Bit `i` of a number. -/
def bit (v i : Nat) : Bool := v.testBit i

/-- Bits [hi:lo] of a number (R10's `field_64`). -/
def bits (v hi lo : Nat) : Nat := (v >>> lo) % 2 ^ (hi + 1 - lo)

/-- A truth value as a bit. -/
def boolBit (b : Bool) (i : Nat) : Nat := if b then 2 ^ i else 0

/-- Are these bytes all zero? -/
def allZero (l : List Byte) : Bool := l.all (· == 0)

/-- `n` rounded up to a multiple of `m`. -/
def roundUp (n m : Nat) : Nat := (n + m - 1) / m * m

/-- Pads a byte list with zeros to exactly `n` bytes. (DESIGN CHOICE, log 6) -/
def padTo (n : Nat) (l : List Byte) : List Byte := (l ++ List.replicate (n - l.length) 0).take n

/-- Inserts into a list sorted by a key, after equal keys. -/
def insertBy {α : Type} (key : α → Nat) (x : α) : List α → List α
  | [] => [x]
  | y :: t => if key x < key y then x :: y :: t else y :: insertBy key x t

/-- A stable sort by a key. -/
def sortBy {α : Type} (key : α → Nat) (l : List α) : List α := l.foldr (fun x acc => insertBy' key x acc) []
where
  /-- Inserts before equal keys, so that the fold keeps their order. -/
  insertBy' {α : Type} (key : α → Nat) (x : α) : List α → List α
  | [] => [x]
  | y :: t => if key x ≤ key y then x :: y :: t else y :: insertBy' key x t

/-- The element with the least key, the first of equals. -/
def leastBy {α : Type} (key : α → Nat) : List α → Option α
  | [] => none
  | x :: t =>
    match leastBy key t with
    | some y => if key y < key x then some y else some x
    | none => some x

end Sys2Proof.Machine
end

