-- ==== Sys2Proof/Machine/Record.lean ====
section
/-! DEFINITION. The launch record of R89 and the image header of R95, read field by field from their bytes. -/

namespace Sys2Proof.Machine

/-! ## Launch record (R89) -/

def lrFormat (r : List Byte) : Nat := field r 0 2
def lrPrio (r : List Byte) : Nat := field r 2 1
def lrFlags (r : List Byte) : Nat := field r 3 1
/-- MODE: true for REPLAY. -/
def lrReplay (r : List Byte) : Bool := bit (lrFlags r) 0
/-- GRAN: true for TEAM. -/
def lrTeamGran (r : List Byte) : Bool := bit (lrFlags r) 1
def lrOrder (r : List Byte) : Bool := bit (lrFlags r) 2
def lrCrewW (r : List Byte) : Nat := field r 4 1
def lrAffin (r : List Byte) : Nat := field r 5 1
def lrImage (r : List Byte) : Nat := field r 8 8
def lrParam (r : List Byte) : Nat := field r 16 8
def lrTeams (r : List Byte) : Nat := field r 24 4
def lrTeamSz (r : List Byte) : Nat := field r 28 2
def lrWsRows (r : List Byte) : Nat := field r 30 2
def lrWsBase (r : List Byte) : Nat := field r 32 8
def lrWsSlots (r : List Byte) : Nat := field r 40 4
def lrTokBytes (r : List Byte) : Nat := field r 44 4
def lrTokBase (r : List Byte) : Nat := field r 48 8
def lrShBudget (r : List Byte) : Nat := field r 56 8
def lrShLog (r : List Byte) : Nat := field r 64 8
def lrDeadline (r : List Byte) : Nat := field r 72 8
def lrSeed (r : List Byte) : Nat := field r 80 8
def lrDone (r : List Byte) : Nat := field r 88 8
def lrReport (r : List Byte) : Nat := field r 96 8
/-- The hang interval in cycles; 0 selects 1,048,576. -/
def lrHang (r : List Byte) : Nat := if field r 104 4 = 0 then 1048576 else field r 104 4
def lrCookie (r : List Byte) : Nat := field r 112 8
def lrDepAddr (r : List Byte) (i : Nat) : Nat := field r (128 + 24 * i) 8
def lrDepVal (r : List Byte) (i : Nat) : Nat := field r (136 + 24 * i) 8
def lrDepMode (r : List Byte) (i : Nat) : Nat := field r (144 + 24 * i) 1

/-- The reserved bytes and bits of R89 are zero. -/
def lrReservedOk (r : List Byte) : Bool :=
  field r 6 2 = 0 && lrFlags r < 8 && field r 108 4 = 0 && field r 120 8 = 0 && allZero ((r.drop 224).take 32) &&
  (List.range 4).all (fun i => allZero ((r.drop (145 + 24 * i)).take 7))

/-- The limits and alignments of R89 and R90 that need no image, an LR_TEAMSZ above 1,024 among them. (DEDUCED, log 28) -/
def lrLimitsOk (r : List Byte) : Bool :=
  lrFormat r = 1 && lrPrio r ≤ 3 && lrCrewW r ≤ 3 && lrAffin r ≤ 2 && lrReservedOk r &&
  lrImage r % 256 = 0 && lrParam r % 64 = 0 && 1 ≤ lrTeams r && 1 ≤ lrTeamSz r && lrTeamSz r ≤ 1024 &&
  lrWsBase r % 4096 = 0 && 1 ≤ lrWsSlots r && lrWsSlots r ≤ 40960 && lrTokBytes r % 4096 = 0 && lrTokBase r % 4096 = 0 &&
  lrShBudget r % 4096 = 0 && lrShLog r % 4096 = 0 && lrReport r % 64 = 0 &&
  (List.range 4).all (fun i => lrDepMode r i ≤ 2 && (lrDepMode r i = 0 || lrDepAddr r i % 8 = 0))

/-- The limits that a child record must meet (R399, R400): only the fields a child uses. -/
def lrChildOk (r : List Byte) : Bool :=
  lrFormat r = 1 && lrFlags r < 8 && lrCrewW r ≤ 3 && lrAffin r ≤ 2 && lrImage r % 256 = 0 && lrParam r % 64 = 0 &&
  1 ≤ lrTeams r && 1 ≤ lrTeamSz r && lrTeamSz r ≤ 1024 && lrWsBase r % 4096 = 0 && 1 ≤ lrWsSlots r && lrWsSlots r ≤ 40960

/-- The effective crew width of R101, from LR_CREWW and CB_CREWW. -/
def effWidth (lr cb : Nat) : Nat :=
  let c := if lr ≠ 0 then lr else cb
  if c = 1 then 16 else if c = 3 then 64 else 32

/-- The hardware crews that a team of `n` threads takes: two for each logical crew of width 64 (R89, R101, R104). -/
def hwCrews (width n : Nat) : Nat := if width = 64 then 2 * ((n + 63) / 64) else (n + 31) / 32

end Sys2Proof.Machine
end

