-- ==== Sys2Proof/Machine/Ops.lean ====
section
/-! DEFINITION. The operations every meaning is built from: looking things up, memory and its caches, address
translation and its faults, the Skim's shadows, and ending a transaction on a cause (R125, R163 to R165). -/

namespace Sys2Proof.Machine

/-! ## Looking things up -/

def launch? (s : State) (id : Nat) : Option Launch := s.launches.find? (·.id == id)
def modLaunch (id : Nat) (f : Launch → Launch) (s : State) : State :=
  { s with launches := modWhere (·.id == id) f s.launches }
def team? (s : State) (key : Nat) : Option Team := s.teams.find? (·.key == key)
def modTeam (key : Nat) (f : Team → Team) (s : State) : State :=
  { s with teams := modWhere (·.key == key) f s.teams }
def thread? (s : State) (t : Nat) : Option Thread := tabFind s.threads t
def modThread (t : Nat) (f : Thread → Thread) (s : State) : State := { s with threads := tabMod s.threads t f }
def space (s : State) (n : Nat) : Space := s.spaces.getD n Space.reset
def modSpace (n : Nat) (f : Space → Space) (s : State) : State := { s with spaces := listMod s.spaces n f }
def queue (s : State) (n : Nat) : Queue := s.queues.getD n Queue.reset
def modQueue (n : Nat) (f : Queue → Queue) (s : State) : State := { s with queues := listMod s.queues n f }
def access? (s : State) (id : Nat) : Option Access := s.accesses.find? (·.id == id)
def modAccess (id : Nat) (f : Access → Access) (s : State) : State :=
  { s with accesses := modWhere (·.id == id) f s.accesses }
def dropAccess (id : Nat) (s : State) : State := { s with accesses := s.accesses.filter (·.id != id) }
def tag? (s : State) (vt : Nat) : Option VTag := tabFind s.skim.tags vt
def modTag (vt : Nat) (f : VTag → VTag) (s : State) : State :=
  { s with skim := { s.skim with tags := tabMod s.skim.tags vt f } }
def placed? (s : State) (l b core : Nat) : Option Placed :=
  s.placed.find? (fun p => p.launch == l && p.block == b && p.core == core)

/-- Changes one shadow line of a tag. -/
def modShadow (vt line : Nat) (f : Shadow → Shadow) (s : State) : State :=
  { s with skim := { s.skim with lines := modWhere (fun l => l.vt == vt && l.line == line) f s.skim.lines } }

/-- Core, hardware crew slot (core × 256 + slot) and lane of a thread (R170). -/
def coreOf (t : Nat) : Nat := t / 8192
def crewOf (t : Nat) : Nat := t / 32
def laneOf (t : Nat) : Nat := t % 32
/-- `sr.die` of a core (R12). -/
def dieOf (core : Nat) : Nat := core / 40
def clusterOf (core : Nat) : Nat := core / 4

/-- The top-level launch of a launch (nesting is at most 10 deep, R1). -/
def topOf (s : State) (id : Nat) : Nat :=
  go 11 id
where
  go : Nat → Nat → Nat
  | 0, i => i
  | k + 1, i =>
    match launch? s i with
    | some l => match l.parent with | some p => go k p | none => i
    | none => i

/-- The launches created by a launch, directly or not. -/
def descendants (s : State) (id : Nat) : List Nat :=
  go 11 [id]
where
  go : Nat → List Nat → List Nat
  | 0, _ => []
  | k + 1, ids =>
    let kids := (s.launches.filter (fun l => match l.parent with | some p => ids.contains p | none => false)).map (·.id)
    if kids.isEmpty then [] else kids ++ go k kids

/-- The tag of a thread's transaction: its launch's, or its team's under GRAN = TEAM (R108, R127). -/
def vtOf (s : State) (launchId teamKey : Nat) : Option Nat :=
  match launch? s launchId with
  | some l => match l.vt with
    | some v => some v
    | none => (team? s teamKey).bind (·.vt)
  | none => none

/-- A tag and its ancestors', nearest first (R106, R128). -/
def tagChain (s : State) (vt : Nat) : List Nat :=
  go 11 vt
where
  go : Nat → Nat → List Nat
  | 0, v => [v]
  | k + 1, v => match (tag? s v).bind (·.parent) with | some p => v :: go k p | none => [v]

def freeTags (s : State) : Nat := 1024 - s.skim.tags.length
/-- The FREE tag that a launch or team takes (R108): the lowest. (DESIGN CHOICE, log 52) -/
def pickTag (s : State) : Option Nat := (List.range 1024).find? (fun v => (tag? s v).isNone)

/-! ## The physical map (R16, R31, R68) -/

/-- What backs a physical address. -/
inductive Backing where
  | hbm (stack : Nat) | carve (die : Nat) | companion | hole
  deriving DecidableEq, Repr

def backing (s : State) (pa : Nat) : Backing :=
  if pa < 0xC000000000 then (if pa % 0x1000000000 < 0xC00000000 then .hbm (pa / 0x1000000000) else .hole)
  else if 0x10000000000 ≤ pa ∧ pa < 0x10080000000 then
    let d := (pa - 0x10000000000) / 0x20000000
    if (pa - 0x10000000000) % 0x20000000 < s.boot.carved * 0x4000000 then .carve d else .hole
  else if 0x8000000000000 ≤ pa ∧ pa < 0x10000000000000 then .companion
  else .hole

/-- The home die of a device address (R207). -/
def homeDie (pa : Nat) : Nat :=
  if pa < 0xC000000000 then pa / 0x1000000000 / 3 else (pa - 0x10000000000) / 0x20000000

/-- Is this companion address backed (R31)? (DESIGN CHOICE, log 15) -/
def compBacked (s : State) (pa : Nat) : Bool :=
  s.kamub.backed.any (fun r => decide (r.1 ≤ pa % 2 ^ 51 ∧ pa % 2 ^ 51 < r.1 + r.2))

/-- Does the companion answer for this address (R31, R35)? (DESIGN CHOICE, log 15) (DEDUCED, log 24) -/
def linkOk (s : State) (pa : Nat) : Bool := compBacked s pa && s.kamub.up != 0

/-- Can a byte be had at a physical address: is it the device's, or does the companion answer for it (R31)? -/
def reachable (s : State) (pa : Nat) : Bool := decide (pa < 2 ^ 51) || linkOk s pa

/-- The dirty bit of an address (R38). -/
def dirtyIndex (pa : Nat) : Nat :=
  if pa < 0xC000000000 then pa / 0x1000000000 * 12582912 + pa % 0x1000000000 / 4096
  else 150994944 + (pa - 0x10000000000) / 0x20000000 * 131072 + (pa - 0x10000000000) % 0x20000000 / 4096

/-- Sets the dirty bit of an address's 4 KiB page (R40). -/
def setDirty (pa : Nat) (s : State) : State :=
  { s with mem := { s.mem with clean := tabDel s.mem.clean (dirtyIndex pa) } }

/-- A word of the dirty bitmap (R38, R41). -/
def dirtyWord (s : State) (w : Nat) : Nat :=
  if 2367488 ≤ w then 0
  else ((List.range 64).map (fun i => boolBit (tabFind s.mem.clean (64 * w + i)).isNone i)).sum

/-! ## Bytes of memory -/

/-- A byte that the companion has modified in its own copy of a line (R32). -/
def compDirtyByte (s : State) (pa : Nat) : Option Byte :=
  match s.kamub.copies.find? (·.line == pa / 128) with
  | some c => c.dirty.map (fun l => l.getD (pa % 128) 0)
  | none => none

/-- A byte of a transaction's shadow (R111). -/
def shadowByte (s : State) (vt pa : Nat) : Option Byte :=
  match s.skim.lines.find? (fun l => l.vt == vt && l.line == pa / 128) with
  | some l => tabFind l.bytes (pa % 128)
  | none => none

/-- A byte of a committed line that has not drained (R123, R136). -/
def drainingByte (s : State) (pa : Nat) : Option Byte :=
  (s.skim.lines.find? (fun l => l.line == pa / 128 && (tabFind l.bytes (pa % 128)).isSome &&
    (match tag? s l.vt with | some g => g.st == .draining | none => false))).bind (fun l => tabFind l.bytes (pa % 128))

/-- The committed value of a byte of device memory at system scope, as the walker, the companion and every home
reads it (R32 (a), R75, R123). (DESIGN CHOICE, log 4) (DESIGN CHOICE, log 5) -/
def homeByte (s : State) (pa : Nat) : Byte :=
  match compDirtyByte s pa with
  | some b => b
  | none => match drainingByte s pa with
    | some b => b
    | none => match tabFind s.mem.dirty pa with
      | some b => b
      | none => tabGet 0 s.mem.home pa

/-- A byte as the home LLC holds it, without the dirty lines above it: what UET read requests and the debug
window take (R233). (DEDUCED, log 24) -/
def atHomeByte (s : State) (pa : Nat) : Byte :=
  match drainingByte s pa with
  | some b => b
  | none => tabGet 0 s.mem.home pa

/-- Committed memory as one die sees it: its remote store buffer, then its clean copy, then the home
(R211, R221, R225). (DESIGN CHOICE, log 5) -/
def dieByte (s : State) (die pa : Nat) : Byte :=
  match tabFind s.mem.rsb (die * 2 ^ 52 + pa) with
  | some b => b
  | none => match tabFind s.mem.copies (die * 2 ^ 45 + pa / 128) with
    | some l => l.getD (pa % 128) 0
    | none => homeByte s pa

/-- A byte of companion memory as one core sees it (R34, R213). (DESIGN CHOICE, log 4) (DESIGN CHOICE, log 5) -/
def compByte (s : State) (core pa : Nat) : Byte :=
  match tabFind s.mem.compCopies (core * 2 ^ 45 + pa / 128) with
  | some l => l.getD (pa % 128) 0
  | none => tabGet 0 s.mem.comp pa

/-- The first source of R106 that holds the byte: the given shadows in order, then committed memory (R225,
R232). -/
def readByte (s : State) (die : Nat) (vts : List Nat) (pa : Nat) : Byte :=
  match vts.findSome? (fun v => shadowByte s v pa) with
  | some b => b
  | none => dieByte s die pa

/-- `n` bytes at system scope from a physical address. -/
def readHome (s : State) (pa n : Nat) : List Byte :=
  (List.range n).map (fun i => if 2 ^ 51 ≤ pa then tabGet 0 s.mem.comp (pa + i) else homeByte s (pa + i))

/-- A committed write supersedes bytes of committed lines that have not drained. -/
def supersede (pa : Nat) (s : State) : State :=
  { s with skim := { s.skim with lines := s.skim.lines.map (fun l =>
      if l.line == pa / 128 && (match tag? s l.vt with | some g => g.st == .draining | none => false)
      then { l with bytes := tabDel l.bytes (pa % 128) } else l) } }

/-- The companion gives a line back; what it had modified becomes the committed value (R32 (c)). -/
def recallLine (line : Nat) (s : State) : State :=
  match s.kamub.copies.find? (·.line == line) with
  | none => s
  | some c =>
    let s := { s with kamub := { s.kamub with copies := s.kamub.copies.filter (·.line != line) },
                      outputs := s.outputs ++ [.invalidate line] }
    match c.dirty with
    | none => s
    | some l =>
      (List.range 128).foldl (fun s i =>
        let s := supersede (128 * line + i) s
        setDirty (128 * line) { s with mem := { s.mem with
          home := tabSet 0 s.mem.home (128 * line + i) (l.getD i 0),
          dirty := tabDel s.mem.dirty (128 * line + i) } }) s

/-- A write to an address discards every cached verdict that came from its frame and marks the blocks being fetched from
it (R79, R100). (DEDUCED, log 10) -/
def dropVerdicts (pa : Nat) (s : State) : State :=
  let hit (m : Image) : Bool := m.frames.contains (pa / 4096)
  if s.images.any (fun e => hit e.2) || s.launches.any (fun l => hit l.image) then
    { s with images := s.images.filter (fun e => !hit e.2),
             placed := s.placed.map (fun p =>
               if !p.resident && (match launch? s p.launch with | some l => hit l.image | none => false)
               then { p with stale := true } else p) }
  else s

/-- One byte performed at its home (LLC): the home value changes, dirty copies above it and clean copies of
the writer's own coherence unit give way, the dirty bit is set (R40, R210). (DESIGN CHOICE, log 5) -/
def writeHomeByte (pa : Nat) (b : Byte) (s : State) : State :=
  let s := recallLine (pa / 128) (dropVerdicts pa (supersede pa s))
  setDirty pa { s with mem := { s.mem with home := tabSet 0 s.mem.home pa b, dirty := tabDel s.mem.dirty pa } }

/-- One byte performed in the home die's caches, not yet in home memory (R208, R210). (DESIGN CHOICE, log 5) -/
def writeL2Byte (pa : Nat) (b : Byte) (s : State) : State :=
  let s := recallLine (pa / 128) (dropVerdicts pa (supersede pa s))
  setDirty pa { s with mem := { s.mem with dirty := tabPut s.mem.dirty pa b } }

/-- One byte gathered in a die's remote store buffer (R211 (b)); the die's own clean copy gives way. (DESIGN CHOICE, log 5) -/
def writeRsbByte (die pa : Nat) (b : Byte) (s : State) : State :=
  { s with mem := { s.mem with rsb := tabPut s.mem.rsb (die * 2 ^ 52 + pa) b,
                               copies := tabDel s.mem.copies (die * 2 ^ 45 + pa / 128) } }

/-- A byte of companion memory, performed at the companion (R34); no core keeps an older copy of its line, so that a read which happens
after the write finds it (R221, R225). (DESIGN CHOICE, log 5) -/
def writeCompByte (pa : Nat) (b : Byte) (s : State) : State :=
  let s := dropVerdicts pa s
  { s with mem := { s.mem with comp := tabSet 0 s.mem.comp pa b,
                               compCopies := s.mem.compCopies.filter (fun e => e.1 % 2 ^ 45 != pa / 128) } }

/-- A write that covers a whole 32-byte word clears its uncorrectable error (R29 (c)). (DEDUCED, log 23) -/
def healWords (pa n : Nat) (s : State) : State :=
  { s with mem := { s.mem with bad := s.mem.bad.filter (fun e => !decide (pa ≤ 32 * e.1 ∧ 32 * e.1 + 32 ≤ pa + n)) } }

/-- The uncorrectable error of a line that the range touches: its 32-byte word, with the memory and the die that it arose in
(R29 (c), R30). (DEDUCED, log 23) -/
def badAt (s : State) (pa n : Nat) : Option (Nat × Nat × Nat) :=
  s.mem.bad.find? (fun e => decide (e.1 / 4 * 128 < pa + n ∧ pa < e.1 / 4 * 128 + 128))

/-- The same for a core of a die: a word that the die's remote store buffer covers whole holds what was written (R29 (c), R211 (b)). -/
def badSeen (s : State) (die pa n : Nat) : Option (Nat × Nat × Nat) :=
  s.mem.bad.find? (fun e => decide (e.1 / 4 * 128 < pa + n ∧ pa < e.1 / 4 * 128 + 128) &&
    !(List.range 32).all (fun i => (tabFind s.mem.rsb (die * 2 ^ 52 + 32 * e.1 + i)).isSome))

/-! ## The L1s of device memory (R208 to R210) -/

/-- The lines that the L1 of a core holds, of device memory and of companion memory. -/
def l1Lines (s : State) (core : Nat) : Nat :=
  (s.mem.l1.filter (fun e => e.1 / 2 ^ 45 == core)).length + (s.mem.compCopies.filter (fun e => e.1 / 2 ^ 45 == core)).length

/-- Room for one more line in an L1 of 1,536 KiB, which is 12,288 lines: with every line in use the first listed gives way (R1). (DESIGN
CHOICE, log 5) -/
def l1Room (core : Nat) (s : State) : State :=
  if l1Lines s core < 12288 then s
  else match s.mem.l1.find? (fun e => e.1 / 2 ^ 45 == core), s.mem.compCopies.find? (fun e => e.1 / 2 ^ 45 == core) with
    | some e, _ => { s with mem := { s.mem with l1 := tabDel s.mem.l1 e.1 } }
    | none, some e => { s with mem := { s.mem with compCopies := tabDel s.mem.compCopies e.1 } }
    | none, none => s

/-- What a write to a range leaves of an L1 line: the sectors, or the whole coherence unit, that it touches go (R209, R210). -/
def l1Cut (pa n line : Nat) (l : L1Line) : Option L1Line :=
  if l.unit_ = 32 then
    let kept := (List.range 4).filter (fun k => bit l.sectors.toNat k && !decide (128 * line + 32 * k < pa + n ∧ pa < 128 * line + 32 * k + 32))
    let left := BitVec.ofNat 4 ((kept.map (2 ^ ·)).sum)
    if kept.isEmpty then none else some { l with sectors := left, owned := l.owned &&& left }
  else
    let size := Nat.max 128 l.unit_
    let base := 128 * line / size * size
    if base < pa + n ∧ pa < base + size then none else some l

/-- The L1s of some cores lose the coherence units that a write touches (R210). -/
def l1Invalidate (cores : Nat → Bool) (pa n : Nat) (s : State) : State :=
  { s with mem := { s.mem with l1 := s.mem.l1.filterMap (fun e =>
      if cores (e.1 / 2 ^ 45) then (l1Cut pa n (e.1 % 2 ^ 45) e.2).map (fun l => (e.1, l)) else some e) } }

/-- What a recall of a sector leaves of an L1's ownership: of a unit of one sector the others stay owned (R209). -/
def l1Share (pa line : Nat) (l : L1Line) : L1Line :=
  match l1Cut (pa / 32 * 32) 32 line l with
  | some k => { l with owned := l.owned &&& k.owned }
  | none => { l with owned := 0 }

/-- The directory recalls what another L1 of the die owns of a coherence unit: what it holds goes to the L2 and the unit is shared
(R208 to R210). -/
def l1Recall (core pa : Nat) (s : State) : State :=
  { s with mem := { s.mem with l1 := s.mem.l1.map (fun e =>
      let c := e.1 / 2 ^ 45
      if c != core && dieOf c == dieOf core then (e.1, l1Share pa (e.1 % 2 ^ 45) e.2) else e) } }

/-- A core's L1 takes a read copy of some sectors of the line of an address (R208). -/
def l1Take (core pa pte : Nat) (sectors : BitVec 4) (s : State) : State :=
  let s := l1Recall core pa s
  let k := core * 2 ^ 45 + pa / 128
  let s := if (tabFind s.mem.l1 k).isSome then s else l1Room core s
  let grain := if bits pte 8 7 = 1 then 32 else if bits pte 8 7 = 2 then 512 else 128
  let l := (tabFind s.mem.l1 k).getD { sectors := 0, unit_ := grain, owned := 0 }
  { s with mem := { s.mem with l1 := tabPut s.mem.l1 k { l with sectors := l.sectors ||| sectors } } }

/-- A core's L1 takes a read copy of the 32-byte sector of an address (R208). -/
def l1Fill (core pa pte : Nat) (s : State) : State := l1Take core pa pte (1#4 <<< (pa % 128 / 32)) s

/-- The entries that a core's L1 owns once it owns the coherence unit of an address: of a unit of one sector that sector, of one line its
four, and of four lines each line, those without data too (R209). -/
def l1Owned (core pa : Nat) (t : Tab L1Line) : Tab L1Line :=
  match tabFind t (core * 2 ^ 45 + pa / 128) with
  | none => t
  | some l =>
    if l.unit_ = 32 then tabPut t (core * 2 ^ 45 + pa / 128) { l with owned := l.owned ||| (1#4 <<< (pa % 128 / 32)) }
    else
      let n := Nat.max 1 (l.unit_ / 128)
      (List.range n).foldl (fun t i =>
        let k := core * 2 ^ 45 + pa / 128 / n * n + i
        tabPut t k { sectors := ((tabFind t k).map (·.sectors)).getD 0, unit_ := l.unit_, owned := 15 }) t

/-- A core's L1 obtains ownership of a local line's coherence unit (R208, R209); a line of another die stays a read copy. -/
def l1Own (core pa pte : Nat) (s : State) : State :=
  if homeDie pa ≠ dieOf core then s
  else
    let s := l1Fill core pa pte (l1Invalidate (fun c => c != core && dieOf c == dieOf core) (pa / 32 * 32) 32 s)
    { s with mem := { s.mem with l1 := l1Owned core pa s.mem.l1 } }

/-- An access of a core to a frame counts for the placer, which looks back one millisecond (R147). -/
def countUse (core pa : Nat) (s : State) : State :=
  if 2 ^ 51 ≤ pa then s
  else
    let k := dieOf core * 2 ^ 40 + pa / 2 ^ 21
    let l := ((tabFind s.mem.uses k).getD []).filter (fun t => decide (s.cycles < t + 700000))
    { s with mem := { s.mem with uses := tabPut s.mem.uses k (s.cycles :: l) } }

/-- The accesses that a die has made to a frame in the last millisecond (R147). -/
def usesOf (s : State) (die frame : Nat) : Nat :=
  (((tabFind s.mem.uses (die * 2 ^ 40 + frame / 2 ^ 21)).getD []).filter (fun t => decide (s.cycles < t + 700000))).length

/-- Applies a byte write over consecutive addresses. -/
def writeRun (w : Nat → Byte → State → State) : Nat → List Byte → State → State
  | _, [], s => s
  | pa, b :: t, s => writeRun w (pa + 1) t (w pa b s)

/-- System and device agents' writes: at the home, or at the companion (R40, R91); one that the companion does not answer for changes nothing
(R31). (DESIGN CHOICE, log 51) -/
def writeSys (pa : Nat) (data : List Byte) (s : State) : State :=
  if !reachable s pa then s
  else healWords pa data.length
    (if 2 ^ 51 ≤ pa then writeRun writeCompByte pa data s
     else l1Invalidate (fun c => dieOf c == homeDie pa) pa data.length (writeRun writeHomeByte pa data s))

/-- The 32-byte words of a line that these bytes, given by their offsets, cover whole are healed (R29 (c)). -/
def healCovered (line : Nat) (covered : Nat → Bool) (s : State) : State :=
  ([0, 1, 2, 3].filter (fun w => (List.range 32).all (fun i => covered (32 * w + i)))).foldl
    (fun s w => healWords (128 * line + 32 * w) 32 s) s

/-- The remote store buffer entry of a line takes its place at the home, and the die keeps no older copy of the line
(R211 (b), R221, R225). (DESIGN CHOICE, log 5) -/
def rsbDrain (die line : Nat) (s : State) : State :=
  let k := die * 2 ^ 52 + 128 * line
  let es := s.mem.rsb.filter (fun e => decide (k ≤ e.1 ∧ e.1 < k + 128))
  if es.isEmpty then s
  else
    healCovered line (fun i => es.any (fun e => e.1 == k + i))
      (es.foldl (fun s e => writeHomeByte (e.1 % 2 ^ 52) e.2 s)
        (l1Invalidate (fun c => dieOf c == die || dieOf c == homeDie (128 * line)) (128 * line) 128
          { s with mem := { s.mem with rsb := tabClear s.mem.rsb k 128, copies := tabDel s.mem.copies (die * 2 ^ 45 + line) } }))

/-- The lines that a die's remote store buffer holds. -/
def rsbLines (s : State) (die : Nat) : List Nat :=
  ((s.mem.rsb.filter (fun e => e.1 / 2 ^ 52 == die)).map (fun e => e.1 % 2 ^ 52 / 128)).eraseDups

/-- Everything that the remote store buffers of these dies hold takes its place (R220, R231). -/
def drainDies (dies : List Nat) (s : State) : State :=
  dies.foldl (fun s d => (rsbLines s d).foldl (fun s l => rsbDrain d l s) s) s

/-- Is this entry of the L1s a copy of a remote-homed line on one of these dies? -/
def l1Remote (dies : List Nat) (k : Nat) : Bool := dies.contains (dieOf (k / 2 ^ 45)) && homeDie (128 * (k % 2 ^ 45)) != dieOf (k / 2 ^ 45)

/-- These dies drop their clean copies of remote-homed lines, and their cores those of companion lines (R220, R231). -/
def dropDies (dies : List Nat) (s : State) : State :=
  { s with mem := { s.mem with l1 := s.mem.l1.filter (fun e => !l1Remote dies e.1),
                               copies := s.mem.copies.filter (fun e => !dies.contains (e.1 / 2 ^ 45)),
                               compCopies := s.mem.compCopies.filter (fun e => !dies.contains (dieOf (e.1 / 2 ^ 45))) } }

/-- A dirty line of the home die's caches reaches home memory (R233). -/
def writeBack (line : Nat) (s : State) : State :=
  let es := s.mem.dirty.filter (fun e => decide (e.1 / 128 = line))
  { s with mem := { s.mem with dirty := tabClear s.mem.dirty (128 * line) 128,
                               home := es.foldl (fun m e => tabSet 0 m e.1 e.2) s.mem.home } }

/-- Does the L2 of a die hold a remote-homed line as stores that it has buffered, or as a transaction's shadow line (R211 (b), (c))? -/
def heldOtherwise (s : State) (die line : Nat) : Bool :=
  s.mem.rsb.any (fun e => decide (e.1 / 128 = die * 2 ^ 45 + line)) || s.skim.lines.any (fun l => l.line == line && l.place == .l2 die)

/-- The lines that the L2 of a die holds: clean copies, dirty lines of its own memory, lines in its remote store buffer, shadow lines. -/
def l2Lines (s : State) (die : Nat) : Nat :=
  (s.mem.copies.filter (fun e => e.1 / 2 ^ 45 == die)).length +
  (((s.mem.dirty.map (·.1)).filter (fun a => homeDie a == die)).map (· / 128)).eraseDups.length +
  (((s.mem.rsb.map (·.1)).filter (fun a => a / 2 ^ 52 == die)).map (· / 128)).eraseDups.length +
  (s.skim.lines.filter (fun l => l.place == .l2 die)).length

/-- Room for one more line in an L2 of 128 MiB, which is 1,048,576 lines: with every line in use the die's first clean copy gives way, or
its first dirty line is written back, or the first line of its remote store buffer goes to its home (R1, R211). (DESIGN CHOICE, log 5) -/
def l2Room (die : Nat) (s : State) : State :=
  if l2Lines s die < 1048576 then s
  else match s.mem.copies.find? (fun e => e.1 / 2 ^ 45 == die), s.mem.dirty.find? (fun e => homeDie e.1 == die),
      s.mem.rsb.find? (fun e => e.1 / 2 ^ 52 == die) with
    | some e, _, _ => { s with mem := { s.mem with copies := tabDel s.mem.copies e.1 } }
    | none, some e, _ => writeBack (e.1 / 128) s
    | none, none, some e => rsbDrain die (e.1 % 2 ^ 52 / 128) s
    | none, none, none => s

/-- An unshadowed store by a core in .G: home die's caches, or the die's remote store buffer (R375); the other L1s of the die lose
their copies (R208, R210). -/
def writeCore (core pa : Nat) (data : List Byte) (s : State) : State :=
  let s := l1Invalidate (fun c => c != core && dieOf c == dieOf core) pa data.length s
  let s := if 2 ^ 51 ≤ pa then s else l2Room (dieOf core) s
  if 2 ^ 51 ≤ pa then healWords pa data.length (writeRun writeCompByte pa data s)
  else if homeDie pa = dieOf core then healWords pa data.length (writeRun writeL2Byte pa data s)
  else writeRun (writeRsbByte (dieOf core)) pa data s

/-- A die's clean copy of a line that it has read from a remote home and holds in no other form (R211 (a)). (DESIGN CHOICE, log 5) -/
def keepCopy (die pa : Nat) (s : State) : State :=
  if homeDie pa = die || heldOtherwise s die (pa / 128) then s
  else match tabFind s.mem.copies (die * 2 ^ 45 + pa / 128) with
    | some _ => s
    | none =>
      let s := l2Room die s
      let l := (List.range 128).map (fun i => homeByte s (pa / 128 * 128 + i))
      { s with mem := { s.mem with copies := tabPut s.mem.copies (die * 2 ^ 45 + pa / 128) l } }

/-- The key under which an uncorrectable error in a core's copy of a companion word stands beside those of device memory. (DEDUCED, log 23) -/
def badCopyKey (core pa : Nat) : Nat := (core + 1) * 2 ^ 60 + pa / 32

/-- The uncorrectable error of a core's copy of the companion line of an address (R29 (c)). (DEDUCED, log 23) -/
def badCopy (s : State) (core pa : Nat) : Option (Nat × Nat × Nat) :=
  (s.mem.bad.find? (fun e => decide (e.1 / 4 = badCopyKey core pa / 4))).map (fun e => (e.1 % 2 ^ 60, e.2))

/-- A core's clean copy of a companion line (R213). (DESIGN CHOICE, log 5) -/
def keepCompCopy (core pa : Nat) (s : State) : State :=
  match tabFind s.mem.compCopies (core * 2 ^ 45 + pa / 128) with
  | some _ => s
  | none =>
    let s := l1Room core s
    let l := (List.range 128).map (fun i => tabGet 0 s.mem.comp (pa / 128 * 128 + i))
    { s with mem := { s.mem with bad := s.mem.bad.filter (fun e => e.1 / 4 != badCopyKey core pa / 4), compCopies := tabPut s.mem.compCopies (core * 2 ^ 45 + pa / 128) l } }

/-- A line takes the form of a shadow line in a die's L2: what the die has buffered of it goes to the home and its clean copy goes
(R211 (c)). (DESIGN CHOICE, log 5) -/
def shadowForm (die line : Nat) (s : State) : State :=
  let s := rsbDrain die line s
  { s with mem := { s.mem with copies := tabDel s.mem.copies (die * 2 ^ 45 + line) } }

/-- Every die drops its clean copies of a line (R111, R121). (DESIGN CHOICE, log 5) -/
def dropCopies (line : Nat) (s : State) : State :=
  { s with mem := { s.mem with copies := s.mem.copies.filter (fun e => e.1 % 2 ^ 45 != line),
                               l1 := s.mem.l1.filter (fun e => e.1 % 2 ^ 45 != line) } }

/-! ## Translation (R67 to R75) -/

def pteV (p : Nat) : Bool := bit p 0
def pteL (p : Nat) : Bool := bit p 1
def pteW (p : Nat) : Bool := bit p 2
def pteX (p : Nat) : Bool := bit p 3
def pteOpen (p : Nat) : Bool := bit p 4
def pteSync (p : Nat) : Bool := bit p 5
def ptePin (p : Nat) : Bool := bit p 6
def pteGrain (p : Nat) : Nat := bits p 8 7
def pteSize (p : Nat) : Nat := bits p 10 9
def pteSys (p : Nat) : Bool := bit p 11
def pteFrame (p : Nat) : Nat := bits p 51 12 * 4096

/-- Bytes of a leaf's page, by level and SIZE; 0 for a reserved SIZE (R70, R71). -/
def pageBytes (level size : Nat) : Nat :=
  if level = 3 then (if size = 0 then 0x40000000 else 0)
  else if level = 4 then (if size = 0 then 0x200000 else if size = 1 then 0x2000000 else 0)
  else (if size = 0 then 0x1000 else if size = 1 then 0x4000 else if size = 2 then 0x10000 else 0)

/-- SIZE as XLAT_INV_CTRL codes it (R76, R407). -/
def sizeCode (level size : Nat) : Nat := if level = 3 then 5 else if level = 4 then 3 + size else size

/-- A valid entry that R73 calls malformed. -/
def pteBad (level p : Nat) : Bool :=
  if pteL p then
    level < 3 || pageBytes level (pteSize p) = 0 || pteGrain p = 3 || p / 2 ^ 52 ≠ 0 ||
    pteFrame p % pageBytes level (pteSize p) ≠ 0 || (pteX p && (pteW p || pteOpen p || pteSys p))
  else level = 5 || bits p 11 2 ≠ 0 || p / 2 ^ 52 ≠ 0

/-- The index of an address at a level (R70). -/
def ptIndex (level va : Nat) : Nat :=
  if level = 1 then bits va 53 48 else if level = 2 then bits va 47 39 else if level = 3 then bits va 38 30
  else if level = 4 then bits va 29 21 else bits va 20 12

/-- How a walk ends; `link` where an entry lies in companion memory that does not answer (R31), `ue` where its line holds an uncorrectable
error (R29 (c)). -/
inductive Walk where
  | leaf (level pte : Nat)
  | absent
  | malformed
  | link
  | ue (e : Nat × Nat × Nat)
  deriving DecidableEq, Repr

/-- The walk of R70 from a table at a level, reading committed values at system scope (R75). -/
def walkFrom (s : State) (va : Nat) : Nat → Nat → Nat → Walk
  | 0, _, _ => .malformed
  | fuel + 1, level, table =>
    let at_ := table + 8 * ptIndex level va
    if backing s at_ = .hole then .malformed
    else if 2 ^ 51 ≤ at_ ∧ !linkOk s at_ then .link
    else match badAt s at_ 8 with
    | some e => .ue e
    | none =>
      let p := ofBytes (readHome s at_ 8)
      if !pteV p then .absent
      else if pteBad level p then .malformed
      else if pteL p then .leaf level p
      else walkFrom s va fuel (level + 1) (pteFrame p)

/-- The root table of a space (R69). -/
def rootOf (s : State) (sp : Nat) : Nat :=
  bits (space s sp).rootLo.toNat 31 9 * 512 + bits (space s sp).rootHi.toNat 19 0 * 2 ^ 32

/-- The walk of a space for an address. -/
def walk (s : State) (sp va : Nat) : Walk := walkFrom s va 5 1 (rootOf s sp)

/-- The address of the leaf entry that a walk ends in, where it ends in one. -/
def leafAddr (s : State) (sp va : Nat) : Option Nat :=
  go 5 1 (rootOf s sp)
where
  go : Nat → Nat → Nat → Option Nat
  | 0, _, _ => none
  | fuel + 1, level, table =>
    let at_ := table + 8 * ptIndex level va
    let p := ofBytes (readHome s at_ 8)
    if !reachable s at_ || !pteV p || pteBad level p then none else if pteL p then some at_ else go fuel (level + 1) (pteFrame p)

/-- The translation a core's caches hold, or else the walk (R76, R77). `core = 160` always walks. (DESIGN CHOICE, log 9) -/
def lookup (s : State) (core sp va : Nat) : Walk :=
  match s.xlat.tlb.find? (fun e => e.core == core && e.space == sp &&
      e.vpn == va / 4096) with
  | some e => .leaf e.level e.pte.toNat
  | none => walk s sp va

/-- Does a translation for a page match a shootdown of SPACE, SCOPE, SIZE at an address? (DESIGN CHOICE, log 9) -/
def invMatches (sp scope size va : Nat) (esp eva : Nat) : Bool :=
  let n := if size = 0 then 0x1000 else if size = 1 then 0x4000 else if size = 2 then 0x10000
    else if size = 3 then 0x200000 else if size = 4 then 0x2000000 else 0x40000000
  scope = 2 || (esp = sp && (scope = 1 || eva / n = va / n))

/-- Does a translation for a page of a space match the shootdown in progress? -/
def invHits (x : Xlat) (sp vpn : Nat) : Bool := invMatches x.invNow.sp x.invNow.scope x.invNow.size x.invNow.va sp (4096 * vpn)

/-- The translation enters the core's caches (R75: a walk that finds V = 0 caches nothing), but while BUSY is 1 none that the shootdown in
progress matches (R77). (DESIGN CHOICE, log 9) -/
def fillTlb (core sp va : Nat) (s : State) : State :=
  if core = 160 || s.xlat.tlb.any (fun e => e.core == core && e.space == sp && e.vpn == va / 4096) ||
     (s.xlat.invBusy && invHits s.xlat sp (va / 4096)) then s
  else match walk s sp va with
    | .leaf level p => { s with xlat := { s.xlat with tlb := s.xlat.tlb ++
        [{ core := core, space := sp, vpn := va / 4096, pte := BitVec.ofNat 64 p, level := level }] } }
    | _ => s

/-- What an access needs of its page (R72): a node's load, a node's store, a configuration fetch, the system's own areas, and the
reads and the writes of the device's units, which SYS does not bar. -/
inductive Need where
  | read | write | exec | sysWrite | device | devWrite
  deriving DecidableEq, Repr

/-- The outcome of a translation (R80). -/
inductive Xl where
  | ok (pa pte level : Nat)
  | park (reason : Nat)
  | page
  | perm
  | link
  | ue (e : Nat × Nat × Nat)
  deriving DecidableEq, Repr

/-- Translates one address for one need: not mapped and write-protected park, malformed entries, holes and
addresses above 54 bits are fatal PAGE, broken permissions are fatal PERM, a table that the companion does not give ends in
LINK, and a table line with an uncorrectable error in MEM_UE (R29, R31, R72, R73, R80). Where a store meets both a fatal row of R80 and the parked one, the fatal one is taken. (DEDUCED, log 26) -/
def translate (s : State) (core sp va : Nat) (need : Need) : Xl :=
  if 2 ^ 54 ≤ va then .page
  else match lookup s core sp va with
    | .absent => .park 0
    | .malformed => .page
    | .link => .link
    | .ue e => .ue e
    | .leaf level p =>
      let pa := pteFrame p + va % pageBytes level (pteSize p)
      if backing s pa = .hole then .page
      else match need with
        | .read => if pteSys p then .perm else .ok pa p level
        | .write =>
          if pteSys p then .perm
          else if 2 ^ 51 ≤ pa ∧ !pteOpen p then .perm
          else if !pteW p then .park 1 else .ok pa p level
        | .exec => if pteX p then .ok pa p level else .perm
        | .sysWrite => if pteSys p && pteW p then .ok pa p level else .perm
        | .device => .ok pa p level
        | .devWrite =>
          if 2 ^ 51 ≤ pa ∧ !pteOpen p then .perm
          else if !pteW p then .park 1 else .ok pa p level

/-! ## Counters that raise alerts -/

/-- Is the alert raised: is a bit of MGMT_ALERT set that its enable bit lets through (R64)? -/
def alertRaised (s : State) : Bool := s.boot.alert &&& s.boot.alertEn != 0

/-- MGMT_ALERT and its enables change; where that raises or ends the alert, ALERT_N and the two interrupts follow (R64). -/
def setAlerts (alert alertEn : BitVec 6) (s : State) : State :=
  let t := { s with boot := { s.boot with alert := alert, alertEn := alertEn } }
  if alertRaised t = alertRaised s then t else { t with outputs := s.outputs ++ [.alert (alertRaised t)] }

def raiseAlert (i : Nat) (s : State) : State := setAlerts (s.boot.alert ||| (1#6 <<< i)) s.boot.alertEn s

/-- Logs an uncorrectable error (R29, R30): the first since UE_VALID was cleared keeps its address; the alert rises
where the count stands at its highest value too. (DEDUCED, log 23) -/
def logUe (source die pa : Nat) (s : State) : State :=
  raiseAlert 4 { s with merr :=
    if s.merr.ueValid then { s.merr with ue := satAdd 255 s.merr.ue 1 }
    else { s.merr with ue := satAdd 255 s.merr.ue 1, ueValid := true, source := source, die := die,
                       addr := if source = 4 ∨ source = 5 then 0 else pa } }

/-- Counts a corrected error (R28). -/
def logCe (s : State) : State := { s with merr := { s.merr with ce := satAdd 65535 s.merr.ce 1 } }

/-! ## Fault records (R80 to R84) -/

def fqSize (s : State) : Nat := 2 ^ (Nat.min s.xlat.fqLog.toNat 10 + 6)
def fqFull (s : State) : Bool := (s.xlat.prod + 2 ^ 32 - s.xlat.cons.toNat) % 2 ^ 32 == fqSize s

/-- The 32 bytes of a fault record (R81). (DEDUCED, log 26) -/
def faultBytes (s : State) (f : FaultRec) (id : Nat) (fatal : Bool) : List Byte :=
  toBytes 8 (f.va % 2 ^ 54) ++ toBytes 4 id ++ toBytes 1 f.space ++ toBytes 1 f.kind ++ toBytes 1 f.reason ++
  toBytes 1 (boolBit (s.xlat.prod / fqSize s % 2 == 0) 0 + boolBit fatal 1) ++ toBytes 2 f.vt ++ toBytes 2 f.core ++
  toBytes 4 0 ++ toBytes 8 f.cookie.toNat

/-- Writes a record at slot PROD mod size and advances PROD (R81). (DEDUCED, log 26) -/
def writeFault (f : FaultRec) (id : Nat) (fatal : Bool) (s : State) : State :=
  let base := bits s.xlat.fqLo.toNat 31 12 * 4096 + bits s.xlat.fqHi.toNat 19 0 * 2 ^ 32
  let s := writeSys (base + 32 * (s.xlat.prod % fqSize s)) (faultBytes s f id fatal) s
  { s with xlat := { s.xlat with prod := (s.xlat.prod + 1) % 2 ^ 32 } }

/-- A fatal fault's record, or LOST (R81). (DEDUCED, log 26) -/
def fatalFault (f : FaultRec) (s : State) : State :=
  if s.xlat.fqEnable && !fqFull s then writeFault f 0 true s
  else { s with xlat := { s.xlat with lost := true } }

/-- The lowest FAULT_ID not outstanding, among 1,024 (R82). -/
def freeFaultId (s : State) : Option Nat :=
  (List.range 1024).find? (fun i => s.xlat.faults.all (fun f => f.id != some i))

/-- Parks on a fault: one ID and one record for one space, 4 KiB page and KIND (R82). Answers the key that the
parked access waits on. (DEDUCED, log 26) -/
def parkFault (f : FaultRec) (s : State) : Nat × State :=
  match s.xlat.faults.find? (fun g => g.space == f.space && g.va / 4096 == f.va / 4096 && g.kind == f.kind) with
  | some g => (g.key, s)
  | none =>
    let key := s.xlat.nextFault
    let id := if fqFull s then none else freeFaultId s
    let s := match id with | some i => writeFault f i false s | none => s
    (key, { s with xlat := { s.xlat with faults := s.xlat.faults ++ [{ f with key := key, id := id }],
                                         nextFault := key + 1 } })

/-- Records that waited without an ID get one while the ring is in use and has room (R81, R82). (DEDUCED, log 26) -/
def serveFaults (s : State) : State :=
  (s.xlat.faults.filter (fun f => f.id.isNone)).foldl (fun s f =>
    if fqFull s || !s.xlat.fqEnable then s
    else match freeFaultId s with
      | none => s
      | some i =>
        let s := writeFault f i false s
        { s with xlat := { s.xlat with faults := modWhere (·.key == f.key) (fun g => { g with id := some i }) s.xlat.faults } }) s

/-! ## Ending a transaction (R109, R125, R127, R163 to R165) -/

/-- A report that names nothing (R164). -/
def emptyReport (depth vt : Nat) : Report :=
  { nodeValid := false, addrValid := false, block := 0, node := 0, thread := 0, team := 0, depth := depth, vt := vt,
    addr := 0 }

/-- The report of a node (R164): block, node, thread, team, depth and tag of the firing launch. (DEDUCED, log 42) -/
def nodeReport (s : State) (f : Firing) (addrValid : Bool) (addr : Nat) : Report :=
  match thread? s f.thread, launch? s f.launch with
  | some t, some l =>
    { nodeValid := true, addrValid := addrValid, block := f.block, node := f.node, thread := t.tid,
      team := ((team? s t.team).map (·.num)).getD 0, depth := l.depth, vt := (vtOf s f.launch t.team).getD 0xFFFF,
      addr := BitVec.ofNat 64 addr }
  | _, _ => emptyReport 0 0

/-- Spent units of the seam links' allowances, with those back whose tokens leave the links' input registers (R199). -/
def backUnits (ks : List Token) (t : Tab Nat) : Tab Nat :=
  ks.foldl (fun t k => match k.place with | .seam link => tabSet 0 t link (tabGet 0 t link - 1) | _ => t) t

/-- Removes everything a team has on its core: threads, tokens, accesses, streams, receives, its crew slots. -/
def clearTeam (t : Team) (s : State) : State :=
  let inTeam (x : Nat) : Bool := match thread? s x with | some th => th.team == t.key | none => false
  { s with
    tokens := s.tokens.filter (fun k => !inTeam k.thread)
    seams := backUnits (s.tokens.filter (fun k => inTeam k.thread)) s.seams
    accesses := s.accesses.filter (fun a => !inTeam a.f.thread)
    resumed := s.resumed.filter (fun f => !inTeam f.thread)
    posted := s.posted.filter (fun p => match access? s p.access with | some a => !inTeam a.f.thread | none => false)
    strms := (s.strms.filter (fun m => m.team != t.key)).map (fun m => { m with subs := m.subs.filter (·.team != t.key) })
    threads := s.threads.filter (fun e => e.2.team != t.key)
    crews := s.crews.filter (fun e => e.2.team != t.key)
    core := { s.core with scratch := tabClear s.core.scratch (t.key * 2 ^ 20) (2 ^ 20),
                          absent := tabClear s.core.absent (t.key * 2 ^ 17) (2 ^ 17) }
    scWaiting := s.scWaiting.filter (fun i => match access? s (i / 4) with | some a => !inTeam a.f.thread | none => false)
    masks := s.masks.filter (·.team != t.key)
    brks := s.brks.filter (fun b => !inTeam b.f.thread) }

/-- Returns a team's window stacks to its launch (R141). -/
def freeStacks (t : Team) (s : State) : State :=
  let mine := (s.crews.filter (fun e => e.2.team == t.key)).map (fun e => e.2.stack)
  modLaunch t.launch (fun l => { l with freeStacks := l.freeStacks ++ mine }) s

/-- Stops a launch on every core: its teams, its placed blocks and regions. -/
def stopLaunch (id : Nat) (s : State) : State :=
  let ts := s.teams.filter (fun t => t.launch == id && !t.retired)
  let s := ts.foldl (fun s t => clearTeam t (freeStacks t s)) s
  { s with teams := modWhere (fun t => t.launch == id) (fun t => { t with retired := true }) s.teams,
           placed := s.placed.filter (·.launch != id), regions := s.regions.filter (·.launch != id) }

/-- Counts the abort of a transaction in SKIM_ABORTS (R137). (DEDUCED, log 30) -/
def countAbort (cause : Nat) (s : State) : State :=
  if cause = 0x09 then { s with skim := { s.skim with conflictN := satAdd 65535 s.skim.conflictN 1 } }
  else if cause = 0x08 then { s with skim := { s.skim with fullN := satAdd 65535 s.skim.fullN 1 } }
  else s

/-- A tag that can still be aborted (R120, R165): ACTIVE, or QUEUED for the causes that R120 permits. -/
def abortable (s : State) (vt cause : Nat) (byRelative : Bool) : Bool :=
  match tag? s vt with
  | some g => g.st == .active || (g.st == .queued && (cause == 0x09 || byRelative))
  | none => false

/-- Marks one tag ABORTING with its cause; it leaves the commit queue (R109, R125). -/
def killTag (vt cause : Nat) (s : State) : State :=
  countAbort cause { s with skim := { s.skim with
    tags := tabMod s.skim.tags vt (fun g => { g with st := .aborting, cause := cause }),
    requests := s.skim.requests.filter (· != vt) } }

/-- Counts a launch aborted with LINK in KL_STATUS (R31, R35). -/
def countLink (cause : Nat) (s : State) : State :=
  if cause = 0x15 then { s with kamub := { s.kamub with linkAborts := satAdd 255 s.kamub.linkAborts 1 } } else s

/-- Ends the transaction of one tag: under GRAN = TEAM every team of the launch that is ACTIVE or QUEUED
goes with it (R125, R127). -/
def endTags (s : State) (l : Launch) (vt : Option Nat) : List Nat :=
  match l.vt with
  | some v => if (tag? s v).any (fun g => g.launch == l.id) then [v] else []
  | none =>
    let ts := (s.teams.filter (fun t => t.launch == l.id)).filterMap (·.vt)
    match vt with
    | some v => v :: ts.filter (· != v)
    | none => ts

/-- The tag that R144 and R164 name for a launch. -/
def namedTag (s : State) (l : Launch) : Nat :=
  match l.vt with
  | some v => v
  | none =>
    match leastBy (·.num) (s.teams.filter (fun t => t.launch == l.id &&
        (match t.vt.bind (tag? s) with | some g => g.st == .active | none => false))) with
    | some t => t.vt.getD 0xFFFF
    | none => 0xFFFF

/-- Records the first cause, with the tag that R144 names as it takes effect, and stops the launch, whose parked reads are discarded (R84, R165 (a)). (DEDUCED, log 42) -/
def stampCause (id cause vt : Nat) (rep : Option Report) (s : State) : State :=
  let s := if (launch? s id).any (·.cause.isNone) then countLink cause s else s
  stopLaunch id (modLaunch id (fun l =>
    match l.cause with
    | some _ => l
    | none => { l with cause := some cause, causeAt := s.cycles, causeVt := vt, report := rep, phase := .aborted, fault := none }) s)

/-- Among the causes that take effect in one cycle the lowest code wins (R165 (b)), for the launch and for the
descendants that it aborted with it. (DEDUCED, log 42) -/
def lowerCause (id cause : Nat) (rep : Option Report) (s : State) : State :=
  match launch? s id with
  | none => s
  | some l =>
    match l.cause with
    | none => s
    | some c =>
      if cause < c ∧ l.causeAt = s.cycles then
        let mine (k : Launch) : Bool := k.id == id || ((descendants s id).contains k.id && k.cause == some c && k.causeAt == s.cycles)
        let ids := (s.launches.filter mine).map (·.id)
        { s with
          launches := modWhere mine (fun k => { k with cause := some cause, requeue := false, report := if k.id = id then rep else k.report }) s.launches
          skim := { s.skim with tags := s.skim.tags.map (fun e =>
            if ids.contains e.2.launch && e.2.st == .aborting then (e.1, { e.2 with cause := cause }) else e) } }
      else s

/-- THE ABORT (R125): the launch's tags become ABORTING, its threads, nodes, engines and parked accesses stop,
and every descendant in ACTIVE or QUEUED aborts with the same cause. A launch with no tag that can still abort
changes nothing. (DEDUCED, log 42) -/
def abortLaunch (id cause : Nat) (byRelative : Bool) (rep : Option Report) (s : State) : State :=
  match launch? s id with
  | none => s
  | some l =>
    let isSt (v : Nat) (st : TagSt) : Bool := match tag? s v with | some g => g.st == st | none => false
    let tags := endTags s l none
    let unready := l.vt.isNone && l.cause.isNone && l.phase != .dispatching && decide (l.nextTeam < lrTeams l.raw)
    let queuedToo := byRelative || cause == 0x09 || (l.vt.isNone && (unready || tags.any (fun v => isSt v .active)))
    let live := tags.filter (fun v => isSt v .active || (isSt v .queued && queuedToo))
    let pending := (l.vt.isNone && l.phase == .dispatching) || unready
    if live.isEmpty && !pending then lowerCause id cause rep s
    else
      let vt := namedTag s l
      let s := live.foldl (fun s v => killTag v cause s) s
      let s := stampCause id cause vt rep s
      (descendants s id).foldl (fun s d =>
        match launch? s d with
        | some k =>
          let vs := (endTags s k none).filter (fun v => abortable s v cause true)
          if vs.isEmpty then s else stampCause d cause (namedTag s k) none (vs.foldl (fun s v => killTag v cause s) s)
        | none => s) s

/-- Aborts the transaction that holds a tag, or, where that has aborted in this cycle, gives it the cause if its code is lower (R165). -/
def abortVt (vt cause : Nat) (byRelative : Bool) (rep : Option Report) (s : State) : State :=
  match tag? s vt with
  | some g => if abortable s vt cause byRelative then abortLaunch g.launch cause byRelative rep s else lowerCause g.launch cause rep s
  | none => s

/-- The nearest ancestor of a tag whose shadow holds the line of a faulty word (R130). -/
def ueHolder (s : State) (vt : Option Nat) (e : Nat × Nat × Nat) : Option Nat :=
  (((vt.map (tagChain s)).getD []).drop 1).find? (fun v =>
    s.skim.lines.any (fun (l : Shadow) => l.vt == v && l.line == e.1 / 4))

/-- An uncorrectable error under a read that a launch makes, or the device makes for it: the launch aborts with MEM_UE, and with it the nearest
ancestor of its tag `vt` whose shadow holds the line (R29 (c), R30, R130). `e` is the faulty 32-byte word, the memory and the die that the
error arose in, as `badAt` gives them: MERR_ADDR takes the address of that word. (DEDUCED, log 23) -/
def ueAbort (id : Nat) (vt : Option Nat) (e : Nat × Nat × Nat) (s : State) : State :=
  let holder := ueHolder s vt e
  let s := abortLaunch id 0x0E false none (logUe e.2.1 e.2.2 (32 * e.1) s)
  match holder with
  | some v => abortVt v 0x0E false none s
  | none => s

/-- TAKING A TRAP (R163, R164): the report names the node, its thread and the operand or address, and the launch
of the firing node aborts with the cause. -/
def trap (f : Firing) (cause addr : Nat) (s : State) : State :=
  abortLaunch f.launch cause false (some (nodeReport s f true addr)) s

/-- A trap whose report names the node and holds no address or operand (R163, R164). -/
def trapNode (f : Firing) (cause : Nat) (s : State) : State :=
  abortLaunch f.launch cause false (some (nodeReport s f false 0)) s

/-- An abort by cause that names no node (R164). -/
def abortOf (f : Firing) (cause : Nat) (s : State) : State := abortLaunch f.launch cause false none s

/-- A fatal PAGE or PERM fault of an access: its record, then the abort with ADDR (R80, R164). -/
def fatalOf (f : Firing) (kind reason va : Nat) (s : State) : State :=
  match launch? s f.launch with
  | none => s
  | some l =>
    let vt := ((thread? s f.thread).bind (fun t => vtOf s f.launch t.team)).getD 0
    let s := fatalFault { key := 0, id := none, space := l.space, va := va, kind := kind, reason := reason, vt := vt,
                          core := f.core, cookie := BitVec.ofNat 64 (lrCookie l.raw) } s
    let rep : Report := { emptyReport l.depth vt with addrValid := true, addr := BitVec.ofNat 64 (va % 2 ^ 54) }
    abortLaunch f.launch (if reason = 1 ∨ reason = 3 then 0x02 else 0x01) false (some rep) s

/-! ## The Skim (R105 to R118) -/

/-- The conflict unit of an address: base and length, by the leaf's GRAIN; companion frames are 128 B (R71, R114). -/
def unitOf (pa pte : Nat) : Nat × Nat :=
  let n := if 2 ^ 51 ≤ pa then 128 else if pteGrain pte = 1 then 32 else if pteGrain pte = 2 then 512 else 128
  (pa / n * n, n)

/-- A use of the device's own areas: a read, or a write that sets dirty bits or none (R40). -/
inductive AreaUse where
  | read
  | write (dirty : Bool)
  deriving DecidableEq, Repr

/-- The bytes of one launch family's charges against the shadow log, those of each tag until the tag is freed (R113). (DEDUCED, log 30) -/
def charged (s : State) (top : Nat) : Nat :=
  ((s.skim.tags.filter (fun e => topOf s e.2.launch == top)).map (fun e => e.2.charge)).sum

/-- A fatal fault of a use that the device makes for a launch of an area in the launch's space: its record, then the abort (R80, R164). -/
def areaFault (l : Launch) (vt va cause reason : Nat) (s : State) : State :=
  abortLaunch l.id cause false (some { emptyReport l.depth vt with addrValid := true, addr := BitVec.ofNat 64 (va % 2 ^ 54) })
    (fatalFault { key := 0, id := none, space := l.space, va := va, kind := 5, reason := reason, vt := vt, core := 0xFFFF,
                  cookie := BitVec.ofNat 64 (lrCookie l.raw) } s)

/-- A use that the device makes for a launch of bytes in one page of its token overflow area or shadow log: a page that is not SYS and W is a
fatal PERM fault, a malformed entry or a hole a fatal PAGE fault, and a companion frame that does not answer ends in LINK (R31, R72, R80,
R105). A read of a word with an uncorrectable error ends in MEM_UE, and a write that covers the word whole ends the error (R29 (c)). The leaf
was valid when the launch was dispatched, and one that is gone since bars nothing. (DESIGN CHOICE, log 30) -/
def areaPage (id vt va n : Nat) (use : AreaUse) (s : State) : Bool × State :=
  match launch? s id with
  | none => (false, s)
  | some l =>
    match translate s 160 l.space va .sysWrite with
    | .ok pa _ _ =>
      if !reachable s pa then (false, abortLaunch id 0x15 false none s)
      else match use with
        | .read => (match badAt s pa n with
            | some e => (false, ueAbort id (some vt) e s)
            | none => (true, s))
        | .write dirty => (true, healWords pa n (if dirty && decide (pa < 2 ^ 51) then setDirty pa s else s))
    | .park _ => (true, s)
    | .page => (false, areaFault l vt va 0x01 2 s)
    | .perm => (false, areaFault l vt va 0x02 3 s)
    | .link => (false, abortLaunch id 0x15 false none s)
    | .ue e => (false, ueAbort id (some vt) e s)

/-- The device's use of a range of a launch's area, page by page; false where a page has ended the launch. -/
def areaUse (id vt base first n : Nat) (use : AreaUse) (s : State) : Bool × State :=
  if n = 0 then (true, s)
  else (List.range ((first + n - 1) / 4096 + 1 - first / 4096)).foldl (fun (x : Bool × State) i =>
    let lo := Nat.max first (4096 * (first / 4096 + i))
    let hi := Nat.min (first + n) (4096 * (first / 4096 + i) + 4096)
    if x.1 then areaPage id vt (base + lo) (hi - lo) use x.2 else x) (true, s)

/-- Charges the log of the tag's top-level launch; a charge that would exceed the budget aborts the
transaction with SKIM_FULL (R113, R131). The charged space is written: a shadow line sets no dirty bit, any other entry does (R40). The
model fills the log from its base. Answers whether the charge stands. (DESIGN CHOICE, log 30) -/
def charge (vt amount : Nat) (dirty : Bool) (s : State) : Bool × State :=
  match tag? s vt with
  | none => (false, s)
  | some g =>
    let top := topOf s g.launch
    let budget := ((launch? s top).map (fun l => lrShBudget l.raw)).getD 0
    let base := ((launch? s top).map (fun l => lrShLog l.raw)).getD 0
    if charged s top + amount ≤ budget then
      match areaUse g.launch vt base (charged s top) amount (.write dirty) s with
      | (true, s) => (true, modTag vt (fun g => { g with charge := g.charge + amount }) s)
      | (false, s) => (false, s)
    else (false, abortVt vt 0x08 false none s)

/-- Can a tag's shadow lines still move to its log: is it ACTIVE, QUEUED or COMMITTING? -/
def shadows (s : State) (vt : Nat) : Bool :=
  (tag? s vt).any (fun g => g.st == .active || g.st == .queued || g.st == .committing)

/-- Moves a shadow line of a full share to its owner's log, with its charge (R112, R113). -/
def toLog (l : Shadow) (s : State) : State :=
  let move (s : State) : State := { s with skim := { s.skim with
    lines := modWhere (fun x => x.vt == l.vt && x.line == l.line) (fun x => { x with place := .log }) s.skim.lines,
    spills := listMod s.skim.spills (homeDie (128 * l.line)) (fun n => satAdd 65535 n 1) } }
  match tag? s l.vt with
  | none => s
  | some g =>
    if !shadows s l.vt then s
    else if g.logged.contains l.line then move s
    else match charge l.vt 256 false s with
      | (true, s) => move (modTag l.vt (fun g => { g with logged := l.line :: g.logged }) s)
      | (false, s) => s

/-- The shadow lines of a home's share that can move, the least recently used first (R112). -/
def shareLines (s : State) (die : Nat) : List Shadow :=
  sortBy (·.used) (s.skim.lines.filter (fun l => l.place == .llc && homeDie (128 * l.line) == die && shadows s l.vt))

/-- The bytes in use of a home's shadow share: its shadow lines, its Skim entries and its group reader sets (R112, R114). -/
def shareUsed (s : State) (die : Nat) : Nat :=
  128 * (s.skim.lines.filter (fun l => l.place == .llc && homeDie (128 * l.line) == die)).length +
  s.skim.room.getD die 0 * ((s.skim.entries.filter (fun e => homeDie e.unit_ == die)).length +
    (s.skim.groups.filter (fun g => homeDie (4096 * g.1) == die)).length)

/-- Has a home's share of 128 MiB room for `n` more bytes (R112)? -/
def shareRoom (s : State) (die n : Nat) : Bool := decide (shareUsed s die + n ≤ 2 ^ 27)

/-- Makes room in a home's share: least recently used shadow lines move to their logs until there is room or none is left that can
move (R112, R114). (DEDUCED, log 30) -/
def makeRoom (die n : Nat) (s : State) : Bool × State :=
  let s := (shareLines s die).foldl (fun s l => if shareRoom s die n then s else toLog l s) s
  (shareRoom s die n, s)

/-- Room for a new Skim entry or group reader set of the home of an address, for an access of a tag that is still to be performed
(R114). -/
def makeEntryRoom (vt pa : Nat) (s : State) : Bool × State :=
  let (ok, s) := makeRoom (homeDie pa) (s.skim.room.getD (homeDie pa) 0) s
  (ok && (tag? s vt).any (fun g => g.st == .active), s)

def entry? (s : State) (u : Nat × Nat) : Option SkimEntry :=
  s.skim.entries.find? (fun e => e.unit_ == u.1 && e.len == u.2)
def modEntry (u : Nat × Nat) (f : SkimEntry → SkimEntry) (s : State) : State :=
  { s with skim := { s.skim with entries := modWhere (fun e => e.unit_ == u.1 && e.len == u.2) f s.skim.entries } }

/-- Is the unit held by a commit in progress of another transaction (R121 step 2)? -/
def unitHeld (s : State) (vt : Nat) (u : Nat × Nat) : Bool :=
  match s.skim.current, entry? s u with
  | some c, some e => c.vt != vt && e.writers.contains c.vt
  | _, _ => false

/-- How a Skim operation ends: it stands, it must wait for a commit, or the transaction has aborted. -/
inductive SkimOut where
  | ok | hold | gone
  deriving DecidableEq, Repr

/-- Registers a tag as a writer of a unit (R114, R115). -/
def addWriter (vt : Nat) (u : Nat × Nat) (s : State) : SkimOut × State :=
  if unitHeld s vt u then (.hold, s)
  else match entry? s u with
    | some e =>
      if e.writers.contains vt then (.ok, s)
      else if 4 ≤ e.writers.length then (.gone, abortVt vt 0x09 false none s)
      else (.ok, modEntry u (fun e => { e with writers := e.writers ++ [vt] }) s)
    | none => match makeEntryRoom vt u.1 s with
      | (true, s) => (.ok, { s with skim := { s.skim with entries := s.skim.entries ++
          [{ unit_ := u.1, len := u.2, writers := [vt], readers := [], overflow := false }] } })
      | (false, s) => (.gone, abortVt vt 0x08 false none s)

/-- The tags recorded as readers in the entries of a directory group (R114). -/
def groupReaders (s : State) (g : Nat) : List Nat :=
  ((s.skim.entries.filter (fun e => e.unit_ / 4096 == g)).map (·.readers)).flatten.eraseDups

/-- Records a tracked read where R116 says so; a directory group's reader set is exact, so it starts from the group's
recorded readers and takes every later one (R114). (DEDUCED, log 30) -/
def recordRead (vt : Nat) (u : Nat × Nat) (s : State) : SkimOut × State :=
  if unitHeld s vt u then (.hold, s)
  else match entry? s u with
    | none => (.ok, s)
    | some e =>
      let g := u.1 / 4096
      if e.writers.all (fun w => (tagChain s vt).contains w) || e.readers.contains vt then (.ok, s)
      else if e.readers.length < 2 then
        (.ok, modEntry u (fun e => { e with readers := e.readers ++ [vt] })
          { s with skim := { s.skim with groups := tabMod s.skim.groups g (insertNew vt) } })
      else match tabFind s.skim.groups g with
        | some l => (.ok, modEntry u (fun e => { e with overflow := true })
            { s with skim := { s.skim with groups := tabPut s.skim.groups g (insertNew vt l) } })
        | none => match makeEntryRoom vt u.1 s with
          | (true, s) => (.ok, modEntry u (fun e => { e with overflow := true })
              { s with skim := { s.skim with groups := tabPut s.skim.groups g (insertNew vt (groupReaders s g)) } })
          | (false, s) => (.gone, abortVt vt 0x08 false none s)

/-- A transaction's line that comes back from its shadow log is read there: the log is filled in the order in which the tag's lines moved
(R29, R72). (DESIGN CHOICE, log 30) -/
def readLog (vt line : Nat) (s : State) : State :=
  match tag? s vt with
  | none => s
  | some g =>
    if s.skim.lines.any (fun l => l.vt == vt && l.line == line && l.place == .log) then
      (areaUse g.launch vt (((launch? s (topOf s g.launch)).map (fun l => lrShLog l.raw)).getD 0)
        (256 * g.logged.reverse.findIdx (· == line)) 256 .read s).2
    else s

/-- Creates or updates the transaction's shadow line for one byte; a new one recalls the companion's copy, and the first that any
transaction has of the line ends every clean copy (R32 (c), R111). -/
def shadowPut (vt die pa : Nat) (b : Byte) (s : State) : State :=
  let s := readLog vt (pa / 128) (shadowForm die (pa / 128) s)
  if (tag? s vt).any (·.st == .aborting) then s
  else match s.skim.lines.find? (fun l => l.vt == vt && l.line == pa / 128) with
  | some _ =>
    let lines := modWhere (fun l => l.vt == vt && l.line == pa / 128)
      (fun l => { l with bytes := tabPut l.bytes (pa % 128) b, used := s.cycles,
                         place := match l.place with | .l2 d => .l2 d | _ => .l2 die }) s.skim.lines
    { s with skim := { s.skim with lines := lines } }
  | none =>
    let first := s.skim.lines.all (fun l => l.line != pa / 128 || (tag? s l.vt).any (·.st == .draining))
    let s := l2Room die (recallLine (pa / 128) (if first then dropCopies (pa / 128) s else s))
    { s with skim := { s.skim with lines := s.skim.lines ++
        [{ vt := vt, line := pa / 128, place := .l2 die, bytes := [(pa % 128, b)], used := s.cycles }] } }

/-- Has a launch aborted in the cycle at hand, in which a cause of a lower code still wins (R165 (b))? -/
def abortedNow (s : State) (l : Launch) : Bool := l.cause.isSome && l.causeAt == s.cycles

/-- Can a conflict still reach the transaction of a tag: is it ACTIVE or QUEUED, or has its launch aborted in this cycle (R117, R165)? -/
def conflictable (s : State) (vt : Nat) : Bool :=
  match tag? s vt with
  | some g => g.st == .active || g.st == .queued || (g.st == .aborting && (launch? s g.launch).any (abortedNow s))
  | none => false

/-- A write that stands outside the Skim aborts the ACTIVE and QUEUED transactions that shadow its line
with CONFLICT: those of the writer's space, or every space's for the companion (R33, R107). -/
def conflictWrite (pa : Nat) (sp : Option Nat) (s : State) : State :=
  let vts := ((s.skim.lines.filter (fun l => l.line == pa / 128)).map (·.vt)).filter (fun v =>
    match tag? s v with
    | some g => conflictable s v &&
        (match sp with
         | none => true
         | some n => match launch? s g.launch with | some l => l.space == n | none => false)
    | none => false)
  vts.foldl (fun s v => abortVt v 0x09 false none s) s

/-- A system agent's write to open memory: bytes at the home, dirty bits, conflicts in the spaces named. -/
def deviceWrite (pa : Nat) (data : List Byte) (sp : Option Nat) (s : State) : State :=
  let lines := ((List.range data.length).map (fun i => (pa + i) / 128)).eraseDups
  writeSys pa data (if 2 ^ 51 ≤ pa then s else lines.foldl (fun s l => conflictWrite (128 * l) sp s) s)

/-- Writes bytes at a virtual address page by page through an open, writable page of a space, as reports and
completion words do; `none` when a page does not permit it (R91, R99, R164). -/
def openTarget (s : State) (sp va n : Nat) : Option Nat :=
  match translate s 160 sp va .devWrite, translate s 160 sp (va + n - 1) .devWrite with
  | .ok pa p _, .ok _ q _ => if pteOpen p && pteOpen q then some pa else none
  | _, _ => none

/-- The physical address of a space's connection table entry (R395). -/
def connAddr (s : State) (sp idx : Nat) : Nat :=
  bits (space s sp).ctLo.toNat 31 6 * 64 + bits (space s sp).ctHi.toNat 19 0 * 2 ^ 32 + 64 * idx

end Sys2Proof.Machine
end

