-- ==== Sys2Proof/Machine/Commit.lean ====
section
/-! DEFINITION. Commit, abort and completion (R109, R117 to R137, R91): the meanings of COMMIT_REQUEST to
RSB_WRITEBACK and of COMPLETION_WORD. -/

namespace Sys2Proof.Machine

/-- A step that always answers a next state. -/
abbrev Out := Host.Outcome State Fault Refusal

/-! ## Deferred work and discards (R133, R134, R234) -/

/-- Removes every cached copy of a line, dirty ones without writing them back (R234). (DEDUCED, log 30) -/
def discardLine (line : Nat) (s : State) : State :=
  let s := dropCopies line s
  { s with
    mem := { s.mem with dirty := tabClear s.mem.dirty (128 * line) 128,
                        rsb := s.mem.rsb.filter (fun e => e.1 % 2 ^ 52 / 128 != line) },
    skim := { s.skim with lines := s.skim.lines.map (fun l =>
      if l.line == line && (match tag? s l.vt with | some g => g.st == .draining | none => false)
      then { l with bytes := [] } else l) } }

/-- The numbers of deferred sends begin here, above those of the accesses that send from open pages. (DESIGN CHOICE, log 45) -/
def deferredOp : Nat := 2 ^ 79

/-- Hands a message to the Ethernet ports; `op` names the operation that its acknowledgement answers (R396). -/
def transmit (op sp conn : Nat) (tag : Word32) (data : List Byte) (s : State) : State :=
  { s with outputs := s.outputs ++ [.ethSend op sp conn tag data] }

/-- Performs one deferred record (R121 step 6). -/
def doDeferred (d : Deferred) (s : State) : State :=
  match d.send with
  | some (conn, tag, data) => transmit (deferredOp + s.nextId) d.space conn tag data { s with nextId := s.nextId + 1 }
  | none => d.lines.foldl (fun s l => discardLine l s) s

/-! ## Tags and entries -/

/-- Removes a tag from every Skim entry and group reader set; empty ones go (R125, R136). -/
def unlistTag (vt : Nat) (s : State) : State :=
  let strip (e : SkimEntry) : SkimEntry :=
    { e with writers := e.writers.filter (· != vt), readers := e.readers.filter (· != vt) }
  let es := (s.skim.entries.map strip).filter (fun e => !(e.writers.isEmpty && e.readers.isEmpty))
  let gs := (s.skim.groups.map (fun g => (g.1, g.2.filter (· != vt)))).filter (fun g =>
      es.any (fun e => e.overflow && e.unit_ / 4096 == g.1))
  { s with skim := { s.skim with entries := es, groups := gs } }

/-- Returns a tag to FREE; the team that it was assigned to holds it no more (R108, R109, R127). -/
def freeTag (vt : Nat) (s : State) : State :=
  { s with skim := { s.skim with tags := tabDel s.skim.tags vt },
           teams := modWhere (fun t => t.vt == some vt) (fun t => { t with vt := none }) s.teams }

/-- A DRAINING tag whose last line has gone returns to FREE (R109). -/
def reapTag (vt : Nat) (s : State) : State :=
  match tag? s vt with
  | some g =>
    if g.st == .draining && !s.skim.releasing.contains vt && s.skim.lines.all (fun l => l.vt != vt) then freeTag vt s else s
  | none => s

/-- Removes a launch that holds nothing any more, with its teams. -/
def forgetLaunch (id : Nat) (s : State) : State :=
  { s with launches := s.launches.filter (·.id != id), teams := s.teams.filter (·.launch != id),
           skim := { s.skim with words := s.skim.words.filter (· != id) } }

/-- The offset of the scratchpad word of a team on which an access is parked. -/
def parkedWordOf (key : Nat) (st : AccSt) : Option Nat :=
  match st with
  | .parked 0 addr _ => if addr / 2 ^ 20 = key then some (addr % 2 ^ 20) else none
  | _ => none

/-- A team retires once its threads have retired, its accesses have ended and its children have committed or aborted;
it returns its slots, scratchpad and stacks, and readers parked on its scratchpad lose their peer, ADDR being the `.P`
address of the word (R141, R202 (c), R406). -/
def retireTeam (key : Nat) (s : State) : State :=
  match team? s key with
  | none => s
  | some m =>
    let mine (t : Nat) : Bool := match thread? s t with | some th => th.team == key | none => false
    if m.retired || s.threads.any (fun e => e.2.team == key && e.2.st != .retired) || s.accesses.any (fun a => mine a.f.thread) ||
       s.launches.any (fun c => c.parentTeam == key && c.parent.isSome) then s
    else
      let s := clearTeam m (freeStacks m s)
      let s := modLaunch m.launch (fun l => { l with retired := l.retired + 1 }) (modTeam key (fun m => { m with retired := true }) s)
      match s.accesses.find? (fun a => parkedWordOf key a.st |>.isSome) with
      | some a => trap a.f 0x07 (m.num * 2 ^ 20 + (parkedWordOf key a.st).getD 0) s
      | none => s

/-- A child's end reaches its parent's team, where LWAIT reads it (R401). -/
def endChild (l : Launch) (status : Nat) (s : State) : State :=
  match l.parent with
  | none => s
  | some _ => retireTeam l.parentTeam
      (forgetLaunch l.id (modTeam l.parentTeam (fun t => { t with status := tabPut t.status l.number status }) s))

/-! ## Requests (R119, R120) -/

/-- Every condition of R119 for the threads of the given teams. -/
def quiet (s : State) (l : Launch) (ts : List Team) : Bool :=
  ts.all (fun t => t.retired) &&
  s.launches.all (fun c => !(c.parent == some l.id && ts.any (fun t => t.key == c.parentTeam))) &&
  s.accesses.all (fun a => !(a.f.launch == l.id && ts.any (fun t =>
    match thread? s a.f.thread with | some th => th.team == t.key | none => false)))

/-- The network cycle at hand (R6). -/
def netCycle (s : State) : Nat := 2 * s.cycles + (if s.half then 1 else 0)

/-- Queues a tag's commit request; requests that arrive in one network cycle stand in ascending order of their tags (R109, R120). -/
def queueTag (vt : Nat) (s : State) : State :=
  let ahead (v : Nat) : Bool := tabGet 0 s.skim.reqAt v < netCycle s || v < vt
  modTag vt (fun g => { g with st := .queued })
    { s with skim := { s.skim with
        requests := s.skim.requests.takeWhile ahead ++ vt :: s.skim.requests.dropWhile ahead
        reqAt := tabPut s.skim.reqAt vt (netCycle s) } }

/-- COMMIT_REQUEST: a launch, or one team under GRAN = TEAM, sends its request once all of R119 holds. A launch
being saved, held or restored sends none (R152). -/
def evCommitRequest (id : Nat) (team : Option Nat) (s : State) : State :=
  match launch? s id with
  | none => s
  | some l =>
    if l.phase != .running then s
    else match team, l.vt with
      | none, some vt =>
        let ts := s.teams.filter (·.launch == id)
        if l.nextTeam == lrTeams l.raw && quiet s l ts && (match tag? s vt with | some g => g.st == .active | none => false)
        then queueTag vt s else s
      | some key, none =>
        match team? s key with
        | some t =>
          (match t.vt with
           | some vt =>
             if t.launch == id && quiet s l [t] && (match tag? s vt with | some g => g.st == .active | none => false)
             then queueTag vt s else s
           | none => s)
        | none => s
      | _, _ => s

/-- COMMIT_START: the unit takes the next request, marks it COMMITTING and broadcasts it (R121 step 1). A request is taken in a
later network cycle than it arrived in, so that those of one cycle are in order (R120). (DEDUCED, log 30) -/
def evCommitStart (s : State) : State :=
  match s.skim.current, s.skim.requests with
  | none, vt :: rest =>
    if netCycle s ≤ tabGet 0 s.skim.reqAt vt then s
    else modTag vt (fun g => { g with st := .committing })
      { s with skim := { s.skim with current := some { vt := vt, walked := [] }, requests := rest } }
  | _, _ => s

/-- The tags that R117 names for one entry of a commit. -/
def conflictsOf (s : State) (vt : Nat) (e : SkimEntry) : List Nat :=
  let spaceOf (v : Nat) : Option Nat := ((tag? s v).bind (fun g => launch? s g.launch)).map (·.space)
  let named := e.writers ++ e.readers ++ (if e.overflow then (tabFind s.skim.groups (e.unit_ / 4096)).getD [] else [])
  let parent := (tag? s vt).bind (·.parent)
  named.eraseDups.filter (fun v =>
    v != vt && !(tagChain s vt).contains v && spaceOf v == spaceOf vt &&
    (match parent with | none => true | some p => v != p && (tagChain s v).contains p) &&
    conflictable s v)

/-- One home's work on one unit: conflicting tags abort and every copy gives way (R121 step 2). -/
def walkEntry (vt : Nat) (e : SkimEntry) (s : State) : State :=
  let s := (conflictsOf s vt e).foldl (fun s v => abortVt v 0x09 false none s) s
  (List.range (if e.len = 512 then 4 else 1)).foldl (fun s i =>
    recallLine (e.unit_ / 128 + i) (dropCopies (e.unit_ / 128 + i) s)) s

/-- The parent takes a merged child's place in an entry (R117, R129). -/
def retag (vt p : Nat) (s : State) : State :=
  let swap (l : List Nat) : List Nat := if l.contains vt then insertNew p (l.filter (· != vt)) else l
  { s with skim := { s.skim with
      entries := s.skim.entries.map (fun e => { e with writers := swap e.writers, readers := swap e.readers })
      groups := s.skim.groups.map (fun g => (g.1, swap g.2)) } }

/-- Each of a child's shadow bytes replaces the parent's, or becomes one (R129). -/
def mergeLine (p : Nat) (l : Shadow) (s : State) : State :=
  match s.skim.lines.find? (fun x => x.vt == p && x.line == l.line) with
  | some _ => modShadow p l.line (fun x => { x with bytes := l.bytes.foldl (fun t e => tabPut t e.1 e.2) x.bytes }) s
  | none => { s with skim := { s.skim with lines := s.skim.lines ++ [{ l with vt := p }] } }

/-- The merge of a child into its parent (R129, R133): shadow, records, deferred work and charges pass on, both
charges of a line that each had in the log among them. (DEDUCED, log 30) -/
def mergeChild (vt p : Nat) (s : State) : State :=
  let mine := s.skim.lines.filter (·.vt == vt)
  let s := { s with skim := { s.skim with lines := s.skim.lines.filter (·.vt != vt) } }
  let s := retag vt p (mine.foldl (fun s l => mergeLine p l s) s)
  let g := (tag? s vt)
  let s := modTag p (fun q => { q with charge := q.charge + (g.map (·.charge)).getD 0,
                                       logged := q.logged ++ (g.map (·.logged)).getD [] }) s
  let s := { s with skim := { s.skim with
      deferred := s.skim.deferred.map (fun d => if d.vt == vt then { d with vt := p } else d)
      current := none, commits := satAdd 65535 s.skim.commits 1 } }
  let s := freeTag vt s
  match g.bind (fun g => launch? s g.launch) with
  | some l => endChild l 0 s
  | none => s

/-- Sets the dirty bits of the pages that these lines lie in (R40). -/
def markLines (ls : List Shadow) (s : State) : State := ls.foldl (fun s l => setDirty (128 * l.line) s) s

/-- COMMIT_WALK: one home walks the entries that the committing tag wrote, aborts the tags R117 names, drops
copies, and sets dirty bits for a top-level tag; the last home's walk completes a child's merge (R121). -/
def evCommitWalk (die : Fin 4) (s : State) : State :=
  match s.skim.current with
  | none => s
  | some c =>
    if c.walked.contains die.val then s
    else
      let mine := s.skim.entries.filter (fun e => e.writers.contains c.vt && homeDie e.unit_ == die.val)
      let s := mine.foldl (fun s e => walkEntry c.vt e s) s
      let parent := (tag? s c.vt).bind (·.parent)
      let s : State := match parent with
        | none =>
          let written := s.skim.lines.filter (fun (l : Shadow) => l.vt == c.vt && homeDie (128 * l.line) == die.val)
          markLines written s
        | some _ => s
      let s := { s with skim := { s.skim with current := some { c with walked := c.walked ++ [die.val] } } }
      match parent with
      | some p => if c.walked.length = 3 then mergeChild c.vt p s else s
      | none => s

/-- A committed line heals the 32-byte words that it covers whole (R29 (c)). -/
def healLine (l : Shadow) (s : State) : State := healCovered l.line (fun i => (tabFind l.bytes i).isSome) s

/-- A flipped launch that has nothing left to commit joins the order in which completion words go out (R120). -/
def listWord (id : Nat) (s : State) : State :=
  match launch? s id with
  | some l =>
    if l.phase == .committed || (l.vt.isNone && l.teamCommits == lrTeams l.raw)
    then { s with skim := { s.skim with words := s.skim.words ++ [id] } } else s
  | none => s

/-- COMMIT_FLIP: in one cycle every shadow line of the tag becomes a committed value (R121 step 5, R122); a copy of such a
line that the companion or a die took after the walk gives way first (R32 (b), R33), and a dirty bit that software has cleared
since the walk is set again (R40). (DEDUCED, log 30) -/
def evCommitFlip (s : State) : State :=
  match s.skim.current with
  | none => s
  | some c =>
    if c.walked.length = 4 && ((tag? s c.vt).bind (·.parent)).isNone then
      let mine := s.skim.lines.filter (·.vt == c.vt)
      let s := markLines mine (mine.foldl (fun s l => recallLine l.line (dropCopies l.line s)) s)
      let s := mine.foldl (fun s l => l.bytes.foldl (fun s e => supersede (128 * l.line + e.1) s) s) s
      let s := mine.foldl (fun s l => healLine l (dropVerdicts (128 * l.line) s)) s
      let s := unlistTag c.vt (modTag c.vt (fun g => { g with st := .draining }) s)
      let s := { s with skim := { s.skim with current := none, releasing := s.skim.releasing ++ [c.vt],
                                              commits := satAdd 65535 s.skim.commits 1 } }
      match (tag? s c.vt) with
      | some g => listWord g.launch (modLaunch g.launch (fun l => if l.vt.isSome then { l with phase := .committed }
                                               else { l with teamCommits := l.teamCommits + 1 }) s)
      | none => s
    else s

/-- COMMIT_RELEASE: the deferred sends and discards of the oldest flipped commit go out in the order their
nodes performed; its completion word may then be written (R121 step 6, R133, R134). -/
def evCommitRelease (s : State) : State :=
  match s.skim.releasing with
  | [] => s
  | vt :: rest =>
    let mine := s.skim.deferred.filter (·.vt == vt)
    let s := { s with skim := { s.skim with releasing := rest, deferred := s.skim.deferred.filter (·.vt != vt) } }
    let s := mine.foldl (fun s d => doDeferred d s) s
    reapTag vt { s with skim := { s.skim with lines := s.skim.lines.filter (fun l => !(l.vt == vt && l.bytes.isEmpty)) } }

/-- One committed byte reaches its home memory (R123). -/
def drainByte (pa : Nat) (b : Byte) (s : State) : State :=
  { s with mem := { s.mem with home := tabSet 0 s.mem.home pa b, dirty := tabDel s.mem.dirty pa } }

/-- LINE_DRAIN: a committed line reaches its home memory; the tag's last line returns the tag to FREE (R123). -/
def evLineDrain (vt line : Nat) (s : State) : State :=
  match tag? s vt with
  | some g =>
    if g.st == .draining then
      let mine := s.skim.lines.filter (fun l => l.vt == vt && l.line == line)
      let s := { s with skim := { s.skim with lines := s.skim.lines.filter (fun l => !(l.vt == vt && l.line == line)) } }
      let s := mine.foldl (fun s l => l.bytes.foldl (fun s e => drainByte (128 * line + e.1) e.2 s) s) s
      reapTag vt s
    else s
  | none => s

/-! ## The end of a launch (R91, R124, R125, R127, R164) -/

/-- The report bytes of R164. -/
def abortReport (l : Launch) (top : Nat) : List Byte :=
  let r := l.report.getD (emptyReport 0 top)
  toBytes 1 (l.cause.getD 0) ++ toBytes 1 (boolBit r.nodeValid 0 + boolBit r.addrValid 1) ++ toBytes 2 r.block ++
  toBytes 2 r.node ++ toBytes 2 r.thread ++ toBytes 4 r.team ++ toBytes 1 r.depth ++ toBytes 1 0 ++ toBytes 2 r.vt ++
  toBytes 8 r.addr.toNat ++ List.replicate 40 0

/-- Writes 64 bytes of a report where the page is open and writable, or loses it (R99, R164). -/
def writeReport (sp va : Nat) (data : List Byte) (s : State) : State :=
  match openTarget s sp va 64 with
  | some pa => if reachable s pa then writeSys pa data s else s
  | none => s

/-- Returns a launch's record to the head of its queue, in original queue order (R48, R151). -/
def requeueRecord (l : Launch) (s : State) : State :=
  let w : Waiting := { index := l.index, raw := l.raw, sat := List.replicate 4 true, monitored := List.replicate 4 none,
                       faults := List.replicate 4 none, wasElig := true }
  modQueue l.queue (fun q => { q with waiting := insertBy (·.index) w q.waiting }) (forgetLaunch l.id s)

/-- Has a transaction no descendant that still holds a tag of its own? The merge of a COMMITTING child into a parent that aborts,
and the aborts of the others, come before the parent's tag returns to FREE (R109, R125, R129). -/
def childless (s : State) (vt : Nat) : Bool := s.skim.tags.all (fun e => e.2.parent != some vt)

/-- ABORT_COMPLETE: once every line, entry and record of the tag is removed, the tag returns to FREE; a child's
end reaches its parent, and a requeued launch's record its queue (R125, R127, R151). -/
def evAbortComplete (vt : Nat) (s : State) : State :=
  match tag? s vt with
  | none => s
  | some g =>
    if g.st != .aborting || !childless s vt then s
    else
      let s := { s with skim := { s.skim with lines := s.skim.lines.filter (·.vt != vt),
                                              deferred := s.skim.deferred.filter (·.vt != vt) } }
      let s := freeTag vt (unlistTag vt s)
      match launch? s g.launch with
      | none => s
      | some l =>
        if (endTags s l none).any (fun v => (tag? s v).isSome) then s
        else if l.requeue && l.teamCommits = 0 then requeueRecord l s
        else endChild l (l.cause.getD 0) s

/-- Is no earlier commit's completion word still to be released (R120)? One that is parked has been. (DEDUCED, log 24) -/
def wordsTurn (s : State) (id : Nat) : Bool :=
  !s.skim.words.contains id ||
  (s.skim.words.takeWhile (· != id)).all (fun e => match launch? s e with | some k => k.fault.isSome | none => true)

/-- May the completion word of a top-level launch be written now (R120, R121, R124, R127)? A tag that has passed to another launch holds
nothing of this one. (DEDUCED, log 24) -/
def wordReady (s : State) (l : Launch) : Bool :=
  let drained (v : Nat) : Bool := match tag? s v with
    | some g => g.launch != l.id || (g.st == .draining && !s.skim.releasing.contains v &&
        s.skim.lines.all (fun x => !(x.vt == v && x.place == .log)))
    | none => true
  l.parent.isNone && l.fault.isNone && wordsTurn s l.id &&
  (match l.vt with
   | some v =>
     (l.phase == .committed && drained v) ||
     (l.phase == .aborted && (match tag? s v with | some g => g.launch != l.id || g.st == .draining | none => true))
   | none =>
     let vts := (s.teams.filter (·.launch == l.id)).filterMap (·.vt)
     vts.all drained && (l.phase == .aborted || (l.phase == .running && l.teamCommits == lrTeams l.raw)))

/-- The completion word of R91. -/
def doneWord (l : Launch) : Nat :=
  l.cause.getD 0 + boolBit l.tern 8 + boolBit (lrTeamGran l.raw && l.cause.isSome && decide (0 < l.teamCommits)) 9 + 2 ^ 15 +
  2 ^ 32 * (lrCookie l.raw % 2 ^ 32)

/-- Stops a launch's queue with BADREC and lets the launch go (R91). -/
def badRec (l : Launch) (s : State) : State :=
  forgetLaunch l.id (modQueue l.queue (fun q => { q with err := 4, stopped := true }) s)

/-- COMPLETION_WORD: with the launch's areas empty and its open stores performed at their homes (R231), its abort report and then
its completion word are written; a page that is not mapped or not writable parks the write with KIND 5, and any other bar stops the queue (R91, R124). -/
def evCompletionWord (id : Nat) (s : State) : State :=
  match launch? s id with
  | none => s
  | some l =>
    if !wordReady s l then s
    else if l.requeue && l.teamCommits = 0 then requeueRecord l s
    else match translate s 160 l.space (lrDone l.raw) .devWrite with
      | .park reason =>
        if !s.xlat.fqEnable then
          badRec l (fatalFault { key := 0, id := none, space := l.space, va := lrDone l.raw, kind := 5, reason := reason,
                                 vt := namedTag s l, core := 0xFFFF, cookie := BitVec.ofNat 64 (lrCookie l.raw) } s)
        else
          let (k, s) := parkFault { key := 0, id := none, space := l.space, va := lrDone l.raw, kind := 5, reason := reason,
                                    vt := namedTag s l, core := 0xFFFF, cookie := BitVec.ofNat 64 (lrCookie l.raw) } s
          modLaunch id (fun l => { l with fault := some k }) s
      | .ok pa p _ =>
        if !pteOpen p || pteSys p || (decide (2 ^ 51 ≤ pa) && !compBacked s pa) then badRec l s
        else if !reachable s pa then s
        else
          let s := drainDies l.dies s
          let s := if l.ran && l.cause.isSome && lrReport l.raw ≠ 0
            then writeReport l.space (lrReport l.raw + 64) (abortReport l l.causeVt) s else s
          forgetLaunch id (writeSys pa (toBytes 8 (doneWord l)) s)
      | .link | .ue _ => s
      | x => badRec l (fatalFault { key := 0, id := none, space := l.space, va := lrDone l.raw, kind := 5,
                                    reason := if x = .perm then 3 else 2, vt := namedTag s l, core := 0xFFFF, cookie := BitVec.ofNat 64 (lrCookie l.raw) } s)

/-- SHADOW_EVICT: an L2 evicts a VT-marked line to its home's shadow share; a full share first moves its least
recently used lines to their owners' logs, and where none can move the line stays (R112, R113). -/
def evShadowEvict (vt line : Nat) (s : State) : State :=
  match s.skim.lines.find? (fun l => l.vt == vt && l.line == line) with
  | some l =>
    (match l.place with
     | .l2 _ =>
       (match makeRoom (homeDie (128 * line)) 128 s with
        | (true, s) => modShadow vt line (fun x => { x with place := .llc }) s
        | (false, s) => s)
     | _ => s)
  | none => s

/-- Must a home's other write-backs wait? While fewer than 64 tags are FREE, lines of DRAINING tags go first (R110). -/
def drainFirst (s : State) (die : Nat) : Bool :=
  decide (freeTags s < 64) &&
  s.skim.lines.any (fun l => homeDie (128 * l.line) == die && (tag? s l.vt).any (·.st == .draining))

/-- RSB_WRITEBACK: a remote store buffer entry takes its place in coherence order (R211 (b)). -/
def evRsbWriteback (die : Fin 4) (line : Nat) (s : State) : State :=
  if drainFirst s (homeDie (128 * line)) then s else rsbDrain die.val line s

/-- SC_TOKEN_HOP: the serialising token passes to the next die's home (R229). -/
def evScTokenHop (s : State) : State :=
  if netCycle s < s.scAt || (s.scWaiting.any (fun w => w % 4 == s.scToken) && decide (netCycle s < s.scAt + 16)) then s
  else { s with scToken := (s.scToken + 1) % 4, scAt := netCycle s + 5 }

end Sys2Proof.Machine
end

