-- ==== Sys2Proof/Machine/Operands.lean ====
section
/-! DEFINITION. What a firing reads and what it sends: every operand form of R257 to R260, the window, k registers and
special registers (R186, R187, R273), the result tokens with their waves and steering (R177, R261 to R264), and the
match that parks for the Hamper (R189, R191). -/

namespace Sys2Proof.Machine

/-! ## The firing's surroundings -/

def imageOf (s : State) (id : Nat) : Option Image := (launch? s id).map (·.image)

def blockAt (s : State) (l b : Nat) : Option Block := (imageOf s l).bind (fun m => m.blocks[b]?)

/-- The effective crew width of a launch (R101). -/
def widthOf (s : State) (l : Nat) : Nat := ((imageOf s l).map (·.width)).getD 32

def emulatesOf (s : State) (l : Nat) : Bool := ((imageOf s l).map (·.emulate)).getD false

/-- Is this block its image's handler block (R195)? -/
def isHandler (s : State) (l b : Nat) : Bool :=
  match imageOf s l with
  | some m => m.emulate && m.emuh == b
  | none => false

/-- A block in loop mode; the handler block ignores its mode (R178, R197). -/
def isLoop (s : State) (l b : Nat) : Bool :=
  match blockAt s l b with
  | some k => k.loop_ && !isHandler s l b
  | none => false

def placedOf (s : State) (core l b : Nat) : Option Placed :=
  s.placed.find? (fun p => p.launch == l && p.block == b && (p.core == core || p.core == core / 4 * 4 &&
    (match blockAt s l b with | some k => decide (16 < k.pages) | none => false)))

/-- The physical PE of a node: core × 256 + page × 16 + PE (R166). -/
def physPe (s : State) (core l b replica node : Nat) : Nat :=
  match placedOf s core l b with
  | some p => ((p.replicas.getD replica []).getD (node / 128) 0) * 16 + node / 8 % 16
  | none => 0

/-! ## Windows (R186, R187, R189) -/

def fpOf (s : State) (t : Nat) : Nat := ((thread? s t).map (·.fp)).getD 0

/-- The ring row that holds a position, as a key of the live-value store. -/
def lvsKey (crew pos lane : Nat) : Nat := (crew * 64 + pos % 64) * 32 + lane

def lvsWord (s : State) (crew pos lane : Nat) : Nat := (tabGet 0 s.core.lvs (lvsKey crew pos lane)).toNat

def setLvs (crew pos lane v : Nat) (s : State) : State :=
  { s with core := { s.core with lvs := tabSet 0 s.core.lvs (lvsKey crew pos lane) (BitVec.ofNat 32 v) } }

/-- The positions that a move in progress takes out of the range, in the order in which it exchanges them. (DEDUCED, log 43) -/
def leaving (c : Crew) : List Nat :=
  ((List.range 64).map (c.lo + ·)).filter (fun p => !decide (c.target ≤ p ∧ p < c.target + 64))

/-- Is a position resident? During a move, only positions of the new range that stay or have entered (R189). -/
def resident (c : Crew) (pos : Nat) : Bool :=
  let old := decide (c.lo ≤ pos ∧ pos < c.lo + 64)
  let new := decide (c.target ≤ pos ∧ pos < c.target + 64)
  if c.target = c.lo then old else new && (old || ((leaving c).take c.done).any (fun p => p % 64 == pos % 64))

def residentFor (s : State) (t pos : Nat) : Bool :=
  match tabFind s.crews (crewOf t) with
  | some c => resident c pos
  | none => false

/-- The writes of the cycle at hand (R260). -/
def wroteNow (s : State) : List Wrote := if s.core.wroteAt = s.cycles then s.core.wrote else []

/-- What a word held before the cycle at hand, if a firing of this cycle has written it. -/
def heldBefore (s : State) (kreg : Bool) (key : Nat) : Option Word32 :=
  ((wroteNow s).find? (fun w => w.kreg == kreg && w.key == key)).map (·.old)

/-- A window word as the firings of this cycle see it: without what the cycle itself writes (R260). -/
def lvsSeen (s : State) (crew pos lane : Nat) : Nat :=
  match heldBefore s false (lvsKey crew pos lane) with
  | some w => w.toNat
  | none => lvsWord s crew pos lane

/-- A thread's window slot w`k` as a firing reads it. -/
def slotWord (s : State) (t k : Nat) : Nat := lvsSeen s (crewOf t) (fpOf s t + k) (laneOf t)

/-- What a word holds after some writes of one cycle over what it held before: of several to one bit the lowest node's stands (R286). -/
def lastWrite (old : Word32) (ws : List Wrote) : Word32 :=
  (sortBy (fun (w : Wrote) => 2 ^ 20 - w.node) ws).foldl (fun v w => (v &&& ~~~w.mask) ||| (w.val &&& w.mask)) old

/-- A node's write of some bits of a window word, or of a k register. Of the k registers the manual does not say which of two writes of
one cycle stands: the model takes the window's rule. (DEDUCED, log 13) -/
def putWord (kreg : Bool) (key node : Nat) (mask val : Word32) (s : State) : State :=
  let now := tabGet 0 (if kreg then s.core.kregs else s.core.lvs) key
  let old := (heldBefore s kreg key).getD now
  let ws := wroteNow s ++ [{ kreg := kreg, key := key, old := old, node := node, mask := mask, val := val }]
  let v := lastWrite old (ws.filter (fun w => w.kreg == kreg && w.key == key))
  { s with core := { s.core with
      lvs := if kreg then s.core.lvs else tabSet 0 s.core.lvs key v
      kregs := if kreg then tabSet 0 s.core.kregs key v else s.core.kregs
      wrote := ws, wroteAt := s.cycles } }

/-- A node's write of some bits of window slot w`k`. -/
def setSlot (t node k : Nat) (mask val : Word32) (s : State) : State :=
  putWord false (lvsKey (crewOf t) (fpOf s t + k) (laneOf t)) node mask val s

/-- Reads `n` slots from w`k`, lowest first (R187). -/
def readSlots (s : State) (t k : Nat) : Nat → Nat
  | 0 => 0
  | n + 1 => slotWord s t k + 2 ^ 32 * readSlots s t (k + 1) n

/-- Writes `n` slots from w`k`. -/
def writeSlots (t node k : Nat) : Nat → Nat → State → State
  | 0, _, s => s
  | n + 1, v, s => writeSlots t node (k + 1) n (v / 2 ^ 32) (setSlot t node k (-1) (BitVec.ofNat 32 v) s)

/-- A predicate slot p`j` (R187). -/
def readPred (s : State) (t j : Nat) : Nat := slotWord s t 31 / 2 ^ j % 2

def writePred (t node j b : Nat) (s : State) : State := setSlot t node 31 (1#32 <<< j) (BitVec.ofNat 32 (b % 2 * 2 ^ j)) s

/-! ## Crews and k registers (R101 to R104) -/

def tidOf (s : State) (t : Nat) : Nat := ((thread? s t).map (·.tid)).getD 0

/-- The logical crew of a thread within its team, and its lane there. -/
def logicalCrew (s : State) (l t : Nat) : Nat := tidOf s t / widthOf s l
def logicalLane (s : State) (l t : Nat) : Nat := tidOf s t % widthOf s l

/-- The key of thread `tid` of a team. -/
def threadKey (m : Team) (tid : Nat) : Nat := m.crews.getD (tid / 32) 0 * 32 + tid % 32

/-- The hardware number of k`k` for a lane of a hardware crew: the second logical crew of width 16 has k64 up. -/
def kIndex (w lane k : Nat) : Nat := if w = 16 ∧ 16 ≤ lane then k + 64 else k

def kWord (s : State) (l t k : Nat) : Nat :=
  let key := crewOf t * 128 + kIndex (widthOf s l) (laneOf t) k
  ((heldBefore s true key).getD (tabGet 0 s.core.kregs key)).toNat

/-! ## Special registers (R273) -/

def specialReg (s : State) (f : Firing) (i : Nat) : Nat :=
  let team := (thread? s f.thread).bind (fun t => team? s t.team)
  match i with
  | 0 => tidOf s f.thread
  | 1 => logicalLane s f.launch f.thread
  | 2 => logicalCrew s f.launch f.thread
  | 3 => (team.map (·.num)).getD 0
  | 4 => ((team.bind (fun m => vtOf s f.launch m.key))).getD 0
  | 5 => coreOf f.thread
  | 6 => clusterOf (coreOf f.thread)
  | 7 => dieOf (coreOf f.thread)
  | 8 => f.wave
  | 9 => ((launch? s f.launch).map (·.depth)).getD 0
  | 10 => widthOf s f.launch
  | 11 => s.clock % 2 ^ 64
  | _ => 0

/-! ## Operands (R257 to R260, R264) -/

/-- How wide an operand is: a number of bits, a predicate, or a wide operand of lanes of a width. -/
inductive Wd where
  | bits (w : Nat)
  | pred
  | wide (lane : Nat)
  deriving DecidableEq, Repr

/-- One operand of a node: its source, its width and the type that an immediate extends by (R251). -/
structure Opd where
  src : Src
  wd : Wd
  ty : Ty
  deriving DecidableEq, Repr

/-- An operand of the class of a type. -/
def opdT (t : Ty) (src : Src) : Opd := { src := src, wd := .bits (tyBits t), ty := t }
def opd32 (src : Src) : Opd := { src := src, wd := .bits 32, ty := .n32 }
def opd64 (src : Src) : Opd := { src := src, wd := .bits 64, ty := .b64 }
def opdP (src : Src) : Opd := { src := src, wd := .pred, ty := .b32 }
/-- A wide operand of lanes of a type. -/
def opdV (t : Ty) (src : Src) : Opd := { src := src, wd := .wide (tyBits t), ty := t }
def opdW (src : Src) : Opd := { src := src, wd := .wide 256, ty := .b64 }
/-- A value of a carrying node's class (R284). -/
def opdC (c : Cls) (src : Src) : Opd :=
  match c with
  | .narrow => opd64 src
  | .wide => opdW src
  | .pred => opdP src

/-- Operand C: SRCC where bits [63:48] hold it, and input port c otherwise (R259). -/
def srcC (n : Node) : Src :=
  match n.low with
  | .src s => s
  | _ => .port 2

/-- IMM16. (DEDUCED, log 20) -/
def immRaw (n : Node) : BitVec 16 := match n.low with | .imm v => v | _ => 0

/-- A value in every lane of a width. -/
def fill (w v : Nat) : Nat := ((List.range (256 / w)).map (fun i => v % 2 ^ w * 2 ^ (w * i))).sum

/-- The value of the token matched at a port. -/
def portVal (f : Firing) (p : Nat) : Nat := ((f.toks.find? (·.port == p)).map (·.val.toNat)).getD 0

/-- The window slots that an operand reads. -/
def slotsOf (o : Opd) : List Nat :=
  match o.src with
  | .win k =>
    if 32 ≤ k.val then [31]
    else match o.wd with
      | .wide _ => (List.range 8).map (k.val + ·)
      | .bits w => if 32 < w then [k.val, k.val + 1] else [k.val]
      | .pred => [k.val]
  | _ => []

def cutTo (w : Wd) (v : Nat) : Nat :=
  match w with
  | .bits n => v % 2 ^ n
  | .pred => v % 2
  | .wide _ => v % 2 ^ 256

/-- The value of one operand in the firing cycle. (DEDUCED, log 20) -/
def opdVal (s : State) (f : Firing) (n : Node) (o : Opd) : Nat :=
  cutTo o.wd (match o.src with
    | .none => 0
    | .port p => portVal f p.val
    | .win k =>
      if 32 ≤ k.val then readPred s f.thread (k.val - 32)
      else readSlots s f.thread k.val (slotsOf o).length
    | .kreg k =>
      kWord s f.launch f.thread k.val +
        (if o.wd = .bits 64 then 2 ^ 32 * kWord s f.launch f.thread (k.val + 1) else 0)
    | .imm =>
      (match o.wd with
       | .pred => (immRaw n).toNat
       | .bits _ => (extendImm o.ty (immRaw n)).getD 0
       | .wide w => fill w ((extendImm o.ty (immRaw n)).getD 0))
    | .sr i => specialReg s f i.val
    | .pool i =>
      (match imageOf s f.launch with
       | some m => field m.cpool (8 * i.val) (match o.wd with | .wide _ => 32 | _ => 8)
       | none => 0))

/-- The first window position that a firing needs and that is not resident (R189). -/
def absent (s : State) (f : Firing) (slots : List Nat) : Option Nat :=
  (slots.map (fpOf s f.thread + ·)).find? (fun p => !residentFor s f.thread p)

/-! ## Accesses and parked matches (R191) -/

/-- The AGE of a match: its oldest token's (R172). -/
def oldestAge (f : Firing) : Nat := ((f.toks.tail).foldl (fun m k => Nat.min m k.age) (((f.toks.head?).map (·.age)).getD 0))

/-- A match that has fired and not sent its result. -/
def addAccess (i : Instr) (f : Firing) (a b c : Nat) (st : AccSt) (s : State) : State :=
  { s with
    accesses := s.accesses ++ [{ id := s.nextId, i := i, f := f, a := BitVec.ofNat 256 a, b := BitVec.ofNat 256 b,
                                 c := BitVec.ofNat 256 c, st := st, order := s.nextId, left := [], got := [], result := 0,
                                 drop := false, age := oldestAge f, fence := none, issued := s.cycles }]
    nextId := s.nextId + 1 }

/-- The parked matches of a core, of which it holds at most 512 (R204). (DEDUCED, log 26) -/
def parkedOn (s : State) (core : Nat) : Nat :=
  (s.accesses.filter (fun a => a.f.core == core && (match a.st with | .parked _ _ _ => true | _ => false))).length

/-- A match whose window position is not resident parks with KIND 3 (R189); while no entry is free it stays a match. -/
def parkWindow (i : Instr) (f : Firing) (pos : Nat) (s : State) : State :=
  if 512 ≤ parkedOn s f.core then { s with resumed := s.resumed ++ [f] } else addAccess i f 0 0 0 (.parked 3 pos none) s

/-! ## Waves and results (R177, R178, R261 to R264) -/

/-- The handler invocation that a firing belongs to (R197): its tokens carry it. -/
def invOf (f : Firing) : Nat := ((f.toks.head?).map (·.inv)).getD 0

/-- Is a wave of a thread live in a block (R178)? A match that waits to be made again holds a token of each thread that takes part in it. -/
def liveWave (s : State) (t l b w : Nat) : Bool :=
  s.tokens.any (fun k => k.thread == t && k.launch == l && k.block == b && k.wave == w) ||
  s.accesses.any (fun a => a.f.thread == t && a.f.launch == l && a.f.block == b && a.f.wave == w && !a.drop) ||
  s.resumed.any (fun g => (g.thread == t || g.toks.any (·.thread == t)) && g.launch == l && g.block == b && g.wave == w)

/-- The wave of a node's output tokens (R177, R178, R197). -/
def waveOut (s : State) (f : Firing) (n : Node) : Nat :=
  match n.tag with
  | .winc => if isLoop s f.launch f.block then (f.wave + 1) % 64 else f.wave
  | .wrst => if isHandler s f.launch f.block then f.wave else 0
  | _ => f.wave

/-- A wave that comes to life for the first of a logical crew's threads begins new keys at the crew-join nodes of the block: the masks
that were read for the wave are forgotten (R339). (DESIGN CHOICE, log 44) -/
def newKeys (t l b w : Nat) (s : State) : State :=
  let team (x : Nat) : Option Nat := (thread? s x).map (·.team)
  let peer (x : Nat) : Bool := team x == team t && logicalCrew s l x == logicalCrew s l t
  if s.threads.any (fun e => peer e.1 && liveWave s e.1 l b w) then s
  else { s with masks := s.masks.filter (fun m => !(m.launch == l && m.block == b && m.wave == w && some m.team == team t &&
      m.crew == logicalCrew s l t)) }

/-- A wave that comes to life opens an episode of its own, after every earlier one (R215). (DEDUCED, log 11) -/
def openWave (f : Firing) (w : Nat) (s : State) : State :=
  if w = f.wave ∨ liveWave s f.thread f.launch f.block w then s
  else newKeys f.thread f.launch f.block w <| modThread f.thread (fun t => { t with episodes := t.episodes.filter (fun e => !(e.block == f.block && e.wave == w)) ++
    [{ block := f.block, wave := w, inv := invOf f, expect := none, closed := false, passed := [] }] }) s

/-- One token to one destination node of the firing's block. -/
def sendTok (f : Firing) (w : Nat) (net : Net) (v : Word256) (d : Dst) (s : State) : State :=
  { s with
    tokens := s.tokens ++ [{ thread := f.thread, wave := w, net := net, val := v, launch := f.launch, block := f.block,
                             replica := f.replica, node := d.page.val * 128 + d.pe.val * 8 + d.slot.val, port := d.port.val,
                             age := 0, place := .out,
                             src := physPe s f.core f.launch f.block f.replica f.node * 8 + f.node % 8,
                             seq := s.nextId, count := 0, inv := invOf f }]
    nextId := s.nextId + 1 }

/-- A steered destination's condition (R261, R263). -/
def steerOk (st : Steer) (bit : Bool) : Bool :=
  match st with
  | .always => true
  | .onOne => bit
  | .onZero => !bit

/-- The valid destinations whose condition holds; an edge port takes no token. -/
def destsOf (n : Node) (bit : Bool) : List Dst :=
  ([n.d0, n.d1].filterMap id).filter (fun d => d.net != .edge && steerOk d.steer bit)

/-- The 64-bit value in each lane of a wide token (R168). -/
def spread (v : Nat) : Nat := fill 64 v

/-- Sends a result to every destination that the steer bit selects. -/
def emitBit (n : Node) (f : Firing) (net : Net) (v : Nat) (bit : Bool) (s : State) : State :=
  let w := waveOut s f n
  let net' := if n.tag = .repl then Net.wide else net
  let v' := BitVec.ofNat 256 (if n.tag = .repl then spread v else v)
  match destsOf n bit with
  | [] => s
  | ds => ds.foldl (fun s d => sendTok f w net' v' d s) (openWave f w s)

/-- Sends a result; the steer bit is bit 0 of the result (R263). -/
def emit (n : Node) (f : Firing) (net : Net) (v : Nat) (s : State) : State := emitBit n f net v (v % 2 == 1) s

/-! ## Running a node -/

/-- A firing reads its operands in the firing cycle, unless a window position that it needs is not resident (R189,
R260). With no firing at hand nothing happens. -/
def runNode (n : Node) (i : Instr) (ops : List Opd) (more : List Nat) (go : Firing → List Nat → State → State) (s : State) :
    Out :=
  .next (match s.cur with
    | none => s
    | some f =>
      let t := { s with cur := none }
      match absent t f ((ops.map slotsOf).flatten ++ more) with
      | some pos => parkWindow i f pos t
      | none => go f (ops.map (opdVal t f n)) t)

/-- A node of one, two or three operands that computes one result. -/
def calc1 (n : Node) (i : Instr) (a : Opd) (net : Net) (g : Nat → Nat) (s : State) : Out :=
  runNode n i [a] [] (fun f v s => emit n f net (g (v.getD 0 0)) s) s
def calc2 (n : Node) (i : Instr) (a b : Opd) (net : Net) (g : Nat → Nat → Nat) (s : State) : Out :=
  runNode n i [a, b] [] (fun f v s => emit n f net (g (v.getD 0 0) (v.getD 1 0)) s) s
def calc3 (n : Node) (i : Instr) (a b c : Opd) (net : Net) (g : Nat → Nat → Nat → Nat) (s : State) : Out :=
  runNode n i [a, b, c] [] (fun f v s => emit n f net (g (v.getD 0 0) (v.getD 1 0) (v.getD 2 0)) s) s

end Sys2Proof.Machine
end

