-- ==== Sys2Proof/Machine/Threads.lean ====
section
/-! DEFINITION. A thread's program order and its run through blocks: episodes and turns (R215, R216), waiting vectors,
departures and retirement (R179, R295 to R297), barriers that a retirement completes (R387). -/

namespace Sys2Proof.Machine

/-! ## Program order (R215, R216) -/

/-- SEQ, PRED and SUCC of an ordered node. -/
def seqFields (n : Node) : Option (Nat × Nat × Nat) :=
  match n.low with
  | .seq q p u => some (q.toNat, p.toNat, u.toNat)
  | _ => none

def accSeq (a : Access) : Option (Nat × Nat × Nat) := (form a.i).bind (fun m => seqFields m.node)

/-- The sync nodes of R373. -/
def isSync (i : Instr) : Bool :=
  match i with
  | .barArrive _ _ | .barWait _ _ | .barSync _ _ | .cbar _ | .csync _ _ | .semp _ _ | .semv _ _ | .semtry _ _ | .semdec _ _ => true
  | _ => false

/-- A read that a departure drops (R296); the writes, atomics and LAUNCH stay parked. -/
def isRead (i : Instr) : Bool :=
  match i with
  | .ld _ _ _ | .ldu _ _ | .ldw _ _ _ | .iread _ _ | .spwait _ _ _ | .gather _ _ _ _ => true
  | _ => false

/-- Do two firings of a thread stand in one program order: both outside the handler block, or in one invocation of it (R197)? -/
def oneOrder (s : State) (f g : Firing) : Bool :=
  if isHandler s f.launch f.block then isHandler s g.launch g.block && invOf f == invOf g else !isHandler s g.launch g.block

/-- The instruction of a node of a launch's block. -/
def nodeAt (s : State) (l b node : Nat) : Option Instr :=
  match (blockAt s l b).bind (fun k => tabFind k.words node) with
  | some w => (match decodeIn (emulatesOf s l) w with | .ok i => some i | .error _ => none)
  | none => none

def isCsync (i : Instr) : Bool := match i with | .csync _ _ => true | _ => false

/-- Does a match stand for a CSYNC that has fired and waits for its members' accesses (R373, R388)? -/
def csyncWaits (s : State) (g : Firing) : Bool := (nodeAt s g.launch g.block g.node).any isCsync

/-- Does something hold back the issue of a thread's ordered access: a parked access before it, or a sync node that has fired
and not sent its result, a CSYNC of its crew among them (R191, R216, R373)? The parked reads that a departure drops hold nothing back (R296). -/
def heldBack (s : State) (f : Firing) : Bool :=
  let going : Bool := match tabFind s.threads f.thread with
    | some th => (match th.st with | .departing _ _ _ => true | _ => false)
    | none => false
  s.accesses.any (fun a => a.f.thread == f.thread && oneOrder s a.f f &&
    (match a.st with
     | .parked k _ _ => k != 3 && !(going && isRead a.i)
     | _ => isSync a.i)) ||
  s.resumed.any (fun g => g.toks.any (·.thread == f.thread) && oneOrder s g f && csyncWaits s g)

/-- Is it the episode of a firing? -/
def episodeOf (f : Firing) (e : Episode) : Bool := e.block == f.block && e.wave == f.wave && e.inv == invOf f

/-- An open episode for an ordered node: where its wave's chain has closed or never began, a node with PRED = 0 begins
a new one after every earlier one. (DEDUCED, log 11) -/
def ensureEpisode (f : Firing) (pred : Nat) (s : State) : State :=
  match thread? s f.thread with
  | none => s
  | some t =>
    if t.episodes.any (fun e => episodeOf f e && !e.closed) || pred ≠ 0 then s
    else modThread f.thread (fun t => { t with episodes := t.episodes ++
      [{ block := f.block, wave := f.wave, inv := invOf f, expect := none, closed := false, passed := [] }] }) s

/-- Is it this ordered node's turn? An invocation of the handler block keeps its own chain (R197). (DEDUCED, log 11) -/
def atTurn (s : State) (f : Firing) (seq pred : Nat) : Bool :=
  match thread? s f.thread with
  | none => false
  | some t =>
    let h := isHandler s f.launch f.block
    match t.episodes.find? (fun e => !e.closed && (if h then episodeOf f e else !isHandler s t.launch e.block)) with
    | some e => episodeOf f e && (match e.expect with | none => pred == 0 | some q => q == seq)
    | none => false

/-- The chain after an access has issued (R216). (DEDUCED, log 11) -/
def stepEpisode (f : Firing) (seq _pred succ : Nat) (s : State) : State :=
  let on (e : Episode) : Episode := if succ = 0 then { e with closed := true } else { e with expect := some (seq + succ) }
  let step (es : List Episode) : List Episode := es.map (fun e => if episodeOf f e && !e.closed then on e else e)
  let kept (es : List Episode) : List Episode := es.filter (fun e => !(e.closed && isHandler s f.launch e.block))
  modThread f.thread (fun t => { t with episodes := kept (step t.episodes) }) s

/-- The ordered access of a thread that issues next. A departing thread's accesses that have fired issue in chain
order, positions that have not fired retiring without an access (R296). (DEDUCED, log 11) -/
def nextIssue (s : State) (t : Nat) : Option Access :=
  let mine := s.accesses.filter (fun a => a.f.thread == t && a.st == .waiting)
  match thread? s t with
  | none => none
  | some th =>
    match th.st with
    | .departing b _ _ =>
      leastBy (fun a => (th.episodes.findIdx (episodeOf a.f)) * 256 +
        ((accSeq a).map (·.1)).getD 0) (mine.filter (fun a => a.f.block == b && !heldBack s a.f))
    | _ => mine.find? (fun a => !heldBack s a.f && (match accSeq a with | some (q, p, _) => atTurn s a.f q p | none => false))

/-! ## Waiting vectors (R179, R98) -/

/-- Is the block armed (R97)? -/
def armed (s : State) (l b : Nat) : Bool := match blockAt s l b with | some k => k.reason == 0 | none => false

/-- A thread sets its bit for a block; an unarmed block aborts the launch with FORMAT (R98). (DEDUCED, log 41) -/
def setWaiting (t b : Nat) (s : State) : State :=
  match thread? s t with
  | none => s
  | some th =>
    if armed s th.launch b then modThread t (fun th => { th with st := .waiting b, saved := false, since := s.cycles }) s
    else abortLaunch th.launch 0x06 false none s

/-! ## Barriers (R386, R387) -/

/-- The threads of a team that have not retired. -/
def liveThreads (s : State) (key : Nat) : Nat := (s.threads.filter (fun e => e.2.team == key && e.2.st != .retired)).length

def barrierOf (m : Team) (k : Nat) : Barrier :=
  (m.barriers.find? (·.num == k)).getD { num := k, phase := 0, arrived := 0, target := 0 }

def putBarrier (key : Nat) (b : Barrier) (s : State) : State :=
  modTeam key (fun m => { m with barriers := m.barriers.filter (·.num != b.num) ++ [b] }) s

/-- The barrier that a waiting access waits at, and the phase it waits for. -/
def barWaits (a : Access) : Option (Nat × Word32) :=
  match a.i with
  | .barWait n _ => some ((immRaw n).toNat % 16, a.result.setWidth 32)
  | .barSync n _ => some ((immRaw n).toNat % 16, a.result.setWidth 32)
  | _ => none

/-- `check_complete` of R387: a phase that is complete releases its waiters. -/
def checkBarrier (key k : Nat) (s : State) : State :=
  match team? s key with
  | none => s
  | some m =>
    let b := barrierOf m k
    let t := if b.target = 0 then liveThreads s key else b.target
    if t ≤ b.arrived ∧ 0 < b.arrived then
      let s := putBarrier key { b with phase := b.phase + 1, arrived := 0 } s
      { s with accesses := s.accesses.map (fun a =>
          if a.st == .blocked && barWaits a == some (k, b.phase) &&
             (match thread? s a.f.thread with | some th => th.team == key | none => false)
          then { a with st := .done } else a) }
    else s

/-- Every barrier of a team, after a thread of it has retired. -/
def checkBarriers (key : Nat) (s : State) : State :=
  match team? s key with
  | some m => (m.barriers.map (·.num)).foldl (fun s k => checkBarrier key k s) s
  | none => s

/-! ## Departures (R295 to R297) -/

/-- A valid target (R295). -/
def targetOk (m : Image) (t : Nat) : Bool := t == 65535 || (decide (t < m.blocks.length) && !(m.emulate && m.emuh == t))

/-- A parked read, or a match parked on its window, which a departure drops (R296). -/
def parkedRead (a : Access) : Bool := match a.st with | .parked k _ _ => k == 3 || isRead a.i | _ => false

/-- A departing thread's parked reads and window waits in its block go (R296). -/
def dropParkedReads (t b : Nat) (s : State) : State :=
  { s with accesses := s.accesses.filter (fun a => !(a.f.thread == t && a.f.block == b && parkedRead a)) }

/-- The thread stops matching in its block and will leave it for the target (R296). (DEDUCED, log 41) -/
def depart (f : Firing) (target fp : Nat) (s : State) : State :=
  dropParkedReads f.thread f.block (modThread f.thread (fun t => { t with st := .departing f.block target fp }) s)

/-- A departure whose target is checked as the node fires (R295). -/
def departTo (f : Firing) (target fp : Nat) (s : State) : State :=
  match imageOf s f.launch with
  | some m => if targetOk m target then depart f target fp s else abortOf f 0x06 s
  | none => s

/-- The thread retires: it keeps its window words, barriers see one thread fewer, and its team may retire (R297, R387). -/
def retireThread (t : Nat) (s : State) : State :=
  match thread? s t with
  | none => s
  | some th =>
    let s := modThread t (fun x => { x with st := .retired }) s
    retireTeam th.team (checkBarriers th.team s)

/-- Every access of the departing thread in the block that is not parked has returned its response. (DEDUCED, log 41) -/
def departReady (s : State) (t b : Nat) : Bool :=
  s.accesses.all (fun a => !(a.f.thread == t && a.f.block == b) ||
    (match a.st with | .parked _ _ _ => true | .done => true | _ => a.drop))

/-- Is a match one of several threads, at a crew-join node? -/
def joined (f : Firing) : Bool := f.toks.any (fun k => k.thread != f.thread)

/-- A CSYNC that has fired takes effect for the members that stay when one of them leaves (R296). -/
def withoutMember (t : Nat) (f : Firing) : Firing :=
  let ks := f.toks.filter (·.thread != t)
  { f with toks := ks, thread := (ks.head?.map (·.thread)).getD f.thread }

/-- A thread leaves a block for good: its own matches that wait to be made again go, and a crew-join match that holds a token of it is a
set of waiting tokens again, without that one (R192, R297, R345); a CSYNC that has fired goes on without it (R296). -/
def leaveMatches (t b : Nat) (s : State) : State :=
  let mine (f : Firing) : Bool := f.block == b && (f.thread == t || f.toks.any (·.thread == t))
  let fired (f : Firing) : Bool := joined f && csyncWaits s f
  { s with
    tokens := s.tokens ++ ((s.resumed.filter (fun f => mine f && joined f && !fired f)).flatMap (·.toks)).filter (·.thread != t)
    resumed := (s.resumed.filter (fun f => !mine f || fired f)).map (fun f => if mine f then withoutMember t f else f) }

/-- DEPARTURE_COMPLETE: parked reads and window waits are dropped, the thread's tokens in the block discarded, FP set,
and the thread retires or sets its bit in the target's vector (R296). (DEDUCED, log 41) -/
def completeDeparture (t : Nat) (s : State) : State :=
  match thread? s t with
  | none => s
  | some th =>
    match th.st with
    | .departing b target fp =>
      if !departReady s t b then s
      else
        let here (a : Access) : Bool := a.f.thread == t && a.f.block == b && a.f.launch == th.launch
        let mine (k : Token) : Bool := k.thread == t && k.launch == th.launch && k.block == b
        let s := leaveMatches t b s
        let s := { s with
          accesses := (s.accesses.filter (fun a => !(here a && (match a.st with
              | .parked k _ _ => k == 3 || isRead a.i
              | _ => !a.drop)))).map (fun a => if here a then { a with drop := true } else a)
          tokens := s.tokens.filter (fun k => !mine k)
          seams := backUnits (s.tokens.filter mine) s.seams }
        let s := modThread t (fun x => { x with fp := fp, episodes := x.episodes.filter (fun e => e.block != b) }) s
        if target = 65535 then retireThread t s else setWaiting t target s
    | _ => s

end Sys2Proof.Machine
end

