-- ==== Sys2Proof/Machine/Access.lean ====
section
/-! DEFINITION. What the memory nodes do with bytes: translation of an access with its faults (R80, R372), reads and
writes of .G and .L under the Skim (R105, R106, R111, R115, R116), the scratchpads with their presence bits (R202 to R206),
the parameter copy, atomics (R227 to R229) and the work of releases and acquires (R216, R218 to
R226, R230, R231). An access is performed whole, in one step. -/

namespace Sys2Proof.Machine

/-! ## How an attempt to perform an access ends -/

/-- An access is performed with its result, parks (R191), waits in a unit, stays in flight to be tried again, holds its memory port
(R386), or its launch has ended. -/
inductive Try where
  | done (v : Nat)
  | park (kind addr : Nat) (fault : Option Nat)
  | block
  | wait
  | hold
  | gone
  deriving DecidableEq, Repr

/-- A part of an access: its value, or the reason why the access cannot go on. -/
abbrev Part (α : Type) := Except Try α × State

/-- A part followed by the rest. -/
def thenDo {α β : Type} (p : Part α) (k : α → State → Part β) : Part β :=
  match p with
  | (.ok x, s) => k x s
  | (.error t, s) => (.error t, s)

def good {α : Type} (x : α) (s : State) : Part α := (.ok x, s)
def stop {α : Type} (t : Try) (s : State) : Part α := (.error t, s)

/-- The end of a part that performs the whole access. -/
def finish (p : Part Nat) : Try × State :=
  match p with
  | (.ok v, s) => (.done v, s)
  | (.error t, s) => (t, s)

/-- Parts over a list, in order. -/
def eachPart {α β : Type} (k : α → State → Part β) : List α → State → Part (List β)
  | [], s => good [] s
  | x :: t, s => thenDo (k x s) (fun y s => thenDo (eachPart k t s) (fun ys s => good (y :: ys) s))

def teamOf (s : State) (f : Firing) : Option Team := (thread? s f.thread).bind (fun t => team? s t.team)
def spaceOf (s : State) (f : Firing) : Nat := ((launch? s f.launch).map (·.space)).getD 0
def vtOfFiring (s : State) (f : Firing) : Option Nat := (thread? s f.thread).bind (fun t => vtOf s f.launch t.team)

/-- An uncorrectable error under a read of an access (R29 (c), R30, R130). -/
def memUe (f : Firing) (e : Nat × Nat × Nat) (s : State) : State := ueAbort f.launch (vtOfFiring s f) e s

/-! ## Translation (R80, R372) -/

/-- Translates one address of an access; a page that is not mapped or not writable parks it, and every other bar is
fatal. KIND 0 is a load, 1 a store or atomic, 2 an engine (R372). (DEDUCED, log 31) -/
def reach (f : Firing) (kind va : Nat) (need : Need) (s : State) : Part (Nat × Nat) :=
  match launch? s f.launch with
  | none => stop .gone s
  | some l =>
    match translate s f.core l.space va need with
    | .ok pa p _ => good (pa, p) (fillTlb f.core l.space va s)
    | .park r =>
      if s.xlat.fqEnable then
        let r := parkFault { key := 0, id := none, space := l.space, va := va, kind := kind, reason := r,
                             vt := (vtOfFiring s f).getD 0, core := f.core, cookie := BitVec.ofNat 64 (lrCookie l.raw) } s
        stop (.park 1 va (some r.1)) r.2
      else stop .gone (fatalOf f kind r va s)
    | .page => stop .gone (fatalOf f kind 2 va s)
    | .perm => stop .gone (fatalOf f kind 3 va s)
    | .link => stop .gone (abortOf f 0x15 s)
    | .ue e => stop .gone (memUe f e s)

/-- A hole of the scratchpad or of the parameter copy (R202, R372). (DEDUCED, log 31) -/
def holeAt {α : Type} (f : Firing) (kind va : Nat) (s : State) : Part α := stop .gone (fatalOf f kind 2 va s)

def misaligned {α : Type} (f : Firing) (va : Nat) (s : State) : Part α := stop .gone (trap f 0x03 va s)

/-! ## Reads and writes of .G and .L -/

/-- The tag's own line comes to the L2 of the die that touches it (R136). -/
def touchShadow (vt die pa : Nat) (s : State) : State :=
  if !s.skim.lines.any (fun l => l.vt == vt && l.line == pa / 128) then s
  else modShadow vt (pa / 128) (fun l => { l with used := s.cycles, place := match l.place with | .l2 d => .l2 d | _ => .l2 die })
    (readLog vt (pa / 128) (shadowForm die (pa / 128) s))

/-- A byte as an access that is performed at the home sees it: its own die's remote store buffer forwards (R211 (b)). -/
def homeSide (s : State) (die pa : Nat) : Byte :=
  match tabFind s.mem.rsb (die * 2 ^ 52 + pa) with
  | some b => b
  | none => homeByte s pa

/-- After a read at the home, or at the companion, the die's clean copy of the line, or the core's of a companion line, which may be older,
is dropped, so that no later read of the line returns an older value (R221). (DESIGN CHOICE, log 5) -/
def freshCopy (core pa : Nat) (s : State) : State :=
  if 2 ^ 51 ≤ pa then { s with mem := { s.mem with compCopies := tabDel s.mem.compCopies (core * 2 ^ 45 + pa / 128) } }
  else { s with mem := { s.mem with
    copies := tabDel s.mem.copies (dieOf core * 2 ^ 45 + pa / 128)
    l1 := s.mem.l1.filter (fun e => !(l1Remote [dieOf core] e.1 && e.1 % 2 ^ 45 == pa / 128)) } }

/-- A load of a core leaves a read copy in its L1, or the line itself where the page says SYNC = 1 (R208). -/
def touchLine (core pa pte : Nat) (s : State) : State :=
  if pteSync pte then l1Own core pa pte (countUse core pa s) else l1Fill core pa pte (countUse core pa s)

/-- A store of a core is written through, or goes into the line that its L1 owns on a page with SYNC = 1 (R208). -/
def storedLine (core pa pte : Nat) (s : State) : State :=
  if pteSync pte then l1Own core pa pte (countUse core pa s) else countUse core pa s

/-- Do the shadows of these tags hold every byte of a range, so that none is read from memory? -/
def allShadow (s : State) (vts : List Nat) (pa n : Nat) : Bool :=
  (List.range n).all (fun i => (vts.findSome? (fun v => shadowByte s v (pa + i))).isSome)

/-- Reads `n` bytes, at most 32 and within one aligned 32 bytes, from .G or, with `home`, from .L (R106, R201, R374). (DEDUCED, log 31) -/
def loadG (f : Firing) (kind : Nat) (home : Bool) (va n : Nat) (s : State) : Part (List Byte) :=
  thenDo (reach f kind va .read s) (fun t s =>
    let (pa, p) := t
    let die := dieOf f.core
    let at_ (g : Nat → Byte) : List Byte := (List.range n).map (fun i => g (pa + i))
    if 2 ^ 51 ≤ pa then
      if home then (if linkOk s pa then good (at_ (tabGet 0 s.mem.comp)) (freshCopy f.core pa s) else stop .gone (abortOf f 0x15 s))
      else if (tabFind s.mem.compCopies (f.core * 2 ^ 45 + pa / 128)).isSome then
        (match badCopy s f.core pa with
         | some e => stop .gone (memUe f e s)
         | none => good (at_ (compByte s f.core)) s)
      else if linkOk s pa then good (at_ (compByte s f.core)) (keepCompCopy f.core pa s)
      else stop .gone (abortOf f 0x15 s)
    else if pteOpen p then
      match (if home then badAt s pa n else badSeen s die pa n) with
      | some e => stop .gone (memUe f e s)
      | none => if home then good (at_ (homeSide s die)) (freshCopy f.core pa (countUse f.core pa s))
                else good (at_ (dieByte s die)) (touchLine f.core pa p (keepCopy die pa s))
    else match vtOfFiring s f with
      | none => stop .gone s
      | some vt =>
        let vts := tagChain s vt
        match badSeen s die pa n, allShadow s vts pa n with
        | some e, false => stop .gone (memUe f e s)
        | _, _ =>
          match recordRead vt (unitOf pa p) s with
          | (.ok, s) => good (at_ (readByte s die vts)) (touchLine f.core pa p (keepCopy die pa (touchShadow vt die pa s)))
          | (.hold, s) => stop .wait s
          | (.gone, s) => stop .gone s)

/-- Bytes written at their home LLC by a core: its own die's buffered stores to the line come first (R201, R228). -/
def writeAtHome (die pa : Nat) (data : List Byte) (s : State) : State :=
  let s := rsbDrain die (pa / 128) s
  let s := healWords pa data.length (writeRun writeHomeByte pa data s)
  let s := l1Invalidate (fun c => dieOf c == die || dieOf c == homeDie pa) pa data.length s
  { s with mem := { s.mem with copies := tabDel s.mem.copies (die * 2 ^ 45 + pa / 128) } }

/-- Is a line shadowed by a transaction whose commit is in progress? An open write of such a line is performed at once, so that the
commit's bytes follow it (R107). -/
def committingLine (s : State) (line : Nat) : Bool :=
  s.skim.lines.any (fun l => l.line == line && (tag? s l.vt).any (·.st == .committing))

/-- Does an L2 of a die hold a shadow line of any transaction for this line (R211 (c))? -/
def shadowAt (s : State) (die line : Nat) : Bool := s.skim.lines.any (fun l => l.line == line && l.place == .l2 die)

/-- Writes shadow bytes of the firing's transaction; the other L1s of the die that writes, and of the die whose L2 holds the shadow line, lose
their copies (R111, R115, R210). -/
def shadowWrite (f : Firing) (pa pte : Nat) (data : List Byte) (s : State) : Part Unit :=
  match vtOfFiring s f with
  | none => stop .gone s
  | some vt =>
    match addWriter vt (unitOf pa pte) s with
    | (.ok, s) =>
      let s := writeRun (shadowPut vt (dieOf f.core)) pa data s
      let at_ (c : Nat) : Bool := s.skim.lines.any (fun l => l.vt == vt && l.line == pa / 128 && l.place == .l2 (dieOf c))
      good () (l1Invalidate (fun c => c != f.core && (dieOf c == dieOf f.core || at_ c)) pa data.length s)
    | (.hold, s) => stop .wait s
    | (.gone, s) => stop .gone s

/-- Writes at most 32 bytes within one aligned 32 bytes to .G or, with `home`, to .L (R105, R107, R375). An open store to a remote-homed line of
which the die's L2 holds a shadow line gathers in no store buffer, since the L2 holds the line in one form (R211). The transactions that
shadow the line abort as the store performs, and not again as its entry of the buffer is written home. (DESIGN CHOICE, log 52) -/
def storeG (f : Firing) (kind : Nat) (home : Bool) (va : Nat) (data : List Byte) (s : State) : Part Unit :=
  thenDo (reach f kind va .write s) (fun t s =>
    let (pa, p) := t
    if 2 ^ 51 ≤ pa then
      if linkOk s pa then good () (writeCore f.core pa data s) else stop .gone (abortOf f 0x15 s)
    else if pteOpen p then
      let s := conflictWrite pa (some (spaceOf s f)) s
      if home || (homeDie pa != dieOf f.core && (committingLine s (pa / 128) || shadowAt s (dieOf f.core) (pa / 128))) then
        good () (countUse f.core pa (writeAtHome (dieOf f.core) pa data s))
      else good () (storedLine f.core pa p (writeCore f.core pa data s))
    else thenDo (shadowWrite f pa p data s) (fun _ s => good () (storedLine f.core pa p s)))

/-- A byte range cut at the multiples of 32: address and length of each piece, none of an empty range. -/
def pieces (va n : Nat) : List (Nat × Nat) :=
  if n = 0 then [] else ((List.range ((va % 32 + n + 31) / 32)).map (fun k =>
    let lo := Nat.max va (va / 32 * 32 + 32 * k)
    (lo, Nat.min (va + n) (va / 32 * 32 + 32 * k + 32) - lo)))

/-- Reads a range of any length, piece by piece in ascending order. -/
def loadRange (f : Firing) (kind : Nat) (home : Bool) (va n : Nat) (s : State) : Part (List Byte) :=
  thenDo (eachPart (fun (r : Nat × Nat) s => loadG f kind home r.1 r.2 s) (pieces va n) s) (fun l s => good l.flatten s)

/-- Writes a range of any length, piece by piece in ascending order. -/
def storeRange (f : Firing) (kind : Nat) (home : Bool) (va : Nat) (data : List Byte) (s : State) : Part Unit :=
  thenDo (eachPart (fun (r : Nat × Nat) s => storeG f kind home r.1 ((data.drop (r.1 - va)).take r.2) s) (pieces va data.length) s)
    (fun _ s => good () s)

/-! ## Scratchpads (R202 to R206) -/

/-- The scratchpad that an address names: the key of its team and the offset; a peer that is gone traps with the `.P` address
in ADDR (R201, R202, R416). -/
def padOf (f : Firing) (kind : Nat) (sp : Sp) (va n : Nat) (s : State) : Part (Nat × Nat) :=
  match teamOf s f with
  | none => stop .gone s
  | some m =>
    let size := ((imageOf s f.launch).map (·.scratch)).getD 0
    if sp = .s then (if size < va + n then holeAt f kind va s else good (m.key, va) s)
    else
      let off := va % 2 ^ 20
      let num := va / 2 ^ 20 % 2 ^ 32
      if 2 ^ 52 ≤ va ∨ size < off + n then holeAt f kind va s
      else if num = m.num then good (m.key, off) s
      else match s.teams.find? (fun t => t.launch == f.launch && t.num == num) with
        | some t => if t.retired || clusterOf t.core != clusterOf m.core then stop .gone (trap f 0x07 va s) else good (t.key, off) s
        | none => stop .gone (trap f 0x07 va s)

def padByte (s : State) (key off : Nat) : Byte := tabGet 0 s.core.scratch (key * 2 ^ 20 + off)

def padBytes (s : State) (key off n : Nat) : List Byte := (List.range n).map (fun i => padByte s key (off + i))

/-- The presence bit of a word (R203). -/
def present (s : State) (key word : Nat) : Bool := (tabFind s.core.absent (key * 2 ^ 17 + word)).isNone

/-- The words that a range overlaps. -/
def padWords (off n : Nat) : List Nat := if n = 0 then [] else (List.range ((off + n - 1) / 8 + 1 - off / 8)).map (off / 8 + ·)

/-- The first word of a range whose presence bit is clear. -/
def firstAbsent (s : State) (key off n : Nat) : Option Nat := (padWords off n).find? (fun w => !present s key w)

def setPresent (key word : Nat) (s : State) : State :=
  { s with core := { s.core with absent := tabDel s.core.absent (key * 2 ^ 17 + word) } }

def clearPresent (key word : Nat) (s : State) : State :=
  { s with core := { s.core with absent := tabPut s.core.absent (key * 2 ^ 17 + word) () } }

/-- Writes scratchpad bytes and sets the presence bits of their words (R203). -/
def padWrite (key off : Nat) (data : List Byte) (s : State) : State :=
  let s := writeRun (fun o b s => { s with core := { s.core with scratch := tabSet 0 s.core.scratch (key * 2 ^ 20 + o) b } }) off data s
  (padWords off data.length).foldl (fun s w => setPresent key w s) s

/-- Parks on a scratchpad word with KIND 0; its address holds the team and the offset (R191, R203). (DEDUCED, log 26) -/
def parkWord {α : Type} (key word : Nat) (s : State) : Part α := stop (.park 0 (key * 2 ^ 20 + 8 * word) none) s

/-- Goes on once every word of a range is present. -/
def needWords (key off n : Nat) (s : State) : Part Unit :=
  match firstAbsent s key off n with
  | some w => parkWord key w s
  | none => good () s

/-! ## The sizes of tile packets (R346, R350) -/

/-- The header of a packet. -/
structure Head where
  elem : Ty
  scale : ScaleKind
  rows : Nat
  cols : Nat
  deriving DecidableEq, Repr

def ceilDiv (a b : Nat) : Nat := (a + b - 1) / b

/-- RB, SB and the span (R346). -/
def rowBytes (h : Head) : Nat := 32 * ceilDiv (h.cols * tyBits h.elem) 256
def scaleBytes (h : Head) : Nat :=
  match h.scale with | .none => 0 | .e8m0 => 8 * ceilDiv (ceilDiv h.cols 32) 8 | _ => 8
def spanOf (h : Head) : Nat := roundUp (64 + h.rows * (rowBytes h + scaleBytes h)) 256

/-- How many scale codes a row has, and how wide one is. -/
def scaleCount (h : Head) : Nat := match h.scale with | .none => 0 | .e8m0 => ceilDiv h.cols 32 | _ => 1
def scaleWidth (h : Head) : Nat := match h.scale with | .f32 => 32 | .bf16 => 16 | _ => 8

/-- Bytes of one row of the memory image (R350). -/
def imageElems (h : Head) : Nat := ceilDiv (h.cols * tyBits h.elem) 8
def imageScales (h : Head) : Nat := scaleCount h * scaleWidth h / 8

/-- A tile transfer descriptor (R350): TOFF, shape and stride in bytes. -/
structure TileDesc where
  toff : Nat
  rows : Nat
  cols : Nat
  stride : Nat
  deriving DecidableEq, Repr

def tileDesc (v : Nat) : TileDesc :=
  { toff := v % 2 ^ 20, rows := v / 2 ^ 20 % 256 + 1, cols := v / 2 ^ 28 % 256 + 1, stride := 32 * (v / 2 ^ 36 % 2 ^ 28) }

/-! ## Releases, acquires and the order of one thread (R216, R220, R230) -/

/-- The rows of a tile's memory image as ranges (R350). -/
def imageRanges (h : Head) (va stride : Nat) : List (Nat × Nat) :=
  (List.range h.rows).map (fun r => ((va + stride * r) % 2 ^ 64, imageElems h + imageScales h))

/-- The bytes that an access touches by its operands, for R216 (a): a space, a base and a number of bytes for each range. The lanes of a gather
or scatter count as the whole space, the packets of a tile or systolic node as the whole scratchpad (R349), and a published packet as all
above its head, which names its span. -/
def touches (a : Access) : List (Sp × Nat × Nat) :=
  let va := a.a.toNat % 2 ^ 64
  let sOr (b : Bool) : Sp := if b then .s else .g
  match a.i with
  | .ld n sp _ | .ldu n sp | .st n sp _ | .stu n sp | .iread n sp | .iwrite n sp | .aadd n sp _ | .afadd n sp _
  | .amin n sp _ | .amax n sp _ | .aand n sp _ | .aor n sp _ | .axor n sp _ | .axchg n sp _ | .acas n sp _
  | .ainc n sp _ | .adec n sp _ => [(sp, va, tyBits n.ty / 8)]
  | .ldw _ sp _ | .stw _ sp _ => [(sp, va, 32)]
  | .flushr _ _ | .discr _ | .nsend _ _ | .nrecv _ _ => [(.g, va, a.b.toNat % 2 ^ 64)]
  | .spset _ sp _ | .spclr _ sp _ | .spwait _ sp _ => [(sp, va, a.b.toNat % 2 ^ 64)]
  | .copy _ src dst _ => [(sOr dst, va, a.c.toNat % 2 ^ 64), (sOr src, a.b.toNat % 2 ^ 64, a.c.toNat % 2 ^ 64)]
  | .copys _ src dst _ =>
    let c := a.c.toNat % 2 ^ 64
    (sOr dst, va, 8 * (c % 2 ^ 16 + 1) * (c / 2 ^ 16 % 2 ^ 16)) ::
      (List.range (c % 2 ^ 16 + 1)).map (fun r => (sOr src, (a.b.toNat + 8 * (c / 2 ^ 32) * r) % 2 ^ 64, 8 * (c / 2 ^ 16 % 2 ^ 16)))
  | .gather _ sp _ _ | .scatter _ sp _ _ | .scatadd _ sp _ _ => [(sp, 0, 2 ^ 64)]
  | .gathert n sp _ sc _ =>
    let d := tileDesc (a.c.toNat % 2 ^ 64)
    [(sp, 0, 2 ^ 64), (.s, d.toff, spanOf { elem := n.ty, scale := sc, rows := 8, cols := d.cols })]
  | .tload n sc _ | .tstore n sc _ _ =>
    let d := tileDesc (a.b.toNat % 2 ^ 64)
    let h : Head := { elem := n.ty, scale := sc, rows := d.rows, cols := d.cols }
    (.s, d.toff, spanOf h) :: (imageRanges h va d.stride).map (fun r => (.g, r.1, r.2))
  | .strmPub _ _ _ => [(.s, a.b.toNat % 2 ^ 64, 2 ^ 20)]
  | .tfill _ | .tmma _ _ _ _ | .ttern _ _ _ | .tgrp _ _ _ _ | .tcvt _ _ _ _ | .ttrans _ _ | .tscale _ _ _ _
  | .sysw _ _ | .sysa _ _ | .sysd _ => [(.s, 0, 2 ^ 20)]
  | _ => []

/-- Do two ranges share a byte? .G and .L are one memory, .S and .P one scratchpad for this thread. -/
def rangesMeet (r q : Sp × Nat × Nat) : Bool :=
  let pad (x : Sp) : Bool := x == .s || x == .p
  if pad r.1 then pad q.1 && decide (r.2.1 % 2 ^ 20 < q.2.1 % 2 ^ 20 + q.2.2 ∧ q.2.1 % 2 ^ 20 < r.2.1 % 2 ^ 20 + r.2.2)
  else !pad q.1 && r.1 != .k && q.1 != .k && decide (r.2.1 < q.2.1 + q.2.2 ∧ q.2.1 < r.2.1 + r.2.2)

/-- Is it an engine operation of R230? -/
def isEngine (i : Instr) : Bool :=
  match i with
  | .copy _ _ _ _ | .copys _ _ _ _ | .gather _ _ _ _ | .gathert _ _ _ _ _ | .scatter _ _ _ _ | .scatadd _ _ _ _
  | .strmOpen _ _ | .strmSub _ _ | .strmPub _ _ _ | .strmCloseEnd _ _ | .strmCloseLeave _ _ | .nsend _ _
  | .tload _ _ _ | .tstore _ _ _ _ => true
  | _ => false

/-- May an engine operation still have to write into a scratchpad, or to hear from the network, after every access that a release at
crew to die scope waits for has been performed (R230)? -/
def padEngine (i : Instr) : Bool :=
  match i with
  | .copy _ _ d _ | .copys _ _ d _ => d
  | .strmPub _ _ _ | .tload _ _ _ | .gathert _ _ _ _ _ => true
  | _ => false

/-- Has an engine operation that is under way no access left but writes into a scratchpad? A stream's opening, subscription and
closing make no access, and an NSEND has read its bytes once it is with the port (R230, R362, R396). (DEDUCED, log 31) -/
def accessesDone (a : Access) : Bool :=
  match a.i with
  | .strmOpen _ _ | .strmSub _ _ | .strmCloseEnd _ _ | .strmCloseLeave _ _ => true
  | .nsend _ _ => a.st == .blocked
  | .gathert _ _ _ _ _ => a.left.length == 8
  | i => padEngine i && !a.got.isEmpty

/-- Does an address translate to companion memory? -/
def toCompanion (s : State) (f : Firing) (va : Nat) : Bool :=
  match translate s f.core (spaceOf s f) va .device with | .ok pa _ _ => decide (2 ^ 51 ≤ pa) | _ => false

/-- Is it an atomic marked .sc on companion memory, which acts at system scope (R229)? -/
def scCompanion (s : State) (a : Access) : Bool :=
  match a.i with
  | .aadd _ sp m | .afadd _ sp m | .amin _ sp m | .amax _ sp m | .aand _ sp m | .aor _ sp m | .axor _ sp m | .axchg _ sp m
  | .acas _ sp m | .ainc _ sp m | .adec _ sp m =>
    m.sc && (sp == .g || sp == .l) &&
    toCompanion s a.f (a.a.toNat % 2 ^ 64)
  | _ => false

/-- The scope at which an access releases (R222); a PUB does towards its subscribers, which are threads of its cluster (R363). -/
def relScope (i : Instr) : Option Scope :=
  match i with
  | .st _ _ m | .stw _ _ m => if m.rel then some m.scope else none
  | .aadd _ _ m | .afadd _ _ m | .amin _ _ m | .amax _ _ m | .aand _ _ m | .aor _ _ m | .axor _ _ m | .axchg _ _ m
  | .acas _ _ m | .ainc _ _ m | .adec _ _ m =>
    if m.sc then some (if m.scope = .sys then .sys else .dev) else if m.rel then some m.scope else none
  | .iwrite _ _ => some .team
  | .fence _ sc | .barArrive _ sc | .barSync _ sc | .csync _ sc | .semv _ sc => some sc
  | .launch _ => some .dev
  | .strmPub _ _ _ => some .clu
  | _ => none

/-- The scope at which an access acquires (R222). -/
def acqScope (i : Instr) : Option Scope :=
  match i with
  | .ld _ _ m | .ldw _ _ m => if m.acq then some m.scope else none
  | .aadd _ _ m | .afadd _ _ m | .amin _ _ m | .amax _ _ m | .aand _ _ m | .aor _ _ m | .axor _ _ m | .axchg _ _ m
  | .acas _ _ m | .ainc _ _ m | .adec _ _ m =>
    if m.sc then some (if m.scope = .sys then .sys else .dev) else if m.acq then some m.scope else none
  | .iread _ _ => some .team
  | .fence _ sc | .barWait _ sc | .barSync _ sc | .csync _ sc | .semp _ sc | .semdec _ sc | .semtry _ sc => some sc
  | .lwait _ => some .dev
  | _ => none

def wideScope (sc : Scope) : Bool := sc == .dev || sc == .sys

/-- The scopes at which an access of the machine releases and acquires (R222, R229). -/
def releases (s : State) (a : Access) : Option Scope := if scCompanion s a then some .sys else relScope a.i
def acquires (s : State) (a : Access) : Option Scope := if scCompanion s a then some .sys else acqScope a.i

/-- Is the access an ordered one, or a sync node (R216, R373)? -/
def ordered (a : Access) : Bool := (accSeq a).isSome || isSync a.i

/-- Has the access been performed? A release of crew to die scope asks of an engine operation only that its accesses have been, its
writes into a scratchpad apart (R230). -/
def performed (a : Access) (wide : Bool) : Bool :=
  match a.st with
  | .done => true
  | _ => !wide && accessesDone a

/-- Is it a range of virtual memory? -/
def inVirtual (r : Sp × Nat × Nat) : Bool := (r.1 == .g || r.1 == .l) && r.2.2 != 0

/-- Is a range longer than the longest that one NSEND takes (R396)? -/
def longRange (r : Sp × Nat × Nat) : Bool := decide (4096 * 4096 < r.2.2)

/-- The 4 KiB pages of a range of virtual memory as physical ranges, where they translate. (DEDUCED, log 31) -/
def physical (s : State) (f : Firing) (r : Sp × Nat × Nat) : List (Nat × Nat) :=
  if !inVirtual r || longRange r then []
  else ((List.range ((r.2.1 % 4096 + r.2.2 + 4095) / 4096)).filterMap (fun i =>
    let lo := Nat.max r.2.1 (r.2.1 / 4096 * 4096 + 4096 * i)
    let hi := Nat.min (r.2.1 + r.2.2) (r.2.1 / 4096 * 4096 + 4096 * i + 4096)
    match translate s f.core (spaceOf s f) lo .device with
    | .ok pa _ _ => some (pa, hi - lo)
    | _ => none))

/-- A range of virtual memory as a thread's tracked reads see it, where it translates (R106). -/
def seenRange (s : State) (f : Firing) (va n : Nat) : List Byte :=
  let vts := ((vtOfFiring s f).map (tagChain s)).getD []
  (physical s f (.g, va, n)).flatMap (fun r => (List.range r.2).map (fun i =>
    if 2 ^ 51 ≤ r.1 then compByte s f.core (r.1 + i)
    else (vts.findSome? (fun v => shadowByte s v (r.1 + i))).getD (dieByte s (dieOf f.core) (r.1 + i))))

/-- What a LAUNCH reads when it is performed, with its own tracked reads: the record, and the parameter block that the record names (R399). -/
def launchReads (s : State) (a : Access) : List (Sp × Nat × Nat) :=
  match a.i with
  | .launch _ =>
    let va := a.a.toNat % 2 ^ 64
    let raw := seenRange s a.f va 256
    let head := seenRange s a.f (lrParam raw) 64
    [(.g, va, 256), (.g, lrParam raw, 64 + Nat.min 65536 (field head 4 4))]
  | _ => []

/-- Every byte that an access touches, for R216 (a). -/
def touchesIn (s : State) (a : Access) : List (Sp × Nat × Nat) := touches a ++ launchReads s a

/-- Do two accesses of one thread touch a common byte, under one virtual address or under two of one frame (R216 (a))? A range of more than
16 MiB is taken to meet every other. (DEDUCED, log 31) -/
def commonByte (s : State) (e a : Access) : Bool :=
  (touchesIn s e).any (fun r => (touchesIn s a).any (fun q => rangesMeet r q ||
    (inVirtual r && inVirtual q && (longRange r || longRange q)) ||
    (physical s e.f r).any (fun x => (physical s a.f q).any (fun y => decide (x.1 < y.1 + y.2 ∧ y.1 < x.1 + x.2)))))

/-- Does an access order none that comes after it by the bytes that it touches: an engine operation, or a FLUSHR (R230, R233)? -/
def ordersNone (i : Instr) : Bool := isEngine i || (match i with | .flushr _ _ => true | _ => false)

/-- Must `a` wait for the earlier access `e` of its thread (R216 (a) to (d), R220)? `own` is the number of the thread's team. Two sync nodes
are no accesses of the ordering unit and order each other by their tokens alone (R373). -/
def mustFollow (s : State) (own : Nat) (e a : Access) : Bool :=
  let pad (x : Access) : Bool := !isEngine x.i && (touches x).any (fun r => r.1 == .s || (r.1 == .p && r.2.1 / 2 ^ 20 == own))
  let rel := match releases s a with
    | some sc => !performed e (wideScope sc)
    | none => false
  if isSync e.i && isSync a.i then false
  else if rel then true
  else if performed e true then false
  else (acquires s e).isSome || (pad e && pad a) || (match e.fence with | some k => decide (k < a.order) | none => false) ||
    (!ordersNone e.i && commonByte s e a)

/-- Are two accesses of a thread ordered by its program? Those of one invocation of the handler block are ordered among themselves
only, but for a FENCE there, which orders every one (R197). -/
def sameOrder (s : State) (e a : Access) : Bool :=
  let h (x : Access) : Bool := isHandler s x.f.launch x.f.block
  let fence (x : Access) : Bool := match x.i with | .fence _ _ => true | _ => false
  (!h e && !h a) || fence e || fence a || (h e && h a && invOf e.f == invOf a.f)

/-- May the access be performed now, as far as its thread's order goes? Unordered forms pass (R217). (DESIGN CHOICE, log 8) (DEDUCED, log 31) -/
def inOrder (s : State) (a : Access) : Bool :=
  let own := ((teamOf s a.f).map (·.num)).getD 0
  !ordered a || s.accesses.all (fun e => !(e.f.thread == a.f.thread && e.order < a.order && e.id != a.id && ordered e &&
    e.st != .waiting && sameOrder s e a && mustFollow s own e a))

/-- What a sync node leaves as it completes: the accesses that issued before it, and that are not engine operations, are
performed before every access that issues after it (R216 (c), R230, R373). -/
def fenceOff (m : Access) (s : State) : State :=
  { s with accesses := modWhere (fun e => e.f.thread == m.f.thread && decide (e.order < m.order) && ordered e && !isEngine e.i &&
      e.st != .waiting && e.fence.isNone) (fun e => { e with fence := some m.order }) s.accesses }

/-- The work of a release at a scope: at device and system scope the die's remote store buffer goes to its homes (R220). -/
def releaseWork (die : Nat) (sc : Scope) (s : State) : State :=
  if wideScope sc then drainDies [die] s else s

/-- The work of an acquire at a scope: clean copies that the home cannot reach are dropped (R211 (a), R213, R220). -/
def acquireWork (die : Nat) (sc : Scope) (s : State) : State :=
  if !wideScope sc then s
  else { s with mem := { s.mem with
    copies := s.mem.copies.filter (fun e => e.1 / 2 ^ 45 != die)
    l1 := s.mem.l1.filter (fun e => !l1Remote [die] e.1)
    compCopies := if sc = .sys then s.mem.compCopies.filter (fun e => dieOf (e.1 / 2 ^ 45) != die) else s.mem.compCopies } }

def releaseFor (a : Access) (s : State) : State :=
  match releases s a with
  | some sc => releaseWork (dieOf a.f.core) sc s
  | none => s

def acquireFor (a : Access) (s : State) : State :=
  match acquires s a with
  | some sc => acquireWork (dieOf a.f.core) sc s
  | none => s

end Sys2Proof.Machine
end

