-- ==== Sys2Proof/Machine/MemOps.lean ====
section
/-! DEFINITION. How the memory, atomic, presence, flush and network accesses perform (R372 to R384, R389 to R398). Each
`do…` answers how the attempt ends; the nodes that make these accesses stand in the files of their families. -/

namespace Sys2Proof.Machine

/-! ## Loads and stores (R374, R375) -/

/-- The bytes that a load reads from its space, parked or faulted as the space says. -/
def loadFrom (a : Access) (sp : Sp) (n : Nat) (s : State) : Part (List Byte) :=
  let va := a.a.toNat % 2 ^ 64
  if va % n ≠ 0 then misaligned a.f va s
  else match sp with
    | .g => loadG a.f 0 false va n s
    | .l => loadG a.f 0 true va n s
    | .k =>
      match launch? s a.f.launch with
      | some l => if l.params.length < va + n then holeAt a.f 0 va s else good ((l.params.drop va).take n) s
      | none => stop .gone s
    | _ => thenDo (padOf a.f 0 sp va n s) (fun t s => thenDo (needWords t.1 t.2 n s) (fun _ s => good (padBytes s t.1 t.2 n) s))

/-- An access marked acquire or release obtains ownership of a local line for its L1 (R208). -/
def claimLine (a : Access) (va : Nat) (s : State) : State :=
  if (relScope a.i).isSome || (acqScope a.i).isSome then
    match translate s a.f.core (spaceOf s a.f) va .device with
    | .ok pa p _ => if 2 ^ 51 ≤ pa then s else l1Own a.f.core pa p s
    | _ => s
  else s

/-- LD, LDU and LDW: the bytes, zero-extended; a load marked acquire then does its work (R374). -/
def doLoad (a : Access) (sp : Sp) (n : Nat) (s : State) : Try × State :=
  finish (thenDo (loadFrom a sp n s) (fun l s => good (ofBytes l) (acquireFor a (if sp = .g then claimLine a (a.a.toNat % 2 ^ 64) s else s))))

/-- ST, STU and STW, and the write half of a release (R375). -/
def doStore (a : Access) (sp : Sp) (n : Nat) (s : State) : Try × State :=
  let va := a.a.toNat % 2 ^ 64
  let data := toBytes n a.b.toNat
  if va % n ≠ 0 then finish (misaligned a.f va s)
  else
    let s := releaseFor a s
    finish (match sp with
      | .g => thenDo (storeG a.f 1 false va data s) (fun _ s => good 0 (claimLine a va s))
      | .l => thenDo (storeG a.f 1 true va data s) (fun _ s => good 0 s)
      | _ => thenDo (padOf a.f 1 sp va n s) (fun t s => good 0 (padWrite t.1 t.2 data s)))

/-! ## Presence and write-once cells (R206, R376, R377) -/

/-- SPWAIT (R376). -/
def doSpwait (a : Access) (sp : Sp) (s : State) : Try × State :=
  let n := a.b.toNat % 2 ^ 64
  if n = 0 then (.done 0, s)
  else finish (thenDo (padOf a.f 0 sp (a.a.toNat % 2 ^ 64) n s) (fun t s => thenDo (needWords t.1 t.2 n s) (fun _ s => good 0 s)))

/-- SPSET and SPCLR (R376). -/
def doPresence (a : Access) (sp : Sp) (set : Bool) (s : State) : Try × State :=
  let va := a.a.toNat % 2 ^ 64
  let n := a.b.toNat % 2 ^ 64
  if va % 8 ≠ 0 then finish (misaligned a.f va s)
  else if n % 8 ≠ 0 then finish (misaligned a.f n s)
  else finish (thenDo (padOf a.f 1 sp va n s) (fun t s =>
    good 0 ((padWords t.2 n).foldl (fun s w => if set then setPresent t.1 w s else clearPresent t.1 w s) s)))

/-- IWRITE (R206, R377). -/
def doIwrite (a : Access) (sp : Sp) (n : Nat) (s : State) : Try × State :=
  let va := a.a.toNat % 2 ^ 64
  if va % n ≠ 0 then finish (misaligned a.f va s)
  else finish (thenDo (padOf a.f 1 sp va n s) (fun t s =>
    if present s t.1 (t.2 / 8) then good 0 s else good 1 (padWrite t.1 t.2 (toBytes n a.b.toNat) s)))

/-! ## Atomics (R227 to R229, R378 to R380) -/

/-- Is the serialising token at a home, within its 16 network cycles there, with no .sc atomic performed in this one (R229)? -/
def scHere (s : State) (die : Nat) : Bool :=
  s.scToken == die && decide (s.scAt ≤ netCycle s ∧ netCycle s < s.scAt + 16) && s.scLast != netCycle s + 1

/-- An .sc atomic takes this network cycle of the token and waits no longer (R229). -/
def scUsed (id : Nat) (s : State) : State :=
  { s with scWaiting := s.scWaiting.filter (fun w => w / 4 != id), scLast := netCycle s + 1 }

/-- One atomic step on `n` bytes within one aligned 32: the old value, and what `g` makes of it, written where R228
places it. `home` marks the .L space and `sc` the serialised atomics. (DEDUCED, log 31) -/
def atomicG (a : Access) (home sc : Bool) (scope : Scope) (va n : Nat) (g : Nat → Nat) (s : State) : Part Nat :=
  thenDo (reach a.f 1 va .write s) (fun t s =>
    let (pa, p) := t
    let die := dieOf a.f.core
    if 2 ^ 51 ≤ pa then
      if linkOk s pa then
        let old := ofBytes ((List.range n).map (fun i => tabGet 0 s.mem.comp (pa + i)))
        good old (writeCore a.f.core pa (toBytes n (g old)) s)
      else stop .gone (abortOf a.f 0x15 s)
    else if sc && !scHere s (homeDie pa) then stop .wait { s with scWaiting := insertNew (4 * a.id + homeDie pa) s.scWaiting }
    else
      let s := countUse a.f.core pa (if sc then scUsed a.id s else s)
      if pteOpen p then
        match badAt s pa n with
        | some e => stop .gone (memUe a.f e s)
        | none =>
          let s := rsbDrain die (pa / 128) (conflictWrite pa (some (spaceOf s a.f)) s)
          let old := ofBytes ((List.range n).map (fun i => homeByte s (pa + i)))
          let data := toBytes n (g old)
          if home || sc || wideScope scope || homeDie pa != die then good old (writeAtHome die pa data s)
          else
            let s := writeCore a.f.core pa data s
            good old (if scope = .crew ∨ scope = .team ∨ pteSync p then l1Own a.f.core pa p s
                      else l1Invalidate (fun c => dieOf c == die) pa n s)
      else match vtOfFiring s a.f with
        | none => stop .gone s
        | some vt =>
          let vts := tagChain s vt
          let old := ofBytes ((List.range n).map (fun i => ((vts.findSome? (fun v => shadowByte s v (pa + i))).getD (homeSide s die (pa + i)))))
          match badSeen s die pa n, allShadow s vts pa n with
          | some e, false => stop .gone (memUe a.f e s)
          | _, _ => thenDo (shadowWrite a.f pa p (toBytes n (g old)) s) (fun _ s =>
              good old (if pteSync p then l1Own a.f.core pa p s else s)))

/-- An atomic in any space (R228, R380): in a scratchpad it waits for its word and sets its presence bit. -/
def doAtomic (a : Access) (sp : Sp) (m : MemFlags) (n : Nat) (g : Nat → Nat) (s : State) : Try × State :=
  let va := a.a.toNat % 2 ^ 64
  if va % n ≠ 0 then finish (misaligned a.f va s)
  else
    let s := releaseFor a s
    finish (match sp with
      | .g => thenDo (atomicG a false m.sc m.scope va n g s) (fun v s => good v (acquireFor a (if m.acq || m.rel then claimLine a va s else s)))
      | .l => thenDo (atomicG a true m.sc m.scope va n g s) (fun v s => good v (acquireFor a s))
      | _ => thenDo (padOf a.f 1 sp va n s) (fun t s => thenDo (needWords t.1 t.2 n s) (fun _ s =>
          let old := ofBytes (padBytes s t.1 t.2 n)
          good old (acquireFor a (padWrite t.1 t.2 (toBytes n (g old)) s)))))

/-- AFADD: the sum rounded once to F32 under RN (R378). -/
def addF32 (x y : Nat) : Nat :=
  encodeFloat (fmtOf .f32) (exSum .rn [asFloat .f32 x, asFloat .f32 y]) .rn false 0

/-- AINC and ADEC (R378). -/
def incBits (b old : Nat) : Nat := if b ≤ old then 0 else old + 1
def decBits (b old : Nat) : Nat := if old = 0 ∨ b < old then b else old - 1

/-! ## Fences, flushes and discards (R382 to R384) -/

/-- FENCE (R226, R382). -/
def doFence (a : Access) (s : State) : Try × State := (.done 0, acquireFor a (releaseFor a s))

/-- The device lines of one page of a range, with the page's physical address at hand. -/
def pageLines (pa va lo n : Nat) : List Nat :=
  let first := Nat.max lo (va / 4096 * 4096)
  let last := Nat.min (lo + n) (va / 4096 * 4096 + 4096)
  let base := pa - va % 4096
  (List.range ((last - 1) / 128 + 1 - first / 128)).map (fun k => (base + (first / 128 * 128 + 128 * k) % 4096) / 128)

/-- Everything that lies below a line's home is written to it (R233). -/
def flushLine (line : Nat) (s : State) : State :=
  writeBack line ([0, 1, 2, 3].foldl (fun s d => rsbDrain d line s) s)

/-- FLUSHR, a page at a time from `va`; a page that parks leaves the place to go on from (R233, R383). -/
def flushWalk (a : Access) (wide : Bool) (lo n : Nat) : Nat → Nat → State → Part Nat
  | 0, _, s => good 0 s
  | k + 1, va, s =>
    match reach a.f 2 va .read s with
    | (.ok (pa, _), s) =>
      let s := if wide ∧ pa < 2 ^ 51 then (pageLines pa va lo n).foldl (fun s l => flushLine l s) s else s
      let next := va / 4096 * 4096 + 4096
      if lo + n ≤ next then good 0 s else flushWalk a wide lo n k next s
    | (.error t, s) => (.error t, modAccess a.id (fun x => { x with left := [va] }) s)

/-- FLUSHR (R233, R383). -/
def doFlushr (a : Access) (sc : Scope) (s : State) : Try × State :=
  let lo := a.a.toNat % 2 ^ 64
  let n := a.b.toNat % 2 ^ 64
  if n = 0 then (.done 0, s)
  else if 2 ^ 54 < lo + n then finish (holeAt a.f 2 (Nat.max lo (2 ^ 54)) s)
  else finish (flushWalk a (wideScope sc) lo n (n / 4096 + 2) (a.left.getD 0 lo) s)

/-- The pages of a discard: every line, and whether every page is open; a companion page is a fatal PERM fault (R384). -/
def discardWalk (a : Access) (lo n : Nat) : Nat → Nat → List Nat → Bool → State → Part (List Nat × Bool)
  | 0, _, ls, op, s => good (ls, op) s
  | k + 1, va, ls, op, s =>
    if toCompanion s a.f va then stop .gone (fatalOf a.f 2 3 va s)
    else match reach a.f 2 va .write s with
    | (.ok (pa, p), s) =>
      let ls := ls ++ pageLines pa va lo n
      let next := va / 4096 * 4096 + 4096
      if lo + n ≤ next then good (ls, op && pteOpen p) s else discardWalk a lo n k next ls (op && pteOpen p) s
    | (.error t, s) => (.error t, s)

/-- Records a deferred send or discard against the transaction's shadow log (R113, R133, R134). -/
def deferWork (f : Firing) (amount : Nat) (snd : Option (Nat × Word32 × List Byte)) (ls : List Nat) (s : State) : Part Nat :=
  match vtOfFiring s f with
  | none => stop .gone s
  | some vt =>
    match charge vt amount true s with
    | (true, s) => good 0 { s with skim := { s.skim with deferred := s.skim.deferred ++
        [{ vt := vt, space := spaceOf s f, send := snd, lines := ls }] } }
    | (false, s) => stop .gone s

/-- DISCR (R134, R234, R384). (DEDUCED, log 30) -/
def doDiscr (a : Access) (s : State) : Try × State :=
  let lo := a.a.toNat % 2 ^ 64
  let n := a.b.toNat % 2 ^ 64
  if lo % 128 ≠ 0 then finish (misaligned a.f lo s)
  else if n % 128 ≠ 0 then finish (misaligned a.f n s)
  else if n = 0 then (.done 0, s)
  else finish (thenDo (discardWalk a lo n (n / 4096 + 2) lo [] true s) (fun t s =>
    if t.2 then good 0 (t.1.foldl (fun s l => discardLine l s) s) else deferWork a.f 256 none t.1 s))

/-! ## Barriers and semaphores (R386 to R391) -/

/-- The semaphore of a waiting SEMP. -/
def semWaits (a : Access) : Option Nat :=
  match a.i with
  | .semp n _ => some ((immRaw n).toNat % 256)
  | _ => none

/-- The entries of a core's barrier unit in use: a barrier with arrivals or waiters, a semaphore with waiters (R386). -/
def unitEntries (s : State) (core : Nat) : List (Nat × Nat) :=
  let teams := s.teams.filter (fun m => m.core == core && !m.retired)
  let waits (m : Team) (k : Access → Option Nat) : List Nat :=
    ((s.accesses.filter (fun a => a.st == .blocked && (match thread? s a.f.thread with | some t => t.team == m.key | none => false))).filterMap k).eraseDups
  (teams.map (fun m =>
    (((m.barriers.filter (fun b => decide (0 < b.arrived))).map (·.num) ++ waits m (fun a => (barWaits a).map (·.1))).eraseDups.map
      (fun k => (m.key, k))) ++ (waits m semWaits).map (fun k => (m.key, 16 + k)))).flatten

/-- Has the barrier unit an entry for this key, or room for one? -/
def unitRoom (s : State) (core : Nat) (k : Nat × Nat) : Bool :=
  let es := unitEntries s core
  es.contains k || decide (es.length < 32)

/-- `arrive` of R387; the phase of the arrival. -/
def arriveAt (m : Team) (k count : Nat) (s : State) : Word32 × State :=
  let b := barrierOf m k
  let b := if b.arrived = 0 then { b with target := count } else b
  (b.phase, checkBarrier m.key k (putBarrier m.key { b with arrived := b.arrived + 1 } s))

/-- A barrier node: an arrival, or a wait, or both (R387). A wait that cannot depart is recorded; a node that needs an entry of the
barrier unit while all are in use holds its memory port, and a wait for a phase that is over needs none (R386). -/
def doBarrier (a : Access) (n : Node) (arrive wait : Bool) (s : State) : Try × State :=
  match teamOf s a.f with
  | none => (.gone, s)
  | some m =>
    let k := (immRaw n).toNat % 16
    let past := !arrive && (barrierOf m k).phase != a.a.setWidth 32
    if !past && !unitRoom s m.core (m.key, k) then (.hold, s)
    else
      let s := releaseFor a s
      let (p, s) := if arrive then arriveAt m k ((immRaw n).toNat / 16 % 2048) s else (a.a.setWidth 32, s)
      let now := ((team? s m.key).map (fun m => (barrierOf m k).phase)).getD 0
      if wait && now == p then (.block, modAccess a.id (fun x => { x with result := p.setWidth 256 }) s)
      else (.done p.toNat, if wait then acquireFor a s else s)

/-- A page that must be open, and writable: one that is not open is a fatal PERM fault whatever W holds (R105, R389). -/
def openPage (f : Firing) (kind va : Nat) (s : State) : Part (Nat × Nat) :=
  thenDo (reach f kind va .read s) (fun t s =>
    if pteOpen t.2 then reach f kind va .write s else stop .gone (fatalOf f kind 3 va s))

/-- The counter of a semaphore node: an aligned word in an open, writable page (R389). -/
def semPage (a : Access) (va : Nat) (s : State) : Part (Nat × Nat) := openPage a.f 1 va s

/-- One atomic step on a counter: `step` gives the value to write and the result, or the cause of a trap, or a wait. -/
inductive SemStep where
  | put (c v : Nat)
  | keep (v : Nat)
  | trap (cause : Nat)
  | wait
  deriving DecidableEq, Repr

/-- The counter's value and the step on it, at its home or at the companion (R389, R390). -/
def doSem (a : Access) (step : Nat → SemStep) (s : State) : Try × State :=
  let va := a.a.toNat % 2 ^ 64
  if va % 4 ≠ 0 then finish (misaligned a.f va s)
  else
    let s := releaseFor a s
    match semPage a va s with
    | (.error t, s) => (t, s)
    | (.ok (pa, _), s) =>
      let comp := decide (2 ^ 51 ≤ pa)
      if comp && !linkOk s pa then (.gone, abortOf a.f 0x15 s)
      else
        let s := if comp then s else rsbDrain (dieOf a.f.core) (pa / 128) s
        match (if comp then none else badAt s pa 4) with
        | some e => (.gone, memUe a.f e s)
        | none =>
          match step (ofBytes (readHome s pa 4)) with
          | .keep v => (.done v, freshCopy a.f.core pa s)
          | .trap c => (.gone, trap a.f c va s)
          | .wait => (.block, s)
          | .put c v =>
            let s := if comp then writeCore a.f.core pa (toBytes 4 c) s
              else writeAtHome (dieOf a.f.core) pa (toBytes 4 c) (conflictWrite pa (some (spaceOf s a.f)) s)
            (.done v, acquireFor a s)

/-- SEMP waits at zero, in an entry of the barrier unit, or holds its memory port where none is free (R386, R390, R391). -/
def doSemp (a : Access) (n : Node) (s : State) : Try × State :=
  match doSem a (fun c => if c = 0 then .wait else .put (c - 1) 1) s with
  | (.block, s') =>
    match teamOf s a.f with
    | some m => if unitRoom s m.core (m.key, 16 + (immRaw n).toNat % 256) then (.block, s') else (.hold, s')
    | none => (.gone, s')
  | r => r

/-- SEMV, SEMTRY and SEMDEC (R390). -/
def doSemv (a : Access) (s : State) : Try × State :=
  doSem a (fun c => if c = 2 ^ 32 - 1 then .trap 0x0B else .put (c + 1) c) s
def doSemtry (a : Access) (s : State) : Try × State := doSem a (fun c => if c = 0 then .keep 0 else .put (c - 1) 1) s
def doSemdec (a : Access) (s : State) : Try × State := doSem a (fun c => if c = 0 then .trap 0x0A else .put (c - 1) c) s

/-! ## The network (R133, R395 to R398) -/

/-- The uncorrectable error that the read of a handle's entry of the connection table meets (R29, R395). -/
def entryUe (s : State) (sp h : Nat) : Option (Nat × Nat × Nat) :=
  if h / 2 ^ 44 % 2 ^ 20 = 0 ∧ h % 4096 < Nat.min 4096 (space s sp).ctCount.toNat then badAt s (connAddr s sp (h % 4096)) 64 else none

/-- Does the companion not answer for a handle's entry of the connection table: is its address not backed, or no port up (R31, R35 (c))? -/
def entryCut (s : State) (sp h : Nat) : Bool :=
  h / 2 ^ 44 % 2 ^ 20 == 0 && decide (h % 4096 < Nat.min 4096 (space s sp).ctCount.toNat) && !reachable s (connAddr s sp (h % 4096))

/-- Connection index and tag of a handle, where it names a usable connection of the space (R395). -/
def handleOf (s : State) (sp h : Nat) : Option (Nat × Word32) :=
  let idx := h % 4096
  let e := readHome s (connAddr s sp idx) 64
  if h / 2 ^ 44 % 2 ^ 20 = 0 ∧ idx < Nat.min 4096 (space s sp).ctCount.toNat ∧ field e 23 1 = 1 ∧ field e 22 1 ≤ 2 then
    some (idx, BitVec.ofNat 32 (h / 4096)) else none

/-- The 4 KiB pages that an NSEND reads: are they all open? -/
def pagesOpen (f : Firing) (lo n : Nat) : Nat → Nat → Bool → State → Part Bool
  | 0, _, op, s => good op s
  | k + 1, va, op, s =>
    thenDo (reach f 2 va .read s) (fun t s =>
      let next := va / 4096 * 4096 + 4096
      if lo + n ≤ next then good (op && pteOpen t.2) s else pagesOpen f lo n k next (op && pteOpen t.2) s)

/-- The 4 KiB pages of an NRECV's buffer, which must all be open and writable (R105). -/
def recvPages (f : Firing) (lo n : Nat) : Nat → Nat → State → Part Unit
  | 0, _, s => good () s
  | k + 1, va, s =>
    thenDo (openPage f 2 va s) (fun _ s =>
      let next := va / 4096 * 4096 + 4096
      if lo + n ≤ next then good () s else recvPages f lo n k next s)

/-- Is an earlier access of the thread still without its end? (DEDUCED, log 31) -/
def earlier (s : State) (a : Access) (p : Access → Bool) : Bool :=
  s.accesses.any (fun e => e.f.thread == a.f.thread && decide (e.order < a.order) && e.id != a.id && e.st != .waiting && p e)

/-- Does an NSEND wait for an earlier one of its thread on its connection to go out first: is the connection's MODE ROD (R396)? -/
def rodWaits (s : State) (a : Access) (conn : Nat) : Bool :=
  field (readHome s (connAddr s (spaceOf s a.f) conn) 64) 22 1 == 2 &&
  earlier s a (fun e => (match e.i with | .nsend _ _ => true | _ => false) && e.c.toNat % 4096 == conn && e.st != .blocked && e.st != .done)

/-- NSEND: from open pages it goes out and waits for its acknowledgement, otherwise it is captured and deferred (R133,
R396). A connection's entry that the companion does not answer for, or with a word of an uncorrectable error, ends the launch
(R29 (c), R31). -/
def doNsend (a : Access) (s : State) : Try × State :=
  let va := a.a.toNat % 2 ^ 64
  let n := a.b.toNat % 2 ^ 64
  if entryCut s (spaceOf s a.f) (a.c.toNat % 2 ^ 64) then (.gone, abortOf a.f 0x15 s)
  else match entryUe s (spaceOf s a.f) (a.c.toNat % 2 ^ 64), handleOf s (spaceOf s a.f) (a.c.toNat % 2 ^ 64) with
  | some e, _ => (.gone, memUe a.f e s)
  | none, none => (.gone, abortOf a.f 0x06 s)
  | none, some (conn, tag) =>
    if 16777216 < n then (.gone, abortOf a.f 0x06 s)
    else if va % 8 ≠ 0 then finish (misaligned a.f va s)
    else if rodWaits s a conn then (.wait, s)
    else
      match (if n = 0 then good true s else pagesOpen a.f va n (n / 4096 + 2) va true s) with
      | (.error t, s) => (t, s)
      | (.ok op, s) =>
        match loadRange a.f 2 op va n s with
        | (.error t, s) => (t, s)
        | (.ok data, s) =>
          if op then (.block, transmit a.id (spaceOf s a.f) conn tag data s)
          else finish (deferWork a.f (256 + roundUp n 256) (some (conn, tag, data)) [] s)

/-- NRECV: posts a receive into open pages; a core holds at most 256 (R105, R397). -/
def doNrecv (a : Access) (s : State) : Try × State :=
  let va := a.a.toNat % 2 ^ 64
  let n := a.b.toNat % 2 ^ 64
  if entryCut s (spaceOf s a.f) (a.c.toNat % 2 ^ 64) then (.gone, abortOf a.f 0x15 s)
  else match entryUe s (spaceOf s a.f) (a.c.toNat % 2 ^ 64), handleOf s (spaceOf s a.f) (a.c.toNat % 2 ^ 64) with
  | some e, _ => (.gone, memUe a.f e s)
  | none, none => (.gone, abortOf a.f 0x06 s)
  | none, some (conn, tag) =>
    if 16777216 < n then (.gone, abortOf a.f 0x06 s)
    else if va % 8 ≠ 0 then finish (misaligned a.f va s)
    else
      match (if n = 0 then good () s else recvPages a.f va n (n / 4096 + 2) va s) with
      | (.error t, s) => (t, s)
      | (.ok _, s) =>
        let mine := (s.posted.filter (fun p => match access? s p.access with | some x => x.f.core == a.f.core | none => false)).length
        if 256 ≤ mine then (.wait, s)
        else (.block, { s with posted := s.posted ++
          [{ access := a.id, space := spaceOf s a.f, conn := conn, tag := tag, cycle := s.cycles }] })

/-- NFENCE (R398). -/
def doNfence (a : Access) (s : State) : Try × State :=
  if earlier s a (fun e => (match e.i with | .nsend _ _ => true | _ => false) && e.st != .done) then (.wait, s) else (.done 0, s)

/-! ## Port markers and special registers (R394, R405) -/

/-- The edge port that serves an access (R169): a memory port by the column of its PE, a gather port by its row. -/
def portOf (s : State) (a : Access) : Nat :=
  let pe := physPe s a.f.core a.f.launch a.f.block a.f.replica a.f.node
  let col := pe / 16 % 16 % 4 * 4 + pe % 4
  let row := pe / 16 % 16 / 4 * 4 + pe % 16 / 4
  match a.i with
  | .gather _ _ _ _ | .gathert _ _ _ _ _ | .scatter _ _ _ _ | .scatadd _ _ _ _ => 8 + row / 4
  | .copy _ _ _ _ | .copys _ _ _ _ | .tload _ _ _ | .tstore _ _ _ _ => 12
  | .strmOpen _ _ | .strmSub _ _ | .strmPub _ _ _ | .strmCloseEnd _ _ | .strmCloseLeave _ _ => 13
  | .nsend _ _ | .nrecv _ _ | .nfence _ => 14
  | .launch _ | .lwait _ => 15
  | .port _ | .sink _ _ | .rdsr _ _ => 16
  | _ => col / 2

/-- PORT (R394). -/
def doPort (a : Access) (n : Node) (s : State) : Try × State :=
  let p := (n.d0.map (fun d => d.pe.val)).getD 0
  if earlier s a (fun e => portOf s e == p && (p < 12 || e.st != .done)) then (.wait, s) else (.done 0, s)

/-- The value that an RDSR index selects (R405). (DEDUCED, log 46) -/
def rdsrValue (s : State) (f : Firing) (k : Nat) : Nat :=
  match k with
  | 12 => boolBit (((launch? s (topOf s f.launch)).map (·.tern)).getD false) 0
  | 13 => ((teamOf s f).map (·.children.length)).getD 0
  | 14 => s.gov.duty
  | 15 => freeTags s
  | _ => specialReg s f k

/-- An RDSR that issues reads its value (R405). -/
def issueRdsr (a : Access) (s : State) : State :=
  match a.i with
  | .rdsr _ k => modAccess a.id (fun x => { x with left := [rdsrValue s a.f k.val] }) s
  | _ => s

/-- RDSR sends what it read as it issued (R405). -/
def doRdsr (a : Access) (k : Nat) (s : State) : Try × State := (.done (a.left.headD (rdsrValue s a.f k)), s)

end Sys2Proof.Machine
end

