-- ==== Sys2Proof/Machine/LoadCheck.lean ====
section
/-! DEFINITION. What the dispatcher reads of a launch and the load checks (R92, R93, R95 to R100, R257 to R269, R272, R348): the
parameter block, the image header, and the verdict on every block. -/

namespace Sys2Proof.Machine

/-! ## Reading through the page tables -/

/-- Why the dispatcher cannot read (R31, R80). -/
inductive RdErr where
  | park (reason va : Nat)
  | page (va : Nat)
  | perm (va : Nat)
  | link
  | ue (va pa : Nat) (e : Nat × Nat × Nat)
  deriving DecidableEq, Repr

/-- A read that collects the 4 KiB frames it touches. -/
abbrev Rd (α : Type) := StateT (List Nat) (Except RdErr) α

/-- Reads a range page by page at system scope. -/
def readVa (s : State) (sp : Nat) (need : Need) : Nat → Nat → Nat → Rd (List Byte)
  | 0, _, _ => pure []
  | k + 1, va, n =>
    if n = 0 then pure []
    else match translate s 160 sp va need with
      | .ok pa _ _ =>
        let m := Nat.min n (4096 - va % 4096)
        if !reachable s pa then throw .link
        else match (if 2 ^ 51 ≤ pa then none else badAt s pa m) with
        | some e => throw (.ue va pa e)
        | none => do
          modify (insertNew (pa / 4096))
          let rest ← readVa s sp need k (va + m) (n - m)
          pure (readHome s pa m ++ rest)
      | .park r => throw (.park r va)
      | .page => throw (.page va)
      | .perm => throw (.perm va)
      | .link => throw .link
      | .ue e => throw (.ue va (32 * e.1) e)

/-- Reads `n` bytes of the image at `base` + `off`; SYS bars a node's accesses, not the dispatcher's (R72, R80). -/
def readImg (s : State) (sp base off n : Nat) : Rd (List Byte) := readVa s sp .device (n / 4096 + 2) (base + off) n

/-! ## The parameter block (R92, R93) -/

/-- The fields of the parameter block that need no image hold their limits (R93). -/
def pbOk (h : List Byte) : Bool :=
  field h 0 2 == 1 && field h 3 1 == 0 && decide (field h 2 1 ≤ 16) && decide (field h 4 4 ≤ 65536) && field h 40 24 == 0

/-- The prefetch indices in use lie below the block count (R93). (DEDUCED, log 28) -/
def prefOk (h : List Byte) (blocks : Nat) : Bool :=
  (List.range (field h 2 1)).all (fun i => decide (field h (8 + 2 * i) 2 < blocks))

/-! ## The image header and its tables (R95, R96) -/

/-- The Header row of R97. -/
def headerOk (h : List Byte) : Bool :=
  let kf := field h 7 1
  field h 0 4 == 0x59524243 && field h 4 2 == 1 && decide (field h 6 1 ≤ 3) && decide (kf < 4) &&
  decide (1 ≤ field h 8 4 ∧ field h 8 4 ≤ 4096) && decide (field h 12 2 < field h 8 4) &&
  !(bit kf 0 && field h 12 2 == field h 14 2) && decide (field h 48 4 ≤ 1048576) &&
  decide (1 ≤ field h 52 2 ∧ field h 52 2 ≤ 1024) && field h 54 2 == 0 && allZero (h.drop 64)

/-- A block as the tables give it: its header, where its pages lie, its pages' bytes, and its lists. -/
structure RawBlock where
  head : List Byte
  pageOff : Nat
  code : List Byte
  entries : List Nat
  exits : List Nat
  decls : List (List Byte)
  source : List Nat
  exec : Bool
  deriving DecidableEq, Repr

/-- The node words of a block's bytes, empty slots left out, by slot number. -/
def slotWords (code : List Byte) : Tab NodeWord :=
  ((List.range (code.length / 16)).map (fun i => (i, BitVec.ofNat 128 (field code (16 * i) 16)))).filter (fun e => e.2 != 0)

/-- The major of a word's instruction; none where its variant is unassigned, so that it is no instruction (R270 to R272). -/
def majorOf (w : NodeWord) : Option Nat := if emulates w then none else some (w.toNat / 2 ^ 120)

/-- Is this word a CONSTW that takes the next slot as its payload (R266)? -/
def isConstw (w : NodeWord) : Bool := majorOf w == some 0x04

/-- The payload slots of a block (R266). -/
def payloadSlots : List (Nat × NodeWord) → Option Nat → List Nat
  | [], _ => []
  | (i, w) :: t, skip =>
    if skip == some i then payloadSlots t none
    else if isConstw w && decide (i % 8 < 7) then (i + 1) :: payloadSlots t (some (i + 1)) else payloadSlots t skip

/-- The nodes of a block: the nonempty slots that are no payload. -/
def realNodes (ws : Tab NodeWord) : List (Nat × NodeWord) :=
  let ps := payloadSlots ws none
  ws.filter (fun e => !ps.contains e.1)

/-- Numbers of two bytes. -/
def halves (l : List Byte) (n : Nat) : List Nat := (List.range n).map (fun i => field l (2 * i) 2)

/-- May the memory page of an address be executed? -/
def mayExec (s : State) (sp va : Nat) : Bool :=
  match translate s 160 sp va .exec with
  | .ok _ _ _ => true
  | _ => false

/-- Reads one configuration page for the checks whatever its permissions, with its physical address and whether every byte of
it may be executed. -/
def readPage (s : State) (sp va : Nat) : Rd (List Byte × Nat × Bool) := do
  let l ← readVa s sp .device 2 va 2048
  let pa := match translate s 160 sp va .device with | .ok pa _ _ => pa | _ => 0
  pure (l, pa, mayExec s sp va && mayExec s sp (va + 2047))

/-- The layout limits of one block: its header and its pages (R96, R267). -/
def blockLayout (len hoff poff pages : Nat) : Bool :=
  hoff % 64 == 0 && decide (hoff + 64 ≤ len) && poff % 2048 == 0 && decide (poff + 2048 * pages ≤ len)

/-- The layout limits of a block's lists (R267). -/
def listsLayout (len : Nat) (h : List Byte) : Bool :=
  let ok (off n al : Nat) : Bool := off % al == 0 && decide (off + n ≤ len)
  ok (field h 16 8) (2 * field h 5 1) 2 && ok (field h 24 8) (2 * field h 6 2) 2 && ok (field h 32 8) (8 * field h 40 2) 8

/-- The headers of the blocks, or none where the layout of a header or page breaks. -/
def readHeads (s : State) (sp base len : Nat) (tab : List Byte) : List Nat → Rd (Option (List (List Byte × Nat)))
  | [] => pure (some [])
  | i :: is =>
    let hoff := field tab (16 * i) 8
    let poff := field tab (16 * i + 8) 8
    if !blockLayout len hoff poff 0 then pure none
    else do
      let h ← readImg s sp base hoff 64
      if !blockLayout len hoff poff (field h 2 1) then pure none
      else do
        let rest ← readHeads s sp base len tab is
        pure (rest.map (fun l => (h, poff) :: l))

/-- The pages of a block. -/
def readPages (s : State) (sp base poff : Nat) : List Nat → Rd (List (List Byte × Nat × Bool))
  | [] => pure []
  | p :: ps => do
    let x ← readPage s sp (base + poff + 2048 * p)
    let rest ← readPages s sp base poff ps
    pure (x :: rest)

/-- The lists of a block. -/
def readLists (s : State) (sp base : Nat) (b : RawBlock) : Rd RawBlock := do
  let h := b.head
  let en ← readImg s sp base (field h 16 8) (2 * field h 5 1)
  let ex ← readImg s sp base (field h 24 8) (2 * field h 6 2)
  let ds ← readImg s sp base (field h 32 8) (8 * field h 40 2)
  pure { b with entries := halves en (field h 5 1), exits := halves ex (field h 6 2),
                decls := (List.range (field h 40 2)).map (fun i => (ds.drop (8 * i)).take 8) }

/-- Runs a read for each element. -/
def rdEach {α β : Type} (f : α → Rd β) : List α → Rd (List β)
  | [] => pure []
  | x :: t => do
    let y ← f x
    let ys ← rdEach f t
    pure (y :: ys)

/-! ## The Balance row (R96, R97) -/

/-- The semaphore of a semaphore node's word, and whether it is SEMV. -/
def semOf (w : NodeWord) : Option (Nat × Bool) :=
  let x := w.toNat
  if majorOf w = some 0xF2 ∧ x / 2 ^ 64 % 65536 = 0x8000 then some (x / 2 ^ 48 % 256, x / 2 ^ 114 % 16 == 1) else none

/-- The Balance row: one entry for each semaphore that nodes name, and in every entry the counts of its nodes. -/
def balanceOk (tab : List Byte) (n : Nat) (ws : List NodeWord) : Bool :=
  let named := ws.filterMap semOf
  let ids := (List.range n).map (fun j => field tab (8 * j) 1)
  let count (id : Nat) (v : Bool) : Nat := (named.filter (fun e => e.1 == id && e.2 == v)).length
  named.all (fun e => (ids.filter (· == e.1)).length == 1) &&
  (List.range n).all (fun j =>
    let id := field tab (8 * j) 1
    let fl := field tab (8 * j + 1) 1
    let inc := field tab (8 * j + 4) 2
    let dec_ := field tab (8 * j + 6) 2
    decide (fl < 2) && field tab (8 * j + 2) 2 == 0 && inc == count id true && dec_ == count id false &&
    !(decide (0 < dec_) && inc == 0 && fl == 0))

/-! ## One node in its block (R257 to R268, R338, R353) -/

/-- What the checks of a node look at around it. -/
structure NodeCtx where
  emulate : Bool
  handler : Bool
  coll : Bool
  width : Nat
  pages : Nat
  sysMask : Nat
  liveIn : Nat
  liveOut : Nat
  pool : Nat
  both : Bool
  target : Nat → Bool
  entry : Nat → Nat
  nodes : List (Nat × NodeWord)
  words : Tab NodeWord

def ariOf (w : NodeWord) : Nat := w.toNat / 2 ^ 107 % 4

/-- The product nodes and the systolic nodes (R353). -/
def isProductNode (i : Instr) : Bool :=
  match i with | .tmma _ _ _ _ | .ttern _ _ _ | .tgrp _ _ _ _ => true | _ => false
def isProduct (w : NodeWord) : Bool := (majorOf w).any (fun m => decide (0xB3 ≤ m ∧ m ≤ 0xB5))
def isSystolic (w : NodeWord) : Bool := (majorOf w).any (fun m => decide (0xB9 ≤ m ∧ m ≤ 0xBC))

/-- Is the operand wide, and is it of 64 bits? Its admitted kinds say so (R258). -/
def wideKind (ok : Src → Bool) : Bool := ok (.win 24) && !ok (.kreg 0)
def longKind (ok : Src → Bool) : Bool := ok (.kreg 126) && !ok (.kreg 127)

/-- The sources of a node with what each admits. -/
def sources (f : Form) : List (Src × (Src → Bool)) :=
  [(f.node.a, f.a.ok), (f.node.b, f.b.ok)] ++ (match f.node.low with | .src x => [(x, f.c)] | _ => [])

/-- A pool entry lies in the pool (R257, R258). -/
def poolOk (c : NodeCtx) (f : Form) : Bool :=
  (sources f).all (fun e => match e.1 with
    | .pool i => decide (i.val + (if wideKind e.2 then 3 else 0) < c.pool)
    | _ => true)

/-- The window bits that a LIVEIN or LIVEOUT needs (R268). -/
def liveBits (t : Ty) (wide : Bool) (x : Src) : List Nat :=
  match x with
  | .win k => if 32 ≤ k.val then [31] else (List.range (if wide then 8 else tyBits t / 32)).map (k.val + ·)
  | _ => []

/-- The targets that a departure takes from its word or from the pool (R295, R298, R299, R302). -/
def staticTargets (c : NodeCtx) (i : Instr) : List Nat :=
  let word (n : Node) : Option Nat :=
    match n.b with
    | .imm => some ((extendImm .n32 (immRaw n)).getD 0)
    | .pool k => some (c.entry k.val % 2 ^ 32)
    | _ => none
  match i with
  | .exit n => (word n).toList
  | .exitc n | .call n _ => match word n with | some w => [w % 65536, w / 65536] | none => []
  | _ => []

/-- The callee of a CALL's call word is a block, and no retirement (R301, R302). -/
def calleeIn (c : NodeCtx) (i : Instr) : Bool :=
  match i with
  | .call _ _ => (staticTargets c i).headD 0 != 65535
  | _ => true

/-- The reserved values that only the block shows (REASON 17). -/
def reservedIn (c : NodeCtx) (k : Nat) (i : Instr) (f : Form) : Bool :=
  poolOk c f && (f.node.tag != .join || c.coll) && (staticTargets c i).all c.target && calleeIn c i &&
  (match i with
   | .livein n w => (liveBits n.ty w n.a).all (fun b => bit c.liveIn b)
   | .liveout n w => (liveBits n.ty w n.b).all (fun b => bit c.liveOut b)
   | .constw _ => decide (k % 8 < 7) && decide (((tabFind c.words (k + 1)).getD 0).toNat < 2 ^ 64)
   | _ => true) &&
  (f.node.tag != .join || c.width ≠ 64 || f.node.b != .kreg 127) &&
  (match tabFind c.nodes k with
   | some w => !(isProduct w || isSystolic w) || (bit c.sysMask (k / 128) && !c.both)
   | none => true)

/-- Every valid destination names a node of the block and a port below its ARI (R262; REASON 19). -/
def destsIn (c : NodeCtx) (d0 d1 : Option Dst) : Bool :=
  ([d0, d1].filterMap id).all (fun d => d.net == .edge ||
    (decide (d.page.val < c.pages) &&
     (match tabFind c.nodes (d.page.val * 128 + d.pe.val * 8 + d.slot.val) with
      | some w => decide (d.port.val < ariOf w)
      | none => false)))

/-- Does a node name k64 to k127 (R97, R428; REASON 21)? -/
def highReg (i : Instr) (f : Form) : Bool :=
  (sources f).any (fun e => match e.1 with
    | .kreg k => decide (64 ≤ k.val + (if longKind e.2 then 1 else 0))
    | _ => false) ||
  (match i with | .kwr n k => decide (64 ≤ k.val + (if n.ty = .b64 then 1 else 0)) | _ => false)

/-- A trapped word in its block (R272 (c)). (DEDUCED, log 29) -/
def emulatedReason (c : NodeCtx) (w : NodeWord) : Nat :=
  let x := w.toNat
  let pool (d : Nat) : Bool := match srcOf d with | some (.pool i) => decide (i.val < c.pool) | _ => true
  if !emulatedOk w || !pool (x / 2 ^ 80 % 65536) || !pool (x / 2 ^ 64 % 65536) then 17
  else match dstOf (x / 2 ^ 24 % 2 ^ 24), dstOf (x % 2 ^ 24) with
    | some d0, some d1 => if destsIn c d0 d1 then 0 else 19
    | _, _ => 17

/-- The REASON of one node, 0 where it passes: the block rows in table order (R97, R272). (DEDUCED, log 29) -/
def nodeReason (c : NodeCtx) (k : Nat) (w : NodeWord) : Nat :=
  if c.emulate && emulates w then emulatedReason c w
  else match parse w.toNat with
    | .error r => r.reason
    | .ok i =>
      match form i with
      | none => 16
      | some f =>
        if !reservedOk f || !reservedIn c k i f then 17
        else if !immediateOk f then 18
        else if !networkOk f || !destsIn c f.node.d0 f.node.d1 then 19
        else if c.width = 16 ∧ highReg i f then 21
        else 0

/-! ## Edge-format declarations (R269, R348) -/

/-- The ELEM that a tile node's own types name for a port that points to a packet, read or written, or for its result, by the ROLE of a
declaration (R348). -/
def namedElem (w : NodeWord) (role : Nat) : Option Ty :=
  match parse w.toNat with
  | .error _ => none
  | .ok i =>
    let result (t : Ty) : Option Ty := if role < 2 then some t else none
    let at_ (x : Src) (t : Ty) : Option Ty := match x with | .port p => if role = 2 + p.val then some t else none | _ => none
    let three (a b c : Ty) : Option Ty :=
      if role < 2 ∨ role = 4 then some c else if role = 2 then some a else some b
    match i with
    | .tload n _ _ => result n.ty <|> at_ n.b n.ty
    | .tstore n _ _ _ => result n.ty <|> at_ n.b n.ty
    | .tfill n => result n.ty <|> at_ n.a n.ty
    | .tcvt n t _ _ => result n.ty <|> at_ n.a t <|> at_ n.b n.ty
    | .ttrans n _ => result n.ty <|> at_ n.a n.ty <|> at_ n.b n.ty
    | .tscale n _ _ _ => if role = 3 then none else some n.ty
    | .tmma n t _ _ => three n.ty t (if isInt n.ty then .s32 else .f32)
    | .ttern n _ _ => three n.ty .t2 .s32
    | .tgrp n t _ _ => three n.ty t (if isInt n.ty then .s32 else .f32)
    | .gathert n _ _ _ _ => if role < 2 ∨ role = 4 then some n.ty else none
    | _ => none

/-- A declaration's own limits (R269; REASON 17). -/
def declOk (nodes : List (Nat × NodeWord)) (d : List Byte) : Bool :=
  let role := field d 4 1
  let elem := field d 5 1
  let scale := field d 6 1
  decide (role ≤ 4) && ((tyOf elem).isSome && decide (2 ≤ elem ∧ elem ≤ 0x1B)) &&
  (scale == 0xFF || scale == 0x16 || scale == 0x10 || scale == 0x11) &&
  ((scale == 0x16) == (match tyOf elem with | some t => isMx t | none => false)) && field d 7 1 == 0 &&
  (match tabFind nodes (field d 2 2) with
   | some w =>
     if role = 0 then w.toNat / 2 ^ 47 % 2 == 1 else if role = 1 then w.toNat / 2 ^ 23 % 2 == 1 else decide (role - 2 < ariOf w)
   | none => false)

/-- The reference declaration of an edge among all blocks' (R269). -/
def reference (all_ : List (Nat × List Byte)) (edge : Nat) : Option (List Byte) :=
  let mine := all_.filter (fun e => field e.2 0 2 == edge)
  let key (e : Nat × List Byte) : Nat := e.1 * 65536 + field e.2 2 2
  ((leastBy key (mine.filter (fun e => decide (field e.2 4 1 < 2)))) <|> (leastBy key mine)).map (·.2)

/-- The first declaration of a block that fails: its REASON, node and edge. (DEDUCED, log 29) -/
def declReason (all_ : List (Nat × List Byte)) (nodes : List (Nat × NodeWord)) : List (List Byte) → Option (Nat × Nat × Nat)
  | [] => none
  | d :: ds =>
    let node := field d 2 2
    let edge := field d 0 2
    if !declOk nodes d then some (17, node, 0)
    else
      let same : Bool := match reference all_ edge with
        | some r => field r 5 1 == field d 5 1 && field r 6 1 == field d 6 1
        | none => true
      let own : Bool := match (tabFind nodes node).bind (fun w => namedElem w (field d 4 1)) with
        | some t => tyCode t == field d 5 1
        | none => true
      if same && own then declReason all_ nodes ds else some (20, node, edge)

/-! ## Blocks (R267, R268) -/

/-- The header limits of REASON 17, with the lists of R268. -/
def headOk (index : Nat) (handler : Bool) (b : RawBlock) (nodes : List (Nat × NodeWord)) : Bool :=
  let h := b.head
  let fl := field h 3 1
  let exits := (nodes.filter (fun e => majorOf e.2 == some 0x0B || majorOf e.2 == some 0x0C)).map (·.1)
  let starts := (nodes.filter (fun e => ariOf e.2 == 0)).map (·.1)
  let sys := field h 48 8
  field h 0 2 == index && decide (1 ≤ field h 2 1 ∧ field h 2 1 ≤ 64) && decide (fl < 16) && bit fl 3 == handler &&
  decide (1 ≤ field h 4 1 ∧ field h 4 1 ≤ 16) && (bit fl 0 || field h 4 1 == 1) &&
  decide (1 ≤ field h 5 1 ∧ field h 5 1 ≤ 64) && decide (field h 6 2 ≤ 1024) &&
  (field h 6 2 != 0 || field h 24 8 == 0) && (field h 40 2 != 0 || field h 32 8 == 0) && decide (field h 40 2 ≤ 4096) &&
  field h 42 6 == 0 && field h 56 8 == 0 && ((sys != 0) == bit fl 2) && decide (sys < 2 ^ field h 2 1) &&
  (if handler then starts.isEmpty && b.entries.all (fun k => match tabFind nodes k with | some w => decide (1 ≤ ariOf w) | none => false)
   else b.entries == starts) && b.exits == exits

/-- The first node that fails, with its REASON. (DEDUCED, log 29) -/
def firstBad (c : NodeCtx) : List (Nat × NodeWord) → Option (Nat × Nat)
  | [] => none
  | (k, w) :: t => let r := nodeReason c k w; if r = 0 then firstBad c t else some (r, k)

/-- Is a node ordered: does it hold a sequence field in force (R215, R217)? -/
def isOrderedWord (w : NodeWord) : Bool :=
  match decode w with
  | .ok i => (match form i with | some f => f.seq == .seq | none => false)
  | .error _ => false

/-- The verdict on one block: REASON, node and edge of its first failure, in the order of the header, the pages, the declarations and the
nodes (R97, R272). (DEDUCED, log 29) -/
def blockReason (c : NodeCtx) (index : Nat) (stitch : Bool) (all_ : List (Nat × List Byte)) (b : RawBlock) :
    Nat × Nat × Nat :=
  if !headOk index c.handler b c.nodes then (17, 0, 0)
  else if 16 < c.pages ∧ !stitch then (22, 0, 0)
  else match declReason all_ c.nodes b.decls with
    | some r => r
    | none => match firstBad c c.nodes with
      | some (r, k) => (r, k, 0)
      | none => (0, 0, 0)

/-- The formats that a block's declarations give, by node and role. -/
def formatsOf (ds : List (List Byte)) : Tab (Nat × Nat × Nat) :=
  ds.foldl (fun t d => tabPut t (field d 2 2 * 8 + field d 4 1) (field d 5 1, field d 6 1, field d 0 2)) []

/-- What the checks keep of one block. -/
def makeBlock (h : List Byte) (cpool : List Byte) (width index : Nat) (all_ : List (Nat × List Byte)) (b : RawBlock) : Block :=
  let emulate := bit (field h 7 1) 0
  let emuh := field h 14 2
  let ws := slotWords b.code
  let nodes := realNodes ws
  let fl := field b.head 3 1
  let c : NodeCtx :=
    { emulate := emulate, handler := emulate && emuh == index, coll := bit fl 1, width := width, pages := field b.head 2 1,
      sysMask := field b.head 48 8, liveIn := field b.head 8 4, liveOut := field b.head 12 4, pool := field h 32 4 / 8,
      both := nodes.any (fun e => isProduct e.2) && nodes.any (fun e => isSystolic e.2),
      target := fun t => t == 65535 || (decide (t < field h 8 4) && !(emulate && emuh == t)),
      entry := fun i => field cpool (8 * i) 8, nodes := nodes, words := ws }
  let (r, node, edge) := blockReason c index (bit (field h 7 1) 1) all_ b
  { pages := c.pages, off := b.pageOff, loop_ := bit fl 0, coll := c.coll, syst := bit fl 2, handler := bit fl 3, waveB := field b.head 4 1,
    sysMask := BitVec.ofNat 64 c.sysMask, ordered := nodes.any (fun e => isOrderedWord e.2), entries := b.entries, words := ws,
    formats := formatsOf b.decls, reason := r, badNode := node, badEdge := edge, source := b.source }

/-! ## The whole image (R97, R100) -/

/-- What the checks say: the image is refused with a REASON, or accepted with its blocks' verdicts. -/
inductive Verdict where
  | refused (reason : Nat)
  | image (m : Image)
  deriving DecidableEq, Repr

/-- The image rows of R97 in table order, each table's layout tested before a row reads it, and then the blocks. (DEDUCED, log 10) (DEDUCED, log 29) -/
def checkImage (s : State) (sp : Nat) (raw : List Byte) : Rd Verdict := do
  let base := lrImage raw
  let h ← readImg s sp base 0 256
  let len := field h 56 8
  let nb := field h 8 4
  let blk := field h 16 8
  let pool := field h 24 8
  let cps := field h 32 4
  let nbal := field h 36 4
  let bal := field h 40 8
  let emulate := bit (field h 7 1) 0
  let lr := lrCrewW raw
  let cb := field h 6 1
  if len < 256 then pure (.refused 7)
  else if !headerOk h then pure (.refused 1)
  else if lr ≠ 0 ∧ cb ≠ 0 ∧ lr ≠ cb then pure (.refused 2)
  else if field h 52 2 < lrTeamSz raw then pure (.refused 3)
  else if len < blk + 16 * nb ∨ len < bal + 8 * nbal then pure (.refused 7)
  else do
    let tab ← readImg s sp base blk (16 * nb)
    match ← readHeads s sp base len tab (List.range nb) with
    | none => pure (.refused 7)
    | some heads =>
      let blocks ← rdEach (fun (e : List Byte × Nat) => do
        let ps ← readPages s sp base e.2 (List.range (field e.1 2 1))
        pure { head := e.1, pageOff := e.2, code := (ps.map (·.1)).flatten, entries := [], exits := [], decls := [],
               source := ps.map (·.2.1), exec := ps.all (·.2.2) : RawBlock }) heads
      let bt ← readImg s sp base bal (8 * nbal)
      if !balanceOk bt nbal ((blocks.map (fun b => (realNodes (slotWords b.code)).map (·.2))).flatten) then pure (.refused 4)
      else if emulate && decide (nb ≤ field h 14 2) then pure (.refused 5)
      else if !blocks.all (·.exec) then pure (.refused 6)
      else if pool % 8 ≠ 0 ∨ len < pool + cps ∨ !heads.all (fun e => listsLayout len e.1) then pure (.refused 7)
      else do
        let cpool ← readImg s sp base pool (Nat.min cps 65560)
        let full ← rdEach (fun b => readLists s sp base b) blocks
        let width := effWidth lr cb
        let all_ := ((List.range nb).zip full).flatMap (fun (e : Nat × RawBlock) => e.2.decls.map (fun d => (e.1, d)))
        let frames ← get
        let pa := match translate s 160 sp base .device with | .ok pa _ _ => pa | _ => 0
        pure (.image
          { pa := pa, frames := frames, creww := cb, emulate := emulate, stitch := bit (field h 7 1) 1, entry := field h 12 2,
            emuh := field h 14 2, width := width, scratch := field h 48 4, teamMax := field h 52 2, cpool := cpool,
            blocks := ((List.range nb).zip full).map (fun (e : Nat × RawBlock) => makeBlock h cpool width e.1 all_ e.2) })

/-- The verdict on a launch's image: a cached one of the same space, address and width serves, but for the rows that the
record decides (R100, R102). (DEDUCED, log 10) -/
def verdictFor (s : State) (sp : Nat) (raw : List Byte) : Except RdErr Verdict :=
  let cached : Option (Nat × Image) := match translate s 160 sp (lrImage raw) .device with
    | .ok pa _ _ => s.images.find? (fun (e : Nat × Image) => e.1 == sp && e.2.pa == pa && e.2.width == effWidth (lrCrewW raw) e.2.creww)
    | _ => none
  match cached with
  | some (_, m) =>
    if lrCrewW raw ≠ 0 ∧ m.creww ≠ 0 ∧ lrCrewW raw ≠ m.creww then .ok (.refused 2)
    else if m.teamMax < lrTeamSz raw then .ok (.refused 3)
    else .ok (.image m)
  | none => (fun (r : Verdict × List Nat) => r.1) <$> (checkImage s sp raw).run []

/-- The load report of R99: 64 bytes, from the verdict. -/
def loadReport (v : Verdict) : List Byte :=
  let le (n x : Nat) : List Byte := toBytes n x
  match v with
  | .refused r => le 2 1 ++ le 2 r ++ List.replicate 60 0
  | .image m =>
    let bad := ((List.range m.blocks.length).zip m.blocks).filter (fun (e : Nat × Block) => e.2.reason != 0)
    match bad with
    | [] => List.replicate 64 0
    | (i, b) :: _ => le 2 2 ++ le 2 b.reason ++ le 4 bad.length ++ le 2 i ++ le 2 b.badNode ++ le 2 b.badEdge ++ List.replicate 50 0

end Sys2Proof.Machine
end

