-- ==== Sys2Proof/Machine/Registers.lean ====
section
/-! DEFINITION. The management register space (R7, R52): what every offset reads, what a plain write stores, and
the rows of the table that read or write one register with an effect of its own. -/

namespace Sys2Proof.Machine

/-! ## Values (R24, R30, R35, R37, R41, R51, R65, R69, R76, R85, R137, R146, R149, R162, R395) -/

def w32 (n : Nat) : Word32 := BitVec.ofNat 32 n

def frozen (s : State) : Bool := s.boot.frozenCmd || s.boot.frozenPin

/-- BOOT_STATUS (R65). -/
def bootStatus (s : State) : Word32 :=
  w32 (s.boot.stage + boolBit s.boot.failed 4 + boolBit s.boot.warmStart 5 + boolBit (frozen s) 6 + boolBit s.boot.imageB 7 +
    s.boot.code * 2 ^ 8 + s.boot.unit_ * 2 ^ 16)

/-- Launches of a space not yet committed or aborted (R69); under GRAN = TEAM, all of whose teams have not committed. -/
def live (s : State) (n : Nat) : Nat :=
  (s.launches.filter (fun l => l.space == n && l.phase != .aborted && l.phase != .committed && l.phase != .done &&
    !(lrTeamGran l.raw && l.teamCommits == lrTeams l.raw))).length

/-- SAVED: launches now held (R146). -/
def savedCount (s : State) : Nat := (s.launches.filter (fun l => l.phase == .held && l.parent.isNone)).length

/-- MiB of the save pool in use, rounded up (R146). -/
def poolUsed (s : State) : Nat := (((s.launches.filter (·.phase != .aborted)).filterMap (·.stream)).map (·.2)).sum

def ramblerRead (r : Rambler) (o : Nat) : Nat :=
  if o = 0x04 then r.state + Nat.min r.round 255 * 2 ^ 8 + r.err * 2 ^ 16
  else if o = 0x08 then r.space.toNat else if o = 0x0C then r.grace.toNat else if o = 0x10 then r.ports.toNat
  else if o = 0x14 then r.sent else if o = 0x18 then r.logLo.toNat else if o = 0x1C then r.logHi.toNat
  else if o = 0x20 then r.logSize.toNat
  else if 0x28 ≤ o ∧ o < 0x38 then (r.peerAddr.getD ((o - 0x28) / 4) 0).toNat
  else if 0x40 ≤ o ∧ o < 0x60 then (r.peerKey.getD ((o - 0x40) / 4) 0).toNat else 0

def spaceRead (s : State) (n o : Nat) : Nat :=
  let p := space s n
  if o = 0 then p.rootLo.toNat else if o = 4 then p.rootHi.toNat else if o = 8 then boolBit p.enable 0
  else Nat.min (live s n) 65535 + boolBit (s.xlat.faults.any (fun f => f.space == n)) 16

def queueRead (s : State) (n o : Nat) : Nat :=
  let q := queue s n
  if o = 0 then q.baseLo.toNat else if o = 4 then q.baseHi.toNat
  else if o = 8 then q.space.toNat + q.prio.toNat * 2 ^ 6 + q.logSize.toNat * 2 ^ 8 + boolBit q.enable 12
  else q.err + boolBit q.stopped 3 + Nat.min q.waiting.length 65535 * 2 ^ 16

def xlatRead (s : State) (o : Nat) : Nat :=
  let x := s.xlat
  if o = 0x00 then x.invLo.toNat else if o = 0x04 then x.invHi.toNat
  else if o = 0x08 then x.invCtrl.toNat + boolBit x.invBusy 17 + boolBit x.invErr 18
  else if o = 0x10 then x.fqLo.toNat else if o = 0x14 then x.fqHi.toNat
  else if o = 0x18 then x.fqLog.toNat + boolBit x.fqEnable 8 + boolBit (fqFull s) 9 + boolBit x.badId 10 + boolBit x.lost 11
  else if o = 0x1C then x.prod else if o = 0x20 then x.cons.toNat else if o = 0x24 then x.respId.toNat else 0

def dispRead (s : State) (o : Nat) : Nat :=
  let d := s.disp
  if o = 0x00 then boolBit d.preempt 0 + boolBit d.migrate 1 + boolBit d.hold 2
  else if o = 0x04 then d.saveLo.toNat else if o = 0x08 then d.saveHi.toNat else if o = 0x0C then d.saveSize.toNat
  else if o = 0x10 then (poolUsed s + 2 ^ 20 - 1) / 2 ^ 20
  else if o = 0x14 then d.killQ.toNat + boolBit d.killAll 8 + boolBit d.killBusy 17
  else if o = 0x18 then d.killLo.toNat else if o = 0x1C then d.killHi.toNat
  else if o = 0x20 then Nat.min (savedCount s) 255 + d.preempts * 2 ^ 8 + d.replays * 2 ^ 16 + d.kills * 2 ^ 24 else 0

def placerRead (p : Placer) (o : Nat) : Nat :=
  if o = 0x00 then p.freeLo.toNat else if o = 0x04 then p.freeHi.toNat
  else if o = 0x08 then p.freeLog.toNat + boolBit p.freeOn 8 else if o = 0x0C then p.freeProd.toNat
  else if o = 0x10 then p.freeCons.toNat else if o = 0x14 then p.logLo.toNat else if o = 0x18 then p.logHi.toNat
  else if o = 0x1C then p.logLog.toNat + boolBit p.logOn 8 else if o = 0x20 then p.logProd.toNat
  else if o = 0x24 then p.logCons.toNat else if o = 0x28 then p.migrated + p.abandoned * 2 ^ 16 + p.badFrame * 2 ^ 24 else 0

def mapRead (s : State) (n o : Nat) : Nat :=
  let p := space s n
  if o = 0 then p.hmLo.toNat else if o = 4 then p.hmHi.toNat else if o = 8 then p.hmSize.toNat
  else p.hmCount + boolBit p.hmTrunc 16 + boolBit p.hmErr 17

def netRead (s : State) (n o : Nat) : Nat :=
  let p := space s n
  if o = 0 then p.ctLo.toNat else if o = 4 then p.ctHi.toNat else if o = 8 then p.ctCount.toNat
  else p.sendFail + p.deferFail * 2 ^ 16

/-- Four bytes of a byte array held by the management controller. -/
def bytesAt (l : List Byte) (o : Nat) : Nat := ofBytes ((l.drop o).take 4)

/-- USED of SKIM_SHARE_D: 64 KiB units of the share in use, at most 2,048 (R114, R137). -/
def shareUnits (s : State) (d : Nat) : Nat := Nat.min 2048 ((shareUsed s d + 65535) / 65536)

/-- SKIM_SHARE_D of a die (R137). -/
def shareRead (s : State) (d : Nat) : Nat := shareUnits s d + s.skim.spills.getD d 0 * 2 ^ 16

/-- The value of the register at an offset, before any clearing on read. Unassigned offsets read zero (R7);
a field reads as it was written, not as it acts (R429). (DEDUCED, log 22) -/
def regValue (s : State) (o : Nat) : Nat :=
  if o = 0x0 then (bootStatus s).toNat
  else if o = 0x4 then boolBit s.boot.preserve 2 + s.boot.carve.toNat * 2 ^ 8
  else if o = 0x8 then s.boot.kept.toNat + s.boot.carved * 2 ^ 12
  else if o = 0xC then s.boot.alert.toNat else if o = 0x10 then s.boot.alertEn.toNat
  else if o = 0x14 then s.boot.dbgSel.toNat else if o = 0x18 then s.boot.dbgSelHi.toNat
  else if o = 0x1C then bits s.boot.brk.toNat 31 0 else if o = 0x20 then bits s.boot.brk.toNat 63 32
  else if o = 0x24 then s.boot.brkHit.toNat else if o = 0x28 then s.boot.brkNode.toNat
  else if 0x100 ≤ o ∧ o < 0x300 then
    bits (s.boot.meas.getD ((o - 0x100) / 64) 0).toNat (8 * ((o - 0x100) % 64) + 31) (8 * ((o - 0x100) % 64))
  else if o = 0x400 then s.gov.limit.toNat
  else if o = 0x404 then s.gov.duty + boolBit s.gov.causePower 8 + boolBit s.gov.causeThermal 9 + boolBit s.gov.hot 10 +
    s.gov.tempMax * 2 ^ 16
  else if o = 0x408 then s.gov.power + s.gov.peak * 2 ^ 16
  else if o = 0x480 then s.merr.ce + s.merr.ue * 2 ^ 16 + boolBit s.merr.ueValid 24 + s.merr.source * 2 ^ 25 + s.merr.die * 2 ^ 28
  else if o = 0x484 then bits s.merr.addr 31 0 else if o = 0x488 then bits s.merr.addr 51 32
  else if o = 0x800 then s.kamub.up.toNat + s.kamub.down.toNat * 2 ^ 4 + s.kamub.retryCount * 2 ^ 8 +
    s.kamub.linkAborts * 2 ^ 16 + boolBit (s.boot.stage == 8 && s.kamub.up == 0) 24
  else if o = 0x880 then s.mem.dirtySel.toNat
  else if o = 0x884 then bits s.mem.latch.toNat 31 0 else if o = 0x888 then bits s.mem.latch.toNat 63 32
  else if 0x900 ≤ o ∧ o < 0x940 then
    let p := s.eth.getD ((o - 0x900) / 4) EthPort.reset
    boolBit p.up 0 + boolBit p.llr 1 + p.uudDrop * 2 ^ 8 + p.trimRx * 2 ^ 16 + p.refused * 2 ^ 24
  else if 0xA00 ≤ o ∧ o < 0xC00 then ramblerRead (s.ramblers.getD ((o - 0xA00) / 0x80) Rambler.reset) ((o - 0xA00) % 0x80)
  else if 0xC00 ≤ o ∧ o < 0xC20 then bytesAt s.boot.attNonce (o - 0xC00)
  else if o = 0xC20 then s.boot.attIndex.toNat * 4 + boolBit s.boot.attBusy 8 + boolBit s.boot.attErr 9
  else if 0xC40 ≤ o ∧ o < 0xC80 then bytesAt s.boot.measData (o - 0xC40)
  else if 0xD00 ≤ o ∧ o < 0xF98 then bytesAt s.boot.attReport (o - 0xD00)
  else if 0x2000 ≤ o ∧ o < 0x2400 then spaceRead s ((o - 0x2000) / 16) (o % 16)
  else if 0x2400 ≤ o ∧ o < 0x2800 then queueRead s ((o - 0x2400) / 16) (o % 16)
  else if 0x2800 ≤ o ∧ o < 0x282C then xlatRead s (o - 0x2800)
  else if o = 0x3000 then freeTags s + s.skim.commits * 2 ^ 16
  else if o = 0x3004 then s.skim.conflictN + s.skim.fullN * 2 ^ 16
  else if 0x3010 ≤ o ∧ o < 0x3020 then shareRead s ((o - 0x3010) / 4)
  else if 0x3400 ≤ o ∧ o < 0x3424 then dispRead s (o - 0x3400)
  else if 0x3600 ≤ o ∧ o < 0x3700 then placerRead (s.placers.getD ((o - 0x3600) / 0x40) Placer.reset) ((o - 0x3600) % 0x40)
  else if 0x3800 ≤ o ∧ o < 0x3C00 then mapRead s ((o - 0x3800) / 16) (o % 16)
  else if 0x3C00 ≤ o ∧ o < 0x4000 then netRead s ((o - 0x3C00) / 16) (o % 16)
  else 0

/-- In the failed state only the boot, alert and measurement registers respond (R54). (DEDUCED, log 25) -/
def answers (s : State) (o : Nat) : Bool :=
  !s.boot.failed || o == 0 || o == 4 || o == 0xC || o == 0x10 || (decide (0x100 ≤ o) && decide (o < 0x300))

/-- What a read of a register returns (R52, R54). -/
def regRead (s : State) (o : Nat) : Word32 := if answers s o then w32 (regValue s o) else 0

/-- A management read hands its value to the path that asked (R52). -/
def readInto (o : Nat) (s : State) : State := { s with readData := regRead s o }

/-! ## Writes -/

/-- Replaces four bytes of a byte array. -/
def putBytes (l : List Byte) (o : Nat) (d : Word32) : List Byte := l.take o ++ toBytes 4 d.toNat ++ l.drop (o + 4)

/-- Does the write belong to a row of its own (a command bit, an enable, a response)? -/
def ownRow (o : Nat) (d : Word32) : Bool :=
  let v := d.toNat
  o = 0x400 || (o = 4 && (bit v 0 || bit v 1 || bit v 3 || bit v 4)) || (o = 0xC20 && (bit v 0 || bit v 1)) ||
  (0xA00 ≤ o && o < 0xC00 && (o - 0xA00) % 0x80 = 0 && v % 32 ≠ 0) || (o = 0x2808 && bit v 16) ||
  (o = 0x2818 && bit v 8) || o = 0x2820 || (o = 0x2828 && (v % 4 = 1 || v % 4 = 2)) ||
  (0x2000 ≤ o && o < 0x2400 && o % 16 = 8) || (0x2400 ≤ o && o < 0x2800 && o % 16 = 8) || (o = 0x3414 && bit v 16) ||
  (0x3600 ≤ o && o < 0x3700 && ((o - 0x3600) % 0x40 = 8 || (o - 0x3600) % 0x40 = 0x1C) && bit v 8)

def keep (d : Word32) (mask : Nat) : Word32 := d &&& w32 mask

def ramblerWrite (n o : Nat) (d : Word32) (s : State) : State :=
  let f (r : Rambler) : Rambler :=
    if o = 0x08 then { r with space := d.setWidth 6 } else if o = 0x0C then { r with grace := d.setWidth 16 }
    else if o = 0x10 then { r with ports := d.setWidth 16 } else if o = 0x18 then { r with logLo := keep d 0xFFFFFFF8 }
    else if o = 0x1C then { r with logHi := keep d 0x3FFFFF } else if o = 0x20 then { r with logSize := d }
    else if 0x28 ≤ o ∧ o < 0x38 then { r with peerAddr := r.peerAddr.set ((o - 0x28) / 4) d }
    else if 0x40 ≤ o ∧ o < 0x60 then { r with peerKey := r.peerKey.set ((o - 0x40) / 4) d } else r
  { s with ramblers := listMod s.ramblers n f }

/-- Writes of a space's registers (R69, R162, R395). -/
def spaceWrite (n o : Nat) (d : Word32) (s : State) : State :=
  if (space s n).enable then s
  else if o = 0 then modSpace n (fun p => { p with rootLo := keep d 0xFFFFFE00 }) s
  else if o = 4 then modSpace n (fun p => { p with rootHi := keep d 0xFFFFF }) s else s

def mapWrite (n o : Nat) (d : Word32) (s : State) : State :=
  if o = 0 then modSpace n (fun p => { p with hmLo := keep d 0xFFFFF000 }) s
  else if o = 4 then modSpace n (fun p => { p with hmHi := keep d 0x3FFFFF }) s
  else if o = 8 then modSpace n (fun p => { p with hmSize := d }) s else s

def netWrite (n o : Nat) (d : Word32) (s : State) : State :=
  if live s n ≠ 0 then s
  else if o = 0 then modSpace n (fun p => { p with ctLo := keep d 0xFFFFFFC0 }) s
  else if o = 4 then modSpace n (fun p => { p with ctHi := keep d 0xFFFFF }) s
  else if o = 8 then modSpace n (fun p => { p with ctCount := d.setWidth 13 }) s else s

def queueBaseWrite (n o : Nat) (d : Word32) (s : State) : State :=
  if (queue s n).enable then s
  else if o = 0 then modQueue n (fun q => { q with baseLo := keep d 0xFFFFFF00 }) s
  else if o = 4 then modQueue n (fun q => { q with baseHi := keep d 0x3FFFFF }) s else s

/-- Writes of the translation registers that have no row of their own (R76). -/
def xlatWrite (o : Nat) (d : Word32) (s : State) : State :=
  let x := s.xlat
  if o = 0x00 then { s with xlat := { x with invLo := keep d 0xFFFFF000 } }
  else if o = 0x04 then { s with xlat := { x with invHi := keep d 0x3FFFFF } }
  else if o = 0x08 then { s with xlat := { x with invCtrl := keep d 0x7FF, invErr := x.invErr && !d.getLsbD 18 } }
  else if o = 0x10 then { s with xlat := { x with fqLo := keep d 0xFFFFF000 } }
  else if o = 0x14 then { s with xlat := { x with fqHi := keep d 0xFFFFF } }
  else if o = 0x18 then { s with xlat := { x with fqLog := d.setWidth 4, fqEnable := false,
                                                  badId := x.badId && !d.getLsbD 10, lost := x.lost && !d.getLsbD 11 } }
  else if o = 0x24 then { s with xlat := { x with respId := d } } else s

/-- Writes of the dispatcher's registers that have no row of their own (R146). -/
def dispWrite (o : Nat) (d : Word32) (s : State) : State :=
  let x := s.disp
  if o = 0x00 then { s with disp := { x with preempt := d.getLsbD 0, migrate := d.getLsbD 1, hold := d.getLsbD 2 } }
  else if o = 0x14 then { s with disp := { x with killQ := d.setWidth 6, killAll := d.getLsbD 8 } }
  else if o = 0x18 then { s with disp := { x with killLo := d } }
  else if o = 0x1C then { s with disp := { x with killHi := d } }
  else if savedCount s ≠ 0 then s
  else if o = 0x04 then { s with disp := { x with saveLo := keep d 0xFFFFF000 } }
  else if o = 0x08 then { s with disp := { x with saveHi := keep d 0xFFFFF } }
  else if o = 0x0C then { s with disp := { x with saveSize := d.setWidth 16 } } else s

/-- Writes of a die's placer registers that have no row of their own (R149). -/
def placerWrite (n o : Nat) (d : Word32) (s : State) : State :=
  let f (p : Placer) : Placer :=
    if o = 0x00 then (if p.freeOn then p else { p with freeLo := keep d 0xFFFFF000 })
    else if o = 0x04 then (if p.freeOn then p else { p with freeHi := keep d 0xFFFFF })
    else if o = 0x08 then { p with freeLog := if p.freeOn then p.freeLog else d.setWidth 4, freeOn := false }
    else if o = 0x0C then { p with freeProd := d }
    else if o = 0x14 then (if p.logOn then p else { p with logLo := keep d 0xFFFFF000 })
    else if o = 0x18 then (if p.logOn then p else { p with logHi := keep d 0xFFFFF })
    else if o = 0x1C then { p with logLog := if p.logOn then p.logLog else d.setWidth 4, logOn := false }
    else if o = 0x24 then { p with logCons := d } else p
  { s with placers := listMod s.placers n f }

/-- Stores a register write that has no row of its own, under that register's write conditions; writes of
reserved fields and of unassigned offsets have no effect (R7, R52). (DEDUCED, log 25) -/
def regWrite (o : Nat) (d : Word32) (s : State) : State :=
  if o = 0x4 then { s with boot := { s.boot with preserve := d.getLsbD 2, carve := (d >>> 8).setWidth 4 } }
  else if o = 0xC then setAlerts (s.boot.alert &&& ~~~(d.setWidth 6)) s.boot.alertEn s
  else if o = 0x10 then setAlerts s.boot.alert (d.setWidth 6) s
  else if o = 0x14 then { s with boot := { s.boot with dbgSel := d } }
  else if o = 0x18 then { s with boot := { s.boot with dbgSelHi := d.setWidth 20 } }
  else if o = 0x1C then { s with boot := { s.boot with brk := (s.boot.brk &&& 0xFFFFFFFF00000000) ||| d.setWidth 64 } }
  else if o = 0x20 then { s with boot := { s.boot with brk := (s.boot.brk &&& 0xFFFFFFFF) ||| (d.setWidth 64 <<< 32) } }
  else if o = 0x404 then { s with gov := { s.gov with hot := s.gov.hot && !d.getLsbD 10 } }
  else if o = 0x480 then { s with merr := { s.merr with ueValid := s.merr.ueValid && !d.getLsbD 24 } }
  else if o = 0x800 then { s with kamub := { s.kamub with down := s.kamub.down &&& ~~~((d >>> 4).setWidth 4) } }
  else if o = 0x880 then { s with mem := { s.mem with dirtySel := keep d 0x803FFFFF } }
  else if 0xA00 ≤ o ∧ o < 0xC00 then ramblerWrite ((o - 0xA00) / 0x80) ((o - 0xA00) % 0x80) d s
  else if 0xC00 ≤ o ∧ o < 0xC20 then { s with boot := { s.boot with attNonce := putBytes s.boot.attNonce (o - 0xC00) d } }
  else if o = 0xC20 then { s with boot := { s.boot with attIndex := (d >>> 2).setWidth 3,
                                                        attErr := s.boot.attErr && !d.getLsbD 9 } }
  else if 0xC40 ≤ o ∧ o < 0xC80 then { s with boot := { s.boot with measData := putBytes s.boot.measData (o - 0xC40) d } }
  else if 0x2000 ≤ o ∧ o < 0x2400 then spaceWrite ((o - 0x2000) / 16) (o % 16) d s
  else if 0x2400 ≤ o ∧ o < 0x2800 then queueBaseWrite ((o - 0x2400) / 16) (o % 16) d s
  else if 0x2800 ≤ o ∧ o < 0x282C then xlatWrite (o - 0x2800) d s
  else if 0x3400 ≤ o ∧ o < 0x3424 then dispWrite (o - 0x3400) d s
  else if 0x3600 ≤ o ∧ o < 0x3700 then placerWrite ((o - 0x3600) / 0x40) ((o - 0x3600) % 0x40) d s
  else if 0x3800 ≤ o ∧ o < 0x3C00 then mapWrite ((o - 0x3800) / 16) (o % 16) d s
  else if 0x3C00 ≤ o ∧ o < 0x4000 then netWrite ((o - 0x3C00) / 16) (o % 16) d s
  else s

/-- Does a path carry an access to an offset? The registers lie at aligned offsets of 64 KiB, and Kamub configuration space answers
only while a port is up (R52, R53). (DEDUCED, log 25) -/
def pathTakes (s : State) (via : MgmtPath) (o : Nat) : Bool :=
  o % 4 == 0 && decide (o < 65536) && (match via with | .kamub => s.kamub.up != 0 | _ => true)

/-- REGISTER_WRITE (R52). (DEDUCED, log 25) -/
def execRegisterWrite (via : MgmtPath) (o : Nat) (d : Word32) (s : State) : Out :=
  .next (if pathTakes s via o && answers s o && !ownRow o d then regWrite o d s else s)

/-- I3C_ENTDAA: the target at 0x3A takes a dynamic address (R52). (DEDUCED, log 25) -/
def execI3cEntdaa (a : BitVec 7) (s : State) : Out := .next { s with boot := { s.boot with i3cAddr := some a } }

/-- LIMIT_W: clamped to 800–2,400 W; it counts from the next governor sample (R23, R24). The register holds the clamped value, and a
read returns that value, where R429 would have it return the value written. (DEDUCED, log 48) -/
def execLimitW (d : Word32) (s : State) : Out :=
  .next (if answers s 0x400 then
    { s with gov := { s.gov with limit := BitVec.ofNat 12 (Nat.max 800 (Nat.min 2400 (bits d.toNat 11 0))) } } else s)

/-- A read that clears fields, except during a freeze and in the failed state (R52, R63). -/
def clearingRead (o : Nat) (clear : State → State) (s : State) : State :=
  let t := readInto o s
  if frozen s || !answers s o then t else clear t

/-- GOV_POWER_READ (R24). -/
def execGovPowerRead (s : State) : Out := .next (clearingRead 0x408 (fun s => { s with gov := { s.gov with peak := 0 } }) s)

/-- MERR_STATUS_READ (R30). -/
def execMerrStatusRead (s : State) : Out :=
  .next (clearingRead 0x480 (fun s => { s with merr := { s.merr with ce := 0, ue := 0 } }) s)

/-- KL_STATUS_READ (R35). -/
def execKlStatusRead (s : State) : Out :=
  .next (clearingRead 0x800 (fun s => { s with kamub := { s.kamub with retryCount := 0, linkAborts := 0 } }) s)

/-- ETH_STATUS_READ (R37). -/
def execEthStatusRead (p : Fin 16) (s : State) : Out :=
  let zero (e : EthPort) : EthPort := { e with uudDrop := 0, trimRx := 0, refused := 0 }
  .next (clearingRead (0x900 + 4 * p.val) (fun s => { s with eth := listMod s.eth p.val zero }) s)

/-- SKIM_STATUS_READ (R137). -/
def execSkimStatusRead (s : State) : Out := .next (clearingRead 0x3000 (fun s => { s with skim := { s.skim with commits := 0 } }) s)

/-- SKIM_ABORTS_READ (R137). -/
def execSkimAbortsRead (s : State) : Out :=
  .next (clearingRead 0x3004 (fun s => { s with skim := { s.skim with conflictN := 0, fullN := 0 } }) s)

/-- SKIM_SHARE_READ (R137). -/
def execSkimShareRead (die : Fin 4) (s : State) : Out :=
  .next (clearingRead (0x3010 + 4 * die.val)
    (fun s => { s with skim := { s.skim with spills := listMod s.skim.spills die.val (fun _ => 0) } }) s)

/-- DISP_STATUS_READ (R146). -/
def execDispStatusRead (s : State) : Out :=
  .next (clearingRead 0x3420 (fun s => { s with disp := { s.disp with preempts := 0, replays := 0, kills := 0 } }) s)

/-- PLC_STATUS_READ (R149). -/
def execPlcStatusRead (die : Fin 4) (s : State) : Out :=
  let zero (p : Placer) : Placer := { p with migrated := 0, abandoned := 0, badFrame := 0 }
  .next (clearingRead (0x3628 + 0x40 * die.val) (fun s => { s with placers := listMod s.placers die.val zero }) s)

/-- NET_STATUS_READ (R395). -/
def execNetStatusRead (n : Fin 64) (s : State) : Out :=
  .next (clearingRead (0x3C0C + 0x10 * n.val) (modSpace n.val (fun p => { p with sendFail := 0, deferFail := 0 })) s)

/-- DIRTY_WORD_LO_READ: latches the word that DIRTY_SEL names and, with CLEAR = 1 and no freeze, clears it in the
same step (R40, R41, R63). -/
def execDirtyWordLoRead (s : State) : Out :=
  .next (if !answers s 0x884 then { s with readData := 0 } else
    let w := bits s.mem.dirtySel.toNat 21 0
    let v := dirtyWord s w
    let s := { s with mem := { s.mem with latch := BitVec.ofNat 64 v }, readData := w32 (bits v 31 0) }
    if s.mem.dirtySel.getLsbD 31 && !frozen s && decide (w < 2367488) then
      { s with mem := { s.mem with clean := (List.range 64).foldl (fun t i => tabPut t (64 * w + i) ()) s.mem.clean } }
    else s)

end Sys2Proof.Machine
end

