-- ==== Sys2Proof/Machine/Teams.lean ====
section
/-! DEFINITION. Where teams run and how they become ready (R101 to R104, R141, R142, R179, R186, R248): the meaning of
TEAM_READY. -/

namespace Sys2Proof.Machine

/-- The fabric runs: the cores are released and no freeze is in force (R53, R62). -/
def coresRun (s : State) : Bool := s.boot.released && !frozen s

/-! ## Room on a core (R141) -/

/-- Free hardware crew slots of a core. -/
def freeSlots (s : State) (core : Nat) : List Nat :=
  let used := (s.crews.filter (fun e => e.1 / 256 == core)).map (·.1 % 256)
  (List.range 256).filter (fun k => !used.contains k)

/-- Scratchpad bytes in use on a core. -/
def padUsed (s : State) (core : Nat) : Nat :=
  ((s.teams.filter (fun m => m.core == core && !m.retired)).map (fun m => ((imageOf s m.launch).map (·.scratch)).getD 0)).sum

/-- The stitched launch that holds a cluster, if one does (R142). -/
def clusterHolder (s : State) (cluster : Nat) : Option Nat :=
  (s.teams.find? (fun m => !m.retired && clusterOf m.core == cluster &&
    (match imageOf s m.launch with | some i => i.stitch | none => false))).map (·.launch)

/-- May the launch's teams run on this core's cluster (R142)? -/
def clusterOpen (s : State) (id : Nat) (stitch : Bool) (core : Nat) : Bool :=
  match clusterHolder s (clusterOf core) with
  | some h => h == id
  | none => !stitch || s.teams.all (fun m => m.retired || clusterOf m.core != clusterOf core || m.launch == id)

/-- Has a core room for so many crews and so much scratchpad? -/
def coreRoom (s : State) (id : Nat) (m : Image) (crews core : Nat) : Bool :=
  decide (crews ≤ (freeSlots s core).length) && decide (padUsed s core + m.scratch ≤ 1048576) && clusterOpen s id m.stitch core

/-- Free crew slots of a die. -/
def dieSlots (s : State) (die : Nat) : Nat := ((List.range 40).map (fun k => (freeSlots s (die * 40 + k)).length)).sum

/-- The core of a die with the most free crew slots, among those given (R142). -/
def bestOf (s : State) (cores : List Nat) : Option Nat := leastBy (fun c => 256 - (freeSlots s c).length) cores

/-- The core that the placer chooses for the next team (R142). What AUTO takes from earlier placements is a free value, and under SPREAD a
die whose turn it is and none of whose cores has room is passed over for the next die in cyclic order that has one. (DESIGN CHOICE, log 17) -/
def chooseCore (s : State) (l : Launch) (crews : Nat) : Option Nat :=
  let open_ := (List.range 160).filter (fun c => coreRoom s l.id l.image crews c)
  let onDie (d : Nat) : List Nat := open_.filter (fun c => dieOf c == d)
  if lrAffin l.raw = 1 then open_.head?
  else
    let dies := (List.range 4).filter (fun d => !(onDie d).isEmpty)
    let die := if lrAffin l.raw = 2 then leastBy (fun d => (d + 4 - l.nextTeam % 4) % 4) dies
      else match Config.affinityDie l.space l.image.pa s.disp.nextTeam with
        | some d => if dies.contains d then some d else leastBy (fun d => 10240 - dieSlots s d) dies
        | none => leastBy (fun d => 10240 - dieSlots s d) dies
    die.bind (fun d => bestOf s (onDie d))

/-! ## A team becomes ready (R141, R179, R186) -/

/-- The threads of a team, each waiting in the entry block. -/
def newThreads (l : Launch) (key num : Nat) (crews : List Nat) (since : Nat) : List (Nat × Thread) :=
  (List.range (lrTeamSz l.raw)).map (fun tid =>
    (crews.getD (tid / 32) 0 * 32 + tid % 32,
     { launch := l.id, team := key, tid := tid, fp := 0, st := .waiting l.image.entry, saved := false, since := since, replica := 0,
       prng := prngSeed (BitVec.ofNat 64 (lrSeed l.raw)) (BitVec.ofNat 32 (num * lrTeamSz l.raw + tid)), episodes := [] }))

/-- Places the next team of a launch on a core: its crew slots with zero rows, registers and high-water, its scratchpad,
its window stacks, and its threads. -/
def placeTeam (l : Launch) (core : Nat) (vt : Option Nat) (s : State) : State :=
  let n := hwCrews l.image.width (lrTeamSz l.raw)
  let slots := (freeSlots s core).take n
  let keys := slots.map (core * 256 + ·)
  let stacks_ := l.freeStacks.take n
  let key := s.disp.nextTeam
  let crewOf_ (e : Nat × Nat) : Crew :=
    { team := key, index := e.1, lo := 0, target := 0, done := 0, high := 0, stack := stacks_.getD e.1 0, moving := none, movingVa := 0 }
  let team : Team := { key := key, launch := l.id, num := l.nextTeam, core := core, crews := keys, size := lrTeamSz l.raw,
                       vt := vt, retired := false, requested := false, barriers := [], children := [], status := [] }
  let s := { s with
    teams := s.teams ++ [team]
    crews := ((List.range n).zip keys).foldl (fun t e => tabPut t e.2 (crewOf_ e)) s.crews
    threads := (newThreads l key l.nextTeam keys s.cycles).foldl (fun t e => tabPut t e.1 e.2) s.threads
    core := { s.core with
      lvs := keys.foldl (fun t k => tabClear t (k * 2048) 2048) s.core.lvs
      kregs := keys.foldl (fun t k => tabClear t (k * 128) 128) s.core.kregs
      scratch := tabClear s.core.scratch (key * 2 ^ 20) (2 ^ 20)
      absent := tabClear s.core.absent (key * 2 ^ 17) (2 ^ 17) }
    disp := { s.disp with nextTeam := key + 1 } }
  let s := modLaunch l.id (fun l => { l with nextTeam := l.nextTeam + 1, freeStacks := l.freeStacks.drop n }) s
  if armed s l.id l.image.entry then s else abortLaunch l.id 0x06 false none s

/-- The core that the next team of a launch can have now. -/
def readyCore (s : State) (l : Launch) : Option Nat :=
  let n := hwCrews l.image.width (lrTeamSz l.raw)
  if l.phase == .running && decide (l.nextTeam < lrTeams l.raw) && decide (n ≤ l.freeStacks.length) then chooseCore s l n else none

/-- Has a launch of a higher effective priority the next claim on cores: a team that can become ready now, or victims on their way off their
cores (R150)? A launch that has pre-empted nothing has the same claim. (DESIGN CHOICE, log 37) -/
def claimAbove (s : State) (prio : Nat) : Bool :=
  s.launches.any (fun l => l.parent.isNone && decide (prio < l.prio) && l.phase == .running && l.stream.isNone &&
    decide (l.nextTeam < lrTeams l.raw) && (l.vt.isSome || decide (128 < freeTags s)) &&
    ((readyCore s l).isSome || s.launches.any (fun v => v.stream.isSome && (v.phase == .running || v.phase == .saving) && decide (v.prio < l.prio))))

/-- A new tag for a transaction (R108). -/
def newTag (vt launch : Nat) (team parent : Option Nat) (s : State) : State :=
  { s with skim := { s.skim with
      tags := tabPut s.skim.tags vt { st := .active, launch := launch, team := team, parent := parent, cause := 0, charge := 0, logged := [] } } }

/-- A team of a family comes to a die: what it reads there happens after what the dispatcher has read, so the die's clean copies go,
and the completion word will wait for what the die's store buffer holds (R231). -/
def joinDie (top die : Nat) (s : State) : State :=
  dropDies [die] (modLaunch top (fun l => { l with dies := insertNew die l.dies }) s)

/-- TEAM_READY: teams become ready in ascending number; under GRAN = TEAM each takes a tag of its own while more than 128
are FREE (R108, R110, R141). Cores that a pre-emption frees are first the pre-empting launch's (R150). -/
def evTeamReady (id : Nat) (s : State) : State :=
  match launch? s id with
  | none => s
  | some l =>
    if !coresRun s || l.stream.isSome || claimAbove s l.prio then s
    else match readyCore s l with
      | none => s
      | some core =>
        let t := joinDie (topOf s id) (dieOf core) s
        if l.vt.isSome then placeTeam l core none t
        else if freeTags s ≤ 128 then s
        else match pickTag s with
          | some vt => placeTeam l core (some vt) (newTag vt id (some t.disp.nextTeam) none t)
          | none => s

def execTeamReady (id : Nat) (s : State) : Out := .next (evTeamReady id s)

end Sys2Proof.Machine
end

