-- ==== Sys2Proof/Machine/Dispatcher.lean ====
section
/-! DEFINITION. Dispatch (R93, R97 to R100, R138 to R140) and child launches (R128 to R131, R399 to R401): the meaning of
DISPATCH and how the accesses of LAUNCH and LWAIT perform. -/

namespace Sys2Proof.Machine

/-! ## Selection (R138, R140) -/

/-- The lower of the record's and its queue's priority (R89). -/
def effPrio (s : State) (q : Nat) (raw : List Byte) : Nat := Nat.min (lrPrio raw) (queue s q).prio.toNat

/-- Has a launch committed or aborted, and its record not returned to its queue (R151)? -/
def ended (l : Launch) : Bool :=
  l.phase == .committed || (l.phase == .aborted && !l.requeue) || l.phase == .done || (l.vt.isNone && decide (l.teamCommits == lrTeams l.raw))

/-- Is a waiting record of a queue eligible: has its predecessor, where ORDER is 1, been dispatched and ended (R138)? -/
def eligible (s : State) (q : Nat) (w : Waiting) : Bool :=
  let sp := (queue s q).space.toNat
  w.sat.all id && w.faults.all (·.isNone) && (space s sp).enable && !(space s sp).cutOver && !s.disp.hold &&
  (!lrOrder w.raw || ((queue s q).waiting.all (fun x => x.index + 1 != w.index) &&
    s.launches.all (fun l => !(l.queue == q && l.parent.isNone && l.index + 1 == w.index) || ended l))) &&
  (lrTeamGran w.raw || decide (128 < freeTags s))

/-- Is a record of a queue on its way back to it, ahead of another (R151)? -/
def returning (s : State) (q index : Nat) : Bool :=
  s.launches.any (fun l => l.queue == q && l.parent.isNone && l.requeue && l.phase == .aborted && decide (l.index < index))

/-- The head of a queue where it is eligible. -/
def queueHead (s : State) (q : Nat) : Option Waiting :=
  match (queue s q).waiting with
  | w :: _ => if eligible s q w && !returning s q w.index then some w else none
  | [] => none

/-- The held launch of a queue, the earliest taken (R140, R156). -/
def heldOf (s : State) (q : Nat) : Option Launch :=
  leastBy (·.index) (s.launches.filter (fun l => l.phase == .held && l.queue == q && l.parent.isNone))

/-- The priority of what a queue has for the dispatcher to take: its held launch where that has room, or its eligible head (R140, R156). -/
def headPrio (s : State) (fits : Launch → Bool) (q : Nat) : Option Nat :=
  match heldOf s q with
  | some l => if fits l && !s.disp.hold then some l.prio else none
  | none => (queueHead s q).map (fun w => effPrio s q w.raw)

/-- FAIR of a queue whose head has become eligible where none of its queue was: at least the lowest of its peers (R140). (DEDUCED, log 37) -/
def raisedFair (s : State) (ps : List (Option Nat)) (q : Nat) : Nat :=
  match ps.getD q none with
  | none => (queue s q).fair
  | some p =>
    let peers := (List.range 64).filter (fun k => k != q && ps.getD k none == some p)
    Nat.max (queue s q).fair ((leastBy id (peers.map (fun k => (queue s k).fair))).getD 0)

/-- What the dispatcher notes as time goes on: which queues have an eligible head, the rise of FAIR of those that had none, all at
once, and which records have been eligible, so that their dependency words are not read again (R139, R140). (DEDUCED, log 37) -/
def noteHeads (fits : Launch → Bool) (s : State) : State :=
  let ps := (List.range 64).map (headPrio s fits)
  { s with queues := ((List.range s.queues.length).zip s.queues).map (fun (e : Nat × Queue) =>
      let now := (ps.getD e.1 none).isSome
      { e.2 with
        fair := if now && !e.2.elig then raisedFair s ps e.1 else e.2.fair
        elig := now
        waiting := e.2.waiting.map (fun w => if eligible s e.1 w then { w with wasElig := true } else w) }) }

/-- FAIR after a dispatch or a restore, with the halving of its priority (R140). (DEDUCED, log 37) -/
def chargeFair (q teams : Nat) (s : State) : State :=
  let s := modQueue q (fun x => { x with fair := Nat.min (2 ^ 32 - 1) (x.fair + teams) }) s
  let p := (queue s q).prio
  if s.queues.any (fun x => x.prio == p && decide (2 ^ 31 ≤ x.fair)) then
    { s with queues := modWhere (fun x => x.prio == p) (fun x => { x with fair := x.fair / 2 }) s.queues }
  else s

/-- What the dispatcher would take next: a queue, and its held launch if that is what it takes (R140). `fits` says whether
a held launch has room (R156). (DEDUCED, log 37) A held launch of a space that has been cut over counts while the grace period lasts (R48).
(DESIGN CHOICE, log 52) -/
def selection (s : State) (fits : Launch → Bool) : Option (Nat × Option Launch) :=
  let cand := (List.range 64).filterMap (fun q =>
    match heldOf s q with
    | some l => if fits l && !s.disp.hold then some (q, l.prio, some l) else none
    | none => (queueHead s q).map (fun w => (q, effPrio s q w.raw, none)))
  (leastBy (fun (c : Nat × Nat × Option Launch) => (3 - c.2.1) * 2 ^ 40 + (queue s c.1).fair * 64 + c.1) cand).map
    (fun c => (c.1, c.2.2))

/-! ## Dispatch of one record (R138) -/

/-- A refused launch: its tag is free, no team runs, its completion word carries FORMAT (R90, R97). (DEDUCED, log 28) -/
def refuseLaunch (l : Launch) (s : State) : State :=
  let s := match l.vt with | some v => freeTag v s | none => s
  modLaunch l.id (fun l => { l with phase := .aborted, cause := some 0x06, causeAt := s.cycles, ran := false }) s

/-- The fault record of a dispatcher read (R81). -/
def dispRec (s : State) (l : Launch) (reason va : Nat) : FaultRec :=
  { key := 0, id := none, space := l.space, va := va, kind := 5, reason := reason, vt := namedTag s l, core := 0xFFFF,
    cookie := BitVec.ofNat 64 (lrCookie l.raw) }

/-- A dispatcher read that fails: it parks the dispatch or ends the launch (R31, R80). -/
def dispFails (l : Launch) (e : RdErr) (s : State) : State :=
  let fatal (cause reason va : Nat) : State :=
    abortLaunch l.id cause false (some { emptyReport 0 (namedTag s l) with addrValid := true, addr := BitVec.ofNat 64 (va % 2 ^ 54) })
      (fatalFault (dispRec s l reason va) s)
  match e with
  | .park r va =>
    if !s.xlat.fqEnable then fatal (if r = 0 then 0x01 else 0x02) r va
    else
      let (k, s) := parkFault (dispRec s l r va) s
      modLaunch l.id (fun l => { l with fault := some k, faultVa := va }) s
  | .page va => fatal 0x01 2 va
  | .perm va => fatal 0x02 3 va
  | .link => abortLaunch l.id 0x15 false none s
  | .ue _ _ e => ueAbort l.id (some (namedTag s l)) e s

/-- Translates every page of an area of the launch for the device's own writes (R80). -/
def areaPages (s : State) (sp base : Nat) : Nat → Nat → Except RdErr Unit
  | 0, _ => .ok ()
  | k + 1, i =>
    match translate s 160 sp (base + 4096 * i) .sysWrite with
    | .ok pa _ _ => if reachable s pa then areaPages s sp base k (i + 1) else .error .link
    | .link => .error .link
    | .ue e => .error (.ue (base + 4096 * i) (32 * e.1) e)
    | .park r => .error (.park r (base + 4096 * i))
    | .page => .error (.page (base + 4096 * i))
    | .perm => .error (.perm (base + 4096 * i))

/-- The parameter block's header and parameters. (DEDUCED, log 28) -/
def readParams (s : State) (sp : Nat) (raw : List Byte) : Except RdErr (List Byte × List Byte) := do
  let h ← (readVa s sp .device 2 (lrParam raw) 64).run []
  if !pbOk h.1 then pure (h.1, [])
  else
    let p ← (readVa s sp .device 18 (lrParam raw + 64) (field h.1 4 4)).run []
    pure (h.1, p.1)

/-- Steps 2 to 4 of R138: parameters, image, load report, areas, and the deadline's start. A read that parks leaves the
launch to go on once its fault is answered. (DEDUCED, log 28) -/
def goDispatch (id : Nat) (s : State) : State :=
  match launch? s id with
  | none => s
  | some l =>
    if l.phase != .dispatching || l.fault.isSome then s
    else match readParams s l.space l.raw with
      | .error e => dispFails l e s
      | .ok (h, params) =>
        if !pbOk h then refuseLaunch l s
        else match verdictFor s l.space l.raw with
          | .error e => dispFails l e s
          | .ok v =>
            let report (s : State) : State :=
              if lrReport l.raw = 0 then s else writeReport l.space (lrReport l.raw) (loadReport v) s
            match v with
            | .refused _ => refuseLaunch l (report s)
            | .image m =>
              if !prefOk h m.blocks.length then refuseLaunch l s
              else
                let s := report s
                let areas : Except RdErr Unit := do
                  areaPages s l.space (lrTokBase l.raw) (lrTokBytes l.raw / 4096) 0
                  areaPages s l.space (lrShLog l.raw) (lrShBudget l.raw / 4096) 0
                match areas with
                | .error e => dispFails l e s
                | .ok _ =>
                  let s := { s with images := s.images.filter (fun e => !(e.1 == l.space && e.2.pa == m.pa)) ++ [(l.space, m)] }
                  if lrWsSlots l.raw < hwCrews m.width (lrTeamSz l.raw) then refuseLaunch l s
                  else modLaunch id (fun l => { l with phase := .running, image := m, params := params, deadline := 0, hang := 0,
                                                       freeStacks := List.range (lrWsSlots l.raw) }) s

/-- An image that holds nothing, until the checks have read one. -/
def noImage : Image :=
  { pa := 0, frames := [], creww := 0, emulate := false, stitch := false, entry := 0, emuh := 0xFFFF, width := 32, scratch := 0,
    teamMax := 0, cpool := [], blocks := [] }

/-- A launch of a queue's record. It runs in the space that the queue names at its dispatch, where the queue has been disabled and bound to
another since the record was taken (R67, R85). (DESIGN CHOICE, log 52) -/
def newLaunch (s : State) (q : Nat) (w : Waiting) (vt : Option Nat) : Launch :=
  { id := s.disp.nextLaunch, raw := w.raw, queue := q, index := w.index, space := (queue s q).space.toNat, prio := effPrio s q w.raw,
    order := s.disp.nextOrder, parent := none, parentTeam := 0, number := 0, depth := 0, vt := vt, phase := .dispatching,
    image := noImage, params := [], nextTeam := 0, retired := 0, teamCommits := 0, cause := none, causeAt := 0, causeVt := 0, report := none,
    tern := false, deadline := 0, hang := 0, freeStacks := [], fault := none, faultVa := 0, requeue := false, ran := true, dies := [],
    stream := none, units := [] }

/-- Dispatches an eligible record: its tag, then the rest (R138). (DEDUCED, log 28) -/
def dispatchRecord (q : Nat) (w : Waiting) (s : State) : State :=
  let vt := if lrTeamGran w.raw then none else pickTag s
  let l := newLaunch s q w vt
  let s := { s with
    launches := s.launches ++ [l]
    disp := { s.disp with nextLaunch := s.disp.nextLaunch + 1, nextOrder := s.disp.nextOrder + 1 } }
  let s := match vt with | some v => newTag v l.id none none s | none => s
  let s := modQueue q (fun x => { x with waiting := x.waiting.filter (·.index != w.index) }) s
  goDispatch l.id (chargeFair q (lrTeams w.raw) s)

/-- A launch whose dispatch waited on a fault that has been answered. -/
def resumable (s : State) : Option Launch := s.launches.find? (fun l => l.phase == .dispatching && l.parent.isNone && l.fault.isNone)

/-- DISPATCH, given which held launches have room. A dispatch that waited on a fault goes on after the fault's answer, in a space that has been
cut over too, while the grace period lasts (R48). (DESIGN CHOICE, log 52) -/
def evDispatch (fits : Launch → Bool) (s : State) : State :=
  if !coresRun s then s
  else match resumable s with
    | some l => goDispatch l.id s
    | none =>
      let s := noteHeads fits s
      match selection s fits with
      | some (q, none) => (match queueHead s q with | some w => dispatchRecord q w s | none => s)
      | _ => s

/-! ## Child launches (R128 to R131, R399 to R401) -/

/-- A child's record with the fields that its top-level launch gives instead (R399). -/
def childRaw (raw top : List Byte) : List Byte :=
  raw.take 3 ++ [0] ++ (raw.drop 4).take 108 ++ (top.drop 112).take 8 ++ raw.drop 120

/-- The parameter block of a child, read by the LAUNCH node's own tracked reads. -/
def childParams (a : Access) (raw : List Byte) (s : State) : Part (Option (List Byte × List Byte)) :=
  thenDo (loadRange a.f 0 false (lrParam raw) 64 s) (fun h s =>
    if !pbOk h then good none s
    else thenDo (loadRange a.f 0 false (lrParam raw + 64) (field h 4 4) s) (fun p s => good (some (h, p)) s))

/-- Is it an access's turn for a child number at its team's launch port? The numbers follow the order in which the LAUNCHes reach the
port, in one cycle the ascending `sr.tid`, so the cycle of its own arrival must be over (R400 step 4). (DEDUCED, log 37) -/
def portTurn (s : State) (a : Access) (m : Team) : Bool :=
  let key (e : Access) : Nat := e.issued * 1024 + tidOf s e.f.thread
  decide (a.issued < s.cycles) && s.accesses.all (fun e =>
    !((match e.i with | .launch _ => true | _ => false) && e.left.isEmpty && e.st != .waiting &&
      (teamOf s e.f).map (·.key) == some m.key && decide (key e < key a)))

/-- Records the child number that the launch port has given an access (R400 step 4). -/
def portNumber (a : Access) (m : Team) (s : State) : Nat × State :=
  match a.left with
  | n :: _ => (n, s)
  | [] =>
    let n := m.children.length
    (n, modAccess a.id (fun x => { x with left := [n] }) (modTeam m.key (fun m => { m with children := m.children ++ [n] }) s))

/-- The status of a child (R401). (DEDUCED, log 42) -/
def setStatus (m : Team) (n status : Nat) (s : State) : State :=
  modTeam m.key (fun m => { m with status := tabPut m.status n status }) s

/-- A child launch that has its number and its tag, with its record still to be read and checked (R108, R399, R400 step 5). (DEDUCED, log 37) -/
def beginChild (a : Access) (l top : Launch) (m : Team) (n vt : Nat) (s : State) : State :=
  let c : Launch :=
    { id := s.disp.nextLaunch, raw := childRaw (List.replicate 256 0) top.raw, queue := l.queue, index := l.index, space := l.space, prio := l.prio,
      order := s.disp.nextOrder, parent := some l.id, parentTeam := m.key, number := n, depth := l.depth + 1, vt := some vt,
      phase := .dispatching, image := noImage, params := [], nextTeam := 0, retired := 0, teamCommits := 0, cause := none, causeAt := 0, causeVt := 0,
      report := none, tern := false, deadline := 0, hang := 0, freeStacks := [], fault := none, faultVa := 0,
      requeue := false, ran := true, dies := [], stream := none, units := [] }
  let s := newTag vt c.id none (vtOf s l.id m.key) { s with
    launches := s.launches ++ [c]
    disp := { s.disp with nextLaunch := s.disp.nextLaunch + 1, nextOrder := s.disp.nextOrder + 1 } }
  modAccess a.id (fun x => { x with left := [n, c.id] }) s

/-- A child launch that has passed its checks (R93, R97, R400). (DEDUCED, log 37) -/
def startChild (c l : Launch) (params : List Byte) (i : Image) (s : State) : State :=
  modLaunch c.id (fun c => { c with phase := .running, image := i, params := params, freeStacks := List.range (lrWsSlots c.raw) })
    { s with images := s.images.filter (fun e => !(e.1 == l.space && e.2.pa == i.pa)) ++ [(l.space, i)] }

/-- The checks of a child that has its tag, and its start or refusal (R400 steps 5 and 6). A refused child gives its tag back; one whose image
read meets an uncorrectable error in a line that an ancestor shadows takes the ancestor with it (R130). The fault
records of the reads of its image name its tag (R108). -/
def finishChild (a : Access) (l c : Launch) (m : Team) (n : Nat) (raw : List Byte) (s : State) : Try × State :=
  let refuse (status : Nat) (s : State) : Try × State :=
    (.done n, setStatus m n status (forgetLaunch c.id ((c.vt.map (fun v => freeTag v s)).getD s)))
  if !lrChildOk raw then refuse 0x06 s
  else match childParams a raw s with
    | (.error t, s) => (t, s)
    | (.ok none, s) => refuse 0x06 s
    | (.ok (some (h, params)), s) =>
      match verdictFor s l.space raw with
      | .error (.park r va) =>
        if !s.xlat.fqEnable then refuse (if r = 0 then 0x01 else 0x02) (fatalFault (dispRec s c r va) s)
        else
          let (k, s) := parkFault (dispRec s c r va) s
          (.park 1 va (some k), s)
      | .error (.page va) => refuse 0x01 (fatalFault (dispRec s c 2 va) s)
      | .error (.perm va) => refuse 0x02 (fatalFault (dispRec s c 3 va) s)
      | .error .link => refuse 0x15 (countLink 0x15 s)
      | .error (.ue _ _ e) =>
        let holder := ueHolder s c.vt e
        let (r, s) := refuse 0x0E (logUe e.2.1 e.2.2 (32 * e.1) s)
        (r, match holder with | some v => abortVt v 0x0E false none s | none => s)
      | .ok (.refused _) => refuse 0x06 s
      | .ok (.image i) =>
        if !prefOk h i.blocks.length || decide (lrWsSlots raw < hwCrews i.width (lrTeamSz raw)) then refuse 0x06 s
        else (.done n, startChild c l params i s)

/-- A child that has its number and its tag: its record is read by the LAUNCH node's own tracked reads, and checked (R400 step 5). -/
def readChild (a : Access) (l c : Launch) (m : Team) (s : State) : Try × State :=
  match loadRange a.f 0 false (a.a.toNat % 2 ^ 64) 256 s with
  | (.error t, s) => (t, s)
  | (.ok raw, s) =>
    let c := { c with raw := childRaw raw (((launch? s (topOf s l.id)).map (·.raw)).getD []) }
    finishChild a l c m c.number raw (modLaunch c.id (fun _ => c) s)

/-- LAUNCH (R399, R400); while no tag is FREE it parks in the port, whichever LAUNCH of its team has the next number; while its launch is being saved it waits, so that the stream has the launches that it was given room for (R153).
(DEDUCED, log 37) -/
def doLaunch (a : Access) (s : State) : Try × State :=
  let va := a.a.toNat % 2 ^ 64
  match launch? s a.f.launch, teamOf s a.f with
  | some l, some m =>
    if l.phase != .running then (.wait, s)
    else if l.depth = 10 then (.gone, trapNode a.f 0x11 s)
    else if va % 256 ≠ 0 then finish (misaligned a.f va s)
    else if a.left.isEmpty && decide (4096 ≤ m.children.length) then (.gone, abortOf a.f 0x06 s)
    else
      let s := releaseFor a s
      match (a.left[1]?).bind (launch? s) with
      | some c => readChild a l c m s
      | none =>
        if (pickTag s).isNone then (.park 2 va none, s)
        else if !portTurn s a m then (.wait, s)
        else match pickTag s, launch? s (topOf s l.id) with
          | none, _ => (.park 2 va none, s)
          | _, none => (.gone, s)
          | some vt, some top =>
            let (n, s) := portNumber a m s
            let s := beginChild a l top m n vt s
            (match ((access? s a.id).bind (fun x => x.left[1]?)).bind (launch? s) with
             | some c => readChild a l c m s
             | none => (.gone, s))
  | _, _ => (.gone, s)

/-- LWAIT (R401). -/
def doLwait (a : Access) (s : State) : Try × State :=
  let h := a.a.toNat % 2 ^ 64
  match teamOf s a.f with
  | none => (.gone, s)
  | some m =>
    if m.children.length ≤ h then (.gone, abortOf a.f 0x06 s)
    else match tabFind m.status h with
      | some v => (.done v, acquireFor a s)
      | none => (.wait, s)

end Sys2Proof.Machine
end

