-- ==== Sys2Proof/Machine/Hang.lean ====
section
/-! DEFINITION. Deadlines and hangs (R143, R144, R159 to R162): the counters and the occupancy map. -/

namespace Sys2Proof.Machine

/-- Fabric cycles of one microsecond (R6). -/
def cyclesPerUs : Nat := 700

/-- Does a launch pass a test for an ACTIVE top-level tag (R144)? -/
def topActive (s : State) (l : Launch) : Bool :=
  let act (v : Nat) : Bool := match tag? s v with | some g => g.st == .active && g.launch == l.id | none => false
  match l.vt with
  | some v => act v
  | none => (l.phase != .aborted && decide (l.nextTeam < lrTeams l.raw)) ||
      s.teams.any (fun m => m.launch == l.id && (match m.vt with | some v => act v | none => false))

/-- A launch with its descendants. -/
def family (s : State) (id : Nat) : List Nat := id :: descendants s id

/-- Is a thread waiting for a block that is not resident on its core? -/
def waitsForBlock (s : State) (ids : List Nat) : Bool :=
  s.threads.any (fun e => ids.contains e.2.launch && (match e.2.st with
    | .waiting b | .inBlock b => (match placedOf s (coreOf e.1) e.2.launch b with | some p => !p.resident | none => true)
    | _ => false))

/-- Does something pause the launch's hang counter (R159)? (DEDUCED, log 36) -/
def hangPaused (s : State) (id : Nat) : Bool :=
  let ids := family s id
  frozen s || s.launches.any (fun l => ids.contains l.id && (l.phase == .saving || l.phase == .held || l.phase == .restoring || l.fault.isSome)) ||
  s.accesses.any (fun a => ids.contains a.f.launch && (match a.st with | .parked 1 _ f => f.isSome | _ => false)) ||
  s.crews.any (fun e => e.2.moving.isSome && (match team? s e.2.team with | some m => ids.contains m.launch | none => false)) ||
  waitsForBlock s ids

/-- Time passes for the counters of every top-level launch (R143, R159); `held` names the launches of which the governor holds
a node. (DESIGN CHOICE, log 12) (DEDUCED, log 36) -/
def advanceCounters (dt : Nat) (held : List Nat) (s : State) : State :=
  { s with launches := s.launches.map (fun l =>
      if l.parent.isSome then l
      else { l with
        deadline := if l.phase == .held || l.phase == .dispatching then l.deadline else l.deadline + dt
        hang := if hangPaused s l.id || held.contains l.id then l.hang else l.hang + dt }) }

/-- A firing or a response of a launch sets its top-level launch's hang counter to zero (R159). (DEDUCED, log 36) -/
def clearHang (id : Nat) (s : State) : State := modLaunch (topOf s id) (fun l => { l with hang := 0 }) s

/-! ## The occupancy map (R161, R162) -/

/-- A count as one byte. -/
def countByte (n : Nat) : Byte := BitVec.ofNat 8 (Nat.min 255 n)

/-- Is the block that serves a core's threads resident? -/
def isResident (s : State) (core l b : Nat) : Bool :=
  match placedOf s core l b with
  | some p => p.resident
  | none => false

/-- Does a block take the four fabrics of a cluster (R198)? -/
def isStitched (s : State) (l b : Nat) : Bool := match blockAt s l b with | some k => decide (16 < k.pages) | none => false

/-- The cores whose threads a placed block serves. -/
def servedCores (s : State) (p : Placed) : List Nat :=
  if isStitched s p.launch p.block then (List.range 4).map (p.core / 4 * 4 + ·) else [p.core]

/-- One page entry: the page's stores, output arcs and overflow tokens. The mark by which the model injects a thread at an entry node
(port 3) is no token of a store. -/
def pageEntry (s : State) (p : Placed) (rep page : Nat) : List Byte :=
  let mine (k : Token) : Bool := k.port != 3 && k.launch == p.launch && k.block == p.block && k.replica == rep && k.node / 128 == page &&
    (servedCores s p).contains (coreOf k.thread)
  let inPe (pe : Nat) (k : Token) : Bool := mine k && k.node / 8 % 16 == pe
  let phys := (p.replicas.getD rep []).getD page 0
  let arc (n : Net) : List Byte := (List.range 16).map (fun pe =>
    countByte (s.tokens.filter (fun k => k.place == .out && k.net == n && k.src / 8 == phys * 16 + pe && k.launch == p.launch)).length)
  toBytes 2 p.block ++ toBytes 1 page ++ toBytes 1 rep ++ toBytes 4 0 ++
  (List.range 16).map (fun pe => countByte (s.tokens.filter (fun k => inPe pe k && (k.place == .general || k.place == .completion))).length) ++
  arc .narrow ++ arc .wide ++ arc .pred ++
  [countByte (s.tokens.filter (fun k => mine k && k.place == .overflow)).length] ++ List.replicate 7 0

/-- The fabric pages that a launch family has on a core, with their block and replica. -/
def pagesOn (s : State) (ids : List Nat) (core : Nat) : List (Placed × Nat × Nat) :=
  (s.placed.filter (fun p => ids.contains p.launch)).flatMap (fun p =>
    (List.range p.replicas.length).flatMap (fun r =>
      ((List.range (p.replicas.getD r []).length).filter (fun g => (p.replicas.getD r []).getD g 0 / 16 == core)).map (fun g => (p, r, g))))

/-- The core record of one core. -/
def coreRecord (s : State) (ids : List Nat) (core : Nat) : List Byte :=
  let pages := pagesOn s ids core
  let waiting := (s.threads.filter (fun e => coreOf e.1 == core && ids.contains e.2.launch &&
    (match e.2.st with | .waiting _ => true | _ => false))).length
  let backlog (port : Nat) : Nat := (s.accesses.filter (fun a => ids.contains a.f.launch && a.f.core == core && portOf s a == port &&
    a.st != .done)).length
  toBytes 2 core ++ toBytes 2 pages.length ++ toBytes 4 waiting ++
  ((List.range 16).map (fun p => toBytes 2 (Nat.min 65535 (backlog p)))).flatten ++ List.replicate 24 0 ++
  (pages.map (fun e => pageEntry s e.1 e.2.1 e.2.2)).flatten

/-- The core records that fit, in order. -/
def fitRecords : List (List Byte) → Nat → List (List Byte)
  | [], _ => []
  | r :: rs, room => if r.length ≤ room then r :: fitRecords rs (room - r.length) else []

/-- Writes bytes of the map area page by page; answers whether every page of it could be written (R161). A page that is not SYS and W is a fatal
PERM fault of the launch (R72, R80), which the map stops at too. (DEDUCED, log 36) -/
def writeMap (l : Launch) : Nat → Nat → List Byte → State → Bool × State
  | 0, _, _, s => (true, s)
  | k + 1, va, data, s =>
    if data.isEmpty then (true, s)
    else match translate s 160 l.space va .sysWrite with
      | .ok pa _ _ =>
        let n := 4096 - va % 4096
        if !reachable s pa then (false, s)
        else writeMap l k (va + n) (data.drop n) (writeSys pa (data.take n) s)
      | .perm => (false, areaFault l (namedTag s l) va 0x02 3 s)
      | .ue e => (false, logUe e.2.1 e.2.2 (32 * e.1) s)
      | _ => (false, s)

/-- The occupancy map of a launch that hangs: a core record for each core that has teams of the launch or pages of its blocks (R161). -/
def occupancyMap (l : Launch) (s : State) : State :=
  let x := space s l.space
  let size := x.hmSize.toNat
  if size = 0 then s
  else
    let ids := family s l.id
    let cores := (List.range 160).filter (fun c => s.teams.any (fun m => ids.contains m.launch && m.core == c && !m.retired) ||
      !(pagesOn s ids c).isEmpty)
    let recs := cores.map (coreRecord s ids)
    let kept := fitRecords recs (size - 64)
    let body := kept.flatten
    let seq := (x.hmCount + 1) % 65536
    let head := toBytes 4 seq ++ toBytes 2 (namedTag s l) ++ toBytes 2 kept.length ++ toBytes 8 (lrCookie l.raw) ++
      toBytes 4 (64 + body.length) ++ List.replicate 44 0
    let base := bits x.hmLo.toNat 31 12 * 4096 + bits x.hmHi.toNat 21 0 * 2 ^ 32
    let (ok, s) := writeMap l (size / 4096 + 1) base (head ++ body) s
    modSpace l.space (fun x => { x with hmCount := seq, hmTrunc := decide (kept.length < recs.length), hmErr := !ok }) s

/-- Does a launch family hold tokens or waiting threads? -/
def holdsWork (s : State) (id : Nat) : Bool :=
  let ids := family s id
  s.tokens.any (fun k => ids.contains k.launch) || s.resumed.any (fun f => ids.contains f.launch) ||
  s.accesses.any (fun a => ids.contains a.f.launch) ||
  s.threads.any (fun e => ids.contains e.2.launch && (match e.2.st with | .waiting _ => true | _ => false))

end Sys2Proof.Machine
end

