-- ==== Sys2Proof/Machine/Blocks.lean ====
section
/-! DEFINITION. The block scheduler (R179 to R184, R198, R200, R406): the meanings of SCHED_EVAL, BLOCK_RESIDENT, INJECT,
EVICT and CLUSTER_RESET. -/

namespace Sys2Proof.Machine

/-! ## Pages and waiting threads -/

/-- The fabric pages of a core that no placed block holds, as core × 16 + page. -/
def freePages (s : State) (core : Nat) : List Nat :=
  let used := s.placed.flatMap (fun p => p.replicas.flatten)
  ((List.range 16).map (core * 16 + ·)).filter (fun g => !used.contains g)

/-- The free pages that a block may take when it is placed from a core. -/
def pagesFor (s : State) (core l b : Nat) : List Nat :=
  if isStitched s l b then (List.range 4).flatMap (fun k => freePages s (core / 4 * 4 + k)) else freePages s core

/-- The threads of a core that wait for a block; for the handler block, those with tokens bound for it (R179, R195). -/
def waiters (s : State) (core l b : Nat) : List (Nat × Thread) :=
  s.threads.filter (fun e => coreOf e.1 == core && e.2.launch == l && (e.2.st == .waiting b ||
    (isHandler s l b && s.tokens.any (fun k => k.thread == e.1 && k.launch == l && k.block == b && k.place == .overflow))))

/-- The launches and blocks that threads of a core wait for. -/
def wantedBlocks (s : State) (core : Nat) : List (Nat × Nat) :=
  let ws := s.threads.filterMap (fun e =>
    if coreOf e.1 = core then (match e.2.st with | .waiting b => some (e.2.launch, b) | _ => none) else none)
  let hs := s.tokens.filterMap (fun k =>
    if coreOf k.thread = core ∧ k.place = .overflow ∧ isHandler s k.launch k.block then some (k.launch, k.block) else none)
  (ws ++ hs).eraseDups

/-- The rank of a block, lower first: priority, score, dispatch order, index (R180). A thread that counts in W of its handler block without
having set a bit there counts in A from its last setting of a bit. (DESIGN CHOICE, log 52) -/
def rankKey (s : State) (core : Nat) (x : Nat × Nat) : Nat :=
  let ws := waiters s core x.1 x.2
  let age := ws.foldl (fun m e => Nat.max m (s.cycles - e.2.since)) 0
  let score := ws.length + Nat.min (age / 16) 65536
  let (prio, order) := match launch? s x.1 with | some l => (l.prio, l.order) | none => (0, 0)
  (3 - prio) * 2 ^ 120 + (2 ^ 20 - score) * 2 ^ 96 + order * 4096 + x.2

def isPlaced (s : State) (core l b : Nat) : Bool := (placedOf s core l b).isSome

/-- May this launch place blocks on this core's cluster (R142)? -/
def mayPlace (s : State) (id core : Nat) : Bool :=
  match clusterHolder s (clusterOf core) with
  | some h => h == id || (match launch? s h with | some l => l.parent.isSome && topOf s h == topOf s id | none => false)
  | none => true

/-- The first block of the ranking, among those that are not resident and not being loaded. -/
def firstRanked (s : State) (core : Nat) : Option (Nat × Nat) :=
  leastBy (rankKey s core) ((wantedBlocks s core).filter (fun x => !isPlaced s core x.1 x.2 && armed s x.1 x.2 &&
    mayPlace s x.1 core && (match launch? s x.1 with | some l => l.phase == .running | none => false)))

/-! ## Making room (R183, R184) -/

def inBlockOf (s : State) (p : Placed) (e : Nat × Thread) : Bool :=
  (servedCores s p).contains (coreOf e.1) && e.2.launch == p.launch &&
  (match e.2.st with | .inBlock b => b == p.block | .departing b _ _ => b == p.block | _ => false)

def boundFor (s : State) (p : Placed) (k : Token) : Bool :=
  k.launch == p.launch && k.block == p.block && (servedCores s p).contains (coreOf k.thread)

def accessOf (s : State) (p : Placed) (a : Access) : Bool :=
  a.f.launch == p.launch && a.f.block == p.block && (servedCores s p).contains a.f.core

/-- An idle block: no thread in it, no token bound for it, its vector empty (R183). -/
def idle (s : State) (p : Placed) : Bool :=
  !s.threads.any (inBlockOf s p) && !s.tokens.any (boundFor s p) && !s.accesses.any (accessOf s p) &&
  !s.resumed.any (fun f => f.launch == p.launch && f.block == p.block && (servedCores s p).contains f.core) &&
  (servedCores s p).all (fun c => (waiters s c p.launch p.block).isEmpty)

/-- Free 64-byte slots of a launch's token overflow area (R176). -/
def areaRoom (s : State) (l : Nat) : Nat :=
  let top := topOf s l
  let cap := ((launch? s top).map (fun x => lrTokBytes x.raw / 64)).getD 0
  cap - (s.tokens.filter (fun k => k.place == .overflow && topOf s k.launch == top)).length

/-- Tokens are written to the overflow area, whose pages get their dirty bits (R40, R72, R176): the model fills the area's slots
from its base. False where a page has ended the launch. (DESIGN CHOICE, log 40) -/
def areaWrite (l n : Nat) (s : State) : Bool × State :=
  match launch? s (topOf s l), launch? s l with
  | some x, some y =>
    areaUse l (namedTag s y) (lrTokBase x.raw)
      (64 * (s.tokens.filter (fun k => k.place == .overflow && topOf s k.launch == x.id)).length) (64 * n) (.write true) s
  | _, _ => (false, s)

/-- A token is read back from the overflow area, from the last of the slots in use (R29, R72, R176). False where its page, or an uncorrectable
error in the slot, has ended the launch. (DESIGN CHOICE, log 40) -/
def areaRead (l : Nat) (s : State) : Bool × State :=
  match launch? s (topOf s l), launch? s l with
  | some x, some y =>
    areaUse l (namedTag s y) (lrTokBase x.raw)
      (64 * ((s.tokens.filter (fun k => k.place == .overflow && topOf s k.launch == x.id)).length - 1)) 64 .read s
  | _, _ => (false, s)

/-- The matches of a block that are tokens again when it is evicted or saved: those waiting to be made again, and those whose
ordered access has not issued (R189, R216). -/
def unmade (s : State) (p : Placed) : List Firing :=
  s.resumed.filter (fun f => f.launch == p.launch && f.block == p.block && (servedCores s p).contains f.core) ++
  (s.accesses.filter (fun a => accessOf s p a && a.st == .waiting)).map (·.f)

/-- The tokens of a block that an eviction writes out. -/
def tokensToWrite (s : State) (p : Placed) : Nat :=
  (s.tokens.filter (fun k => boundFor s p k && k.place != .overflow)).length + ((unmade s p).flatMap (·.toks)).length

/-- May the block be evicted: long resident or yielded, no systolic region, room in the area (R184, R406)? -/
def evictable (s : State) (p : Placed) : Bool :=
  p.resident && !p.stopped && (p.yielded || decide (p.since + 65536 ≤ s.cycles)) &&
  (match blockAt s p.launch p.block with | some b => !b.syst | none => true) &&
  decide (tokensToWrite s p ≤ areaRoom s p.launch)

def removePlaced (p : Placed) (s : State) : State :=
  { s with
    placed := s.placed.filter (fun q => !(q.launch == p.launch && q.block == p.block && q.core == p.core))
    regions := s.regions.filter (fun r => !(r.launch == p.launch && r.block == p.block && r.core == p.core)) }

def modPlaced (p : Placed) (g : Placed → Placed) (s : State) : State :=
  { s with placed := modWhere (fun q => q.launch == p.launch && q.block == p.block && q.core == p.core) g s.placed }

/-- How many of a placed block's pages lie where a block wants pages. -/
def pagesHere (s : State) (core l b : Nat) (p : Placed) : Nat :=
  (p.replicas.flatten.filter (fun g => if isStitched s l b then g / 16 / 4 == core / 4 else g / 16 == core)).length

/-- Do any? -/
def helps (s : State) (core l b : Nat) (p : Placed) : Bool := pagesHere s core l b p != 0

/-- Removes idle blocks, the least recently fired first, until `n` pages are free. -/
def dropIdle (core l b n : Nat) : Nat → State → State
  | 0, s => s
  | k + 1, s =>
    if n ≤ (pagesFor s core l b).length then s
    else match leastBy (·.fired) (s.placed.filter (fun p => helps s core l b p && idle s p)) with
      | some p => dropIdle core l b n k (removePlaced p s)
      | none => s

/-- Stops the blocks to be evicted, the longest resident first, until their pages would be enough or none remains (R184). -/
def stopLong (core l b : Nat) : List Placed → Nat → State → State
  | [], _, s => s
  | p :: ps, need, s =>
    if need = 0 then s
    else
      stopLong core l b ps (need - pagesHere s core l b p) (modPlaced p (fun q => { q with stopped := true }) s)

/-- The pages that blocks already stopped will free for a block (R184). -/
def leavingPages (s : State) (core l b : Nat) : Nat := ((s.placed.filter (·.stopped)).map (pagesHere s core l b)).sum

/-- Begins to load a block into free pages (R181). -/
def placeBlock (core l b n : Nat) (s : State) : State :=
  let pages := (pagesFor s core l b).take n
  let home := if isStitched s l b then core / 4 * 4 else core
  { s with placed := s.placed ++
      [{ core := home, launch := l, block := b, replicas := [pages], resident := false, stopped := false, since := s.cycles,
         fired := s.cycles, pointer := 0, injectAt := 0, injectTo := 0, loading := s.cycles + 8 * n + 1, yielded := false, stale := false,
         fault := none, faultVa := 0 }] }

/-- Adds a replica to a busy block of 1 to 4 pages that has no systolic region (R182, R357). -/
def addReplica (core : Nat) (s : State) : State :=
  match s.placed.find? (fun p =>
    p.core == core && p.resident && !p.stopped && decide (p.replicas.length < 4) &&
    (match blockAt s p.launch p.block with
     | some b => !b.syst && decide (b.pages ≤ 4 ∧ b.pages ≤ (freePages s core).length)
     | none => false) &&
    decide (64 * p.replicas.length ≤ (waiters s core p.launch p.block).length)) with
  | some p =>
    let n := ((blockAt s p.launch p.block).map (·.pages)).getD 0
    modPlaced p (fun q => { q with replicas := q.replicas ++ [(freePages s core).take n] }) s
  | none => s

/-- Has a restored block no pages yet: do its pages carry the numbers that they had while its launch was held (R156)? (DEDUCED, log 14) -/
def unhoused (p : Placed) : Bool := p.replicas.flatten.any (fun g => decide (2560 ≤ g))

/-- A restored block takes its pages again, in every replica, where the core has as many free; it is not fetched again (R156). -/
def housePlaced (p : Placed) (s : State) : State :=
  let s := removePlaced p s
  let pages := pagesFor s p.core p.launch p.block
  let put (x : List (List Nat) × List Nat) (rep : List Nat) : List (List Nat) × List Nat := (x.1 ++ [x.2.take rep.length], x.2.drop rep.length)
  let q : Placed :=
    if decide (p.replicas.flatten.length ≤ pages.length) && mayPlace s p.launch p.core
    then { p with replicas := (p.replicas.foldl put ([], pages)).1, resident := true, since := s.cycles }
    else { p with resident := false }
  { s with placed := s.placed ++ [q] }

/-- The block for which the scheduler makes room on a core, with the pages that it takes: a restored one first. -/
def wantsRoom (s : State) (core : Nat) : Option (Nat × Nat × Nat) :=
  match s.placed.find? (fun p => p.core == core && unhoused p) with
  | some p => some (p.launch, p.block, p.replicas.flatten.length)
  | none => (firstRanked s core).map (fun x => (x.1, x.2, ((blockAt s x.1 x.2).map (·.pages)).getD 0))

/-- SCHED_EVAL: the first block of the ranking is placed, or room is made for it (R180 to R184). A yield counts for this
one evaluation (R406). -/
def evSchedEval (core : Nat) (s : State) : State :=
  if !coresRun s || 160 ≤ core then s
  else
    let s : State := match wantsRoom s core with
      | none => if (wantedBlocks s core).all (fun x => isResident s core x.1 x.2) then addReplica core s else s
      | some (l, b, n) =>
        let t := dropIdle core l b n 64 s
        if n ≤ (pagesFor t core l b).length then
          (match placedOf t core l b with
           | some p => if unhoused p then housePlaced p t else t
           | none => if isPlaced s core l b then t else placeBlock core l b n t)
        else
          let cand := sortBy (fun (p : Placed) => p.since) (t.placed.filter (fun (p : Placed) => helps t core l b p && evictable t p))
          stopLong core l b cand (n - (pagesFor t core l b).length - leavingPages t core l b) t
    { s with placed := s.placed.map (fun (p : Placed) => if p.core == core then { p with yielded := false } else p) }

def execSchedEval (core : Nat) (s : State) : Out := .next (evSchedEval core s)

/-- What bars the configuration fetch of a block: one of its pages that may not be fetched, does not answer, or holds an uncorrectable
error (R29, R31, R72, R80, R181). The configuration cache keeps nothing from an earlier placement: every page is fetched. (DEDUCED,
log 10) -/
def fetchBar (s : State) (p : Placed) : Option RdErr :=
  match launch? s p.launch, blockAt s p.launch p.block with
  | some l, some b =>
    (List.range b.pages).findSome? (fun i =>
      match (readVa s l.space .exec 2 (lrImage l.raw + b.off + 2048 * i) 2048).run [] with
      | .error e => some e
      | .ok _ => none)
  | _, _ => none

/-- A configuration fetch that is barred: V = 0 parks it with KIND 3, and every other bar ends the launch (R29, R31, R80, R81). -/
def fetchFails (p : Placed) (e : RdErr) (s : State) : State :=
  match launch? s p.launch with
  | none => s
  | some l =>
    let rec_ (r va : Nat) : FaultRec := { key := 0, id := none, space := l.space, va := va, kind := 3, reason := r, vt := namedTag s l,
                                          core := p.core, cookie := BitVec.ofNat 64 (lrCookie l.raw) }
    let fatal (cause r va : Nat) : State :=
      abortLaunch l.id cause false (some { emptyReport l.depth (namedTag s l) with addrValid := true, addr := BitVec.ofNat 64 (va % 2 ^ 54) })
        (fatalFault (rec_ r va) s)
    match e with
    | .park r va =>
      if !s.xlat.fqEnable then fatal 0x01 r va
      else
        let (k, s) := parkFault (rec_ r va) s
        modPlaced p (fun q => { q with fault := some k, faultVa := va }) s
    | .page va => fatal 0x01 2 va
    | .perm va => fatal 0x02 3 va
    | .link => abortLaunch l.id 0x15 false none s
    | .ue _ _ e => ueAbort l.id (some (namedTag s l)) e s

/-- BLOCK_RESIDENT: the block runs, unless a line of it was written while it was being fetched, when it is fetched again
(R79, R181). Threads whose tokens an eviction saved are in the block again (R183). -/
def evBlockResident (core l b : Nat) (s : State) : State :=
  match placed? s l b core with
  | none => s
  | some p =>
    if p.resident || p.fault.isSome || unhoused p || decide (s.cycles < p.loading) || !coresRun s then s
    else match fetchBar s p with
    | some e => fetchFails p e s
    | none =>
    if p.stale then modPlaced p (fun q => { q with stale := false, loading := s.cycles + 8 * (p.replicas.flatten).length + 1 }) s
    else
      let here (t : Nat) : Bool := (servedCores s p).contains (coreOf t)
      let s := modPlaced p (fun q => { q with resident := true, since := s.cycles, fired := s.cycles }) s
      { s with
        threads := s.threads.map (fun e =>
          if here e.1 && e.2.launch == l && e.2.st == .waiting b && e.2.saved
          then (e.1, { e.2 with st := .inBlock b, saved := false, replica := 0 }) else e)
        tokens := s.tokens.map (fun k => if here k.thread && k.launch == l && k.block == b then { k with replica := 0 } else k)
        accesses := s.accesses.map (fun a => if accessOf s p a then { a with f := { a.f with replica := 0 } } else a)
        resumed := s.resumed.map (fun f => if f.launch == l && f.block == b && here f.thread then { f with replica := 0 } else f)
        masks := s.masks.map (fun m => if m.launch == l && m.block == b && (match team? s m.team with
          | some t => (servedCores s p).contains t.core
          | none => false) then { m with replica := 0 } else m) }

def execBlockResident (core l b : Nat) (s : State) : Out := .next (evBlockResident core l b s)

/-! ## Injection (R183) -/

/-- May a thread go to this replica: in a collective block, only to the one that holds threads of its hardware crew, or of its logical
crew where that is the wider, so that a crew's members meet on one replica (R183, R192)? -/
def replicaOk (s : State) (p : Placed) (coll : Bool) (t r : Nat) : Bool :=
  let crew (x : Nat) (th : Thread) : Nat × Nat := if widthOf s p.launch = 64 then (th.team, th.tid / 64) else (0, crewOf x)
  match thread? s t with
  | none => false
  | some th =>
    !coll || (match s.threads.find? (fun e => crew e.1 e.2 == crew t th && e.2.launch == p.launch && e.2.st == .inBlock p.block) with
      | some e => e.2.replica == r
      | none => true)

/-- The thread's entry into a block: its state, an episode for wave 0, and a token for every entry node. -/
def enterBlock (t : Nat) (th : Thread) (p : Placed) (entries : List Nat) (r : Nat) (s : State) : State :=
  let age := s.cycles - tabGet 0 s.core.ageBase (coreOf t)
  let toks := ((List.range entries.length).zip entries).map (fun (e : Nat × Nat) =>
    ({ thread := t, wave := 0, net := .pred, val := 0, launch := th.launch, block := p.block, replica := r, node := e.2, port := 3,
       age := age, place := .general, src := 0, seq := s.nextId + e.1, count := 0, inv := 0 } : Token))
  let s := newKeys t th.launch p.block 0 s
  let s := { s with tokens := s.tokens ++ toks, nextId := s.nextId + entries.length }
  modThread t (fun x => { x with
    st := .inBlock p.block, replica := r,
    episodes := x.episodes.filter (fun e => e.block != p.block) ++
      [{ block := p.block, wave := 0, inv := 0, expect := none, closed := false, passed := [] }] }) s

/-- Has a replica its turn to inject in this cycle: each injects once, and replica 0 chooses first (R183)? -/
def mayInject (s : State) (p : Placed) (r : Nat) : Bool := p.injectAt != s.cycles + 1 || decide (p.injectTo ≤ r)

/-- INJECT: the lowest waiting thread at or above the rotating pointer, wrapping (R183). -/
def evInject (core l b r : Nat) (s : State) : State :=
  match placedOf s core l b, blockAt s l b with
  | some p, some k =>
    if !p.resident || p.stopped || !coresRun s || p.replicas.length ≤ r || !mayInject s p r ||
       (match launch? s l with | some x => x.phase != .running | none => true) then s
    else
      let cand := s.threads.filter (fun e => coreOf e.1 == core && e.2.launch == l && e.2.st == .waiting b && !e.2.saved &&
        replicaOk s p k.coll e.1 r)
      match leastBy (fun (e : Nat × Thread) => (e.1 % 8192 + 8192 - p.pointer) % 8192) cand with
      | some (t, th) => modPlaced p (fun q => { q with pointer := (t % 8192 + 1) % 8192, injectAt := s.cycles + 1, injectTo := r + 1 }) (enterBlock t th p k.entries r s)
      | none => s
  | _, _ => s

def execInject (core l b r : Nat) (s : State) : Out := .next (evInject core l b r s)

/-! ## Eviction (R184) -/

/-- Does a token stand in the input register of a seam link (R199)? -/
def inSeam (k : Token) : Bool := match k.place with | .seam _ => true | _ => false

/-- Is a token still on its way to its store? -/
def onArc (k : Token) : Bool := k.place == .out || k.place == .due || k.place == .port || k.place == .net || inSeam k

/-- Writes a block's tokens to the overflow area with their AGE, sets its threads' bits, and frees its pages. Matches that
wait to be made again are tokens again. -/
def writeOut (p : Placed) (s : State) : State :=
  match areaWrite p.launch (tokensToWrite s p) s with
  | (false, s) => s
  | (true, s) =>
  let here (t : Nat) : Bool := (servedCores s p).contains (coreOf t)
  let back := (unmade s p).flatMap (·.toks)
  let out (k : Token) : Token :=
    if boundFor s p k && k.place != .overflow then
      { k with place := .overflow,
               age := if onArc k then s.cycles - tabGet 0 s.core.ageBase (coreOf k.thread) else k.age }
    else k
  let s := { s with
    tokens := s.tokens.map out ++ back.map (fun k => { k with place := .overflow })
    seams := backUnits (s.tokens.filter (boundFor s p)) s.seams
    resumed := s.resumed.filter (fun f => !(f.launch == p.launch && f.block == p.block && here f.thread))
    accesses := s.accesses.filter (fun a => !(accessOf s p a && a.st == .waiting))
    threads := s.threads.map (fun e =>
      if inBlockOf s p e && (match e.2.st with | .inBlock _ => true | _ => false)
      then (e.1, { e.2 with st := .waiting p.block, saved := true, since := s.cycles }) else e) }
  removePlaced p s

/-- EVICT: a stopped block goes once its accesses have responded, parked ones apart. -/
def evEvict (core l b : Nat) (s : State) : State :=
  match placed? s l b core with
  | none => s
  | some p =>
    if !p.stopped || !coresRun s || s.threads.any (fun e => inBlockOf s p e && (match e.2.st with | .departing _ _ _ => true | _ => false)) ||
       s.accesses.any (fun a => accessOf s p a && !a.drop && (match a.st with | .parked _ _ _ | .waiting => false | _ => true)) then s
    else if areaRoom s l < tokensToWrite s p then modPlaced p (fun q => { q with stopped := false }) s
    else writeOut p s

def execEvict (core l b : Nat) (s : State) : Out := .next (evEvict core l b s)

end Sys2Proof.Machine
end

