-- ==== Sys2Proof/Machine/Companion.lean ====
section
/-! DEFINITION. The companion's accesses to device memory (R31 to R33, R62). -/

namespace Sys2Proof.Machine

/-- Is every byte of the range backed device memory? -/
def deviceRange (s : State) (pa n : Nat) : Bool :=
  (List.range n).all (fun i => match backing s (pa + i) with | .hbm _ => true | .carve _ => true | _ => false)

def tell (o : Output) (s : State) : State := { s with outputs := s.outputs ++ [o] }

/-- Does a request of the companion reach the device: is the device past its start, and a port up (R35)? (DEDUCED, log 24) -/
def companionLink (s : State) : Bool := s.boot.released && s.kamub.up != 0

/-- A request that arrives during a freeze waits in the I/O die (R62). -/
def holdRequest (r : CompReq) (s : State) : State := { s with kamub := { s.kamub with held := s.kamub.held ++ [r] } }

/-- The lines that a range touches. -/
def linesOf (pa n : Nat) : List Nat := ((List.range n).map (fun i => (pa + i) / 128)).eraseDups

/-- A read is answered with the committed value, or with an error for a hole; the companion may keep a copy (R31, R32). A word with
an uncorrectable error is answered as it is stored. (DESIGN CHOICE, log 49) (DESIGN CHOICE, log 45) -/
def companionRead (pa len : Nat) (keepIt : Bool) (s : State) : State :=
  if !deviceRange s pa len then tell (.companion none) s
  else
    let s := tell (.companion (some (readHome s pa len))) s
    if keepIt then
      (linesOf pa len).foldl (fun s l => if s.kamub.copies.any (·.line == l) then s
        else { s with kamub := { s.kamub with copies := s.kamub.copies ++ [{ line := l, dirty := none }] } }) s
    else s

/-- The companion owns a line and has put bytes into its copy; its dirty bit is set with that (R33: a request for ownership counts
as a write; R40); a 32-byte word that they cover whole is healed (R29 (c)). -/
def ownLine (line pa : Nat) (data : List Byte) (s : State) : State :=
  let old := (List.range 128).map (fun i => homeByte s (128 * line + i))
  let new := (List.range 128).map (fun i =>
    if pa ≤ 128 * line + i ∧ 128 * line + i < pa + data.length then data.getD (128 * line + i - pa) 0 else old.getD i 0)
  let s := healCovered line (fun i => decide (pa ≤ 128 * line + i ∧ 128 * line + i < pa + data.length))
    (setDirty (128 * line) (dropVerdicts (128 * line) s))
  { s with kamub := { s.kamub with copies := s.kamub.copies.filter (·.line != line) ++ [{ line := line, dirty := some new }] } }

/-- A write stands and aborts with CONFLICT every ACTIVE or QUEUED transaction that shadows a
line of it; a hole changes nothing (R31, R33, R40). (DESIGN CHOICE, log 45) -/
def companionWrite (pa : Nat) (data : List Byte) (own : Bool) (s : State) : State :=
  if !deviceRange s pa data.length then tell (.companion none) s
  else
    let lines := linesOf pa data.length
    let s := lines.foldl (fun s l => conflictWrite (128 * l) none s) s
    if own then lines.foldl (fun s l => ownLine l pa data s) s else writeSys pa data s

/-- The requests that a freeze has held back complete in the order in which they came; one that finds no port is answered with an
error (R35, R62). -/
def heldRequests (s : State) : State :=
  s.kamub.held.foldl (fun s r =>
    if !companionLink s then tell (.companion none) s
    else match r with
      | .read pa len k => companionRead pa len k s
      | .write pa data own => companionWrite pa data own s) { s with kamub := { s.kamub with held := [] } }

/-- COMPANION_READ (R31, R32, R62). -/
def execCompanionRead (pa len : Nat) (keepIt : Bool) (s : State) : Out :=
  .next (if !companionLink s then s
    else if frozen s then holdRequest (.read pa len keepIt) s else companionRead pa len keepIt s)

/-- COMPANION_WRITE (R31, R33, R62). -/
def execCompanionWrite (pa : Nat) (data : List Byte) (own : Bool) (s : State) : Out :=
  .next (if !companionLink s then s
    else if frozen s then holdRequest (.write pa data own) s else companionWrite pa data own s)

end Sys2Proof.Machine
end

