-- ==== Sys2Proof/Machine/Context.lean ====
section
/-! DEFINITION. The records of R44 and the context payloads of R154 and R155, as the save pool and the debug window hold
them. -/

namespace Sys2Proof.Machine

/-- A record of R44 with VER = 1: header, payload, and padding to a multiple of 8 bytes. -/
def recordBytes (tag : Nat) (req : Bool) (key : Nat) (payload : List Byte) : List Byte :=
  toBytes 2 tag ++ toBytes 1 1 ++ toBytes 1 (boolBit req 0) ++ toBytes 4 payload.length ++ toBytes 8 key ++
  padTo (roundUp payload.length 8) payload

/-- The threads that a list of hardware crews has room for, in order. -/
def crewLanes (crews : List Nat) : List Nat := crews.flatMap (fun c => (List.range 32).map (c * 32 + ·))

/-- CREW: 128 bytes for each crew. -/
def crewPayload (s : State) (crews : List Nat) : List Byte :=
  crews.flatMap (fun c =>
    let x := tabFind s.crews c
    let lo := (x.map (·.lo)).getD 0
    ((List.range 32).flatMap (fun l => toBytes 2 (fpOf s (c * 32 + l)))) ++ toBytes 2 lo ++ toBytes 2 (lo + 64) ++
    toBytes 4 (((x.map (·.high)).getD 0)) ++ toBytes 4 (((x.map (·.stack)).getD 0)) ++ List.replicate 52 0)

/-- LVS: 8,192 bytes for each crew. -/
def lvsPayload (s : State) (crews : List Nat) : List Byte :=
  crews.flatMap (fun c => (List.range 2048).flatMap (fun i => toBytes 4 (tabGet 0 s.core.lvs (c * 2048 + i)).toNat))

/-- UNIFORM: 512 bytes for each crew. -/
def uniformPayload (s : State) (crews : List Nat) : List Byte :=
  crews.flatMap (fun c => (List.range 128).flatMap (fun i => toBytes 4 (tabGet 0 s.core.kregs (c * 128 + i)).toNat))

/-- PRNG: 4 bytes for each thread. -/
def prngPayload (s : State) (crews : List Nat) : List Byte :=
  (crewLanes crews).flatMap (fun t => toBytes 4 (((thread? s t).map (fun (x : Thread) => x.prng.toNat)).getD 0))

/-- Is every token that a thread has in its block parked (R179)? -/
def allParked (s : State) (t : Nat) : Bool :=
  !s.tokens.any (fun k => k.thread == t) && !s.resumed.any (fun f => f.thread == t) &&
  s.accesses.any (fun a => a.f.thread == t) &&
  s.accesses.all (fun a => a.f.thread != t || (match a.st with | .parked _ _ _ => true | _ => false))

/-- WAITING: block and state of each thread. -/
def waitingPayload (s : State) (crews : List Nat) : List Byte :=
  (crewLanes crews).flatMap (fun t => toBytes 2 (match ((thread? s t).map (fun (x : Thread) => x.st) : Option ThreadSt) with
    | some (.waiting b) => b + 4096
    | some (.inBlock b) | some (.departing b _ _) => b + (if allParked s t then 3 * 4096 else 2 * 4096)
    | _ => 0))

/-- ORDER: the next sequence number of each thread. -/
def orderPayload (s : State) (crews : List Nat) : List Byte :=
  (crewLanes crews).flatMap (fun t => toBytes 2 (((thread? s t).bind (fun th =>
    (th.episodes.find? (fun e => !e.closed)).bind (·.expect))).getD 0 % 256))

/-- A token entry of R155; `num` gives the thread's number in the record. -/
def tokenEntry (num : Nat → Nat) (k : Token) : List Byte :=
  toBytes 32 k.val.toNat ++ toBytes 2 (num k.thread) ++ toBytes 1 (k.wave + 64 * netCode k.net) ++
  toBytes 2 (k.node * 4 + k.port % 4 + 2 ^ 15) ++ toBytes 2 k.block ++ [0] ++ toBytes 4 k.age

/-- MATCH: the tokens of the crews' threads that stand outside the overflow area. -/
def matchPayload (s : State) (crews : List Nat) (num : Nat → Nat) (p : Token → Bool) : List Byte :=
  (s.tokens.filter (fun k => crews.contains (crewOf k.thread) && k.place != .overflow && p k)).flatMap (tokenEntry num)

/-- The address of the scratchpad word that a parked access waits on, as the access names it: of .S the offset, of .P the team number in
bits [51:20] with the offset (R155, R201). `addr` holds the scratchpad's key above bit 20. -/
def wordAddr (s : State) (a : Access) (addr : Nat) : Nat :=
  match (thread? s a.f.thread).map (·.team), (team? s (addr / 2 ^ 20)).map (·.num) with
  | some own, some num => if own = addr / 2 ^ 20 then addr % 2 ^ 20 else num * 2 ^ 20 + addr % 2 ^ 20
  | _, _ => addr % 2 ^ 20

/-- A PARKED entry: the match's first token, KIND, the address waited on and the FAULT_ID. -/
def parkedEntry (s : State) (num : Nat → Nat) (a : Access) : List Byte :=
  match a.st with
  | .parked k addr fault =>
    let tok : Token := (a.f.toks.head?).getD
      { thread := a.f.thread, wave := a.f.wave, net := .narrow, val := a.a, launch := a.f.launch, block := a.f.block, replica := 0,
        node := a.f.node, port := 0, age := a.age, place := .general, src := 0, seq := 0, count := 0, inv := 0 }
    let id := ((fault.bind (fun x => s.xlat.faults.find? (·.key == x))).bind (·.id)).getD 0
    tokenEntry num tok ++ toBytes 1 k ++ toBytes 3 0 ++ toBytes 8 (if k = 0 then wordAddr s a addr else addr) ++
    toBytes 4 (if k = 1 then id else 0) ++ toBytes 4 0
  | _ => []

/-- PARKED: 64 bytes for each parked match. -/
def parkedPayload (s : State) (crews : List Nat) (num : Nat → Nat) : List Byte :=
  (s.accesses.filter (fun a => crews.contains (crewOf a.f.thread))).flatMap (parkedEntry s num)

/-- OVERFLOW: bytes in use, tokens, next age. -/
def overflowPayload (s : State) (core : Nat) (crews : List Nat) : List Byte :=
  let n := (s.tokens.filter (fun k => crews.contains (crewOf k.thread) && k.place == .overflow)).length
  toBytes 8 (64 * n) ++ toBytes 8 n ++ toBytes 8 (s.cycles - tabGet 0 s.core.ageBase core) ++ toBytes 8 0

/-- One waiter bitmap: 1,024 bits by thread of the team. -/
def waiterBits (s : State) (key : Nat) (p : Access → Bool) : List Byte :=
  let tids := (s.accesses.filter (fun a => a.st == .blocked && p a)).filterMap (fun a =>
    (thread? s a.f.thread).bind (fun t => if t.team = key then some t.tid else none))
  toBytes 128 ((tids.eraseDups.map (fun i => 2 ^ i)).sum)

/-- TEAMSYNC: the barriers and semaphores in use (R154). The count of a semaphore's entry is written as 0, since the semaphore's count stands
in its own word of memory. (DESIGN CHOICE, log 52) -/
def syncPayload (s : State) (core : Nat) (teams : List Nat) : List Byte :=
  (unitEntries s core).flatMap (fun e =>
    match teams.idxOf? e.1 with
    | none => []
    | some i =>
      let bar := decide (e.2 < 16)
      let count := if bar then ((team? s e.1).map (fun m => (barrierOf m e.2).arrived)).getD 0 else 0
      toBytes 1 (if bar then 0 else 1) ++ toBytes 1 (if bar then e.2 else e.2 - 16) ++ toBytes 2 i ++ toBytes 4 count ++
      waiterBits s e.1 (fun a => if bar then (barWaits a).map (·.1) == some e.2 else semWaits a == some (e.2 - 16)))

/-- SCRATCH: the teams' scratchpads, then their presence bits. -/
def scratchPayload (s : State) (teams : List (Nat × Nat)) : List Byte :=
  teams.flatMap (fun e => padBytes s e.1 0 e.2) ++
  teams.flatMap (fun e => (List.range ((e.2 / 8 + 7) / 8)).map (fun i =>
    BitVec.ofNat 8 (((List.range 8).map (fun b => boolBit (decide (8 * i + b < e.2 / 8) && present s e.1 (8 * i + b)) b)).sum)))

/-- One page of CONFIG: its descriptor and its node words. -/
def configEntry (s : State) (p : Placed) (rep page : Nat) : List Byte :=
  match blockAt s p.launch p.block with
  | none => []
  | some b => toBytes 2 p.block ++ toBytes 1 page ++ toBytes 1 rep ++ toBytes 4 0 ++ toBytes 8 (b.source.getD page 0) ++
      (List.range 128).flatMap (fun i => toBytes 16 ((tabFind b.words (page * 128 + i)).getD 0).toNat)

/-- CONFIG: the pages that launches hold on a core. -/
def configPayload (s : State) (ids : List Nat) (core : Nat) : List Byte :=
  (pagesOn s ids core).flatMap (fun e => configEntry s e.1 e.2.1 e.2.2)

/-- UNIT: counts, scratchpad size, and 8 bytes for each team. -/
def unitPayload (s : State) (teams : List Team) (scratch : Nat) : List Byte :=
  let firsts := teams.foldl (fun (t : Nat × List Byte) m =>
    (t.1 + m.crews.length, t.2 ++ toBytes 4 m.num ++ toBytes 2 t.1 ++ toBytes 2 m.crews.length)) (0, [])
  let threads := (s.threads.filter (fun e => teams.any (fun m => m.key == e.2.team))).length
  toBytes 2 firsts.1 ++ toBytes 2 teams.length ++ toBytes 4 threads ++ toBytes 4 scratch ++ List.replicate 20 0 ++ firsts.2

/-- The records of one save unit in the order of R154. -/
def unitRecords (s : State) (id core number : Nat) : List (List Byte) :=
  let teams := s.teams.filter (fun m => m.launch == id && m.core == core && !m.retired)
  let crews := teams.flatMap (·.crews)
  let scratch := ((imageOf s id).map (·.scratch)).getD 0
  let num (t : Nat) : Nat := ((crews.idxOf? (crewOf t)).getD 0) * 32 + laneOf t
  [(0x0101, unitPayload s teams scratch), (0x010A, crewPayload s crews), (0x0102, lvsPayload s crews),
   (0x0103, uniformPayload s crews), (0x010D, prngPayload s crews), (0x0107, waitingPayload s crews), (0x0108, orderPayload s crews),
   (0x0104, matchPayload s crews num (fun _ => true)), (0x010B, parkedPayload s crews num), (0x0109, overflowPayload s core crews),
   (0x010C, syncPayload s core (teams.map (·.key))), (0x0106, scratchPayload s (teams.map (fun m => (m.key, scratch)))),
   (0x0105, configPayload s [id] core)].map (fun e => recordBytes e.1 true number e.2)

/-- The 4-byte word of a debug window structure at an offset (R63). -/
def debugPayload (s : State) (core k : Nat) : List Byte :=
  let crews := (List.range 256).map (core * 256 + ·)
  let num (t : Nat) : Nat := t % 8192
  let teams := s.teams.filter (fun m => m.core == core && !m.retired)
  let ids := (s.launches.map (·.id))
  if k = 0 then lvsPayload s crews
  else if k = 1 then uniformPayload s crews
  else if k = 2 then matchPayload s crews num (fun k => k.place == .general || k.place == .completion)
  else if k = 3 then configPayload s ids core
  else if k = 4 then scratchPayload s (teams.map (fun m => (m.key, ((imageOf s m.launch).map (·.scratch)).getD 0)))
  else if k = 5 then waitingPayload s crews
  else if k = 6 then orderPayload s crews
  else if k = 7 then overflowPayload s core crews
  else []

/-- DEBUG_WINDOW_READ: one word of the selected page; zero while not frozen (R63), and zero for an address of physical memory that is a
hole or the companion's; every die reads physical memory at its home. (DESIGN CHOICE, log 50) -/
def debugWord (s : State) (w : Nat) : Word32 :=
  if !frozen s then 0
  else
    let sel := s.boot.dbgSel.toNat
    let core := sel % 256
    let k := sel / 256 % 16
    let off := sel / 4096 * 4096 + 4 * w
    if k = 15 then
      let pa := off + s.boot.dbgSelHi.toNat * 2 ^ 32
      if 2 ^ 51 ≤ pa ∨ backing s pa = .hole then 0 else BitVec.ofNat 32 (ofBytes ((List.range 4).map (fun i => homeByte s (pa + i))))
    else if 160 ≤ core then 0
    else BitVec.ofNat 32 (ofBytes (padTo 4 (((debugPayload s core k).drop off).take 4)))

def execDebugWindowRead (w : Fin 1024) (s : State) : Out :=
  .next (if answers s 0x1000 then { s with readData := debugWord s w.val } else { s with readData := 0 })

end Sys2Proof.Machine
end

