-- ==== Sys2Proof/Machine/Copy.lean ====
section
/-! DEFINITION. COPY and COPYS (R203, R205, R392, R393): their words, what they capture, how they move and where they park. -/

namespace Sys2Proof.Machine

/-- A copy's shape: words in all, words of a row, source stride in words. -/
structure CopyShape where
  words : Nat
  row : Nat
  stride : Nat
  deriving DecidableEq, Repr

/-- The shape of an access of COPY or COPYS. -/
def copyShape (a : Access) : CopyShape :=
  let c := a.c.toNat % 2 ^ 64
  match a.i with
  | .copys _ _ _ _ => { words := (c % 2 ^ 16 + 1) * (c / 2 ^ 16 % 2 ^ 16), row := c / 2 ^ 16 % 2 ^ 16, stride := c / 2 ^ 32 }
  | _ => { words := c / 8, row := c / 8, stride := c / 8 }

/-- Does the source lie in the scratchpad, and does the destination? -/
def copySides (i : Instr) : Bool × Bool :=
  match i with
  | .copy _ x y _ | .copys _ x y _ => (x, y)
  | _ => (false, false)

def copySrc (a : Access) (w : Nat) : Nat :=
  let h := copyShape a
  (a.b.toNat + 8 * (h.stride * (w / h.row) + w % h.row)) % 2 ^ 64

def copyDst (a : Access) (w : Nat) : Nat := (a.a.toNat + 8 * w) % 2 ^ 64

/-- A copy's limits: the words of each range are aligned, the length and the descriptor hold (R392). -/
def copyOk (a : Access) (s : State) : Part Unit :=
  let va := a.a.toNat % 2 ^ 64
  let vb := a.b.toNat % 2 ^ 64
  let c := a.c.toNat % 2 ^ 64
  let isRows : Bool := match a.i with | .copys _ _ _ _ => true | _ => false
  if isRows ∧ c / 2 ^ 16 % 2 ^ 16 = 0 then stop .gone (abortOf a.f 0x06 s)
  else if !isRows && (decide (c % 8 ≠ 0) || decide (2 ^ 32 < c)) then misaligned a.f c s
  else if va % 8 ≠ 0 then misaligned a.f va s
  else if vb % 8 ≠ 0 then misaligned a.f vb s
  else good () s

/-- The scratchpad ranges of a copy lie in its scratchpad. -/
def copyPads (a : Access) (s : State) : Part Unit :=
  let h := copyShape a
  let last := if h.words = 0 then 0 else copySrc a (h.words - 1) + 8 - a.b.toNat % 2 ^ 64
  let top := Nat.max last (8 * Nat.min h.row h.words)
  let (x, y) := copySides a.i
  thenDo (if x then thenDo (padOf a.f 2 .s (a.b.toNat % 2 ^ 64) top s) (fun _ s => good () s) else good () s) (fun _ s =>
    if y then thenDo (padOf a.f 2 .s (a.a.toNat % 2 ^ 64) (8 * h.words) s) (fun _ s => good () s) else good () s)

/-- At issue every destination word of a scratchpad has its presence bit cleared (R203, R393). (DEDUCED, log 32) -/
def copyIssue (a : Access) (s : State) : State :=
  match copySides a.i, teamOf s a.f with
  | (_, true), some m =>
    let size := ((imageOf s a.f.launch).map (·.scratch)).getD 0
    let va := a.a.toNat % 2 ^ 64
    let n := 8 * (copyShape a).words
    if va % 8 = 0 ∧ va + n ≤ size then (padWords va n).foldl (fun s w => clearPresent m.key w s) s else s
  | _, _ => s

/-- Can the pages of a word be translated now? -/
def copyPages (s : State) (a : Access) (w : Nat) : Bool :=
  let okAt (va : Nat) (need : Need) : Bool :=
    match translate s a.f.core (spaceOf s a.f) va need with | .ok _ _ _ => true | _ => false
  let (x, y) := copySides a.i
  (x || okAt (copySrc a w) .read) && (y || okAt (copyDst a w) .write)

/-- Reads one source word. (DEDUCED, log 32) -/
def copyRead (a : Access) (w : Nat) (s : State) : Part (List Byte) :=
  if (copySides a.i).1 then thenDo (padOf a.f 2 .s (copySrc a w) 8 s) (fun t s => good (padBytes s t.1 t.2 8) s)
  else loadG a.f 2 false (copySrc a w) 8 s

/-- Writes one destination word; in a scratchpad its presence bit is set as it arrives. (DEDUCED, log 32) -/
def copyWrite (a : Access) (w : Nat) (l : List Byte) (s : State) : Part Unit :=
  if (copySides a.i).2 then thenDo (padOf a.f 2 .s (copyDst a w) 8 s) (fun t s => good () (padWrite t.1 t.2 l s))
  else storeG a.f 2 false (copyDst a w) l s

/-- Reads every source word of a copy whose pages all translate, before any of them moves (R230, R393). (DEDUCED, log 32) -/
def captureCopy (id : Nat) (s : State) : State :=
  match access? s id with
  | none => s
  | some a =>
    let n := (copyShape a).words
    if a.st != .blocked || !a.got.isEmpty || a.left != [0] || !(List.range n).all (fun w => copyPages s a w) then s
    else match eachPart (fun w s => copyRead a w s) (List.range n) s with
      | (.ok ls, s) => modAccess id (fun x => { x with got := ls.flatten }) s
      | (.error _, s) => s

/-- COPY and COPYS begin: an empty copy completes at once (R392). -/
def doCopy (a : Access) (s : State) : Try × State :=
  match copyOk a s with
  | (.error t, s) => (t, s)
  | (.ok _, s) =>
    if (copyShape a).words = 0 then (.done 0, s)
    else match copyPads a s with
      | (.error t, s) => (t, s)
      | (.ok _, s) => (.block, modAccess a.id (fun x => { x with left := [0] }) s)

/-- The lowest word not yet written after word `w` has been. `left` holds it and the words above it that are written. (DEDUCED, log 32) -/
def advance : Nat → Nat → List Nat → List Nat
  | 0, lo, ds => lo :: ds
  | k + 1, lo, ds => if ds.contains lo then advance k (lo + 1) (ds.filter (· != lo)) else lo :: ds

/-- COPY_WORD_ARRIVAL: one word moves, once every word up to it has its pages; a lowest word whose page does not translate
parks the copy, with every earlier word written (R393). (DEDUCED, log 32) -/
def copyWord (id w : Nat) (s : State) : State :=
  match access? s id with
  | none => s
  | some a =>
    match a.left with
    | [] => s
    | lo :: ds =>
      let n := (copyShape a).words
      if a.st != .blocked || n ≤ w || w < lo || ds.contains w then s
      else match ((List.range (w + 1 - lo)).map (lo + ·)).find? (fun v => !copyPages s a v) with
        | some v =>
          if v ≠ lo then s
          else
            let (x, y) := copySides a.i
            let r := if x then good (0, 0) s else reach a.f 2 (copySrc a lo) .read s
            match (thenDo r (fun _ s => if y then good (0, 0) s else reach a.f 2 (copyDst a lo) .write s)) with
            | (.error (.park k va fl), s) =>
              if 512 ≤ parkedOn s a.f.core then s else modAccess id (fun x => { x with st := .parked k va fl }) s
            | (_, s) => s
        | none =>
          let src := if a.got.isEmpty then copyRead a w s else good ((a.got.drop (8 * w)).take 8) s
          match (thenDo src (fun l s => copyWrite a w l s)) with
          | (.ok _, s) =>
            let left := advance (ds.length + 1) lo (w :: ds)
            let st := if left = [n] then AccSt.done else .blocked
            modAccess id (fun x => { x with left := left, st := st, result := 0 }) s
          | (.error _, s) => s

end Sys2Proof.Machine
end

