-- ==== Sys2Proof/Machine/Approx.lean ====
section
/-! DEFINITION. The approximate functions of R322: enclosures of the exact functions in fixed point, far finer than the
bounds, and the result that the part returns: its own candidate where that meets the bound, the nearest value otherwise.
Log entry 7 names the candidates. -/

namespace Sys2Proof.Machine

/-! ## Fixed point at 320 fraction bits -/

def fixOne : Int := 2 ^ 320
def fixMul (a b : Int) : Int := a * b / 2 ^ 320
def fixOf (q : Rat) : Int := (q * pow2 320).floor
def fixRat (x : Int) : Rat := (x : Rat) / pow2 320

/-- Σ term · rⁱ / (k+1)…(k+i) over `n` terms. -/
def expSeries : Nat → Nat → Int → Int → Int
  | 0, _, _, _ => 0
  | n + 1, k, term, r => term + expSeries n (k + 1) (fixMul term r / ((k + 1 : Nat) : Int)) r

/-- Σ term · zⁱ / (2(k+i) + 1) over `n` terms; `z` carries the sign of the series. -/
def oddSeries : Nat → Nat → Int → Int → Int
  | 0, _, _, _ => 0
  | n + 1, k, term, z => term / ((2 * k + 1 : Nat) : Int) + oddSeries n (k + 1) (fixMul term z) z

/-- Σ (−1)ⁱ term · rⁱ over factorials of step two: the series of sine and cosine from `k`. -/
def trigSeries : Nat → Nat → Int → Int → Int
  | 0, _, _, _ => 0
  | n + 1, k, term, r2 => term + trigSeries n (k + 2) (-(fixMul term r2) / (((k + 1) * (k + 2) : Nat) : Int)) r2

/-- ln 2 = 2 artanh(1/3). -/
def fixLn2 : Int := 2 * oddSeries 110 0 (fixOne / 3) (fixOne / 9)
/-- arctan(1/n). -/
def fixAtan (n : Nat) : Int := oddSeries 150 0 (fixOne / (n : Int)) (-(fixOne / ((n * n : Nat) : Int)))
/-- π/2 by Machin's formula. -/
def fixHalfPi : Int := (16 * fixAtan 5 - 4 * fixAtan 239) / 2

/-- e to a fixed-point power below 1 in magnitude. -/
def fixExp (r : Int) : Int := expSeries 90 0 fixOne r

/-- 2 to a rational power. -/
def exp2Approx (q : Rat) : Rat := fixRat (fixExp (fixMul (fixOf (q - (q.floor : Rat))) fixLn2)) * pow2 q.floor

/-- log2 of a positive rational. -/
def log2Approx (q : Rat) : Rat :=
  let e := floorLog2 q
  let m := q / pow2 e
  let z := fixOf ((m - 1) / (m + 1))
  (e : Rat) + fixRat (2 * oddSeries 110 0 z (fixMul z z)) / fixRat fixLn2

/-- Sine and cosine of a rational of at most 2^15 in magnitude. -/
def sinApprox (q : Rat) (cosine : Bool) : Rat :=
  let x := fixOf q
  let k := (x + fixHalfPi / 2) / fixHalfPi
  let r := x - k * fixHalfPi
  let r2 := fixMul r r
  let quad := ((k + (if cosine then 1 else 0)) % 4).toNat
  let v := if quad % 2 = 0 then trigSeries 60 1 r r2 else trigSeries 60 0 fixOne r2
  fixRat (if 2 ≤ quad then -v else v)

/-- Hyperbolic tangent of a rational below 9 in magnitude. -/
def tanhApprox (q : Rat) : Rat :=
  let e := exp2Approx (2 * q / fixRat fixLn2)
  if ratAbs q < pow2 (-40) then q - q * q * q / 3 else (e - 1) / (e + 1)

/-! ## The results -/

def f32 : Fmt := fmtOf .f32

/-- One ulp of F32 at a value. -/
def ulpOf (q : Rat) : Rat := if q = 0 then pow2 (-149) else pow2 (max (floorLog2 (ratAbs q)) (-126) - 23)

/-- The part's result for an exact value: an overflow by R246, its own candidate where the candidate lies within the
bound, and the nearest value otherwise. (DESIGN CHOICE, log 7) -/
def withinOr (cand : Nat) (sat : Bool) (q bound : Rat) : Nat :=
  let near := encodeFloat f32 (.fin (q < 0) q) .rn sat 0
  match floatValue f32 f32.top, floatValue f32 cand with
  | .fin _ top, .fin _ c => if top < ratAbs q then overflowCode f32 (q < 0) sat else if ratAbs (c - q) ≤ bound then cand else near
  | .fin _ top, _ => if top < ratAbs q then overflowCode f32 (q < 0) sat else near
  | _, _ => near

/-- A power of two, if the positive value is one. -/
def powerOf (q : Rat) : Option Int := let e := floorLog2 q; if pow2 e = q then some e else none

def exactCode (q : Rat) : Nat := encodeFloat f32 (.fin (q < 0) q) .rn false 0
def oneCode (neg : Bool) : Nat := exactCode (if neg then -1 else 1)
def nanCode : Nat := canonicalNan f32

/-- FRCP: 1 ulp. (DESIGN CHOICE, log 7) -/
def rcpBits (cand x : Nat) (sat : Bool) : Nat :=
  match floatValue f32 x with
  | .nan => nanCode
  | .inf n => withSign f32 n 0
  | .fin n q =>
    if q = 0 then overflowCode f32 n sat
    else match powerOf (ratAbs q) with
      | some _ => withinOr 0 sat (1 / q) (-1)
      | none => withinOr cand sat (1 / q) (ulpOf (1 / q))

/-- FRSQ: 2 ulp. (DESIGN CHOICE, log 7) -/
def rsqBits (cand x : Nat) (sat : Bool) : Nat :=
  match floatValue f32 x with
  | .nan => nanCode
  | .inf n => if n then nanCode else 0
  | .fin n q =>
    if q = 0 then overflowCode f32 n sat
    else if q < 0 then nanCode
    else
      let r := sqrtRat (1 / q)
      match powerOf q with
      | some e => if e % 2 = 0 then exactCode (pow2 (-e / 2)) else withinOr cand sat r (2 * ulpOf r)
      | none => withinOr cand sat r (2 * ulpOf r)

/-- FEXP2: 2 ulp. Below −400 the function lies between 0 and 2^−400, and no encoding's distance from it and from 2^−400 fall on two sides
of the bound. (DESIGN CHOICE, log 7) -/
def exp2Bits (cand x : Nat) (sat : Bool) : Nat :=
  match floatValue f32 x with
  | .nan => nanCode
  | .inf n => if n then 0 else overflowCode f32 false sat
  | .fin _ q =>
    if 128 ≤ q then overflowCode f32 false sat
    else if q < -400 then withinOr cand sat (pow2 (-400)) (2 * pow2 (-149))
    else if (q.floor : Rat) = q && decide (-149 ≤ q) then exactCode (pow2 q.floor)
    else withinOr cand sat (exp2Approx q) (2 * ulpOf (exp2Approx q))

/-- FLOG2: 2 ulp, or 2^−22 for x in [0.5, 2]. (DESIGN CHOICE, log 7) -/
def log2Bits (cand x : Nat) (sat : Bool) : Nat :=
  match floatValue f32 x with
  | .nan => nanCode
  | .inf n => if n then nanCode else overflowCode f32 false sat
  | .fin _ q =>
    if q = 0 then overflowCode f32 true sat
    else if q < 0 then nanCode
    else match powerOf q with
      | some e => exactCode (e : Rat)
      | none =>
        let r := log2Approx q
        withinOr cand sat r (if mkRat 1 2 ≤ q ∧ q ≤ 2 then max (2 * ulpOf r) (pow2 (-22)) else 2 * ulpOf r)

/-- A candidate in [−1, 1], or +0. -/
def unitOr (cand : Nat) : Nat :=
  match floatValue f32 cand with
  | .fin _ c => if ratAbs c ≤ 1 then cand else 0
  | _ => 0

/-- FSIN and FCOS: 2^−21 up to 2^15, any value in [−1, 1] beyond. (DESIGN CHOICE, log 7) -/
def trigBits (cosine : Bool) (cand x : Nat) (sat : Bool) : Nat :=
  match floatValue f32 x with
  | .nan | .inf _ => nanCode
  | .fin n q =>
    if q = 0 then (if cosine then oneCode false else withSign f32 n 0)
    else if 32768 < ratAbs q then unitOr cand
    else withinOr cand sat (sinApprox q cosine) (pow2 (-21))

/-- FTANH: 2 ulp. (DESIGN CHOICE, log 7) -/
def tanhBits (cand x : Nat) (sat : Bool) : Nat :=
  match floatValue f32 x with
  | .nan => nanCode
  | .inf n => oneCode n
  | .fin n q =>
    if q = 0 then withSign f32 n 0
    else if 9 ≤ ratAbs q then oneCode n
    else withinOr cand sat (tanhApprox q) (2 * ulpOf (tanhApprox q))

end Sys2Proof.Machine
end

