-- ==== Sys2Proof/Machine/Float.lean ====
section
/-! DEFINITION. The scalar floating-point nodes FADD to CVT (R319 to R328). -/

namespace Sys2Proof.Machine

/-! ## Results -/

/-- Rounds an exact value to a node's format; a node of these majors draws nothing but CVT (R246, R249). (DEDUCED, log 19) -/
def roundTo (t : Ty) (r : Round) (x : Exact) : Nat := encodeFloat (fmtOf t) x r.rnd r.sat 0

def addExact (r : Rnd) (a b : Exact) : Exact := exSum r [a, b]

def fltNode1 (n : Node) (i : Instr) (g : Nat → Nat) (s : State) : Out := calc1 n i (opdT n.ty n.a) .narrow g s
def fltNode2 (n : Node) (i : Instr) (g : Nat → Nat → Nat) (s : State) : Out :=
  calc2 n i (opdT n.ty n.a) (opdT n.ty n.b) .narrow g s

/-- FRINT: an integral value of the format under RND, its sign kept (R327). -/
def rintBits (t : Ty) (rnd : Rnd) (b : Nat) : Nat :=
  match asFloat t b with
  | .nan => canonicalNan (fmtOf t)
  | .inf _ => b
  | .fin n q => encodeFloat (fmtOf t) (.fin n ((roundInt rnd q : Int) : Rat)) .rn false 0

/-- The generator of a thread advances by `k` draws (R248, R249). -/
def drawFor (t k : Nat) (s : State) : List Nat × State :=
  match thread? s t with
  | some th =>
    let (st, us) := prngDraws k th.prng
    (us, modThread t (fun x => { x with prng := st }) s)
  | none => (List.replicate k 0, s)

/-- The draws of a node that converts `k` elements: none unless it rounds stochastically (R249). -/
def drawIf (r : Rnd) (t k : Nat) (s : State) : List Nat × State :=
  if r = .rs then drawFor t k s else ([], s)

/-- An approximate function of F32 (R322). (DESIGN CHOICE, log 7) -/
def fltFun (n : Node) (i : Instr) (k : Nat) (g : Nat → Nat → Nat) (s : State) : Out :=
  fltNode1 n i (fun a => g (Config.approx k (BitVec.ofNat 32 a)).toNat a) s

/-! ## The nodes -/

/-- FADD (R321). -/
def execFadd (n : Node) (r : Round) (s : State) : Out :=
  fltNode2 n (.fadd n r) (fun a b => roundTo n.ty r (addExact r.rnd (asFloat n.ty a) (asFloat n.ty b))) s

/-- FSUB (R321). -/
def execFsub (n : Node) (r : Round) (s : State) : Out :=
  fltNode2 n (.fsub n r) (fun a b => roundTo n.ty r (addExact r.rnd (asFloat n.ty a) (exNeg (asFloat n.ty b)))) s

/-- FMUL (R321). -/
def execFmul (n : Node) (r : Round) (s : State) : Out :=
  fltNode2 n (.fmul n r) (fun a b => roundTo n.ty r (exMul (asFloat n.ty a) (asFloat n.ty b))) s

/-- FFMA (R321): the product is not rounded. -/
def execFfma (n : Node) (r : Round) (s : State) : Out :=
  calc3 n (.ffma n r) (opdT n.ty n.a) (opdT n.ty n.b) (opdT n.ty (srcC n)) .narrow
    (fun a b c => roundTo n.ty r (addExact r.rnd (exMul (asFloat n.ty a) (asFloat n.ty b)) (asFloat n.ty c))) s

/-- FDIV (R321). -/
def execFdiv (n : Node) (r : Round) (s : State) : Out :=
  fltNode2 n (.fdiv n r) (fun a b => roundTo n.ty r (exDiv (asFloat n.ty a) (asFloat n.ty b))) s

/-- FSQRT (R321). -/
def execFsqrt (n : Node) (r : Round) (s : State) : Out :=
  fltNode1 n (.fsqrt n r) (fun a => roundTo n.ty r (exSqrt (asFloat n.ty a))) s

/-- FRCP (R322). -/
def execFrcp (n : Node) (sat : Bool) (s : State) : Out := fltFun n (.frcp n sat) 0 (fun c a => rcpBits c a sat) s

/-- FRSQ (R322). -/
def execFrsq (n : Node) (sat : Bool) (s : State) : Out := fltFun n (.frsq n sat) 1 (fun c a => rsqBits c a sat) s

/-- FEXP2 (R322). -/
def execFexp2 (n : Node) (sat : Bool) (s : State) : Out := fltFun n (.fexp2 n sat) 2 (fun c a => exp2Bits c a sat) s

/-- FLOG2 (R322). -/
def execFlog2 (n : Node) (sat : Bool) (s : State) : Out := fltFun n (.flog2 n sat) 3 (fun c a => log2Bits c a sat) s

/-- FSIN (R322). -/
def execFsin (n : Node) (sat : Bool) (s : State) : Out := fltFun n (.fsin n sat) 4 (fun c a => trigBits false c a sat) s

/-- FCOS (R322). -/
def execFcos (n : Node) (sat : Bool) (s : State) : Out := fltFun n (.fcos n sat) 5 (fun c a => trigBits true c a sat) s

/-- FTANH (R322). -/
def execFtanh (n : Node) (sat : Bool) (s : State) : Out := fltFun n (.ftanh n sat) 6 (fun c a => tanhBits c a sat) s

/-- FMIN (R323). -/
def execFmin (n : Node) (s : State) : Out := fltNode2 n (.fmin n) (fltPick n.ty false) s

/-- FMAX (R323). -/
def execFmax (n : Node) (s : State) : Out := fltNode2 n (.fmax n) (fltPick n.ty true) s

/-- FABS (R324). -/
def execFabs (n : Node) (s : State) : Out := fltNode1 n (.fabs n) (fun a => a % 2 ^ (tyBits n.ty - 1)) s

/-- FNEG (R324). -/
def execFneg (n : Node) (s : State) : Out := fltNode1 n (.fneg n) (fun a => a ^^^ 2 ^ (tyBits n.ty - 1)) s

/-- FCPYS (R324). -/
def execFcpys (n : Node) (s : State) : Out :=
  fltNode2 n (.fcpys n) (fun a b => a % 2 ^ (tyBits n.ty - 1) + b / 2 ^ (tyBits n.ty - 1) * 2 ^ (tyBits n.ty - 1)) s

/-- FCMP (R325). -/
def execFcmp (n : Node) (t : FTest) (s : State) : Out :=
  calc2 n (.fcmp n t) (opdT n.ty n.a) (opdT n.ty n.b) .pred
    (fun a b => boolBit (ftestHolds t (asFloat n.ty a) (asFloat n.ty b)) 0) s

/-- FCLASS (R326). -/
def execFclass (n : Node) (s : State) : Out := fltNode1 n (.fclass n) (classBit n.ty) s

/-- FRINT (R327). -/
def execFrint (n : Node) (rnd : Rnd) (s : State) : Out := fltNode1 n (.frint n rnd) (rintBits n.ty rnd) s

/-- CVT (R328, R250): one draw under RS. An immediate extends by TY (R251). -/
def execCvt (n : Node) (from_ : Ty) (r : Round) (s : State) : Out :=
  runNode n (.cvt n from_ r) [{ opdT from_ n.a with ty := n.ty }] [] (fun f v s =>
    let (us, s) := drawIf r.rnd f.thread 1 s
    emit n f .narrow (convert n.ty from_ r (us.getD 0 0) (v.getD 0 0)) s) s

end Sys2Proof.Machine
end

