-- ==== Sys2Proof/Machine/Tile.lean ====
section
/-! DEFINITION. Tile packets and what the tile and systolic accesses do (R346 to R359, R242 to R244, R252 to R254). -/

namespace Sys2Proof.Machine

/-! ## Packets (R346) -/

/-- A packet: its header, the element codes of each row, and the scale codes of each row. -/
structure Packet where
  head : Head
  elems : List (List Nat)
  scales : List (List Nat)
  deriving DecidableEq, Repr

def thScale : ScaleKind → Nat
  | .none => 0xFF | .e8m0 => 0x16 | .f32 => 0x10 | .bf16 => 0x11

def thScaleOf (x : Nat) : Option ScaleKind :=
  if x = 0xFF then some .none else if x = 0x16 then some .e8m0 else if x = 0x10 then some .f32 else if x = 0x11 then some .bf16 else none

/-- The header word (R346). -/
def headWord (h : Head) : Nat :=
  tyCode h.elem + thScale h.scale * 2 ^ 8 + (h.rows - 1) * 2 ^ 16 + (h.cols - 1) * 2 ^ 24 + 0xA5 * 2 ^ 56

/-- The shape that a header word names, whatever step 2 of R348 says of it; a scale code that is none counts as no scale, and without a
format there is no shape. (DEDUCED, log 33) -/
def shapeOf (w : Nat) : Option Head :=
  (tyOf (w % 256)).map (fun t => { elem := t, scale := (thScaleOf (w / 2 ^ 8 % 256)).getD .none, rows := w / 2 ^ 16 % 256 + 1, cols := w / 2 ^ 24 % 256 + 1 })

/-- A header word that step 2 of R348 allows. -/
def headOf (w : Nat) : Option Head :=
  match tyOf (w % 256), thScaleOf (w / 2 ^ 8 % 256) with
  | some t, some sc =>
    if w / 2 ^ 56 = 0xA5 ∧ w / 2 ^ 32 % 2 ^ 24 = 0 ∧ tyTile.contains t ∧ scOk t sc then
      some { elem := t, scale := sc, rows := w / 2 ^ 16 % 256 + 1, cols := w / 2 ^ 24 % 256 + 1 }
    else none
  | _, _ => none

/-- `n` codes of `w` bits, lowest first, from a number. -/
def codesOf (w n v : Nat) : List Nat := (List.range n).map (fun i => v / 2 ^ (w * i) % 2 ^ w)

def packCodes (w : Nat) : List Nat → Nat
  | [] => 0
  | x :: t => x % 2 ^ w + 2 ^ w * packCodes w t

/-- A packet from its bytes. -/
def packetOf (h : Head) (l : List Byte) : Packet :=
  { head := h
    elems := (List.range h.rows).map (fun r => codesOf (tyBits h.elem) h.cols (field l (64 + r * rowBytes h) (rowBytes h)))
    scales := (List.range h.rows).map (fun r =>
      codesOf (scaleWidth h) (scaleCount h) (field l (64 + h.rows * rowBytes h + r * scaleBytes h) (scaleBytes h))) }

/-- The bytes of a packet's span; padding is zero. -/
def packetBytes (p : Packet) : List Byte :=
  padTo (spanOf p.head) (padTo 64 (toBytes 8 (headWord p.head)) ++
    (p.elems.map (fun r => toBytes (rowBytes p.head) (packCodes (tyBits p.head.elem) r))).flatten ++
    (p.scales.map (fun r => toBytes (scaleBytes p.head) (packCodes (scaleWidth p.head) r))).flatten)

/-- A row of the memory image from its codes, and its codes (R350). -/
def imageRow (p : Packet) (r : Nat) : List Byte :=
  toBytes (imageElems p.head) (packCodes (tyBits p.head.elem) (p.elems.getD r [])) ++
  toBytes (imageScales p.head) (packCodes (scaleWidth p.head) (p.scales.getD r []))
def rowOfImage (h : Head) (l : List Byte) : List Nat × List Nat :=
  (codesOf (tyBits h.elem) h.cols (field l 0 (imageElems h)),
   codesOf (scaleWidth h) (scaleCount h) (field l (imageElems h) (imageScales h)))

/-- A packet held as bytes. -/
def heldPacket (l : List Byte) : Packet :=
  match headOf (field l 0 8) with
  | some h => packetOf h l
  | none => { head := { elem := .s8, scale := .none, rows := 0, cols := 0 }, elems := [], scales := [] }

/-! ## Values (R239, R242, R243) -/

/-- The value of an element code without its scale. -/
def codeExact (t : Ty) (c : Nat) : Exact :=
  if t = .mxs8 then .fin false (mkRat (intOperand c 8 true) 64)
  else if isMx t then floatValue (fmtOf t) c
  else exactOf t c

/-- The value of one scale code. (DEDUCED, log 33) -/
def scaleExactOf (sc : ScaleKind) (c : Nat) : Exact :=
  match sc with
  | .none => .fin false 1
  | .e8m0 => scaleValue c
  | .f32 => floatValue (fmtOf .f32) c
  | .bf16 => floatValue (fmtOf .bf16) c

/-- The values of one row, scales included. -/
def rowExact (p : Packet) (r : Nat) : List Exact :=
  let cs := p.elems.getD r []
  let ss := p.scales.getD r []
  (List.range cs.length).map (fun k =>
    let x := codeExact p.head.elem (cs.getD k 0)
    match p.head.scale with
    | .none => x
    | .e8m0 => if ss.getD (k / 32) 0 = 0xFF then .nan else exMul x (scaleExactOf .e8m0 (ss.getD (k / 32) 0))
    | sc => exMul x (scaleExactOf sc (ss.getD 0 0)))

/-- Up to 32 values as one MX block (R243): the scale and the element codes. `us` are the draws of RS. -/
def quantise (t : Ty) (rnd : Rnd) (us : List Nat) (vs : List Exact) : Nat × List Nat :=
  let bad (x : Exact) : Bool := match x with | .fin _ _ => false | _ => true
  if vs.any bad then (0xFF, vs.map (fun _ => 0))
  else
    let a := vs.foldl (fun m x => if m < ratAbs (exFin x) then ratAbs (exFin x) else m) (0 : Rat)
    let emax : Int := if t = .mxs8 then 0 else if t = .mxe4m3 then 8 else if t = .mxe5m2 then 15 else 2
    let x : Int := if a = 0 then -127 else max (-127) (min 127 (floorLog2 a - emax))
    let one (v : Exact) (u : Nat) : Nat :=
      let q := exMul v (.fin false (pow2 (-x)))
      if t = .mxs8 then
        let g := exFin q * 64
        let neg := decide (g < 0)
        let k := (ratAbs g).floor.toNat
        let m : Int := if roundsUp rnd neg u k (ratAbs g - (k : Rat)) then k + 1 else k
        intResult (if neg then -m else m) 8 true true
      else encodeFloat (fmtOf t) q rnd true u
    ((x + 127).toNat, (List.range vs.length).map (fun i => one (vs.getD i (.fin false 0)) (us.getD i 0)))

/-- An exact value as a code of a type that is not MX (R250). (DEDUCED, log 33) -/
def encodeExact (t : Ty) (r : Round) (u : Nat) (x : Exact) : Nat :=
  if isFloat t then encodeFloat (fmtOf t) x r.rnd r.sat u
  else match x with
    | .nan => 0
    | .inf n => intResult (if n then -(2 ^ 200) else 2 ^ 200) (tyBits t) (isS t) true
    | .fin _ q => intResult (roundInt r.rnd q) (tyBits t) (isS t) true

/-- TCVT (R352): each element converted, in row-major order of draws. (DEDUCED, log 33) -/
def convertPacket (t : Ty) (r : Round) (us : List Nat) (p : Packet) : Packet :=
  let n := p.head.cols
  let draw (row k : Nat) : Nat := us.getD (row * n + k) 0
  if isMx t then
    let rows := (List.range p.head.rows).map (fun row =>
      let vs := rowExact p row
      (List.range (ceilDiv n 32)).map (fun b =>
        quantise t r.rnd ((List.range 32).map (fun i => draw row (32 * b + i))) ((vs.drop (32 * b)).take 32)))
    { head := { elem := t, scale := .e8m0, rows := p.head.rows, cols := n }
      elems := rows.map (fun bs => (bs.map (·.2)).flatten), scales := rows.map (fun bs => bs.map (·.1)) }
  else
    let plain := p.head.scale == .none
    { head := { elem := t, scale := .none, rows := p.head.rows, cols := n }
      elems := (List.range p.head.rows).map (fun row =>
        let vs := rowExact p row
        (List.range n).map (fun k =>
          if plain then convert t p.head.elem r (draw row k) ((p.elems.getD row []).getD k 0)
          else encodeExact t r (draw row k) (vs.getD k (.fin false 0))))
      scales := (List.range p.head.rows).map (fun _ => []) }

/-- TTRANS (R352). -/
def transposePacket (p : Packet) : Packet :=
  { head := { p.head with rows := p.head.cols, cols := p.head.rows }
    elems := (List.range p.head.cols).map (fun c => p.elems.map (fun r => r.getD c 0))
    scales := (List.range p.head.cols).map (fun _ => []) }

/-- TSCALE (R352). -/
def scalePacket (r : Round) (k : Int) (p : Packet) : Packet :=
  if isMx p.head.elem then
    { p with scales := p.scales.map (fun row => row.map (fun x =>
        if x = 0xFF then x else (max 0 (min 254 ((x : Int) + k))).toNat)) }
  else
    let c := max (-1024) (min 1024 k)
    { p with elems := p.elems.map (fun row => row.map (fun x =>
        encodeFloat (fmtOf p.head.elem) (exMul (codeExact p.head.elem x) (.fin false (pow2 c))) r.rnd r.sat 0)) }

/-! ## Products (R252 to R255, R355) -/

/-- `mma_accumulate` of R253, over groups of 16 products; a group that is not full counts +0 for each missing one. -/
def mmaGroups : Nat → List Exact → Nat → Nat
  | 0, _, c => c
  | k + 1, ps, c =>
    match ps with
    | [] => c
    | _ =>
      let g := (ps.take 16) ++ List.replicate (16 - (ps.take 16).length) (Exact.fin false 0)
      mmaGroups k (ps.drop 16) (encodeFloat (fmtOf .f32) (exSum .rn [floatValue (fmtOf .f32) c, exSum .rn g]) .rn false 0)

/-- The element `k` of a row of values, +0 past its end. -/
def valAt (l : List Exact) (k : Nat) : Exact := l.getD k (.fin false 0)

/-- The ternary weight of a code (R244). -/
def ternValue (c : Nat) : Int := if c = 1 then 1 else if c = 3 then -1 else 0

/-- One output element: C plus a row of A times a row of B over K (R253, R254, R355). -/
def dotElem (ta tb : Ty) (K : Nat) (ra rb : List Exact) (ca cb : List Nat) (c : Nat) : Nat :=
  if isInt ta then
    let wb (k : Nat) : Int := if tb = .t2 then ternValue (cb.getD k 0) else intOperand (cb.getD k 0) (tyBits tb) (isS tb)
    let sum := ((List.range K).map (fun k => intOperand (ca.getD k 0) (tyBits ta) (isS ta) * wb k)).sum
    intResult ((c : Int) + sum) 32 true false
  else mmaGroups (K / 16 + 1) ((List.range K).map (fun k => exMul (valAt ra k) (valAt rb k))) c

/-- Rows `[lo, lo + n)` of C with A times B added; output columns past C's are dropped. -/
def productRows (K lo n : Nat) (a b c : Packet) : Packet :=
  { c with elems := (List.range c.elems.length).map (fun m =>
      let row := c.elems.getD m []
      if lo ≤ m ∧ m < lo + n then
        (List.range row.length).map (fun j =>
          dotElem a.head.elem b.head.elem K (rowExact a m) (rowExact b j) (a.elems.getD m []) (b.elems.getD j []) (row.getD j 0))
      else row) }

/-- Does a packet of weights hold the reserved ternary code (R244)? -/
def ternBad (b : Packet) : Bool := b.head.elem == .t2 && b.elems.any (fun r => r.contains 2)

/-- The sticky TERN bit of the top-level launch (R244). -/
def setTern (f : Firing) (s : State) : State := modLaunch (topOf s f.launch) (fun l => { l with tern := true }) s

/-- The accumulator's element type (R354). -/
def accType (a : Ty) : Ty := if isInt a then .s32 else .f32

/-! ## Reaching packets (R347 to R349) -/

/-- A FORMAT abort whose report names the node and holds a TOFF (R348). (DEDUCED, log 33) -/
def badPacket {α : Type} (f : Firing) (toff : Nat) (s : State) : Part α := stop .gone (trap f 0x06 toff s)

/-- The SCALE that the block declares for an operand (R269). (DEDUCED, log 33) -/
def declared (s : State) (f : Firing) (src : Src) : Option Nat :=
  match src, blockAt s f.launch f.block with
  | .port p, some b => (tabFind b.formats (f.node * 8 + 2 + p.val)).map (fun e => e.2.1)
  | _, _ => none

/-- Every TOFF of a node is a multiple of 256 (R349). -/
def aligned (f : Firing) : List Nat → State → Part Unit
  | [], s => good () s
  | t :: ts, s => if t % 256 ≠ 0 then misaligned f t s else aligned f ts s

/-- The team's key once a TOFF and a span lie in its scratchpad; a span outside it is a hole (R348). -/
def spanIn (f : Firing) (toff n : Nat) (s : State) : Part Nat :=
  thenDo (padOf f 0 .s toff n s) (fun t s => good t.1 s)

/-- Reads a packet: it waits for the full bit, then makes the checks of R348. `elem` is the format the node names, `ok` the
scales that it allows. (DEDUCED, log 33) -/
def readPacket (f : Firing) (src : Src) (toff : Nat) (elem : Option Ty) (ok : ScaleKind → Bool) (s : State) : Part Packet :=
  thenDo (spanIn f toff 64 s) (fun key s => thenDo (needWords key toff 8 s) (fun _ s =>
    let w := ofBytes (padBytes s key toff 8)
    thenDo (spanIn f toff (((shapeOf w).map spanOf).getD 64) s) (fun _ s =>
      match headOf w with
      | none => badPacket f toff s
      | some h =>
        let right := match elem with | some t => t == h.elem | none => true
        let scale := match declared s f src with | some d => d == thScale h.scale | none => ok h.scale
        if right && scale then good (packetOf h (padBytes s key toff (spanOf h))) s else badPacket f toff s)))

/-- Waits until a packet position is empty, unless it is one of the sources (R347, R349). -/
def needEmpty (f : Firing) (toff : Nat) (sources : List Nat) (span : Nat) (s : State) : Part Nat :=
  thenDo (spanIn f toff span s) (fun key s =>
    if !sources.contains toff && present s key (toff / 8) then parkWord key (toff / 8) s else good key s)

/-- Clears a full bit (R347). -/
def consume (key toff : Nat) (yes : Bool) (s : State) : State := if yes then clearPresent key (toff / 8) s else s

def putPacket (key toff : Nat) (p : Packet) (s : State) : State := padWrite key toff (packetBytes p) s

/-! ## Moving and reshaping (R350 to R352) -/

/-- The rows that a TLOAD reads, as one run of bytes. -/
def tloadRows (a : Access) (d : TileDesc) (h : Head) (home : Bool) (s : State) : Part (List Byte) :=
  thenDo (eachPart (fun r s => loadRange a.f 2 home ((a.a.toNat % 2 ^ 64 + d.stride * r) % 2 ^ 64) (imageElems h + imageScales h) s) (List.range d.rows) s)
    (fun ls s => good ls.flatten s)

/-- TLOAD (R352). What a release has made it read already (R230) it does not read again. -/
def doTload (a : Access) (n : Node) (sc : ScaleKind) (home : Bool) (s : State) : Try × State :=
  let va := a.a.toNat % 2 ^ 64
  let d := tileDesc (a.b.toNat % 2 ^ 64)
  let h : Head := { elem := n.ty, scale := sc, rows := d.rows, cols := d.cols }
  let len := imageElems h + imageScales h
  if va % 32 ≠ 0 then finish (misaligned a.f va s)
  else finish (thenDo (aligned a.f [d.toff] s) (fun _ s => thenDo (needEmpty a.f d.toff [] (spanOf h) s) (fun key s =>
    thenDo (if a.got.isEmpty then tloadRows a d h home s else good a.got s) (fun l s =>
      let rows := (List.range d.rows).map (fun r => rowOfImage h ((l.drop (len * r)).take len))
      good d.toff (putPacket key d.toff { head := h, elems := rows.map (·.1), scales := rows.map (·.2) } s)))))

/-- The pieces of memory that a TSTORE writes, in ascending order of rows. -/
def tstorePieces (va stride : Nat) (p : Packet) : List (Nat × List Byte) :=
  (List.range p.head.rows).flatMap (fun r =>
    let lo := (va + stride * r) % 2 ^ 64
    let l := imageRow p r
    (pieces lo l.length).map (fun q => (q.1, (l.drop (q.1 - lo)).take q.2)))

/-- Writes the pieces from one on; a piece whose page parks leaves the place to go on from. -/
def tstoreFrom (a : Access) (home : Bool) : List (Nat × List Byte) → Nat → State → Part Unit
  | [], _, s => good () s
  | q :: qs, k, s =>
    match storeG a.f 2 home q.1 q.2 s with
    | (.ok _, s) => tstoreFrom a home qs (k + 1) s
    | (.error t, s) => (.error t, modAccess a.id (fun x => { x with left := [k] }) s)

/-- TSTORE (R349, R352): the packet is read whole, checked, and emptied where it is consumed; then its rows are written, and a row that covers a byte
last leaves its value there. -/
def doTstore (a : Access) (n : Node) (sc : ScaleKind) (home ca : Bool) (s : State) : Try × State :=
  let va := a.a.toNat % 2 ^ 64
  let d := tileDesc (a.b.toNat % 2 ^ 64)
  if va % 32 ≠ 0 then finish (misaligned a.f va s)
  else
    let write (p : Packet) (k : Nat) (s : State) : Part Nat :=
      thenDo (tstoreFrom a home ((tstorePieces va d.stride p).drop k) k s) (fun _ s => good d.toff s)
    if a.got.isEmpty then
      finish (thenDo (aligned a.f [d.toff] s) (fun _ s => thenDo (readPacket a.f n.b d.toff (some n.ty) (· == sc) s) (fun p s =>
        if p.head.rows ≠ d.rows ∨ p.head.cols ≠ d.cols then badPacket a.f d.toff s
        else thenDo (spanIn a.f d.toff 64 s) (fun key s =>
          write p 0 (modAccess a.id (fun x => { x with got := packetBytes p }) (consume key d.toff ca s))))))
    else finish (write (heldPacket a.got) (a.left.headD 0) s)

/-- TFILL (R352). -/
def doTfill (a : Access) (n : Node) (s : State) : Try × State :=
  let toff := a.a.toNat % 2 ^ 64
  let w := a.b.toNat % 2 ^ 64
  let h : Head := { elem := n.ty, scale := .none, rows := w % 256 + 1, cols := w / 2 ^ 8 % 256 + 1 }
  finish (thenDo (aligned a.f [toff] s) (fun _ s =>
    if w / 2 ^ 16 % 2 ^ 16 ≠ 0 then badPacket a.f toff s
    else thenDo (needEmpty a.f toff [] (spanOf h) s) (fun key s =>
      good toff (putPacket key toff { head := h
                                      elems := List.replicate h.rows (List.replicate h.cols (w / 2 ^ 32 % 2 ^ tyBits n.ty))
                                      scales := List.replicate h.rows [] } s))))

/-- One packet made from another: TCVT, TTRANS and TSCALE (R352). `fits` is what the node asks of its source beyond the
block's declaration; `g` may draw from the thread's generator. -/
def reshape (a : Access) (src : Src) (toff dst : Nat) (elem : Ty) (ok : ScaleKind → Bool) (ca : Bool)
    (fits : Packet → Bool) (g : Packet → State → Packet × State) (s : State) : Try × State :=
  finish (thenDo (aligned a.f [toff, dst] s) (fun _ s => thenDo (readPacket a.f src toff (some elem) ok s) (fun p s =>
    if !fits p then badPacket a.f toff s else
    let span := spanOf (g p s).1.head
    thenDo (needEmpty a.f dst [toff] span s) (fun key s =>
      let (q, s) := g p s
      good dst (putPacket key dst q (consume key toff ca s))))))

/-- TCVT (R352, R250, R249). -/
def doTcvt (a : Access) (n : Node) (from_ : Ty) (r : Round) (ca : Bool) (s : State) : Try × State :=
  reshape a n.a (a.a.toNat % 2 ^ 64) (a.b.toNat % 2 ^ 64) from_ (fun _ => true) ca (fun _ => true) (fun p s =>
    let (us, s) := drawIf r.rnd a.f.thread (p.head.rows * p.head.cols) s
    (convertPacket n.ty r us p, s)) s

/-- TTRANS (R352). -/
def doTtrans (a : Access) (n : Node) (ca : Bool) (s : State) : Try × State :=
  reshape a n.a (a.a.toNat % 2 ^ 64) (a.b.toNat % 2 ^ 64) n.ty (· == .none) ca (·.head.scale == .none)
    (fun p s => (transposePacket p, s)) s

/-- TSCALE (R352). -/
def doTscale (a : Access) (n : Node) (sc : ScaleKind) (r : Round) (ca : Bool) (s : State) : Try × State :=
  reshape a n.a (a.a.toNat % 2 ^ 64) (a.c.toNat % 2 ^ 64) n.ty (· == sc) ca (fun _ => true)
    (fun p s => (scalePacket r (intOperand a.b.toNat 32 true) p, s)) s

/-! ## Tile products (R355, R356) -/

/-- A product packet of A or B; C is unscaled and of the accumulator's type. -/
def readC (a : Access) (src : Src) (toff : Nat) (ta : Ty) (s : State) : Part Packet :=
  readPacket a.f src toff (some (accType ta)) (· == .none) s

/-- TMMA and TTERN (R355). -/
def doTmma (a : Access) (n : Node) (tb : Ty) (ca cb : Bool) (s : State) : Try × State :=
  let (ta, tbOff, tc) := (a.a.toNat % 2 ^ 64, a.b.toNat % 2 ^ 64, a.c.toNat % 2 ^ 64)
  finish (thenDo (aligned a.f [ta, tbOff, tc] s) (fun _ s =>
    thenDo (readPacket a.f n.a ta (some n.ty) (fun _ => true) s) (fun pa s =>
    thenDo (readPacket a.f n.b tbOff (some tb) (fun _ => true) s) (fun pb s =>
    thenDo (readC a (.port 2) tc n.ty s) (fun pc s =>
      if pa.head.cols ≠ pb.head.cols then badPacket a.f tbOff s
      else if pc.head.rows ≠ pa.head.rows ∨ pc.head.cols ≠ pb.head.rows then badPacket a.f tc s
      else thenDo (spanIn a.f tc 64 s) (fun key s =>
        let s := if ternBad pb then setTern a.f s else s
        let q := productRows pa.head.cols 0 pa.head.rows pa pb pc
        good tc (putPacket key tc q (consume key tbOff cb (consume key ta ca s)))))))))

/-- The groups of a group table: first row, rows and TOFF of the B tile (R356). -/
def groupsOf (ws : List Nat) : List (Nat × Nat × Nat) :=
  (ws.foldl (fun (t : Nat × List (Nat × Nat × Nat)) w => (t.1 + w % 2 ^ 16, t.2 ++ [(t.1, w % 2 ^ 16, w / 2 ^ 32 % 2 ^ 20)])) (0, [])).2

/-- TGRP (R356). -/
def doTgrp (a : Access) (n : Node) (tb : Ty) (ca cb : Bool) (s : State) : Try × State :=
  let (ta, tt, tc) := (a.a.toNat % 2 ^ 64, a.b.toNat % 2 ^ 64, a.c.toNat % 2 ^ 64)
  finish (thenDo (aligned a.f [ta, tt, tc] s) (fun _ s =>
    thenDo (readPacket a.f n.a ta (some n.ty) (fun _ => true) s) (fun pa s =>
    thenDo (readC a (.port 2) tc n.ty s) (fun pc s =>
    thenDo (spanIn a.f tt 8 s) (fun key s =>
    thenDo (needWords key tt 8 s) (fun _ s =>
      let w0 := ofBytes (padBytes s key tt 8)
      let g := w0 % 128
      thenDo (spanIn a.f tt (8 + 8 * g) s) (fun _ s =>
      thenDo (needWords key tt (8 + 8 * g) s) (fun _ s =>
        let ws := (List.range g).map (fun i => ofBytes (padBytes s key (tt + 8 + 8 * i) 8))
        if w0 / 128 ≠ 0 ∨ ws.any (fun w => decide (w / 2 ^ 16 % 2 ^ 16 ≠ 0 ∨ w / 2 ^ 52 ≠ 0)) then stop .gone (abortOf a.f 0x06 s)
        else if 64 < g ∨ pa.head.rows < (ws.map (· % 2 ^ 16)).sum then stop .gone (trap a.f 0x0F tt s)
        else if pc.head.rows ≠ pa.head.rows then badPacket a.f tc s
        else
          let gs := (groupsOf ws).filter (fun e => decide (0 < e.2.1))
          thenDo (aligned a.f (gs.map (·.2.2)) s) (fun _ s =>
          thenDo (eachPart (fun (e : Nat × Nat × Nat) s => thenDo (readPacket a.f n.b e.2.2 (some tb) (fun _ => true) s) (fun pb s =>
              if pb.head.cols ≠ pa.head.cols ∨ pb.head.rows ≠ pc.head.cols then badPacket a.f e.2.2 s else good pb s)) gs s) (fun bs s =>
            let q := (gs.zip bs).foldl (fun c e => productRows pa.head.cols e.1.1 e.1.2.1 pa e.2 c) pc
            let s := if bs.any ternBad then setTern a.f s else s
            let s := gs.foldl (fun s e => consume key e.2.2 cb s) (consume key ta ca s)
            good tc (putPacket key tc q s)))))))))))

/-! ## Systolic regions (R357 to R359) -/

/-- A region whose configuration is absent, as a block is placed with (R357). -/
def emptyRegion (core launch block : Nat) : Region :=
  { core := core, launch := launch, block := block, kr := 0, nc := 0, fa := .s8, fw := .s8, w := [], tiles := [] }

/-- The region of a firing's block, on the core or cluster where the block stands. -/
def regionAt (s : State) (f : Firing) : Option Region :=
  match placedOf s f.core f.launch f.block with
  | some p => some ((s.regions.find? (fun r => r.core == p.core && r.launch == f.launch && r.block == f.block)).getD
      (emptyRegion p.core f.launch f.block))
  | none => none

/-- A region changes; a region that is still as its block was placed is not listed before. -/
def modRegion (r : Region) (g : Region → Region) (s : State) : State :=
  { s with regions := s.regions.filter (fun x => !(x.core == r.core && x.launch == r.launch && x.block == r.block)) ++ [g r] }

/-- The pages of a block that its region takes. -/
def regionPages (s : State) (f : Firing) : Nat :=
  match blockAt s f.launch f.block with
  | some b => ((List.range 64).filter (fun i => b.sysMask.getLsbD i)).length
  | none => 0

def formatAbort (f : Firing) (s : State) : Try × State := (.gone, abortOf f 0x06 s)

/-- SYSCFG (R358, R359). -/
def doSyscfg (a : Access) (n : Node) (w : Ty) (s : State) : Try × State :=
  match regionAt s a.f with
  | none => formatAbort a.f s
  | some r =>
    let v := a.a.toNat % 2 ^ 64
    let kr := v % 256
    let nc := v / 256 % 256
    if !r.tiles.isEmpty then (.wait, s)
    else if v / 2 ^ 16 ≠ 0 ∨ kr = 0 ∨ nc = 0 ∨ 16 * regionPages s a.f < kr * nc then formatAbort a.f s
    else (.done 0, modRegion r (fun r => { r with kr := kr, nc := nc, fa := n.ty, fw := w, w := [] }) s)

/-- SYSW (R359). -/
def doSysw (a : Access) (n : Node) (ca : Bool) (s : State) : Try × State :=
  let toff := a.a.toNat % 2 ^ 64
  match regionAt s a.f with
  | none => formatAbort a.f s
  | some r =>
    if r.kr = 0 then formatAbort a.f s
    else if !r.tiles.isEmpty then (.wait, s)
    else finish (thenDo (aligned a.f [toff] s) (fun _ s =>
      thenDo (readPacket a.f n.a toff (some r.fw) (fun _ => true) s) (fun p s =>
        if 16 * r.nc < p.head.rows ∨ 16 * r.kr < p.head.cols then badPacket a.f toff s
        else thenDo (spanIn a.f toff 64 s) (fun key s =>
          good toff (consume key toff ca (modRegion r (fun r => { r with w := [packetBytes p] }) s))))))

/-- SYSA (R359). -/
def doSysa (a : Access) (n : Node) (ca : Bool) (s : State) : Try × State :=
  let toff := a.a.toNat % 2 ^ 64
  match regionAt s a.f with
  | none => formatAbort a.f s
  | some r =>
    if r.kr = 0 then formatAbort a.f s
    else if 2 ≤ r.tiles.length then (.wait, s)
    else finish (thenDo (aligned a.f [toff] s) (fun _ s =>
      thenDo (readPacket a.f n.a toff (some r.fa) (fun _ => true) s) (fun p s =>
        if 16 * r.kr < p.head.cols then badPacket a.f toff s
        else thenDo (spanIn a.f toff 64 s) (fun key s =>
          good toff (consume key toff ca (modRegion r (fun r => { r with tiles := r.tiles ++ [packetBytes p] }) s))))))

/-- SYSD (R359): the oldest queued tile times W goes into C, with K = 16 × KR. -/
def doSysd (a : Access) (n : Node) (s : State) : Try × State :=
  let toff := a.a.toNat % 2 ^ 64
  match regionAt s a.f with
  | none => formatAbort a.f s
  | some r =>
    if r.kr = 0 then formatAbort a.f s
    else match r.tiles with
      | [] => (.wait, s)
      | t :: rest =>
        finish (thenDo (aligned a.f [toff] s) (fun _ s => thenDo (readC a n.a toff r.fa s) (fun pc s =>
          let pa := heldPacket t
          let pb := match r.w with
            | w :: _ => heldPacket w
            | [] => { head := { elem := r.fw, scale := .none, rows := 0, cols := 0 }, elems := [], scales := [] }
          if pc.head.rows ≠ pa.head.rows ∨ 16 * r.nc < pc.head.cols then badPacket a.f toff s
          else thenDo (spanIn a.f toff 64 s) (fun key s =>
            let s := if ternBad pb then setTern a.f s else s
            let s := modRegion r (fun r => { r with tiles := rest }) s
            good toff (putPacket key toff (productRows (16 * r.kr) 0 pa.head.rows pa pb pc) s)))))

end Sys2Proof.Machine
end

