-- ==== Sys2Proof/Machine/Gather.lean ====
section
/-! DEFINITION. Gather, scatter and streams (R360 to R363, R366 to R369): lanes with their null lanes, delivered lanes and
parks, and the Trestle's subscriptions and copies. -/

namespace Sys2Proof.Machine

/-! ## Lanes (R367, R369) -/

/-- A lane's index: none for a null lane (R367). -/
def laneIndex (sx : Bool) (idx i : Nat) : Option Int :=
  let v := idx / 2 ^ (32 * i) % 2 ^ 32
  if sx then some (intOperand v 32 true) else if v = 2 ^ 32 - 1 then none else some v

/-- The address of a lane (R367). -/
def laneAddr (base size : Nat) (k : Int) : Nat := (((base : Int) + k * size) % 2 ^ 64).toNat

/-- Records that a lane is delivered. -/
def deliver (id i v w : Nat) (s : State) : State :=
  modAccess id (fun a => { a with left := a.left ++ [i], result := BitVec.ofNat 256 (a.result.toNat + v * 2 ^ (w * i)) }) s

/-- Reads the lanes not yet delivered: a lane that parks stays, the lanes after it that can go on are delivered (R369). -/
def readLanes (id w : Nat) (ready : Nat → State → Bool) (get : Nat → State → Part Nat) :
    List Nat → Option Try → State → Option Try × State
  | [], t, s => (t, s)
  | i :: is, t, s =>
    if t.isSome && !ready i s then readLanes id w ready get is t s
    else match get i s with
      | (.ok v, s) => readLanes id w ready get is t (deliver id i v w s)
      | (.error .gone, s) => (some .gone, s)
      | (.error e, s) => readLanes id w ready get is (t <|> some e) s

/-- Performs the lanes not yet delivered in ascending order up to the first that parks, so that a higher lane's write comes
later (R368, R369). -/
def writeLanes (id : Nat) (put : Nat → State → Part Nat) : List Nat → State → Option Try × State
  | [], s => (none, s)
  | i :: is, s =>
    match put i s with
    | (.ok _, s) => writeLanes id put is (deliver id i 0 0 s)
    | (.error e, s) => (some e, s)

/-- The lanes of an access that are still to be delivered. -/
def undelivered (a : Access) (n : Nat) : List Nat := (List.range n).filter (fun i => !a.left.contains i)

/-- The result of an access once its lanes are through. -/
def laneEnd (id : Nat) (v : Access → Nat) (r : Option Try × State) : Try × State :=
  match r with
  | (some t, s) => (t, s)
  | (none, s) => match access? s id with
    | some a => (.done (v a), s)
    | none => (.gone, s)

/-- Can a lane be read at once: its page translates for reading, or its words are present? -/
def laneReady (f : Firing) (sp : Sp) (va n : Nat) (s : State) : Bool :=
  match sp with
  | .g | .l => match translate s f.core (spaceOf s f) va .read with | .ok _ _ _ => true | _ => false
  | _ => match padOf f 0 sp va n s with
    | (.ok t, _) => (firstAbsent s t.1 t.2 n).isNone
    | _ => false

/-- Reads a run of bytes in any of the four spaces. -/
def readRun (f : Firing) (sp : Sp) (va n : Nat) (s : State) : Part (List Byte) :=
  match sp with
  | .g => loadRange f 2 false va n s
  | .l => loadRange f 2 true va n s
  | _ => thenDo (padOf f 2 sp va n s) (fun t s => thenDo (needWords t.1 t.2 n s) (fun _ s => good (padBytes s t.1 t.2 n) s))

/-! ## Gather and scatter (R366 to R369) -/

/-- GATHER. (DEDUCED, log 32) -/
def doGather (a : Access) (n : Node) (sp : Sp) (sx : Bool) (s : State) : Try × State :=
  let w := tyBits n.ty
  let base := a.a.toNat % 2 ^ 64
  if base % (w / 8) ≠ 0 then finish (misaligned a.f base s)
  else
    let at_ (i : Nat) : Option Nat := (laneIndex sx a.b.toNat i).map (laneAddr base (w / 8))
    laneEnd a.id (fun a => a.result.toNat) (readLanes a.id w
      (fun i s => match at_ i with | some va => laneReady a.f sp va (w / 8) s | none => true)
      (fun i s => match at_ i with
        | none => good 0 s
        | some va => thenDo (readRun a.f sp va (w / 8) s) (fun l s => good (ofBytes l) s))
      (undelivered a (256 / w)) none s)

/-- SCATTER: each lane's store in its space. (DEDUCED, log 32) -/
def doScatter (a : Access) (n : Node) (sp : Sp) (sx : Bool) (s : State) : Try × State :=
  let w := tyBits n.ty
  let base := a.a.toNat % 2 ^ 64
  if base % (w / 8) ≠ 0 then finish (misaligned a.f base s)
  else laneEnd a.id (fun _ => 0) (writeLanes a.id (fun i s =>
    match laneIndex sx a.b.toNat i with
    | none => good 0 s
    | some k =>
      let va := laneAddr base (w / 8) k
      let data := toBytes (w / 8) (a.c.toNat / 2 ^ (w * i))
      match sp with
      | .g => thenDo (storeG a.f 2 false va data s) (fun _ s => good 0 s)
      | .l => thenDo (storeG a.f 2 true va data s) (fun _ s => good 0 s)
      | _ => thenDo (padOf a.f 2 sp va (w / 8) s) (fun t s => good 0 (padWrite t.1 t.2 data s)))
    (undelivered a (256 / w)) s)

/-- SCATADD: each lane is one AADD, or one AFADD for F32, at the node's scope. -/
def doScatadd (a : Access) (n : Node) (sp : Sp) (sx : Bool) (m : MemFlags) (s : State) : Try × State :=
  let w := tyBits n.ty
  let base := a.a.toNat % 2 ^ 64
  if base % (w / 8) ≠ 0 then finish (misaligned a.f base s)
  else laneEnd a.id (fun _ => 0) (writeLanes a.id (fun i s =>
    match laneIndex sx a.b.toNat i with
    | none => good 0 s
    | some k =>
      let va := laneAddr base (w / 8) k
      let v := a.c.toNat / 2 ^ (w * i) % 2 ^ w
      let g (old : Nat) : Nat := if n.ty = .f32 then addF32 old v else (old + v) % 2 ^ w
      match doAtomic { a with a := BitVec.ofNat 256 va } sp m (w / 8) g s with
      | (.done v, s) => good v s
      | (t, s) => stop t s)
    (undelivered a (256 / w)) s)

/-- The rows of a GATHERT that are still to be read. -/
def gatherRows (a : Access) (h : Head) (sp : Sp) (sx : Bool) (s : State) : Option Try × State :=
  let len := imageElems h + imageScales h
  let at_ (i : Nat) : Option Nat :=
    (laneIndex sx a.b.toNat i).map (laneAddr (a.a.toNat % 2 ^ 64) (tileDesc (a.c.toNat % 2 ^ 64)).stride)
  let put (i : Nat) (l : List Byte) (s : State) : State :=
    modAccess a.id (fun x => { x with got := (padTo (i * len) x.got) ++ l ++ x.got.drop ((i + 1) * len) }) s
  readLanes a.id 0
    (fun i s => match at_ i with | some va => laneReady a.f sp va len s | none => true)
    (fun i s => match at_ i with
      | none => good 0 (put i (List.replicate len 0) s)
      | some va =>
        if va % 32 ≠ 0 then misaligned a.f va s
        else thenDo (readRun a.f sp va len s) (fun l s => good 0 (put i l s)))
    (undelivered a 8) none s

/-- GATHERT: an 8-row packet of memory-image rows, null lanes as zero rows. -/
def doGathert (a : Access) (n : Node) (sp : Sp) (sx : Bool) (sc : ScaleKind) (s : State) : Try × State :=
  let base := a.a.toNat % 2 ^ 64
  let d := tileDesc (a.c.toNat % 2 ^ 64)
  let h : Head := { elem := n.ty, scale := sc, rows := 8, cols := d.cols }
  let len := imageElems h + imageScales h
  if d.rows ≠ 8 then formatAbort a.f s
  else if base % 32 ≠ 0 then finish (misaligned a.f base s)
  else match aligned a.f [d.toff] s with
    | (.error t, s) => (t, s)
    | (.ok _, s) =>
      match needEmpty a.f d.toff [] (spanOf h) s with
      | (.error t, s) => (t, s)
      | (.ok key, s) =>
        let r := gatherRows a h sp sx s
        match r with
        | (some t, s) => (t, s)
        | (none, s) =>
          let got := ((access? s a.id).map (·.got)).getD []
          let rows := (List.range 8).map (fun i => rowOfImage h ((got.drop (i * len)).take len))
          (.done d.toff, putPacket key d.toff { head := h, elems := rows.map (·.1), scales := rows.map (·.2) } s)

/-- A TLOAD or GATHERT that waits for its packet's place reads what it has still to read, where every byte of it can be read now (R230). -/
def captureRead (id : Nat) (s : State) : State :=
  match access? s id with
  | none => s
  | some a =>
    let idle : Bool := match a.st with | .flight | .held | .parked 0 _ _ => true | _ => false
    if !idle then s
    else match a.i with
      | .tload n sc home =>
        let d := tileDesc (a.b.toNat % 2 ^ 64)
        if !a.got.isEmpty || decide (a.a.toNat % 32 ≠ 0) then s
        else match tloadRows a d { elem := n.ty, scale := sc, rows := d.rows, cols := d.cols } home s with
          | (.ok l, t) => modAccess id (fun x => { x with got := l }) t
          | (.error _, _) => s
      | .gathert n sp sx sc _ =>
        let d := tileDesc (a.c.toNat % 2 ^ 64)
        let h : Head := { elem := n.ty, scale := sc, rows := 8, cols := d.cols }
        if d.rows ≠ 8 then s
        else match gatherRows a h sp sx s with
          | (none, t) => t
          | (some _, _) => s
      | _ => s

/-! ## Streams (R360 to R363) -/

/-- The stream that a reference names: its publisher's key and number (R360). -/
def streamRef (f : Firing) (v : Nat) (s : State) : Part (Nat × Nat) :=
  match teamOf s f with
  | none => stop .gone s
  | some m =>
    if v / 2 ^ 52 ≠ 0 ∨ v / 2 ^ 4 % 2 ^ 16 ≠ 0 then holeAt f 0 v s
    else
      let num := v / 2 ^ 20 % 2 ^ 32
      match s.teams.find? (fun t => t.launch == f.launch && t.num == num) with
      | some t => if t.retired || clusterOf t.core != clusterOf m.core then stop .gone (trapNode f 0x07 s) else good (t.key, v % 16) s
      | none => stop .gone (trapNode f 0x07 s)

/-- A stream number of the thread's own team. -/
def streamOwn (f : Firing) (v : Nat) (s : State) : Part (Nat × Nat) :=
  match teamOf s f with
  | none => stop .gone s
  | some m => if 15 < v then holeAt f 0 v s else good (m.key, v) s

def strm? (s : State) (k : Nat × Nat) : Option Strm := s.strms.find? (fun m => m.team == k.1 && m.num == k.2)

def modStrm (k : Nat × Nat) (g : Strm → Strm) (s : State) : State :=
  { s with strms := modWhere (fun m => m.team == k.1 && m.num == k.2) g s.strms }

def coreOfTeam (s : State) (key : Nat) : Nat := ((team? s key).map (·.core)).getD 0

/-- STRM.OPEN (R361, R362). -/
def doStrmOpen (a : Access) (s : State) : Try × State :=
  let minsub := a.b.toNat % 2 ^ 64
  match streamOwn a.f (a.a.toNat % 2 ^ 64) s with
  | (.error t, s) => (t, s)
  | (.ok k, s) =>
    if 8 < minsub then formatAbort a.f s
    else if (strm? s k).isSome ∨ 64 ≤ (s.strms.filter (fun m => coreOfTeam s m.team == coreOfTeam s k.1)).length then (.wait, s)
    else (.done 0, { s with strms := s.strms ++ [{ team := k.1, num := k.2, minsub := minsub, subs := [] }] })

def ringBase (v : Nat) : Nat := v % 2 ^ 20
def ringDepth (v : Nat) : Nat := v / 2 ^ 20 % 16
def ringStep (v : Nat) : Nat := 256 * (v / 2 ^ 24 % 2 ^ 12)

/-- Bytes that a ring reaches past its base; its slots hold at least a packet's head (R360). -/
def ringReach (v : Nat) : Nat := ringDepth v * ringStep v

/-- STRM.SUB (R360, R362). -/
def doStrmSub (a : Access) (s : State) : Try × State :=
  let v := a.b.toNat % 2 ^ 64
  match streamRef a.f (a.a.toNat % 2 ^ 64) s with
  | (.error t, s) => (t, s)
  | (.ok k, s) =>
    let size := ((imageOf s a.f.launch).map (·.scratch)).getD 0
    if v / 2 ^ 36 ≠ 0 ∨ ringDepth v = 0 ∨ ringStep v = 0 ∨ size < ringBase v + ringReach v then finish (holeAt a.f 0 v s)
    else match aligned a.f [ringBase v] s with
      | (.error t, s) => (t, s)
      | (.ok _, s) =>
        match strm? s k, teamOf s a.f with
        | some m, some t =>
          if 8 ≤ m.subs.length ∨ m.subs.any (·.team == t.key) then (.wait, s)
          else (.done 0, modStrm k (fun m => { m with subs := m.subs ++ [{ team := t.key, ring := BitVec.ofNat 64 v, next := 0 }] }) s)
        | _, _ => (.wait, s)

/-- The slot that a subscription's next delivery goes to. (DEDUCED, log 32) -/
def ringSlot (b : Sub) : Nat := ringBase b.ring.toNat + ringStep b.ring.toNat * (b.next % ringDepth b.ring.toNat)

/-- PUB accesses of a stream whose copies for a subscriber are still to be made, in issue order. -/
def pubsFor (s : State) (k : Nat × Nat) (sub : Nat) : List Access :=
  sortBy (·.order) (s.accesses.filter (fun a => a.st == .blocked && a.left.contains sub &&
    (match a.i with | .strmPub _ _ _ => true | _ => false) &&
    (match thread? s a.f.thread with | some t => t.team == k.1 && a.a.toNat % 2 ^ 64 == k.2 | none => false)))

/-- Has a PUB of the stream that issued before `a` not been accepted yet? Its copies come first (R362). -/
def pubAhead (s : State) (k : Nat × Nat) (a : Access) : Bool :=
  s.accesses.any (fun e => decide (e.order < a.order) && (match e.st with | .flight | .held | .parked _ _ _ => true | _ => false) &&
    (match e.i with | .strmPub _ _ _ => true | _ => false) && e.a.toNat % 2 ^ 64 == k.2 &&
    (match teamOf s e.f with | some t => t.key == k.1 | none => false))

/-- A PUB that has no copy left completes, and with CA clears its source's full bit (R362). -/
def endPub (id : Nat) (s : State) : State :=
  match access? s id with
  | some a =>
    if a.st == .blocked && a.left.isEmpty then
      match a.i, teamOf s a.f with
      | .strmPub _ _ ca, some t => modAccess id (fun x => { x with st := .done, result := x.b.setWidth 256 }) (consume t.key (a.b.toNat % 2 ^ 64) ca s)
      | _, _ => s
    else s
  | none => s

/-- STRM.PUB: the packet is checked and its copies begin (R348, R362). -/
def doStrmPub (a : Access) (ca : Bool) (s : State) : Try × State :=
  let toff := a.b.toNat % 2 ^ 64
  match streamOwn a.f (a.a.toNat % 2 ^ 64) s with
  | (.error t, s) => (t, s)
  | (.ok k, s) =>
    match strm? s k with
    | none => (.wait, s)
    | some m =>
      if m.subs.length < m.minsub then (.wait, s)
      else match (thenDo (aligned a.f [toff] s) (fun _ s => readPacket a.f .none toff none (fun _ => true) s)) with
        | (.error t, s) => (t, s)
        | (.ok p, s) =>
          if m.subs.isEmpty then (.done toff, consume k.1 toff ca s)
          else (.block, modAccess a.id (fun x => { x with left := m.subs.map (·.team), got := packetBytes p }) s)

/-- One copy of a PUB into one subscriber's next slot, once that slot is empty; a subscription that has ended drops it. (DEDUCED, log 32) -/
def copyToSub (id sub : Nat) (s : State) : State :=
  match access? s id with
  | none => s
  | some a =>
    if a.st != .blocked || !a.left.contains sub then s
    else match a.i, teamOf s a.f with
      | .strmPub _ _ _, some t =>
        let k := (t.key, a.a.toNat % 2 ^ 64)
        let gone (s : State) : State := endPub id (modAccess id (fun x => { x with left := x.left.filter (· != sub) }) s)
        match (strm? s k).bind (fun m => m.subs.find? (·.team == sub)) with
        | none => gone s
        | some b =>
          let first := match pubsFor s k sub with | e :: _ => e.id == id | [] => false
          let slot := ringSlot b
          let size := ((imageOf s a.f.launch).map (·.scratch)).getD 0
          if !first || pubAhead s k a || present s sub (slot / 8) then s
          else if size < slot + a.got.length then fatalOf a.f 0 2 slot s
          else
            let s := padWrite sub slot a.got s
            gone (modStrm k (fun m => { m with subs := modWhere (·.team == sub) (fun b => { b with next := b.next + 1 }) m.subs }) s)
      | _, _ => s

/-- STRM.CLOSE.END (R362). -/
def doCloseEnd (a : Access) (s : State) : Try × State :=
  match streamOwn a.f (a.a.toNat % 2 ^ 64) s with
  | (.error t, s) => (t, s)
  | (.ok k, s) =>
    let pending := s.accesses.any (fun e => e.st == .blocked && (match e.i with | .strmPub _ _ _ => true | _ => false) &&
      e.a.toNat % 2 ^ 64 == k.2 && (match teamOf s e.f with | some t => t.key == k.1 | none => false))
    if pending then (.wait, s) else (.done 0, { s with strms := s.strms.filter (fun m => !(m.team == k.1 && m.num == k.2)) })

/-- STRM.CLOSE.LEAVE (R362). -/
def doCloseLeave (a : Access) (s : State) : Try × State :=
  match streamRef a.f (a.a.toNat % 2 ^ 64) s with
  | (.error t, s) => (t, s)
  | (.ok k, s) =>
    match teamOf s a.f with
    | none => (.gone, s)
    | some t =>
      let pend := (pubsFor s k t.key).map (·.id)
      let s := modStrm k (fun m => { m with subs := m.subs.filter (·.team != t.key) }) s
      (.done 0, pend.foldl (fun s id => endPub id (modAccess id (fun x => { x with left := x.left.filter (· != t.key) }) s)) s)

end Sys2Proof.Machine
end

