-- ==== Sys2Proof/Machine/Crypto.lean ====
section
/-! DEFINITION. The published algorithms that the manual cites by name: SHA-512 (FIPS 180-4), HMAC and HKDF (RFC 2104, RFC 5869),
X25519 (RFC 7748), Ed25519 (RFC 8032) and AES-256 in Galois counter mode (FIPS 197, SP 800-38D), for R42, R43 and R58 to R60. (PRESUMED, log 6) -/

namespace Sys2Proof.Machine

/-! ## SHA-512 -/

/-- The value of bytes, highest byte first, as these standards number them. -/
def ofBytesBE (l : List Byte) : Nat := l.foldl (fun n b => 256 * n + b.toNat) 0

/-- The `n` bytes of a value, highest byte first. -/
def toBytesBE (n v : Nat) : List Byte := (toBytes n v).reverse

/-- The 80 round constants. -/
def shaRound : List Word64 :=
  [0x428A2F98D728AE22, 0x7137449123EF65CD, 0xB5C0FBCFEC4D3B2F, 0xE9B5DBA58189DBBC,
   0x3956C25BF348B538, 0x59F111F1B605D019, 0x923F82A4AF194F9B, 0xAB1C5ED5DA6D8118,
   0xD807AA98A3030242, 0x12835B0145706FBE, 0x243185BE4EE4B28C, 0x550C7DC3D5FFB4E2,
   0x72BE5D74F27B896F, 0x80DEB1FE3B1696B1, 0x9BDC06A725C71235, 0xC19BF174CF692694,
   0xE49B69C19EF14AD2, 0xEFBE4786384F25E3, 0x0FC19DC68B8CD5B5, 0x240CA1CC77AC9C65] ++
  [0x2DE92C6F592B0275, 0x4A7484AA6EA6E483, 0x5CB0A9DCBD41FBD4, 0x76F988DA831153B5,
   0x983E5152EE66DFAB, 0xA831C66D2DB43210, 0xB00327C898FB213F, 0xBF597FC7BEEF0EE4,
   0xC6E00BF33DA88FC2, 0xD5A79147930AA725, 0x06CA6351E003826F, 0x142929670A0E6E70,
   0x27B70A8546D22FFC, 0x2E1B21385C26C926, 0x4D2C6DFC5AC42AED, 0x53380D139D95B3DF,
   0x650A73548BAF63DE, 0x766A0ABB3C77B2A8, 0x81C2C92E47EDAEE6, 0x92722C851482353B] ++
  [0xA2BFE8A14CF10364, 0xA81A664BBC423001, 0xC24B8B70D0F89791, 0xC76C51A30654BE30,
   0xD192E819D6EF5218, 0xD69906245565A910, 0xF40E35855771202A, 0x106AA07032BBD1B8,
   0x19A4C116B8D2D0C8, 0x1E376C085141AB53, 0x2748774CDF8EEB99, 0x34B0BCB5E19B48A8,
   0x391C0CB3C5C95A63, 0x4ED8AA4AE3418ACB, 0x5B9CCA4F7763E373, 0x682E6FF3D6B2B8A3,
   0x748F82EE5DEFB2FC, 0x78A5636F43172F60, 0x84C87814A1F0AB72, 0x8CC702081A6439EC] ++
  [0x90BEFFFA23631E28, 0xA4506CEBDE82BDE9, 0xBEF9A3F7B2C67915, 0xC67178F2E372532B,
   0xCA273ECEEA26619C, 0xD186B8C721C0C207, 0xEADA7DD6CDE0EB1E, 0xF57D4F7FEE6ED178,
   0x06F067AA72176FBA, 0x0A637DC5A2C898A6, 0x113F9804BEF90DAE, 0x1B710B35131C471B,
   0x28DB77F523047D84, 0x32CAAB7B40C72493, 0x3C9EBE0A15C9BEBC, 0x431D67C49C100D4C,
   0x4CC5D4BECB3E42B6, 0x597F299CFC657E2A, 0x5FCB6FAB3AD6FAEC, 0x6C44198C4A475817]

/-- The initial hash value. -/
def shaInit : List Word64 :=
  [0x6A09E667F3BCC908, 0xBB67AE8584CAA73B, 0x3C6EF372FE94F82B, 0xA54FF53A5F1D36F1,
   0x510E527FADE682D1, 0x9B05688C2B3E6C1F, 0x1F83D9ABFB41BD6B, 0x5BE0CD19137E2179]

/-- A message with its padding and its length in bits. -/
def shaPad (m : List Byte) : List Byte :=
  m ++ [0x80] ++ List.replicate ((239 - m.length % 128) % 128) 0 ++ toBytesBE 16 (8 * m.length)

/-- The next word of the message schedule, from the last sixteen, newest first. -/
def shaNext (w : List Word64) : Word64 :=
  let x := w.getD 14 0
  let y := w.getD 1 0
  (y.rotateRight 19 ^^^ y.rotateRight 61 ^^^ y >>> 6) + w.getD 6 0 +
  (x.rotateRight 1 ^^^ x.rotateRight 8 ^^^ x >>> 7) + w.getD 15 0

/-- One round on the eight working variables. -/
def shaStep (v : List Word64) (kw : Word64) : List Word64 :=
  match v with
  | [a, b, c, d, e, f, g, h] =>
    let t1 := h + (e.rotateRight 14 ^^^ e.rotateRight 18 ^^^ e.rotateRight 41) + ((e &&& f) ^^^ (~~~e &&& g)) + kw
    let t2 := (a.rotateRight 28 ^^^ a.rotateRight 34 ^^^ a.rotateRight 39) + ((a &&& b) ^^^ (a &&& c) ^^^ (b &&& c))
    [t1 + t2, a, b, c, d + t1, e, f, g]
  | _ => v

/-- One block of 128 bytes. -/
def shaBlock (h : List Word64) (b : List Byte) : List Word64 :=
  let first := (List.range 16).map (fun i => BitVec.ofNat 64 (ofBytesBE ((b.drop (8 * i)).take 8)))
  let words := (List.range 64).foldl (fun w _ => shaNext (w.take 16) :: w) first.reverse
  let out := (words.reverse.zip shaRound).foldl (fun v e => shaStep v (e.1 + e.2)) h
  (h.zip out).map (fun e => e.1 + e.2)

/-- The digest's bytes. -/
def shaBytes (m : List Byte) : List Byte :=
  let p := shaPad m
  ((List.range (p.length / 128)).foldl (fun h i => shaBlock h ((p.drop (128 * i)).take 128)) shaInit).flatMap (fun w => toBytesBE 8 w.toNat)

/-- SHA-512 (R42, R46, R58 to R60): the digest, its first byte in bits [7:0] (R5). -/
def sha512 (m : List Byte) : BitVec 512 := BitVec.ofNat 512 (ofBytes (shaBytes m))

/-! ## HMAC and HKDF -/

/-- HMAC-SHA-512 of a key and a text. -/
def hmac (key text : List Byte) : List Byte :=
  let k := padTo 128 (if 128 < key.length then shaBytes key else key)
  shaBytes (k.map (· ^^^ 0x5C) ++ shaBytes (k.map (· ^^^ 0x36) ++ text))

/-- The output blocks of HKDF's expand step, from the `i`-th on. -/
def hkdfBlocks (prk info : List Byte) : Nat → Nat → List Byte → List Byte
  | 0, _, _ => []
  | fuel + 1, i, last =>
    let t := hmac prk (last ++ info ++ toBytes 1 i)
    t ++ hkdfBlocks prk info fuel (i + 1) t

/-- HKDF-SHA-512 of input key, salt, info and output length (R42, R60). -/
def hkdf (key salt info : List Byte) (n : Nat) : List Byte := (hkdfBlocks (hmac salt key) info ((n + 63) / 64) 1 []).take n

/-! ## The field of 2^255 − 19 -/

def fieldP : Nat := 2 ^ 255 - 19

def fMul (a b : Nat) : Nat := a * b % fieldP
def fAdd (a b : Nat) : Nat := (a + b) % fieldP
def fSub (a b : Nat) : Nat := (a + (fieldP - b % fieldP)) % fieldP

/-- `a` to the power of a number below 2^256. -/
def fPow (a e : Nat) : Nat :=
  ((List.range 256).foldl (fun (r, x) i => (if e.testBit i then fMul r x else r, fMul x x)) (1, a % fieldP)).1

def fInv (a : Nat) : Nat := fPow a (fieldP - 2)

/-! ## X25519 -/

/-- The scalar of a secret's 32 bytes. -/
def clamp (k : List Byte) : Nat := ofBytes (padTo 32 k) % 2 ^ 254 / 8 * 8 + 2 ^ 254

/-- One step of the ladder, for bit `i` of the scalar, on x2, z2, x3, z3. -/
def ladderStep (k x1 : Nat) (v : Nat × Nat × Nat × Nat) (i : Nat) : Nat × Nat × Nat × Nat :=
  let sw := k.testBit i
  let (x2, z2, x3, z3) := if sw then (v.2.2.1, v.2.2.2, v.1, v.2.1) else v
  let a := fAdd x2 z2
  let b := fSub x2 z2
  let e := fSub (fMul a a) (fMul b b)
  let da := fMul (fSub x3 z3) a
  let cb := fMul (fAdd x3 z3) b
  let y := (fMul (fMul a a) (fMul b b), fMul e (fAdd (fMul a a) (fMul 121665 e)))
  let z := (fMul (fAdd da cb) (fAdd da cb), fMul x1 (fMul (fSub da cb) (fSub da cb)))
  if sw then (z.1, z.2, y.1, y.2) else (y.1, y.2, z.1, z.2)

/-- X25519 of a secret and a public key: the shared secret (R42). -/
def x25519 (secret pub : List Byte) : List Byte :=
  let u := ofBytes (padTo 32 pub) % 2 ^ 255 % fieldP
  let v := ((List.range 255).reverse).foldl (ladderStep (clamp secret) u) (1, 0, u, 1)
  toBytes 32 (fMul v.1 (fInv v.2.1))

/-- The public key of a secret. -/
def x25519Public (secret : List Byte) : List Byte := x25519 secret (toBytes 32 9)

/-! ## Ed25519 -/

/-- A point of the curve in extended coordinates. -/
structure EdPoint where
  x : Nat
  y : Nat
  z : Nat
  t : Nat
  deriving DecidableEq, Repr

def edD : Nat := fMul (fSub 0 121665) (fInv 121666)
def edOrder : Nat := 2 ^ 252 + 27742317777372353535851937790883648493
def edZero : EdPoint := { x := 0, y := 1, z := 1, t := 0 }

def edAdd (p q : EdPoint) : EdPoint :=
  let a := fMul (fSub p.y p.x) (fSub q.y q.x)
  let b := fMul (fAdd p.y p.x) (fAdd q.y q.x)
  let c := fMul (fMul 2 edD) (fMul p.t q.t)
  let d := fMul 2 (fMul p.z q.z)
  { x := fMul (fSub b a) (fSub d c), y := fMul (fAdd d c) (fAdd b a), z := fMul (fSub d c) (fAdd d c), t := fMul (fSub b a) (fAdd b a) }

/-- A multiple of a point by a number below 2^256. -/
def edMul (k : Nat) (p : EdPoint) : EdPoint :=
  ((List.range 256).foldl (fun (r, q) i => (if k.testBit i then edAdd r q else r, edAdd q q)) (edZero, p)).1

/-- The encoding of a point: y, with the lowest bit of x on top. -/
def edEncode (p : EdPoint) : List Byte :=
  let i := fInv p.z
  toBytes 32 (fMul p.y i + fMul p.x i % 2 * 2 ^ 255)

/-- The point that 32 bytes encode, if they do. -/
def edDecode (b : List Byte) : Option EdPoint :=
  let v := ofBytes (padTo 32 b)
  let y := v % 2 ^ 255
  let sign := v / 2 ^ 255
  let w := fMul (fSub (fMul y y) 1) (fInv (fAdd (fMul edD (fMul y y)) 1))
  let r := fPow w ((fieldP + 3) / 8)
  let x := if fMul r r = w then r else fMul r (fPow 2 ((fieldP - 1) / 4))
  if fieldP ≤ y ∨ fMul x x ≠ w ∨ (x = 0 ∧ sign = 1) then none
  else
    let x := if x % 2 = sign then x else fieldP - x
    some { x := x, y := y, z := 1, t := fMul x y }

/-- The base point. -/
def edBase : EdPoint := (edDecode (toBytes 32 (fMul 4 (fInv 5)))).getD edZero

def edScalar (secret : List Byte) : Nat := clamp ((shaBytes secret).take 32)

/-- The public key of a secret (R60). -/
def ed25519Public (secret : List Byte) : List Byte := edEncode (edMul (edScalar secret) edBase)

/-- The signature of a digest as a message of 64 bytes (R42, R60). -/
def ed25519Sign (secret : List Byte) (digest : BitVec 512) : List Byte :=
  let m := toBytes 64 digest.toNat
  let pub := ed25519Public secret
  let r := ofBytes (shaBytes ((shaBytes secret).drop 32 ++ m)) % edOrder
  let big := edEncode (edMul r edBase)
  let k := ofBytes (shaBytes (big ++ pub ++ m)) % edOrder
  big ++ toBytes 32 ((r + k * edScalar secret) % edOrder)

/-- Is a signature of a digest valid under a public key (R42, R58)? -/
def ed25519Verify (pub : List Byte) (digest : BitVec 512) (sig : List Byte) : Bool :=
  let s := ofBytes ((padTo 64 sig).drop 32)
  match edDecode pub, edDecode ((padTo 64 sig).take 32) with
  | some a, some r =>
    let k := ofBytes (shaBytes ((padTo 64 sig).take 32 ++ padTo 32 pub ++ toBytes 64 digest.toNat)) % edOrder
    decide (s < edOrder) && edEncode (edMul s edBase) == edEncode (edAdd r (edMul k a))
  | _, _ => false

/-! ## AES-256 -/

/-- Multiplication in the field of AES. -/
def aesMul (a b : Nat) : Nat :=
  ((List.range 8).foldl (fun (r, x) i => (if b.testBit i then r ^^^ x else r, if x.testBit 7 then (2 * x ^^^ 0x11B) else 2 * x)) (0, a)).1

/-- The substitution box. -/
def aesSub (b : Byte) : Byte :=
  let x2 := aesMul b.toNat b.toNat
  let inv := (List.range 6).foldl (fun (r, x) _ => let y := aesMul x x; (aesMul r y, y)) (x2, x2)
  let v := BitVec.ofNat 8 inv.1
  v ^^^ v.rotateLeft 1 ^^^ v.rotateLeft 2 ^^^ v.rotateLeft 3 ^^^ v.rotateLeft 4 ^^^ 0x63

def xorBytes (a b : List Byte) : List Byte := (a.zip b).map (fun e => e.1 ^^^ e.2)

/-- The 60 words of the key schedule. -/
def aesKeys (key : List Byte) : List (List Byte) :=
  let first := (List.range 8).map (fun i => (padTo 32 key |>.drop (4 * i)).take 4)
  ((List.range 52).foldl (fun (w : List (List Byte)) j =>
    let i := j + 8
    let t := w.getD 0 []
    let t := if i % 8 = 0 then xorBytes ((t.drop 1 ++ t.take 1).map aesSub) [BitVec.ofNat 8 (2 ^ (i / 8 - 1)), 0, 0, 0]
      else if i % 8 = 4 then t.map aesSub else t
    xorBytes (w.getD 7 []) t :: w) first.reverse).reverse

/-- ShiftRows, on the sixteen bytes in column order. -/
def aesShift (b : List Byte) : List Byte := (List.range 16).map (fun i => b.getD ((i + 4 * (i % 4)) % 16) 0)

/-- MixColumns. -/
def aesMix (b : List Byte) : List Byte :=
  (List.range 16).map (fun i =>
    let c (k : Nat) : Nat := (b.getD (i / 4 * 4 + (i + k) % 4) 0).toNat
    BitVec.ofNat 8 (aesMul (c 0) 2 ^^^ aesMul (c 1) 3 ^^^ c 2 ^^^ c 3))

/-- AES-256 of one block. -/
def aes256 (keys : List (List Byte)) (b : List Byte) : List Byte :=
  let rk (n : Nat) : List Byte := ((keys.drop (4 * n)).take 4).flatten
  let mid := (List.range 13).foldl (fun b n => xorBytes (aesMix (aesShift (b.map aesSub))) (rk (n + 1))) (xorBytes b (rk 0))
  xorBytes (aesShift (mid.map aesSub)) (rk 14)

/-! ## Galois counter mode -/

/-- Multiplication in the field of GCM, its bits numbered from the top. -/
def gcmMul (x y : Nat) : Nat :=
  ((List.range 128).foldl (fun (z, v) i =>
    (if x.testBit (127 - i) then z ^^^ v else z, if v.testBit 0 then v / 2 ^^^ (0xE1 * 2 ^ 120) else v / 2)) (0, y)).1

/-- A byte string padded with zeros to whole blocks. -/
def padBlocks (l : List Byte) : List Byte := padTo (roundUp l.length 16) l

def ghash (h : Nat) (l : List Byte) : Nat :=
  (List.range (l.length / 16)).foldl (fun y i => gcmMul (y ^^^ ofBytesBE ((l.drop (16 * i)).take 16)) h) 0

/-- The text under the counter stream that begins at block 2. -/
def gcmCrypt (keys : List (List Byte)) (nonce text : List Byte) : List Byte :=
  xorBytes text ((List.range ((text.length + 15) / 16)).flatMap (fun i => aes256 keys (nonce ++ toBytesBE 4 (i + 2))))

def gcmTag (keys : List (List Byte)) (nonce aad ct : List Byte) : List Byte :=
  let h := ofBytesBE (aes256 keys (List.replicate 16 0))
  let s := ghash h (padBlocks aad ++ padBlocks ct ++ toBytesBE 8 (8 * aad.length) ++ toBytesBE 8 (8 * ct.length))
  xorBytes (toBytesBE 16 s) (aes256 keys (nonce ++ toBytesBE 4 1))

/-- The ciphertext and its tag, from key, 96-bit nonce, additional data and text (R43). -/
def gcmSeal (key nonce aad text : List Byte) : List Byte :=
  let keys := aesKeys key
  let ct := gcmCrypt keys nonce text
  ct ++ gcmTag keys nonce aad ct

/-- The text of a ciphertext whose tag verifies (R43). -/
def gcmOpen (key nonce aad sealed : List Byte) : Option (List Byte) :=
  let keys := aesKeys key
  let ct := sealed.take (sealed.length - 16)
  if sealed.length < 16 ∨ gcmTag keys nonce aad ct ≠ sealed.drop (sealed.length - 16) then none else some (gcmCrypt keys nonce ct)

end Sys2Proof.Machine
end

