-- ==== Sys2Proof/Machine/Start.lean ====
section
/-! DEFINITION. Starting, stopping and freezing the device, the governor, and attestation (R20 to R26, R52 to R66). -/

namespace Sys2Proof.Machine

/-! ## Temperatures, governor, alerts (R20 to R24) -/

/-- What the temperature monitor sees, which runs in every state of the device (R20, R24, R62, R66): TEMP_MAX and CAUSE_THERMAL
follow, and a die that comes to 105 °C sets HOT and raises its alert (R65). "Any die" is any of the four compute dies, as TEMP_MAX has it;
the I/O die and the SRAM dies do not count. (DESIGN CHOICE, log 45) -/
def setTemps (temps : List Nat) (s : State) : State :=
  let t : State :=
    { s with boot := { s.boot with dieTemps := temps }
             gov := { s.gov with tempMax := temps.foldl Nat.max 0, causeThermal := temps.any (fun t => decide (95 ≤ t)) } }
  if (temps.zip s.boot.dieTemps).any (fun e => decide (105 ≤ e.1 ∧ e.2 < 105)) then
    raiseAlert 2 { t with gov := { t.gov with hot := true } }
  else t

/-- The duty of R20: of the rows that apply, the lowest result. -/
def nextDuty (limit power duty : Nat) (temps : List Nat) : Nat :=
  let a := if limit < power ∨ temps.any (fun t => decide (95 ≤ t)) then Nat.max 8 (duty - 8) else 64
  let b := if power + 25 ≤ limit ∧ temps.all (fun t => decide (t < 90)) then Nat.min 64 (duty + 1) else 64
  let c := if temps.any (fun t => decide (105 ≤ t)) then 8 else 64
  let none_ := !(decide (limit < power) || temps.any (fun t => decide (95 ≤ t))) &&
    !(decide (power + 25 ≤ limit) && temps.all (fun t => decide (t < 90))) && !temps.any (fun t => decide (105 ≤ t))
  if none_ then duty else Nat.min a (Nat.min b c)

/-- GOVERNOR_SAMPLE (R20, R23): sampling is suspended during a freeze and ends with a trip, while the temperatures are still seen
(R62, R66). (DESIGN CHOICE, log 45) -/
def execGovernorSample (power : Nat) (temps : List Nat) (s : State) : Out :=
  .next (if frozen s || s.boot.tripped then setTemps temps s else
    let g := s.gov
    let limit := g.limit.toNat
    let cool := decide (power + 25 ≤ limit) && temps.all (fun t => decide (t < 90))
    let hold := g.causePower && !cool
    let duty := if hold then 8 else nextDuty limit power g.duty temps
    let above := if g.duty = 8 ∧ limit < power then g.overFor + 1 else 0
    setTemps temps { s with gov := { g with power := power, peak := Nat.max g.peak power, duty := duty,
                                            causePower := hold, overFor := above } })

/-- POWER_HOLD: power has stayed above the limit at DUTY 8 for 1 ms, which is 100 samples (R23). -/
def execPowerHold (s : State) : Out :=
  .next (if s.gov.duty = 8 ∧ 100 ≤ s.gov.overFor ∧ !s.gov.causePower ∧ !frozen s then
    raiseAlert 1 { s with gov := { s.gov with causePower := true } } else s)

/-- HOT: a die reaches 105 °C (R20, R24, R65). -/
def execHot (die : Fin 4) (temp : Nat) (s : State) : Out :=
  .next (if 105 ≤ temp then
    raiseAlert 2 (setTemps (s.boot.dieTemps.set die.val temp) { s with gov := { s.gov with hot := true } }) else s)

/-! ## Ending every transaction (R57, R26) -/

/-- Writes the completion words of the launches whose commit has finished, once the log is drained. -/
def finishWords (s : State) : State :=
  let s := (s.skim.lines.filter (fun l => match tag? s l.vt with | some g => g.st == .draining | none => false)).foldl
    (fun s l => evLineDrain l.vt l.line s) s
  s.skim.words.foldl (fun s id => evCompletionWord id s) s

/-- Steps 1 and 2 of R57: a COMMITTING transaction completes steps 1 to 6 of its commit and its word is
written; every other ends without a word and its lines and records are discarded. -/
def endTransactions (s : State) : State :=
  let s := (List.finRange 4).foldl (fun s d => evCommitWalk d s) s
  let s := evCommitFlip s
  let s := (List.range s.skim.releasing.length).foldl (fun s _ => evCommitRelease s) s
  finishWords s

/-- The drain of step 3 of R57: every performed value of HBM4-homed memory reaches its stack. -/
def drainHbm (s : State) : State :=
  let keys := (s.mem.rsb.map (fun e => (e.1 / 2 ^ 52, e.1 % 2 ^ 52 / 128))).eraseDups
  let s := keys.foldl (fun s k => rsbDrain k.1 k.2 s) s
  let s := ((s.mem.dirty.map (fun e => e.1 / 128)).eraseDups).foldl (fun s l => writeBack l s) s
  { s with mem := { s.mem with home := s.mem.home.filter (fun e => decide (e.1 < 0xC000000000)) } }

/-- Everything a start resets: the whole state but what lies outside the device or on VMGT (R56). (DEDUCED, log 22) -/
def startFrom (s : State) (warm : Bool) (stage : Nat) : State :=
  { State.reset with
    boot := { Boot.reset with
      stage := stage, warmStart := warm, preserve := s.boot.preserve, carve := s.boot.carve, frozenPin := s.boot.frozenPin,
      i3cAddr := s.boot.i3cAddr, trained := s.boot.trained, dieTemps := s.boot.dieTemps, stackTemps := s.boot.stackTemps,
      selfRefresh := warm }
    gov := { Gov.reset with tempMax := s.gov.tempMax, causeThermal := s.gov.causeThermal }
    kamub := { State.reset.kamub with backed := s.kamub.backed }
    mem := { Mem.reset with home := s.mem.home, comp := s.mem.comp, bad := s.mem.bad }
    cycles := s.cycles, half := s.half, nextId := s.nextId, freeCtr := s.freeCtr, turns := s.turns
    outputs := s.outputs ++ (if alertRaised s then [.alert false] else []) }

/-- POWER_ON: the application of VMGT resets PRESERVE and CARVE too and begins a cold start at stage 0 (R56). -/
def execPowerOn (s : State) : Out :=
  .next (startFrom { s with boot := { s.boot with preserve := false, carve := 0, i3cAddr := none,
                                                  trained := List.replicate 12 none } } false 0)

/-- The stage that a written start begins at: STAGE 1 where launches run (R57), else the first row of R53. (DEDUCED, log 22) -/
def firstStage (s : State) : Nat := if s.launches.isEmpty then 0 else 1

/-- What a write of COLD begins (R54, R56, R57). (DEDUCED, log 22) -/
def coldStart (s : State) : State := startFrom (endTransactions s) false (firstStage s)

/-- COLD (R56, R57); the word's other fields are stored first. -/
def execCold (d : Word32) (s : State) : Out := .next (coldStart (regWrite 4 d s))

/-- WARM: as COLD, but the stacks keep what has been performed and enter self-refresh. COLD wins over WARM, and the
failed state leaves only by COLD, so that WARM does nothing there (R54, R57, R65). (DEDUCED, log 22) -/
def execWarm (d : Word32) (s : State) : Out :=
  .next (
    let s := regWrite 4 d s
    if d.getLsbD 0 then coldStart s
    else if s.boot.failed then s
    else startFrom (drainHbm (endTransactions s)) true (firstStage s))

/-- THERMAL_TRIP: commits finish, HBM4 drains and enters self-refresh, VCORE goes, and the device waits for a
start; a freeze ends (R26, R62, R66). The registers that R66 does not keep take their reset values at the trip, and bytes that the
companion has modified in its own copy of a line are not called back. (DEDUCED, log 48) The companion's requests that the freeze has held in
the I/O die are dropped without an answer, at a trip as at a start. (DESIGN CHOICE, log 52) -/
def execThermalTrip (die : Fin 4) (temp : Nat) (s : State) : Out :=
  .next (if temp < 110 ∨ s.boot.tripped then s else
    let s := setTemps (s.boot.dieTemps.set die.val temp) s
    let s := drainHbm (endTransactions s)
    let t := { State.reset with
      boot := { s.boot with tripped := true, selfRefresh := true, vcore := false, released := false, frozenCmd := false,
                            frozenPin := false }
      gov := s.gov, merr := s.merr, kamub := { s.kamub with copies := [], held := [] }, eth := s.eth
      mem := { Mem.reset with home := s.mem.home, comp := s.mem.comp, bad := s.mem.bad }
      cycles := s.cycles, half := s.half, nextId := s.nextId, freeCtr := s.freeCtr, turns := s.turns, outputs := s.outputs }
    raiseAlert 3 t)

/-! ## The stages (R53 to R59) -/

/-- The failed state (R54). -/
def bootFail (code unit_ : Nat) (s : State) : State :=
  raiseAlert 0 { s with boot := { s.boot with failed := true, code := code, unit_ := unit_, vcore := false } }

/-- Is this stage the one in progress? The stages that need the memory domain or the compute dies wait while FROZEN holds
(R61). (DEDUCED, log 48) -/
def inStage (s : State) (n : Nat) : Bool :=
  s.boot.stage == n && !s.boot.failed && !s.boot.tripped && !(frozen s && decide (4 ≤ n))

/-- A stage begins; stage 4 reads PRESERVE and stage 7 reads CARVE as it does (R56). -/
def toStage (n : Nat) (s : State) : State :=
  { s with boot := { s.boot with
      stage := n, stageAge := 0
      preserveNow := if n = 4 then s.boot.preserve else s.boot.preserveNow
      carveNow := if n = 7 then s.boot.carve else s.boot.carveNow } }

/-- The bytes of a measurement register, in ascending order. -/
def measBytes (m : BitVec 512) : List Byte := toBytes 64 m.toNat

/-- An extend with a digest: m becomes SHA-512(m ‖ d) (R59). (DEDUCED, log 22) -/
def extendMeas (i : Nat) (d : List Byte) (s : State) : State :=
  { s with boot := { s.boot with meas := listMod s.boot.meas i (fun m => sha512 (measBytes m ++ d)) } }

/-- ROM: the boot ROM runs with the measurement registers zero (R53, R59). -/
def execRom (s : State) : Out :=
  .next (if inStage s 0 then toStage 1 { s with boot := { s.boot with meas := List.replicate 8 0 } } else s)

/-- The first of the four checks of R58 that an image fails. -/
def imageCode (m : FwImage) : Option Nat :=
  let signer := (m.header.drop 160).take 32
  if (measBytes (sha512 signer)).take 32 ≠ Config.fusedRootHash then some 1
  else if !ed25519Verify signer (sha512 (m.header.take 96)) ((m.header.drop 96).take 64) then some 2
  else if measBytes (sha512 (m.body.take (field m.header 20 4))) ≠ (m.header.drop 32).take 64 then some 3
  else if field m.header 16 4 < Config.fusedMinSvn then some 4
  else none

/-- Takes an accepted image: its revision and version, and MEAS_A (R58, R59). (DEDUCED, log 22) -/
def acceptImage (m : FwImage) (b : Bool) (s : State) : State :=
  let secret := hkdf Config.fusedSecret [] ("HF7160-ID-1".toList.map (fun c => BitVec.ofNat 8 c.toNat)) 32
  let s := { s with boot := { s.boot with imageB := b, fwrev := BitVec.ofNat 64 (field m.header 8 8),
                                          svn := w32 (field m.header 16 4), identity := secret } }
  toStage 2 (extendMeas 0 (measBytes (sha512 (m.header.take 96))) s)

/-- IMAGE: slot A, then slot B; both failing fails the start with slot B's code (R55, R58). -/
def execImage (a b : FwImage) (s : State) : Out :=
  .next (if !inStage s 1 then s else
    match imageCode a with
    | none => acceptImage a false s
    | some _ =>
      match imageCode b with
      | none => acceptImage b true s
      | some c => bootFail c 1 { s with boot := { s.boot with imageB := true } })

/-- FUSE (R53, R54); the firmware extends MEAS_B with the fuse configuration, of which the digest is SHA-512 (R59). (DEDUCED, log 22) -/
def execFuse (ecc : Bool) (differs : Option (Fin 4)) (s : State) : Out :=
  .next (if !inStage s 2 then s
    else if ecc then bootFail 0x10 0 s
    else match differs with
      | some d => bootFail 0x11 d.val s
      | none => toStage 3 (extendMeas 1 (measBytes (sha512 Config.fuseConfig)) s))

/-- RAILS: at a warm start the stage waits until every die is below 90 °C (R53, R56). -/
def execRails (bad : Option (Fin 6)) (temps : List Nat) (s : State) : Out :=
  .next (if !inStage s 3 then s
    else match bad with
      | some r => bootFail 0x20 r.val s
      | none =>
        let s := setTemps temps s
        if s.boot.warmStart && temps.any (fun t => decide (90 ≤ t)) then s
        else toStage 4 { s with boot := { s.boot with vcore := true } })

/-- RAILS_TIMEOUT: the dies have not cooled within 10 s, which are 7 × 10^9 fabric cycles (R6, R56, R66). -/
def execRailsTimeout (die : Fin 4) (s : State) : Out :=
  .next (if inStage s 3 && s.boot.warmStart && decide (90 ≤ s.boot.dieTemps.getD die.val 0) && decide (7000000000 ≤ s.boot.stageAge)
    then bootFail 0x21 die.val s else s)

/-- Must a stack be trained again (R56)? -/
def retrain (s : State) (temps : List Nat) (n : Nat) : Bool :=
  !s.boot.warmStart ||
  (match s.boot.trained.getD n none with
   | none => true
   | some t => decide (10 < (temps.getD n 0) - t) || decide (10 < t - (temps.getD n 0)))

/-- HBM: trains every stack at a cold start, and the stacks that need it at a warm start; with PRESERVE the
others are kept (R53, R56). -/
def execHbm (failed : Option (Fin 12)) (temps : List Nat) (s : State) : Out :=
  .next (if !inStage s 4 then s
    else match failed with
      | some n => if retrain s temps n.val then bootFail 0x30 n.val s else s
      | none =>
        let kept := ((List.range 12).map (fun n =>
          boolBit (s.boot.warmStart && s.boot.preserveNow && !retrain s temps n) n)).sum
        let trained := (List.range 12).map (fun n =>
          if retrain s temps n then some (temps.getD n 0) else s.boot.trained.getD n none)
        toStage 5 { s with boot := { s.boot with kept := BitVec.ofNat 12 kept, trained := trained, stackTemps := temps,
                                                 selfRefresh := false } })

/-- BIST: run at a cold start only (R53, R56). -/
def execBist (llc bond : Option (Fin 4)) (s : State) : Out :=
  .next (if !inStage s 5 then s
    else if s.boot.warmStart then toStage 6 s
    else match llc, bond with
      | some d, _ => bootFail 0x40 d.val s
      | none, some d => bootFail 0x41 d.val s
      | none, none => toStage 6 s)

/-- Is the stack of an HBM4 address kept over this start? -/
def keptAddr (s : State) (pa : Nat) : Bool := decide (pa < 0xC000000000) && s.boot.kept.getLsbD (pa / 0x1000000000)

/-- FILL: zero-fills every stack that is not kept (R53, R56). -/
def execFill (bad : Option (Fin 12)) (s : State) : Out :=
  .next (if !inStage s 6 then s
    else match bad with
      | some n => if s.boot.kept.getLsbD n.val then s else bootFail 0x31 n.val s
      | none => toStage 7 { s with mem := { s.mem with home := s.mem.home.filter (fun e => keptAddr s e.1),
                                                       bad := s.mem.bad.filter (fun e => keptAddr s (32 * e.1)) } })

/-- INIT: on-die arrays and the carve-out are zero, the carve-out is fixed, every dirty bit is 1, and the firmware
extends MEAS_C, of which the digest is SHA-512 (R14, R39, R53, R56, R59). (DEDUCED, log 22) -/
def execInit (bad : Option (Fin 4)) (s : State) : Out :=
  .next (if !inStage s 7 then s
    else match bad with
      | some d => bootFail 0x50 d.val s
      | none =>
        let s := { s with boot := { s.boot with carved := Nat.min 8 s.boot.carveNow.toNat }
                          mem := { s.mem with home := s.mem.home.filter (fun e => decide (e.1 < 0xC000000000))
                                              dirty := [], rsb := [], copies := [], compCopies := [], clean := [] } }
        let facts := toBytes 1 (boolBit s.boot.warmStart 0) ++ toBytes 1 (boolBit s.boot.preserveNow 0) ++
          toBytes 1 s.boot.carveNow.toNat ++ toBytes 2 s.boot.kept.toNat
        toStage 8 (extendMeas 2 (measBytes (sha512 facts)) s))

/-- READY: the cores leave reset; `sr.clock` counts from here (R53, R273). -/
def execReady (s : State) : Out :=
  .next (if inStage s 8 && !s.boot.released then
    { s with boot := { s.boot with released := true, statusAtReady := bootStatus s }, clock := 0 } else s)

/-! ## Freeze (R61, R62) -/

/-- A command freeze. -/
def freezeCmd (s : State) : State := { s with boot := { s.boot with frozenCmd := true, selfRefresh := true } }

/-- What ends with the last freeze: the stacks leave self-refresh, unless a trip or a warm start before stage 5 keeps them there, and
the companion's requests go on (R56, R61, R62, R66). -/
def unfreeze (s : State) : State :=
  if frozen s then s
  else heldRequests { s with boot := { s.boot with
    selfRefresh := s.boot.tripped || (s.boot.warmStart && !s.boot.released && decide (s.boot.stage < 5)) } }

/-- FREEZE (R61). Of two commands in one word, the one that this row stands for acts. (DEDUCED, log 25) -/
def execFreeze (d : Word32) (s : State) : Out := .next (freezeCmd (regWrite 4 d s))

/-- THAW: ends a command freeze and clears the BRK record's VALID (R61, R404). -/
def execThaw (d : Word32) (s : State) : Out :=
  .next (
    let s := regWrite 4 d s
    if !s.boot.frozenCmd then s
    else unfreeze { s with boot := { s.boot with frozenCmd := false, brkHit := s.boot.brkHit &&& 0xFFEFFFFF } })

/-- FREEZE_N_LOW (R61). -/
def execFreezeNLow (s : State) : Out :=
  .next { s with boot := { s.boot with frozenPin := true, selfRefresh := true } }

/-- FREEZE_N_HIGH (R61). -/
def execFreezeNHigh (s : State) : Out :=
  .next (if !s.boot.frozenPin then s else unfreeze { s with boot := { s.boot with frozenPin := false } })

/-! ## Attestation and measurement (R59, R60) -/

/-- The 664-byte report (R60). -/
def attReport (s : State) : List Byte :=
  let body := toBytes 4 1 ++ toBytes 4 0 ++ s.boot.attNonce ++ (s.boot.meas.map measBytes).flatten ++
    toBytes 8 s.boot.fwrev.toNat ++ toBytes 4 s.boot.svn.toNat ++ toBytes 4 s.boot.statusAtReady.toNat ++
    padTo 32 (ed25519Public s.boot.identity)
  body ++ padTo 64 (ed25519Sign s.boot.identity (sha512 body))

/-- The field ERR that a write of ATT_CTRL leaves: a write of 1 clears it (R60). -/
def attErrAfter (d : Word32) (s : State) : Bool := s.boot.attErr && !bit d.toNat 9

/-- ATTEST: starts the report and sets BUSY (R60). -/
def execAttest (d : Word32) (s : State) : Out :=
  .next (if s.boot.attBusy || !answers s 0xC20 then s
    else { s with boot := { s.boot with attBusy := true, attErr := attErrAfter d s, attJob := some .attest, attIndex := (d >>> 2).setWidth 3 } })

/-- ATTEST_DONE: the report takes the nonce and the measurement registers as they stand now (R60). (DEDUCED, log 22) -/
def execAttestDone (s : State) : Out :=
  .next (if s.boot.attJob = some .attest then
    { s with boot := { s.boot with attReport := attReport s, attBusy := false, attJob := none } } else s)

/-- EXTEND: an INDEX below 4 sets ERR and extends nothing (R59). MEAS_D, which the firmware alone extends, is extended by nothing in the model
and stays zero after every start. (DESIGN CHOICE, log 52) -/
def execExtend (d : Word32) (s : State) : Out :=
  .next (if s.boot.attBusy || !answers s 0xC20 then s
    else
      let i := (d >>> 2).setWidth 3
      if i.toNat < 4 then { s with boot := { s.boot with attErr := true, attIndex := i } }
      else { s with boot := { s.boot with attBusy := true, attErr := attErrAfter d s, attJob := some (.extend i s.boot.measData),
                                          attIndex := i } })

/-- EXTEND_DONE: the extend uses the INDEX and the digest that EXTEND found (R59). -/
def execExtendDone (s : State) : Out :=
  .next (match s.boot.attJob with
    | some (.extend i d) =>
      let t := extendMeas i.toNat d s
      { t with boot := { t.boot with attBusy := false, attJob := none } }
    | _ => s)

end Sys2Proof.Machine
end

