-- ==== Sys2Proof/Machine/Links.lean ====
section
/-! DEFINITION. The Kamub Link, the companion's accesses and the Ethernet ports (R31 to R37, R395 to R397). -/

namespace Sys2Proof.Machine

/-! ## Kamub ports (R35, R53) -/

/-- The virtual address of an access in the .G or .L space, where it makes one. -/
def accVa (a : Access) : Option Nat :=
  match a.i with
  | .ld _ .g _ | .ld _ .l _ | .ldu _ .g | .ldu _ .l | .st _ .g _ | .st _ .l _ | .stu _ .g | .stu _ .l
  | .ldw _ .g _ | .ldw _ .l _ | .stw _ .g _ | .stw _ .l _ | .aadd _ .g _ | .aadd _ .l _ | .afadd _ .g _ | .afadd _ .l _
  | .amin _ .g _ | .amin _ .l _ | .amax _ .g _ | .amax _ .l _ | .aand _ .g _ | .aand _ .l _ | .aor _ .g _ | .aor _ .l _
  | .axor _ .g _ | .axor _ .l _ | .axchg _ .g _ | .axchg _ .l _ | .acas _ .g _ | .acas _ .l _ | .ainc _ .g _ | .ainc _ .l _
  | .adec _ .g _ | .adec _ .l _ | .semp _ _ | .semv _ _ | .semtry _ _ | .semdec _ _ => some a.a.toNat
  | .copy _ false _ _ | .copys _ false _ _ => some a.b.toNat
  | .copy _ _ false _ | .copys _ _ false _ | .nsend _ _ | .nrecv _ _ => some a.a.toNat
  | _ => none

/-- PORT_TRAIN_RETRY: a down port begins training again, with its retries fresh (R35). -/
def execPortTrainRetry (p : Fin 4) (s : State) : Out :=
  .next (if s.kamub.up.getLsbD p.val then s else { s with kamub := { s.kamub with retries := s.kamub.retries.set p.val 0 } })

/-- PORT_UP: from stage 7 on, a port that has trained rejoins the hash (R35, R53). -/
def execPortUp (p : Fin 4) (s : State) : Out :=
  .next (if 7 ≤ s.boot.stage ∧ !s.boot.tripped then
    { s with kamub := { s.kamub with up := s.kamub.up ||| (1#4 <<< p.val), retries := s.kamub.retries.set p.val 0 } } else s)

/-- ETH_LINK_UP (R37, R53). -/
def execEthLinkUp (p : Fin 16) (llr : Bool) (s : State) : Out :=
  .next (if 7 ≤ s.boot.stage ∧ !s.boot.tripped then
    { s with eth := listMod s.eth p.val (fun e => { e with up := true, llr := llr }) } else s)

/-- ETH_LINK_DOWN: LINK_UP clears, and traffic leaves the port (R37); during a freeze the ports stay trained (R61). -/
def execEthLinkDown (p : Fin 16) (s : State) : Out :=
  .next (if frozen s then s else { s with eth := listMod s.eth p.val (fun e => { e with up := false, llr := false }) })

/-! ## Ethernet (R36, R37, R395 to R397) -/

/-- A usable connection: below COUNT, VALID, and of a known MODE (R395); none in companion memory that cannot be reached. (DEDUCED, log 24) -/
def connOk (s : State) (sp idx : Nat) : Bool :=
  idx < Nat.min 4096 (space s sp).ctCount.toNat && reachable s (connAddr s sp idx) &&
  (let e := readHome s (connAddr s sp idx) 64
   bit (field e 23 1) 0 && field e 23 1 < 2 && field e 22 1 ≤ 2)

def modEth (p : Nat) (f : EthPort → EthPort) (s : State) : State := { s with eth := listMod s.eth p f }

/-- Why a target of inbound data is refused: a page of it is mapped and lacks OPEN, which R37 (d) counts in REFUSED, or it is not
mapped, not writable, or companion memory that cannot be reached, which it does not count. (DEDUCED, log 24) -/
inductive NoTarget where
  | closed | barred
  deriving DecidableEq, Repr

/-- Answers a packet with an access error, and counts one whose page is not open (R37 (d)). (DEDUCED, log 24) -/
def refuse (p : Nat) (why : NoTarget) (s : State) : State :=
  tell (.ethResponse p .accessError)
    (if why = .closed then modEth p (fun e => { e with refused := satAdd 255 e.refused 1 }) s else s)

/-- The physical address of one byte that inbound data may be written to. -/
def openByte (s : State) (sp va : Nat) : Except NoTarget Nat :=
  match translate s 160 sp va .device with
  | .ok pa p _ =>
    if !pteOpen p then .error .closed
    else if !pteW p || !reachable s pa then .error .barred
    else .ok pa
  | _ => .error .barred

/-- The physical addresses of a range that inbound data may be written to. (DEDUCED, log 24) -/
def openRange (s : State) (sp va n : Nat) : Except NoTarget (List Nat) := (List.range n).mapM (fun i => openByte s sp (va + i))

/-- Writes bytes to the addresses found, as inbound Ethernet writes of a space (R40, R107). -/
def inbound (sp : Nat) (pas : List Nat) (data : List Byte) (s : State) : State :=
  (pas.zip data).foldl (fun s e => deviceWrite e.1 [e.2] (some sp) s) s

/-- The oldest posted receive that a message matches; of those posted in one cycle the one of the lowest core and thread slot, by which
threads are numbered (R397). -/
def matchReceive (s : State) (sp conn : Nat) (tag : Word32) : Option Posted :=
  leastBy (fun (p : Posted) => p.cycle * 2 ^ 21 + ((access? s p.access).map (·.f.thread)).getD 0)
    (s.posted.filter (fun p => p.space == sp && p.conn == conn && (p.tag == tag || p.tag == 0xFFFFFFFF)))

/-- A message meets its receive: min(length, B) bytes land, and the node's result is made (R397). -/
def receive (p : Nat) (r : Posted) (data : List Byte) (s : State) : State :=
  match access? s r.access with
  | none => s
  | some a =>
    let n := Nat.min data.length a.b.toNat
    match openRange s r.space a.a.toNat n with
    | .error why => refuse p why s
    | .ok pas =>
      let s := inbound r.space pas data s
      let res := n + boolBit (decide (a.b.toNat < data.length)) 32
      let s := { s with posted := s.posted.filter (fun q => q.access != r.access) }
      tell (.ethResponse p .ok) (modAccess r.access (fun a => { a with st := .done, result := BitVec.ofNat 256 res }) s)

/-- ETH_RX: an inbound packet is dropped, refused, answered, written or received as its kind decides
(R37, R48, R49, R62, R397). (DESIGN CHOICE, log 45) -/
def execEthRx (p : Fin 16) (sp : Fin 64) (conn : Nat) (kind : EthKind) (s : State) : Out :=
  .next (if frozen s || !s.boot.released || !(s.eth.getD p.val EthPort.reset).up || (space s sp.val).dropEth then s
    else match kind with
      | .uud => modEth p.val (fun e => { e with uudDrop := satAdd 255 e.uudDrop 1 }) s
      | .secured => modEth p.val (fun e => { e with refused := satAdd 255 e.refused 1 }) s
      | .trimmed => if (space s sp.val).enable then tell (.ethResponse p.val .nack) (modEth p.val (fun e => { e with trimRx := satAdd 255 e.trimRx 1 }) s)
        else refuse p.val .barred s
      | .atomic => if (space s sp.val).enable then tell (.ethResponse p.val .unsupported) s else refuse p.val .barred s
      | .write va data =>
        if !(space s sp.val).enable || !connOk s sp.val conn then refuse p.val .barred s
        else (match openRange s sp.val va.toNat data.length with
          | .ok pas => tell (.ethResponse p.val .ok) (inbound sp.val pas data s)
          | .error why => refuse p.val why s)
      | .send tag data =>
        if !(space s sp.val).enable || !connOk s sp.val conn then refuse p.val .barred s
        else (match matchReceive s sp.val conn tag with
          | some r => receive p.val r data s
          | none => tell (.ethResponse p.val .notReady) s))

/-- UET_READ_REQUEST: served from the data at its home, without the caches above it, as it is stored where it holds an uncorrectable
error (R36, R233). (DESIGN CHOICE, log 49) (DEDUCED, log 24) -/
def execUetReadRequest (p : Fin 16) (sp : Fin 64) (conn : Nat) (va : Word64) (len : Nat) (s : State) : Out :=
  .next (if frozen s || !s.boot.released || !(s.eth.getD p.val EthPort.reset).up || (space s sp.val).dropEth then s
    else if !(space s sp.val).enable || !connOk s sp.val conn then tell (.ethResponse p.val .accessError) s
    else
      let pas := (List.range len).mapM (fun i =>
        match translate s 160 sp.val (va.toNat + i) .device with
        | .ok pa _ _ => if reachable s pa then some pa else none
        | _ => none)
      match pas with
      | some l => tell (.ethRead p.val (l.map (fun pa => if 2 ^ 51 ≤ pa then tabGet 0 s.mem.comp pa else atHomeByte s pa))) s
      | none => tell (.ethResponse p.val .accessError) s)

/-- The number of a packet that the device sends: a message's operation, or for the Rambler's packets a number of their slot, their
kind and their place, above every operation's. (DESIGN CHOICE, log 45) -/
def packetOp (o : Output) : Option Nat :=
  match o with
  | .ethSend k _ _ _ _ => some k
  | .hello n _ => some (2 ^ 80 + n)
  | .reply n _ => some (2 ^ 80 + 4 + n)
  | .finish n _ => some (2 ^ 80 + 8 + n)
  | .frame n seq _ => some (2 ^ 80 + 12 + 4 * seq + n)
  | _ => none

/-- The packet of a number that the device has sent. -/
def sentBy (s : State) (op : Nat) : Option Output := s.outputs.find? (fun o => packetOp o == some op)

/-- ETH_TRIM_NACK: the packet goes out again; a NACK that comes during a freeze is dropped (R37, R62). -/
def execEthTrimNack (op : Nat) (s : State) : Out :=
  .next (if frozen s then s else match sentBy s op with | some o => tell o s | none => s)

/-- NSEND_ACK: the peer has acknowledged the whole message, or delivery has failed; an open NSEND completes, and counts in SEND_FAIL
where it fails, though its launch has ended meanwhile; a deferred one that fails counts in DEFER_FAIL (R395, R396). During a freeze the
packet is dropped (R62). (DEDUCED, log 24) -/
def execNsendAck (op : Nat) (ok : Bool) (s : State) : Out :=
  .next (if frozen s then s else match sentBy s op with
    | some (.ethSend _ sp _ _ _) =>
      let s := { s with outputs := s.outputs.filter (fun o => match o with | .ethSend k _ _ _ _ => k != op | _ => true) }
      let s := if ok then s
        else if op < deferredOp then modSpace sp (fun p => { p with sendFail := satAdd 65535 p.sendFail 1 }) s
        else modSpace sp (fun p => { p with deferFail := satAdd 65535 p.deferFail 1 }) s
      modAccess op (fun a => { a with st := .done, result := if ok then 0 else 1 }) s
    | _ => s)

end Sys2Proof.Machine
end

