-- ==== Sys2Proof/Machine/Perform.lean ====
section
/-! DEFINITION. The life of an access (R191, R203, R214 to R217, R230, R391): it is submitted, issues in its thread's
order, performs or parks or waits, and its response returns as tokens. The meanings of ORDERED_ISSUE, ACCESS_RESPONSE,
COPY_WORD_ARRIVAL, STRM_COPY, SEM_WAKE and PARK_RESUME. -/

namespace Sys2Proof.Machine

/-! ## Performing -/

/-- The bytes of a memory node's type. -/
def nodeBytes (n : Node) : Nat := tyBits n.ty / 8

/-- AADD to ADEC on the bits of a type (R378). -/
def atomAdd (n : Node) (a : Access) (old : Nat) : Nat := (old + a.b.toNat) % 2 ^ tyBits n.ty
def atomOf (n : Node) (a : Access) (g : Nat → Nat → Nat) (old : Nat) : Nat := g old (a.b.toNat % 2 ^ tyBits n.ty) % 2 ^ tyBits n.ty

/-- How an access performs: its node's own operation (R372 to R401). -/
def perform (a : Access) (s : State) : Try × State :=
  match a.i with
  | .ld n sp _ => doLoad a sp (nodeBytes n) s
  | .ldu n sp => doLoad a sp (nodeBytes n) s
  | .ldw _ sp _ => doLoad a sp 32 s
  | .iread n sp => doLoad a sp (nodeBytes n) s
  | .st n sp _ => doStore a sp (nodeBytes n) s
  | .stu n sp => doStore a sp (nodeBytes n) s
  | .stw _ sp _ => doStore a sp 32 s
  | .iwrite n sp => doIwrite a sp (nodeBytes n) s
  | .spwait _ sp _ => doSpwait a sp s
  | .spset _ sp _ => doPresence a sp true s
  | .spclr _ sp _ => doPresence a sp false s
  | .aadd n sp m => doAtomic a sp m (nodeBytes n) (atomAdd n a) s
  | .afadd n sp m => doAtomic a sp m (nodeBytes n) (atomOf n a addF32) s
  | .amin n sp m => doAtomic a sp m (nodeBytes n) (atomOf n a (intMin n.ty)) s
  | .amax n sp m => doAtomic a sp m (nodeBytes n) (atomOf n a (intMax n.ty)) s
  | .aand n sp m => doAtomic a sp m (nodeBytes n) (atomOf n a (· &&& ·)) s
  | .aor n sp m => doAtomic a sp m (nodeBytes n) (atomOf n a (· ||| ·)) s
  | .axor n sp m => doAtomic a sp m (nodeBytes n) (atomOf n a (· ^^^ ·)) s
  | .axchg n sp m => doAtomic a sp m (nodeBytes n) (atomOf n a (fun _ b => b)) s
  | .acas n sp m => doAtomic a sp m (nodeBytes n) (atomOf n a (fun old b => if old = b then a.c.toNat else old)) s
  | .ainc n sp m => doAtomic a sp m (nodeBytes n) (atomOf n a (fun old b => incBits b old)) s
  | .adec n sp m => doAtomic a sp m (nodeBytes n) (atomOf n a (fun old b => decBits b old)) s
  | .fence _ _ => doFence a s
  | .flushr _ sc => doFlushr a sc s
  | .discr _ => doDiscr a s
  | .barArrive n _ => doBarrier a n true false s
  | .barWait n _ => doBarrier a n false true s
  | .barSync n _ => doBarrier a n true true s
  | .semp n _ => doSemp a n s
  | .semv _ _ => doSemv a s
  | .semtry _ _ => doSemtry a s
  | .semdec _ _ => doSemdec a s
  | .copy _ _ _ _ => doCopy a s
  | .copys _ _ _ _ => doCopy a s
  | .port n => doPort a n s
  | .nsend _ _ => doNsend a s
  | .nrecv _ _ => doNrecv a s
  | .nfence _ => doNfence a s
  | .launch _ => doLaunch a s
  | .lwait _ => doLwait a s
  | .rdsr _ k => doRdsr a k.val s
  | .tload n sc h => doTload a n sc h s
  | .tstore n sc h ca => doTstore a n sc h ca s
  | .tfill n => doTfill a n s
  | .tmma n w ca cb => doTmma a n w ca cb s
  | .ttern n ca cb => doTmma a n .t2 ca cb s
  | .tgrp n w ca cb => doTgrp a n w ca cb s
  | .tcvt n t r ca => doTcvt a n t r ca s
  | .ttrans n ca => doTtrans a n ca s
  | .tscale n sc r ca => doTscale a n sc r ca s
  | .syscfg n w => doSyscfg a n w s
  | .sysw n ca => doSysw a n ca s
  | .sysa n ca => doSysa a n ca s
  | .sysd n => doSysd a n s
  | .strmOpen _ _ => doStrmOpen a s
  | .strmSub _ _ => doStrmSub a s
  | .strmPub _ _ ca => doStrmPub a ca s
  | .strmCloseEnd _ _ => doCloseEnd a s
  | .strmCloseLeave _ _ => doCloseLeave a s
  | .gather n sp sx _ => doGather a n sp sx s
  | .gathert n sp sx sc _ => doGathert a n sp sx sc s
  | .scatter n sp sx _ => doScatter a n sp sx s
  | .scatadd n sp sx m => doScatadd a n sp sx m s
  | _ => (.done 0, s)

/-- What an attempt leaves of the access. At most 512 accesses of a core are parked; one more holds its place and is tried
again (R204); a departing thread's read that would park is dropped (R296). What waits or holds its port goes on waiting or holding it while it is in flight. (DESIGN CHOICE, log 8) -/
def settle (id : Nat) (r : Try × State) : State :=
  match r with
  | (.gone, s) => s
  | (.wait, s) => modAccess id (fun a => { a with st := .flight }) s
  | (.hold, s) => modAccess id (fun a => { a with st := .held }) s
  | (.block, s) => modAccess id (fun a => { a with st := .blocked }) s
  | (.done v, s) => modAccess id (fun a => { a with st := .done, result := BitVec.ofNat 256 v }) s
  | (.park k va fl, s) =>
    match access? s id with
    | some a =>
      let leaves : Bool := match ((thread? s a.f.thread).map (fun (t : Thread) => t.st) : Option ThreadSt) with | some (.departing b _ _) => b == a.f.block && isRead a.i | _ => false
      if leaves then dropAccess id s
      else if 512 ≤ parkedOn s a.f.core then modAccess id (fun a => { a with st := .held }) s
      else modAccess id (fun a => { a with st := .parked k va fl }) s
    | none => s

/-- A release at crew to die scope lets the engine operations before it read what they have still to read, and does not wait
for their writes into a scratchpad (R230). (DEDUCED, log 31) -/
def forceReads (a : Access) (s : State) : State :=
  match relScope a.i with
  | some sc =>
    if wideScope sc then s
    else ((s.accesses.filter (fun e => e.f.thread == a.f.thread && decide (e.order < a.order) && padEngine e.i)).map (·.id)).foldl
      (fun s id => captureRead id (captureCopy id s)) s
  | none => s

/-- Does an access wait behind one that holds their port (R204)? -/
def portHeld (s : State) (a : Access) : Bool :=
  s.accesses.any (fun e => e.st == .held && e.f.core == a.f.core && e.id != a.id && decide (e.order < a.order) && portOf s e == portOf s a)

/-- Is a PE's multiply array still busy with another product when a product that had parked goes on (R353)? -/
def arrayBusy (s : State) (a : Access) : Bool :=
  let pe (f : Firing) : Nat := physPe s f.core f.launch f.block f.replica f.node
  isProductNode a.i && s.accesses.any (fun e => e.id != a.id && isProductNode e.i && e.st == .done && pe e.f == pe a.f)

/-- Performs an access in flight, if the order of its thread lets it (R216). (DESIGN CHOICE, log 8) -/
def attempt (id : Nat) (s : State) : State :=
  match access? s id with
  | none => s
  | some a =>
    if (a.st != .flight && a.st != .held) || portHeld s a || arrayBusy s a then s
    else
      let s := forceReads a s
      if inOrder s a then settle id (perform a s) else s

/-- Has a copy into the scratchpad to wait with its issue, which clears its destination's presence bits, for an earlier access of its
thread to the same words (R203, R216 (a))? (DEDUCED, log 32) -/
def copyMustWait (s : State) (a : Access) : Bool :=
  (copySides a.i).2 && s.accesses.any (fun e => e.f.thread == a.f.thread && e.id != a.id && ordered e && e.st != .waiting && !performed e true &&
    !isEngine e.i && sameOrder s e a && commonByte s e a)

/-- ISSUE (R216): the chain goes on, a copy clears its destination's bits, an RDSR reads its register, a SINK's position is accounted for; then the
access performs, unless the schedule leaves that to its response. (DESIGN CHOICE, log 8) -/
def issueAccess (id : Nat) (s : State) : State :=
  match access? s id with
  | none => s
  | some a =>
    let s := match accSeq a with
      | some (q, p, u) => stepEpisode a.f q p u s
      | none => s
    match a.i with
    | .sink _ _ => dropAccess id s
    | _ =>
      let s := modAccess id (fun x => { x with st := .flight, order := s.nextId, issued := s.cycles }) { s with nextId := s.nextId + 1 }
      let s := issueRdsr a (copyIssue a s)
      if s.late then s else captureCopy id (attempt id s)

/-- A node hands its access over: ordered forms to the ordering unit, where it issues at once if its turn has come, sync
nodes and unordered forms past it (R216, R217, R373). -/
def submit (i : Instr) (f : Firing) (a b c : Nat) (s : State) : State :=
  let id := s.nextId
  match (form i).bind (fun m => seqFields m.node) with
  | some (q, p, _) =>
    let s := addAccess i f a b c .waiting (ensureEpisode f p s)
    match access? s id with
    | some x => if atTurn s f q p && !heldBack s f && !copyMustWait s x then issueAccess id s else s
    | none => s
  | none =>
    let s := addAccess i f a b c .flight s
    let s := match s.accesses.getLast? with | some x => copyIssue x s | none => s
    if s.late then s else captureCopy id (attempt id s)

/-! ## Events -/

/-- May a launch's accesses go on? -/
def launchRuns (s : State) (id : Nat) : Bool :=
  coresRun s && (match launch? s id with | some l => l.phase == .running || l.phase == .saving | none => false)

/-- ORDERED_ISSUE (R216). -/
def evOrderedIssue (t : Nat) (s : State) : State :=
  match nextIssue s t with
  | some a => if !launchRuns s a.f.launch || copyMustWait s a then s else issueAccess a.id s
  | none => s

def execOrderedIssue (t : Nat) (s : State) : Out := .next (evOrderedIssue t s)

/-- Tokens that a port sends are not in the buffer of the node's PE but with the port, and their source numbers lie apart (R176, R185).
(DEDUCED, log 13) -/
def fromPort (since : Nat) (s : State) : State :=
  { s with tokens := s.tokens.map (fun k => if since ≤ k.seq && k.place == .out && decide (k.src < 2 ^ 24)
      then { k with place := .port, src := k.src + 2 ^ 24 } else k) }

/-- Tokens for a block that is not resident go to the overflow area, with the age they have there (R170, R184). (DEDUCED, log 34) -/
def toArea (since core l : Nat) (s : State) : State :=
  let age := s.cycles - tabGet 0 s.core.ageBase core
  let go (k : Token) : Bool := since ≤ k.seq && k.place == .out
  let s := (areaWrite l ((s.tokens.filter go).length) s).2
  { s with tokens := s.tokens.map (fun k => if go k then { k with place := .overflow, age := age, replica := 0 } else k) }

/-- Where R228 performs an atomic in .G or, with `home`, in .L, as the memory and the die that it reads there: none in companion memory, which
no memory of the device holds. (DEDUCED, log 23) -/
def atomicPlace (s : State) (a : Access) (m : MemFlags) (home : Bool) (va : Nat) : Option (Nat × Nat × Option Nat) :=
  let die := dieOf a.f.core
  match translate s a.f.core (spaceOf s a.f) (va % 2 ^ 64) .device with
  | .ok pa p _ =>
    if 2 ^ 51 ≤ pa then none
    else if !pteOpen p then some (2, die, some pa)
    else if home ∨ homeDie pa ≠ die ∨ m.sc ∨ m.scope = .dev ∨ m.scope = .sys then some (1, homeDie pa, some pa)
    else if m.scope = .crew ∨ m.scope = .team then some (3, die, some pa)
    else some (2, die, some pa)
  | _ => none

/-- Where an access has read: the memory, the die, and the physical address unless it is the core's own storage; none for one that reads
nothing (R28 to R30, R228). Of companion memory only an L1 holds lines (R34), and a shadowed .L access reads as one in .G (R201). The address
of a gather or a SCATADD is its first lane's. (DEDUCED, log 23) -/
def readAt (s : State) (a : Access) : Option (Nat × Nat × Option Nat) :=
  let die := dieOf a.f.core
  let pad : Option (Nat × Nat × Option Nat) := some (5, die, none)
  let from_ (source : Nat) (va : Nat) : Option (Nat × Nat × Option Nat) :=
    match translate s a.f.core (spaceOf s a.f) (va % 2 ^ 64) .device with
    | .ok pa _ _ =>
      if 2 ^ 51 ≤ pa ∧ source ≠ 3 then none
      else some (if source = 1 then (1, homeDie pa, some pa) else (source, die, some pa))
    | _ => none
  let shadowed (va : Nat) : Bool :=
    match translate s a.f.core (spaceOf s a.f) (va % 2 ^ 64) .device with
    | .ok pa p _ => decide (pa < 2 ^ 51) && !pteOpen p
    | _ => false
  let inSpace (sp : Sp) (source : Nat) (va : Nat) : Option (Nat × Nat × Option Nat) :=
    match sp with
    | .g => from_ source va
    | .l => from_ (if shadowed va then source else 1) va
    | .k => some (4, die, none)
    | _ => pad
  let first (sx : Bool) (size : Nat) : Option Nat :=
    (((List.range 8).filterMap (laneIndex sx a.b.toNat)).head?).map (laneAddr (a.a.toNat % 2 ^ 64) size)
  let lane (sx : Bool) (sp : Sp) (size : Nat) : Option (Nat × Nat × Option Nat) := (first sx size).bind (inSpace sp 2)
  let atomic (sp : Sp) (m : MemFlags) (va : Nat) : Option (Nat × Nat × Option Nat) :=
    match sp with
    | .g => atomicPlace s a m false va
    | .l => atomicPlace s a m true va
    | _ => inSpace sp 1 va
  match a.i with
  | .ld _ sp _ | .ldu _ sp | .ldw _ sp _ | .iread _ sp => inSpace sp 3 a.a.toNat
  | .aadd _ sp m | .afadd _ sp m | .amin _ sp m | .amax _ sp m | .aand _ sp m
  | .aor _ sp m | .axor _ sp m | .axchg _ sp m | .acas _ sp m | .ainc _ sp m | .adec _ sp m => atomic sp m a.a.toNat
  | .scatadd n sp sx m => (first sx (tyBits n.ty / 8)).bind (atomic sp m)
  | .tload _ _ h => from_ (if h then 1 else 2) a.a.toNat
  | .copy _ x _ _ | .copys _ x _ _ => if x then pad else from_ 2 a.b.toNat
  | .nsend _ _ | .launch _ => from_ 2 a.a.toNat
  | .semp _ _ | .semv _ _ | .semtry _ _ | .semdec _ _ => from_ 1 a.a.toNat
  | .gather n sp sx _ => lane sx sp (tyBits n.ty / 8)
  | .gathert _ sp sx _ _ => lane sx sp (tileDesc (a.c.toNat % 2 ^ 64)).stride
  | .tstore _ _ _ _ | .tmma _ _ _ _ | .ttern _ _ _ | .tgrp _ _ _ _ | .tcvt _ _ _ _ | .ttrans _ _ | .tscale _ _ _ _
  | .sysw _ _ | .sysa _ _ | .sysd _ | .strmPub _ _ _ => pad
  | _ => none

/-- What the ECC did with the data that an access read (R28, R29). An error stays in the word that holds it. (DEDUCED, log 23) -/
def eccEffect (a : Access) (ecc : Ecc) (s : State) : State :=
  match ecc, readAt s a with
  | .ok, _ | _, none => s
  | .corrected, some _ => logCe s
  | .uncorrectable, some (source, die, some pa) =>
    let key := if 2 ^ 51 ≤ pa then badCopyKey a.f.core pa else pa / 32
    memUe a.f (pa / 32, source, die) { s with mem := { s.mem with bad := tabPut s.mem.bad key (source, die) } }
  | .uncorrectable, some (source, die, none) => abortOf a.f 0x0E (logUe source die 0 s)

/-- The result leaves as tokens; an access whose thread has left its block sends none (R296). -/
def respond (a : Access) (s : State) : State :=
  let s := clearHang a.f.launch (dropAccess a.id s)
  let s := if (barWaits a).isSome then acquireFor a s else s
  let s := if isSync a.i then fenceOff a s else s
  if a.drop then retireTeam (((thread? s a.f.thread).map (·.team)).getD 0) s
  else
    match form a.i with
    | some m =>
      let since := s.nextId
      let s := emit m.node a.f (m.net.getD .narrow) a.result.toNat s
      if isResident s a.f.core a.f.launch a.f.block then fromPort since s else toArea since a.f.core a.f.launch s
    | none => s

/-- The tokens that an access's response sends. -/
def responseToks (a : Access) : Nat :=
  match form a.i with
  | some m => (destsOf m.node (a.result.toNat % 2 == 1)).length
  | none => 0

/-- Is there room for the response: in the overflow area where its block is not resident (R176), and otherwise in the buffers in which
the port holds its tokens, 4 for a network as those of a PE, with at most 1,024 on a core (R173, R185)? (DEDUCED, log 13) -/
def responseRoom (s : State) (a : Access) : Bool :=
  a.drop ||
  (if isResident s a.f.core a.f.launch a.f.block then
     (match form a.i with
      | some m =>
        let src := 2 ^ 21 + physPe s a.f.core a.f.launch a.f.block a.f.replica a.f.node
        (destsOf m.node (a.result.toNat % 2 == 1)).all (fun d =>
          decide ((s.tokens.filter (fun k => k.place == .port && k.net == d.net && k.src / 8 == src)).length +
            ((destsOf m.node (a.result.toNat % 2 == 1)).filter (fun e => e.net == d.net)).length ≤ 4)) &&
        decide ((s.tokens.filter (fun k => k.place == .port && coreOf k.thread == a.f.core)).length + responseToks a ≤ 1024)
      | none => true)
   else decide (responseToks a ≤ areaRoom s a.f.launch))

/-- ACCESS_RESPONSE (R214): an access that is still to be performed performs now; one that has been performed returns. (DESIGN CHOICE, log 8) -/
def evAccessResponse (id : Nat) (ecc : Ecc) (s : State) : State :=
  match access? s id with
  | none => s
  | some a =>
    if !launchRuns s a.f.launch then s
    else
      let s := captureCopy id (attempt id s)
      match access? s id with
      | some a =>
        if a.st != .done || !responseRoom s a then s
        else
          let s := eccEffect a ecc s
          if (access? s id).isSome then respond a s else s
      | none => s

def execAccessResponse (id : Nat) (ecc : Ecc) (s : State) : Out := .next (evAccessResponse id ecc s)

/-- COPY_WORD_ARRIVAL (R203, R393). -/
def evCopyWordArrival (id w : Nat) (s : State) : State :=
  match access? s id with
  | some a => if launchRuns s a.f.launch then copyWord id w s else s
  | none => s

def execCopyWordArrival (id w : Nat) (s : State) : Out := .next (evCopyWordArrival id w s)

/-- STRM_COPY (R362); `sub` names the subscriber's team. -/
def evStrmCopy (id sub : Nat) (s : State) : State :=
  match access? s id with
  | some a => if launchRuns s a.f.launch then copyToSub id sub s else s
  | none => s

def execStrmCopy (id sub : Nat) (s : State) : Out := .next (evStrmCopy id sub s)

/-- The SEMPs that wait in one entry of a core's barrier unit, the oldest first. -/
def sempsOf (s : State) (core launch team sem : Nat) : List Access :=
  sortBy (·.age) (s.accesses.filter (fun a => a.f.core == core && a.f.launch == launch && a.st == .blocked && semWaits a == some sem &&
    (match thread? s a.f.thread with | some t => t.team == team | none => false)))

/-- SEM_WAKE (R391): every recorded thread tries again, in ascending AGE. -/
def evSemWake (core launch team sem : Nat) (s : State) : State :=
  if !launchRuns s launch then s
  else ((sempsOf s core launch team sem).map (·.id)).foldl (fun s id =>
    attempt id (modAccess id (fun a => { a with st := .flight }) s)) s

def execSemWake (core launch team sem : Nat) (s : State) : Out := .next (evSemWake core launch team sem s)

/-- Would a match that waits on a scratchpad word go on past it: a reader now that its bit is set, a packet's writer now that it is clear? It
may park anew on another word (R203, R347, R369). -/
def wordReady0 (s : State) (a : Access) (addr : Nat) : Bool :=
  inOrder s a && (match (perform a s).1 with | .park 0 x _ => x != addr | .wait => false | _ => true)

/-- Has what a parked match waits for come (R191)? The matches on one scratchpad word go on in ascending AGE order (R203). -/
def parkOver (s : State) (a : Access) (kind addr : Nat) (fault : Option Nat) : Bool :=
  if kind = 0 then wordReady0 s a addr && s.accesses.all (fun e => !(e.st == .parked 0 addr none && decide (e.age < a.age) && wordReady0 s e addr))
  else if kind = 1 then fault.isNone
  else if kind = 2 then (pickTag s).isSome
  else residentFor s a.f.thread addr

/-- A copy goes on where it stopped; every other access is made again with the same operands (R191, R393). -/
def resumeAccess (id : Nat) (s : State) : State :=
  match access? s id with
  | none => s
  | some a =>
    match a.i with
    | .copy _ _ _ _ | .copys _ _ _ _ =>
      if a.left.isEmpty then attempt id (modAccess id (fun x => { x with st := .flight }) s)
      else modAccess id (fun x => { x with st := .blocked }) s
    | _ => attempt id (modAccess id (fun x => { x with st := .flight }) s)

/-- PARK_RESUME (R191). -/
def evParkResume (id : Nat) (s : State) : State :=
  match access? s id with
  | none => s
  | some a =>
    match a.st with
    | .parked k x fl =>
      if !launchRuns s a.f.launch || !parkOver s a k x fl then s
      else if k = 3 then { dropAccess id s with resumed := s.resumed ++ [a.f] }
      else resumeAccess id s
    | _ => s

def execParkResume (id : Nat) (s : State) : Out := .next (evParkResume id s)

end Sys2Proof.Machine
end

