-- ==== Sys2Proof/Machine/Hamper.lean ====
section
/-! DEFINITION. The Hamper: window stacks and the moves of a crew's resident range (R186 to R190, R193), and the meaning of
HAMPER_MOVE. -/

namespace Sys2Proof.Machine

/-- The address of a position on a crew's window stack (R190). -/
def stackAddr (l : Launch) (c : Crew) (pos : Nat) : Nat := lrWsBase l.raw + c.stack * lrWsRows l.raw * 128 + pos * 128

/-- The launch of a crew. -/
def launchOfCrew (s : State) (c : Crew) : Option Launch := (team? s c.team).bind (fun m => launch? s m.launch)

/-- The Hamper's translation of an address of a window stack: a companion frame that does not answer is as a table there that does not
(R31, R35, R72). -/
def stackXl (s : State) (l : Launch) (va : Nat) : Xl :=
  match translate s 160 l.space va .sysWrite with
  | .ok pa p lev => if reachable s pa then .ok pa p lev else .link
  | x => x

/-- A stack page that does not translate parks the Hamper with KIND 4; any other bar is fatal (R31, R80, R190). -/
def stackFails (key : Nat) (l : Launch) (va : Nat) (x : Xl) (s : State) : State :=
  let vt := (((tabFind s.crews key).bind (fun c => vtOf s l.id c.team))).getD 0
  let fr (r : Nat) : FaultRec := { key := 0, id := none, space := l.space, va := va, kind := 4, reason := r, vt := vt, core := key / 256,
                                   cookie := BitVec.ofNat 64 (lrCookie l.raw) }
  let fatal (cause r : Nat) : State :=
    abortLaunch l.id cause false (some { emptyReport l.depth vt with addrValid := true, addr := BitVec.ofNat 64 (va % 2 ^ 54) })
      (fatalFault (fr r) s)
  match x with
  | .ok _ _ _ => s
  | .park r =>
    if !s.xlat.fqEnable then fatal (if r = 0 then 0x01 else 0x02) r
    else
      let (k, s) := parkFault (fr r) s
      { s with crews := tabMod s.crews key (fun c => { c with moving := some k, movingVa := va }) }
  | .page => fatal 0x01 2
  | .perm => fatal 0x02 3
  | .link => abortLaunch l.id 0x15 false none s
  | .ue e => ueAbort l.id (some vt) e s

/-- The new LO of a move that brings a window into the range (R189). (DEDUCED, log 43) -/
def moveTo (lo fp : Nat) : Nat := if fp < lo then fp else fp + 32 - 64

/-- The row of 32 words at a position of the live-value store, and its replacement. (DEDUCED, log 43) -/
def ringRow (s : State) (key pos : Nat) : List Byte := (List.range 32).flatMap (fun l => toBytes 4 (lvsWord s key pos l))
def setRingRow (key pos : Nat) (row : List Byte) (s : State) : State :=
  let s := { s with core := { s.core with wrote := s.core.wrote.filter (fun w => w.kreg || w.key / 32 != key * 64 + pos % 64) } }
  (List.range 32).foldl (fun s l => setLvs key pos l (field row (4 * l) 4) s) s

/-- Is the Hamper of a core parked on a fault (R190)? -/
def hamperParked (s : State) (core : Nat) : Bool := s.crews.any (fun e => e.1 / 256 == core && e.2.moving.isSome)

/-- An uncorrectable error in a row of a window stack ends the launch that the Hamper reads it for (R29 (c), R130). -/
def stackUe (key id : Nat) (e : Nat × Nat × Nat) (s : State) : State :=
  ueAbort id ((tabFind s.crews key).bind (fun c => vtOf s id c.team)) e s

/-- Exchanges one row of a move: the leaving position is written to the stack, and the position that takes its place is read
from it, or zero at or above the high-water. Answers false where a page bars it. (DEDUCED, log 43) -/
def exchange (key pos : Nat) (c : Crew) (l : Launch) (s : State) : Bool × State :=
  let enter := if c.target < c.lo then pos - 64 else pos + 64
  let enter := if c.target ≤ enter ∧ enter < c.target + 64 then enter else c.target + (pos + 64 - c.target % 64) % 64
  let out := stackAddr l c pos
  match stackXl s l out with
  | .ok pa _ _ =>
    let high := Nat.max c.high (pos + 1)
    let back := stackAddr l c enter
    (match (if high ≤ enter then (Xl.ok 0 0 0) else stackXl s l back) with
     | .ok pb _ _ =>
       (match (if high ≤ enter then none else badAt s pb 128) with
       | some e => (false, stackUe key l.id e s)
       | none =>
       let s := writeSys pa (ringRow s key pos) s
       let row := if high ≤ enter then List.replicate 128 0 else readHome s pb 128
       let s := setRingRow key enter row s
       (true, { s with crews := tabMod s.crews key (fun c => { c with high := high, done := c.done + 1 }) }))
     | x => (false, stackFails key l back x s))
  | x => (false, stackFails key l out x s)

/-- Goes on with a move until it is complete or barred. -/
def moveRows (key : Nat) : Nat → State → State
  | 0, s => s
  | k + 1, s =>
    match tabFind s.crews key with
    | none => s
    | some c =>
      match (leaving c).drop c.done with
      | [] => { s with crews := tabMod s.crews key (fun c => { c with lo := c.target, done := 0 }) }
      | pos :: _ =>
        match launchOfCrew s c with
        | none => s
        | some l => match exchange key pos c l s with
          | (true, s) => moveRows key k s
          | (false, s) => s

/-- The matches of a crew whose position is resident are made again (R189). -/
def wakeWindow (key : Nat) (s : State) : State :=
  let now (a : Access) : Bool := crewOf a.f.thread == key && (match a.st with | .parked 3 pos _ => residentFor s a.f.thread pos | _ => false)
  { s with resumed := s.resumed ++ (s.accesses.filter now).map (·.f), accesses := s.accesses.filter (fun a => !now a) }

/-- The oldest KIND 3 match of a core. -/
def oldestWindow (s : State) (core : Nat) : Option Access :=
  leastBy (·.age) (s.accesses.filter (fun a => a.f.core == core && (match a.st with | .parked 3 _ _ => true | _ => false)))

/-- The window that a parked match needs: its thread's, and for a RET whose link is out of range the one below (R304). -/
def neededFp (s : State) (a : Access) : Nat :=
  let fp := fpOf s a.f.thread
  match a.i, a.st with
  | .ret _, .parked _ pos _ => if pos + 1 = fp then fp - 1 else fp
  | _, _ => fp

/-- HAMPER_MOVE (R189, R190): unless a fault parks it, the core's Hamper goes on with the move that it has begun, or begins one for the oldest parked
match. (DEDUCED, log 43) -/
def evHamperMove (core : Nat) (s : State) : State :=
  if !coresRun s || hamperParked s core then s
  else
    let mine := s.crews.filter (fun e => e.1 / 256 == core)
    match mine.find? (fun e => e.2.target != e.2.lo) with
    | some (key, _) => wakeWindow key (moveRows key 130 s)
    | none =>
      match oldestWindow s core with
      | none => s
      | some a =>
        let key := crewOf a.f.thread
        match tabFind s.crews key with
        | none => s
        | some c =>
          let s := { s with crews := tabMod s.crews key (fun _ => { c with target := moveTo c.lo (neededFp s a), done := 0 }) }
          wakeWindow key (moveRows key 130 s)

def execHamperMove (core : Nat) (s : State) : Out := .next (evHamperMove core s)

/-! ## Reading a lane's word wherever it stands (R193) -/

/-- Does the ring hold a position now? -/
def inRing (c : Crew) (pos : Nat) : Bool :=
  let gone := (leaving c).take c.done
  (decide (c.lo ≤ pos ∧ pos < c.lo + 64) && !gone.contains pos) ||
  (decide (c.target ≤ pos ∧ pos < c.target + 64) && gone.any (fun p => p % 64 == pos % 64))

/-- What bars the read of a word on a window stack: the Hamper is parked, its page does not translate, or it holds an uncorrectable error. -/
inductive StackBar where
  | parked
  | page (va : Nat) (x : Xl)
  | ue (word source die : Nat)
  deriving DecidableEq, Repr

/-- One word of a hardware crew's lane at a position: from the ring, from the window stack through the core's Hamper, or zero at or above
the high-water. -/
def windowWord (s : State) (key lane pos : Nat) : Except StackBar Nat :=
  match tabFind s.crews key with
  | none => .ok 0
  | some c =>
    if inRing c pos then .ok (lvsSeen s key pos lane)
    else if c.high ≤ pos then .ok 0
    else match launchOfCrew s c with
      | none => .ok 0
      | some l =>
        let va := stackAddr l c pos
        if hamperParked s (key / 256) then .error .parked
        else match stackXl s l va with
        | .ok pa _ _ => (match badAt s pa 128 with
            | some e => .error (.ue e.1 e.2.1 e.2.2)
            | none => .ok (field (readHome s pa 128) (4 * lane) 4))
        | x => .error (.page va x)

/-- What a barred read of a crew's window stack does to the machine (R29, R190). -/
def stackBars (key : Nat) (l : Launch) (b : StackBar) (s : State) : State :=
  match b with
  | .parked => s
  | .page va x => stackFails key l va x s
  | .ue word source die => stackUe key l.id (word, source, die) s

end Sys2Proof.Machine
end

