-- ==== Sys2Proof/Machine/Packed.lean ====
section
/-! DEFINITION. The packed vector nodes VADD to VCMP (R329 to R337). -/

namespace Sys2Proof.Machine

/-! ## Lanes -/

/-- Lanes of a type in a wide token (R329). -/
def laneCount (t : Ty) : Nat := 256 / tyBits t

def laneAt (w v i : Nat) : Nat := v / 2 ^ (w * i) % 2 ^ w

/-- The lanes of a wide value, lane 0 first. -/
def lanesOf (w v : Nat) : List Nat := (List.range (256 / w)).map (laneAt w v)

/-- A wide value of lanes. -/
def joinLanes (w : Nat) : List Nat → Nat
  | [] => 0
  | x :: t => x % 2 ^ w + 2 ^ w * joinLanes w t

/-- The value of a lane rounded or fitted to its type (R331). -/
def laneSum (t : Ty) (r : Round) (xs : List (Nat × Bool)) : Nat :=
  if isFloat t then roundTo t r (exSum r.rnd (xs.map (fun x => if x.2 then exNeg (asFloat t x.1) else asFloat t x.1)))
  else intResult (xs.map (fun x => if x.2 then -asInt t x.1 else asInt t x.1)).sum (tyBits t) (isS t) r.sat

def laneMul (t : Ty) (r : Round) (a b : Nat) : Nat :=
  if isFloat t then roundTo t r (exMul (asFloat t a) (asFloat t b))
  else intResult (asInt t a * asInt t b) (tyBits t) (isS t) r.sat

def laneFma (t : Ty) (r : Round) (a b c : Nat) : Nat :=
  if isFloat t then roundTo t r (addExact r.rnd (exMul (asFloat t a) (asFloat t b)) (asFloat t c))
  else intResult (asInt t a * asInt t b + asInt t c) (tyBits t) (isS t) r.sat

/-- A lane-wise operation of two wide operands. -/
def zipLanes (w : Nat) (g : Nat → Nat → Nat) (a b : Nat) : Nat :=
  joinLanes w ((List.range (256 / w)).map (fun i => g (laneAt w a i) (laneAt w b i)))

def vecNode2 (n : Node) (i : Instr) (g : Nat → Nat → Nat) (s : State) : Out :=
  calc2 n i (opdV n.ty n.a) (opdV n.ty n.b) .wide (zipLanes (tyBits n.ty) g) s

/-! ## Arithmetic -/

/-- VADD (R331). -/
def execVadd (n : Node) (r : Round) (s : State) : Out := vecNode2 n (.vadd n r) (fun a b => laneSum n.ty r [(a, false), (b, false)]) s

/-- VSUB (R331). -/
def execVsub (n : Node) (r : Round) (s : State) : Out := vecNode2 n (.vsub n r) (fun a b => laneSum n.ty r [(a, false), (b, true)]) s

/-- VMUL (R331). -/
def execVmul (n : Node) (r : Round) (s : State) : Out := vecNode2 n (.vmul n r) (laneMul n.ty r) s

/-- VFMA (R331): no lane is rounded through another format. -/
def execVfma (n : Node) (r : Round) (s : State) : Out :=
  calc3 n (.vfma n r) (opdV n.ty n.a) (opdV n.ty n.b) (opdV n.ty (srcC n)) .wide
    (fun a b c => let w := tyBits n.ty
      joinLanes w ((List.range (256 / w)).map (fun i => laneFma n.ty r (laneAt w a i) (laneAt w b i) (laneAt w c i)))) s

/-- A lane of VMIN or VMAX: the chosen operand, of a float rounded under RND and SAT, so that an infinite one saturates (R247, R331). -/
def laneMin (t : Ty) (r : Round) (a b : Nat) : Nat := if isFloat t then roundTo t r (asFloat t (pickMin t a b)) else pickMin t a b
def laneMax (t : Ty) (r : Round) (a b : Nat) : Nat := if isFloat t then roundTo t r (asFloat t (pickMax t a b)) else pickMax t a b

/-- VMIN (R331). -/
def execVmin (n : Node) (r : Round) (s : State) : Out := vecNode2 n (.vmin n r) (laneMin n.ty r) s

/-- VMAX (R331). -/
def execVmax (n : Node) (r : Round) (s : State) : Out := vecNode2 n (.vmax n r) (laneMax n.ty r) s

/-! ## Moving lanes (R332) -/

/-- VPACK: lane `k` replaced by the low bits of B. -/
def execVpack (n : Node) (k : Fin 64) (s : State) : Out :=
  calc2 n (.vpack n k) (opdV n.ty n.a) { opd64 n.b with ty := n.ty } .wide
    (fun a b => joinLanes (tyBits n.ty) ((lanesOf (tyBits n.ty) a).set k.val b)) s

/-- VUNPACK: lane `k`, zero-extended. -/
def execVunpack (n : Node) (k : Fin 64) (s : State) : Out :=
  calc1 n (.vunpack n k) (opdV n.ty n.a) .narrow (fun a => laneAt (tyBits n.ty) a k.val) s

/-- VPERM: lane i takes the lane of A that byte i of B names, modulo the lane count. -/
def execVperm (n : Node) (s : State) : Out :=
  calc2 n (.vperm n) (opdV n.ty n.a) (opdW n.b) .wide
    (fun a b => let w := tyBits n.ty
      joinLanes w ((List.range (256 / w)).map (fun i => laneAt w a (laneAt 8 b i % (256 / w))))) s

/-- VBCAST: the low bits of B in every lane. -/
def execVbcast (n : Node) (s : State) : Out :=
  calc1 n (.vbcast n) { opd64 n.a with ty := n.ty } .wide (fun a => fill (tyBits n.ty) a) s

/-! ## Joining lanes (R333) -/

/-- VRED. -/
def redLanes (t : Ty) (op : RedOp) (r : Round) (v : Nat) : Nat :=
  let ls := lanesOf (tyBits t) v
  match op with
  | .add =>
    if isFloat t then roundTo .f32 r (exSum r.rnd (ls.map (asFloat t)))
    else intResult (ls.map (asInt t)).sum 32 (isS t) r.sat
  | .min => ls.tail.foldl (pickMin t) (ls.getD 0 0)
  | .max => ls.tail.foldl (pickMax t) (ls.getD 0 0)

/-- VRED.ADD, .MIN and .MAX (R333). -/
def execVred (n : Node) (op : RedOp) (r : Round) (s : State) : Out :=
  calc1 n (.vred n op r) (opdV n.ty n.a) .narrow (redLanes n.ty op r) s

/-- c plus the exact sum of lane products, rounded once to F32 or fitted to S32. -/
def dotBits (t : Ty) (r : Round) (a b c : Nat) : Nat :=
  let w := tyBits t
  let ps := (lanesOf w a).zip (lanesOf w b)
  if isFloat t then roundTo .f32 r (exSum r.rnd (floatValue (fmtOf .f32) (c % 2 ^ 32) ::
      ps.map (fun p => exMul (asFloat t p.1) (asFloat t p.2))))
  else intResult (intOperand c 32 true + (ps.map (fun p => asInt t p.1 * asInt t p.2)).sum) 32 true r.sat

/-- VDOT (R333). -/
def execVdot (n : Node) (r : Round) (s : State) : Out :=
  calc3 n (.vdot n r) (opdV n.ty n.a) (opdV n.ty n.b) { opd64 (srcC n) with ty := n.ty } .narrow (dotBits n.ty r) s

/-! ## Scaling and converting (R334 to R336) -/

/-- A float times a power of two, the exponent clamped to ±1,024. -/
def scaleExact (x : Exact) (k : Int) : Exact :=
  exMul x (.fin false (pow2 (max (-1024) (min 1024 k))))

/-- VSCALE (R334); B is an S32, and so is an immediate there. -/
def execVscale (n : Node) (r : Round) (s : State) : Out :=
  calc2 n (.vscale n r) (opdV n.ty n.a) { opd64 n.b with ty := .s32 } .wide
    (fun a b => joinLanes (tyBits n.ty) ((lanesOf (tyBits n.ty) a).map (fun x =>
      roundTo n.ty r (scaleExact (asFloat n.ty x) (intOperand b 32 true))))) s

/-- One lane of SRND: the value that the target precision reaches, as F32; NaN stays NaN (R335). -/
def srndLane (t : Ty) (r : Round) (u x : Nat) : Nat :=
  match floatValue (fmtOf .f32) x with
  | .nan => canonicalNan (fmtOf .f32)
  | v =>
    let f := fmtOf t
    let c := encodeFloat f v r.rnd r.sat u
    let past := match v with
      | .fin _ q => decide (exFin (floatValue f f.top) < gridOf f r.rnd u q)
      | _ => true
    if past && fmtE2m1 f && !r.sat then canonicalNan (fmtOf .f32) else convert .f32 t { rnd := .rn, sat := false } 0 c
where
  /-- The grid value that a finite value rounds to, the grid going on past the largest finite value (R246). -/
  gridOf (f : Fmt) (rnd : Rnd) (u : Nat) (q : Rat) : Rat :=
    if q = 0 then 0 else
    let a := ratAbs q
    let ex := max (floorLog2 a) (1 - (f.bias : Int))
    let g := a / pow2 (ex - f.m)
    let k := g.floor.toNat
    ((if roundsUp rnd (decide (q < 0)) u k (g - (k : Rat)) then k + 1 else k : Nat) : Rat) * pow2 (ex - f.m)

/-- SRND (R335): one draw for each of the eight lanes under RS. An immediate extends by TY (R251). -/
def execSrnd (n : Node) (r : Round) (s : State) : Out :=
  runNode n (.srnd n r) [{ opdV .f32 n.a with ty := n.ty }] [] (fun f v s =>
    let (us, s) := drawIf r.rnd f.thread 8 s
    emit n f .wide (joinLanes 32 ((List.range 8).map (fun i => srndLane n.ty r (us.getD i 0) (laneAt 32 (v.getD 0 0) i)))) s) s

/-- VCVT (R336): the converted lanes of a narrowing form at POS, the rest from the merge operand. -/
def vcvtBits (dst src : Ty) (r : Round) (pos : Nat) (us : List Nat) (v m : Nat) : Nat :=
  let ws := tyBits src
  let wd := tyBits dst
  let one (i lane : Nat) : Nat := convert dst src r (us.getD i 0) (laneAt ws v lane)
  if wd ≤ ws then
    let n := 256 / ws
    joinLanes wd ((List.range (256 / wd)).map (fun j =>
      if pos * n ≤ j ∧ j < pos * n + n then one (j - pos * n) (j - pos * n) else laneAt wd m j))
  else joinLanes wd ((List.range (256 / wd)).map (fun j => one j (pos * (256 / wd) + j)))

/-- VCVT (R336). An immediate extends by TY (R251). -/
def execVcvt (n : Node) (from_ : Ty) (r : Round) (pos : Fin 8) (s : State) : Out :=
  runNode n (.vcvt n from_ r pos) [{ opdV from_ n.a with ty := n.ty }, opdV n.ty n.b] [] (fun f v s =>
    let (us, s) := drawIf r.rnd f.thread (256 / Nat.max (tyBits n.ty) (tyBits from_)) s
    emit n f .wide (vcvtBits n.ty from_ r pos.val us (v.getD 0 0) (v.getD 1 0)) s) s

/-- VCMP (R337). -/
def vcmpBits (t : Ty) (ft : FTest) (a b : Nat) : Nat :=
  let w := tyBits t
  ((List.range (256 / w)).map (fun i =>
    boolBit (if isFloat t then ftestHolds ft (asFloat t (laneAt w a i)) (asFloat t (laneAt w b i))
             else ftestInt ft (asInt t (laneAt w a i)) (asInt t (laneAt w b i))) i)).sum

/-- VCMP (R337). -/
def execVcmp (n : Node) (t : FTest) (s : State) : Out :=
  calc2 n (.vcmp n t) (opdV n.ty n.a) (opdV n.ty n.b) .narrow (vcmpBits n.ty t) s

end Sys2Proof.Machine
end

