-- ==== Sys2Proof/Machine/Sparse.lean ====
section
/-! DEFINITION. The sparse index nodes SCAN to SRED (R364, R365). -/

namespace Sys2Proof.Machine

/-- The eight 32-bit lanes of a wide token. -/
def lanes8 (v : Nat) : List Nat := lanesOf 32 v
/-- A lane that is padding. -/
def padLane : Nat := 2 ^ 32 - 1
def lanesIn (v : Nat) : List Nat := (lanes8 v).filter (· != padLane)

/-- A combination of at least one value (R365, R343): the exact sum rounded once for F32, a sum that wraps for integers, the
least or greatest, where even one value alone leaves as its pick with itself does, a NaN as the canonical NaN (R240). -/
def combineAll (t : Ty) (op : RedOp) (xs : List Nat) : Nat :=
  match op with
  | .add =>
    if isFloat t then encodeFloat (fmtOf t) (exSum .rn (xs.map (asFloat t))) .rn false 0
    else xs.sum % 2 ^ tyBits t
  | .min => xs.foldl (pickMin t) (xs.getD 0 0)
  | .max => xs.foldl (pickMax t) (xs.getD 0 0)

/-- SCAN: the carry with the lanes up to each one, or before it. Lane 0 of the exclusive form is the carry itself. -/
def scanBits (t : Ty) (op : RedOp) (excl : Bool) (v carry : Nat) : Nat :=
  let ls := lanes8 v
  joinLanes 32 ((List.range 8).map (fun i =>
    if excl && i == 0 then carry % 2 ^ 32 else combineAll t op (carry :: ls.take (if excl then i else i + 1))))

/-- SCAN (R365). -/
def execScan (n : Node) (op : RedOp) (excl : Bool) (s : State) : Out :=
  calc2 n (.scan n op excl) opdW' (opdT n.ty n.b) .wide (scanBits n.ty op excl) s
where
  opdW' : Opd := opdW n.a

/-- Which lanes of one vector stand in another, and whether the first may advance. -/
def lanesHit (a b : Nat) : Nat :=
  ((List.range 8).map (fun i => boolBit (laneAt 32 a i != padLane && (lanesIn b).contains (laneAt 32 a i)) i)).sum
def mayAdvance (a b : Nat) : Bool :=
  let top (l : List Nat) : Option Nat := l.foldl (fun m x => some (Nat.max x (m.getD 0))) none
  match top (lanesIn a), top (lanesIn b) with
  | none, _ => true
  | some x, some y => decide (x ≤ y)
  | some _, none => false

/-- ISECT (R365). -/
def isectBits (a b : Nat) : Nat :=
  lanesHit a b + lanesHit b a * 256 + boolBit (mayAdvance a b) 16 + boolBit (mayAdvance b a) 17

def execIsect (n : Node) (s : State) : Out := calc2 n (.isect n) (opdW n.a) (opdW n.b) .narrow isectBits s

/-- The smallest eight distinct values of two vectors, ascending. -/
def unionOf (a b : Nat) : List Nat := (sortBy id (lanesIn a ++ lanesIn b).eraseDups).take 8

/-- UNION and UNION.CNT (R365). -/
def unionBits (cnt : Bool) (a b : Nat) : Nat :=
  let u := unionOf a b
  let among (v : Nat) : Nat := ((lanesIn v).filter (fun x => u.contains x)).length
  if cnt then among a + 16 * among b else joinLanes 32 (u ++ List.replicate (8 - u.length) padLane)

def execUnion (n : Node) (cnt : Bool) (s : State) : Out :=
  calc2 n (.union n cnt) (opdW n.a) (opdW n.b) (if cnt then .narrow else .wide) (unionBits cnt) s

/-- REPEAT (R365): the index whose run of the exact counts holds each position. -/
def repeatBits (a start : Nat) : Nat :=
  let sums := (List.range 9).map (fun i => ((lanes8 a).take i).sum)
  joinLanes 32 ((List.range 8).map (fun j =>
    ((List.range 8).find? (fun i => decide (sums.getD i 0 ≤ start + j ∧ start + j < sums.getD (i + 1) 0))).getD padLane))

def execRepeat (n : Node) (s : State) : Out := calc2 n (.repeat_ n) (opdW n.a) (opd32 n.b) .wide repeatBits s

/-- The lanes of the run of equal keys that ends at a lane. -/
def runAt (keys : List Nat) (i : Nat) : List Nat :=
  let same := ((keys.take i).reverse.takeWhile (fun k => k == keys.getD i 0)).length
  (List.range (same + 1)).map (i - same + ·)

/-- SRED (R365). -/
def sredBits (t : Ty) (op : RedOp) (v keys : Nat) : Nat :=
  let ls := lanes8 v
  joinLanes 32 ((List.range 8).map (fun i => combineAll t op ((runAt (lanes8 keys) i).map (fun j => ls.getD j 0))))

def execSred (n : Node) (op : RedOp) (s : State) : Out := calc2 n (.sred n op) (opdW n.a) (opdW n.b) .wide (sredBits n.ty op) s

end Sys2Proof.Machine
end

