-- ==== Sys2Proof/Machine/CrewNodes.lean ====
section
/-! DEFINITION. Crew collectives CPOLL to KWR and the crew joins CBAR and CSYNC (R192 to R194, R338 to R345, R388, R428). A
firing of these nodes holds one token of each participant, in ascending lane order. -/

namespace Sys2Proof.Machine

/-- A participant: its lane, its thread and its argument (R340). -/
structure Member where
  lane : Nat
  thread : Nat
  arg : Nat
  deriving DecidableEq, Repr

def membersOf (s : State) (f : Firing) : List Member :=
  f.toks.map (fun (k : Token) => { lane := logicalLane s f.launch k.thread, thread := k.thread, arg := k.val.toNat })

/-- The tokens from a number on that find the four places of their output buffer taken stay with their node until there is one
(R173, R185). (DESIGN CHOICE, log 13) -/
def holdDue (since : Nat) (s : State) : State :=
  let ahead (k : Token) : Nat :=
    (s.tokens.filter (fun j => j.place == .out && j.net == k.net && j.src / 8 == k.src / 8 && decide (j.seq < k.seq))).length
  { s with tokens := s.tokens.map (fun k => if since ≤ k.seq && k.place == .out && decide (4 ≤ ahead k) then { k with place := .due } else k) }

/-- A result for each participant, with its own tag and the collective's wave (R194). -/
def emitAll (n : Node) (net : Net) (f : Firing) (rs : List (Member × Nat)) (s : State) : State :=
  holdDue s.nextId (rs.foldl (fun s r => emit n { f with thread := r.1.thread, core := coreOf r.1.thread } net r.2 s) s)

/-- A collective that reads no source. (DEDUCED, log 44) -/
def joinNode (go : Firing → List Member → State → State) (s : State) : Out :=
  .next (match s.cur with
    | none => s
    | some f =>
      let s := { s with cur := none }
      go f (membersOf s f) s)

/-- The thread of a lane of the firing's logical crew, where the lane exists (R193). -/
def laneThread (s : State) (f : Firing) (lane : Nat) : Option Nat :=
  match teamOf s f with
  | none => none
  | some m =>
    let tid := logicalCrew s f.launch f.thread * widthOf s f.launch + lane
    if tid < m.size then some (threadKey m tid) else none

/-- A lane's source value: one window slot, two, or a predicate, at its own position (R193, R338). -/
def laneSource (s : State) (f : Firing) (slot : Nat) (t : Ty) (lane : Nat) : Except (Nat × StackBar) Nat :=
  match laneThread s f lane with
  | none => .ok 0
  | some th =>
    let word (k : Nat) : Except (Nat × StackBar) Nat :=
      match windowWord s (crewOf th) (laneOf th) (fpOf s th + k) with
      | .ok v => .ok v
      | .error b => .error (crewOf th, b)
    if 32 ≤ slot then (word 31).map (fun v => v / 2 ^ (slot - 32) % 2)
    else if tyBits t = 64 then do
      let lo ← word slot
      let hi ← word (slot + 1)
      pure (lo + 2 ^ 32 * hi)
    else word slot

/-- Every lane's source. (DEDUCED, log 44) -/
def laneSources (s : State) (f : Firing) (slot : Nat) (t : Ty) : List Nat → Except (Nat × StackBar) (List Nat)
  | [] => .ok []
  | l :: ls => do
    let v ← laneSource s f slot t l
    let vs ← laneSources s f slot t ls
    pure (v :: vs)

/-- A collective that reads a source slot of every lane; a page of a window stack that bars a read leaves the firing to be
made again. -/
def sourceNode (slot : Nat) (t : Ty) (go : Firing → List Member → List Nat → State → State) (s : State) : Out :=
  joinNode (fun f ms s =>
    match laneSources s f slot t (List.range (widthOf s f.launch)) with
    | .ok vs => go f ms vs s
    | .error (key, b) =>
      match launch? s f.launch with
      | some l => stackBars key l b { s with resumed := s.resumed ++ [f] }
      | none => s) s

/-! ## Polls and masks (R341) -/

def pollHolds (op : Poll) (ones all : Nat) : Bool :=
  match op with
  | .some => decide (1 ≤ ones)
  | .every => ones == all
  | .same => ones == 0 || ones == all
  | .most => decide (all < 2 * ones)

/-- How many participants have a 1. -/
def onesOf (ms : List Member) (vs : List Nat) : Nat := (ms.filter (fun m => vs.getD m.lane 0 % 2 == 1)).length

/-- CPOLL (R341). -/
def execCpoll (n : Node) (op : Poll) (slot : Fin 64) (_all : Bool) (s : State) : Out :=
  sourceNode slot.val .b32 (fun f ms vs s =>
    let r := if pollHolds op (onesOf ms vs) ms.length then 1 else 0
    emitAll n .pred f (ms.map (fun m => (m, r))) s) s

/-- CMASK (R341). -/
def execCmask (n : Node) (part : Bool) (slot : Fin 64) (_all : Bool) (s : State) : Out :=
  if part then joinNode (fun f ms s =>
    let r := (ms.map (fun m => 2 ^ m.lane)).sum
    emitAll n .narrow f (ms.map (fun m => (m, r))) s) s
  else sourceNode slot.val .b32 (fun f ms vs s =>
    let r := (ms.map (fun m => if vs.getD m.lane 0 % 2 = 1 then 2 ^ m.lane else 0)).sum
    emitAll n .narrow f (ms.map (fun m => (m, r))) s) s

/-- CELECT (R341). -/
def execCelect (n : Node) (first : Bool) (slot : Fin 64) (_all : Bool) (s : State) : Out :=
  let pick (f : Firing) (ms : List Member) (lane : Option Nat) (s : State) : State :=
    emitAll n .pred f (ms.map (fun m => (m, if lane = some m.lane then 1 else 0))) s
  if first then sourceNode slot.val .b32 (fun f ms vs s => pick f ms ((ms.find? (fun m => vs.getD m.lane 0 % 2 == 1)).map (·.lane)) s) s
  else joinNode (fun f ms s => pick f ms (ms.head?.map (·.lane)) s) s

/-- CMATCH (R341). -/
def execCmatch (n : Node) (slot : Fin 64) (_all : Bool) (s : State) : Out :=
  sourceNode slot.val n.ty (fun f ms vs s =>
    emitAll n .narrow f (ms.map (fun m =>
      (m, ((ms.filter (fun l => vs.getD l.lane 0 == vs.getD m.lane 0)).map (fun l => 2 ^ l.lane)).sum))) s) s

/-! ## CPULL (R342) -/

/-- The source lane that an argument names; none where the result is zero. (DEDUCED, log 44) -/
def pullLane (op : Pull) (w : Nat) (own : Nat) (arg : Nat) : Option Nat :=
  let d := intOperand arg 32 true
  let d := if w = 16 ∧ 16 ≤ d ∧ d ≤ 31 then d - 16 else d
  if op = .wrap then some (d % (w : Int)).toNat
  else if 0 ≤ d ∧ d < w then some d.toNat
  else if op = .edge then some own else none

/-- CPULL (R342). -/
def execCpull (n : Node) (op : Pull) (slot : Fin 64) (_all : Bool) (s : State) : Out :=
  sourceNode slot.val n.ty (fun f ms vs s =>
    emitAll n .narrow f (ms.map (fun m =>
      (m, match pullLane op (widthOf s f.launch) m.lane m.arg with | some l => vs.getD l 0 | none => 0))) s) s

/-! ## Reductions (R343, R344) -/

/-- The combination of at least one value (R343). (DEDUCED, log 44) -/
def combineOp (t : Ty) (op : CombOp) (xs : List Nat) : Nat :=
  match op with
  | .add => combineAll t .add xs
  | .min => combineAll t .min xs
  | .max => combineAll t .max xs
  | .and => xs.tail.foldl (· &&& ·) (xs.getD 0 0)
  | .or => xs.foldl (· ||| ·) 0
  | .xor => xs.foldl (· ^^^ ·) 0

/-- What the exclusive scan gives its first participant. -/
def identityOf (t : Ty) (op : CombOp) : Nat :=
  let w := tyBits t
  match op with
  | .and => 2 ^ w - 1
  | .min => if isFloat t then 0x7F800000 else if isS t then 2 ^ (w - 1) - 1 else 2 ^ w - 1
  | .max => if isFloat t then 0xFF800000 else if isS t then 2 ^ (w - 1) else 0
  | _ => 0

def valuesOf (vs : List Nat) (ms : List Member) : List Nat := ms.map (fun m => vs.getD m.lane 0)

/-- CRED (R343). -/
def execCred (n : Node) (op : CombOp) (slot : Fin 64) (_all : Bool) (s : State) : Out :=
  sourceNode slot.val n.ty (fun f ms vs s =>
    let r := combineOp n.ty op (valuesOf vs ms)
    emitAll n .narrow f (ms.map (fun m => (m, r))) s) s

/-- CSCAN (R343). -/
def execCscan (n : Node) (op : CombOp) (excl : Bool) (slot : Fin 64) (_all : Bool) (s : State) : Out :=
  sourceNode slot.val n.ty (fun f ms vs s =>
    emitAll n .narrow f (ms.map (fun m =>
      let upto := ms.filter (fun l => if excl then decide (l.lane < m.lane) else decide (l.lane ≤ m.lane))
      (m, if upto.isEmpty then identityOf n.ty op else combineOp n.ty op (valuesOf vs upto)))) s) s

/-- The lowest participant of the segment that a lane lies in (R344). -/
def segmentStart (ms : List Member) (lane : Nat) : Nat :=
  ((ms.filter (fun m => decide (m.lane ≤ lane) && (m.arg % 2 == 1 || ms.head?.map (·.lane) == some m.lane))).getLast?.map (·.lane)).getD 0

/-- CSEG (R344). -/
def execCseg (n : Node) (op : CombOp) (incl : Bool) (slot : Fin 64) (_all : Bool) (s : State) : Out :=
  sourceNode slot.val n.ty (fun f ms vs s =>
    emitAll n .narrow f (ms.map (fun m =>
      let mine := ms.filter (fun l => segmentStart ms l.lane == segmentStart ms m.lane && (!incl || decide (l.lane ≤ m.lane)))
      (m, combineOp n.ty op (valuesOf vs mine)))) s) s

/-! ## KWR (R428) -/

/-- The hardware crews of a thread's logical crew (R104). -/
def crewsOf (s : State) (f : Firing) : List Nat :=
  match teamOf s f with
  | some m =>
    if widthOf s f.launch = 64 then
      let c := tidOf s f.thread / 64
      [2 * c, 2 * c + 1].filterMap (fun i => m.crews[i]?)
    else [crewOf f.thread]
  | none => []

/-- Writes one k register of the firing's logical crew. -/
def writeK (f : Firing) (k v : Nat) (s : State) : State :=
  let i := kIndex (widthOf s f.launch) (laneOf f.thread) k
  (crewsOf s f).foldl (fun s c => putWord true (c * 128 + i) f.node (-1) (BitVec.ofNat 32 v) s) s

/-- KWR: the lowest participant's argument (R428). -/
def execKwr (n : Node) (k : Fin 128) (s : State) : Out :=
  joinNode (fun f ms s =>
    let v := ((ms.head?).map (·.arg)).getD 0 % 2 ^ tyBits n.ty
    let s := writeK f k.val v s
    let s := if tyBits n.ty = 64 then writeK f (k.val + 1) (v / 2 ^ 32) s else s
    emitAll n .narrow f (ms.map (fun m => (m, v))) s) s

/-! ## Crew joins (R388) -/

/-- CBAR orders no memory access. -/
def execCbar (n : Node) (s : State) : Out := joinNode (fun f ms s => emitAll n .narrow f (ms.map (fun m => (m, 0))) s) s

/-- A member's part of CSYNC as an access: what a release there must follow (R373). -/
def syncPart (n : Node) (sc : Scope) (f : Firing) (m : Member) (now : Nat) : Access :=
  { id := now, i := .csync n sc, f := { f with thread := m.thread, core := coreOf m.thread }, a := 0, b := 0, c := 0, st := .flight,
    order := now, left := [], got := [], result := 0, drop := false, age := 0, fence := none, issued := 0 }

/-- CSYNC: every member's release, then every member's acquire; until the accesses before it have been performed the match is
made again (R373, R388). -/
def execCsync (n : Node) (sc : Scope) (s : State) : Out :=
  joinNode (fun f ms s =>
    let parts := ms.map (fun m => syncPart n sc f m s.nextId)
    let s := parts.foldl (fun s a => forceReads a s) s
    if parts.all (fun a => inOrder s a) then
      let s := parts.foldl (fun s a => acquireFor a (releaseFor a s)) s
      emitAll n .narrow f (ms.map (fun m => (m, 0))) s
    else { s with resumed := s.resumed ++ [f] }) s

end Sys2Proof.Machine
end

