-- ==== Sys2Proof/Machine/Queues.lean ====
section
/-! DEFINITION. Shootdowns, fault responses, spaces, queues, dependency words and the placers' rings (R69, R76 to R91, R138, R139, R149). -/

namespace Sys2Proof.Machine

/-! ## Shootdown (R76, R77) -/

/-- The address that XLAT_INV names. -/
def invVa (s : State) : Nat := bits s.xlat.invLo.toNat 31 12 * 4096 + bits s.xlat.invHi.toNat 21 0 * 2 ^ 32

/-- Does the I/O die's logic act: is the device past its start and not frozen (R53, R61)? What is written to its registers during a
freeze acts at the thaw, where the schedule places the row. (DEDUCED, log 25) -/
def ioRuns (s : State) : Bool := s.boot.released && !frozen s

/-- The lines that remote store buffers hold, by die and line. -/
def bufferedLines (s : State) : List Nat := (s.mem.rsb.map (fun e => e.1 / 2 ^ 52 * 2 ^ 45 + e.1 % 2 ^ 52 / 128)).eraseDups

/-- Removes the matching entries, and remembers the accesses in flight through them and the stores that stand in a remote store
buffer, one of which may have been translated through them. (DESIGN CHOICE, log 9) -/
def startInv (sp scope size va : Nat) (s : State) : State :=
  let held := (s.accesses.filter (fun a => (a.st == .flight || a.st == .held) && (match accVa a, launch? s a.f.launch with
    | some v, some l => invMatches sp scope size va l.space v
    | _, _ => false))).map (·.id)
  { s with xlat := { s.xlat with
      tlb := s.xlat.tlb.filter (fun e => !invMatches sp scope size va e.space (4096 * e.vpn))
      invBusy := true, invHeld := held, invLines := bufferedLines s, invNow := { sp := sp, scope := scope, size := size, va := va } } }

/-- SHOOTDOWN: GO with BUSY at 1, or with a reserved SCOPE or SIZE, sets ERR and starts nothing (R76). -/
def execShootdown (d : Word32) (s : State) : Out :=
  .next (if !answers s 0x2808 || frozen s then s else
    let v := d.toNat
    let s := { s with xlat := { s.xlat with invCtrl := keep d 0x7FF, invErr := s.xlat.invErr && !d.getLsbD 18 } }
    if s.xlat.invBusy || bits v 7 6 = 3 || 6 ≤ bits v 10 8 then { s with xlat := { s.xlat with invErr := true } }
    else startInv (bits v 5 0) (bits v 7 6) (bits v 10 8) (invVa s) s)

/-- SHOOTDOWN_DONE: no cache holds a matching entry, and every access through a removed entry has been performed at its home or parked, stores that waited in a remote store
buffer among them (R77, R211 (b)). -/
def execShootdownDone (s : State) : Out :=
  .next (if s.xlat.invBusy && !frozen s && s.xlat.invHeld.all (fun i =>
      match access? s i with | some a => a.st != .flight && a.st != .held | none => true) && s.xlat.invLines.all (fun k => !(bufferedLines s).contains k) &&
      s.xlat.tlb.all (fun e => !invHits s.xlat e.space e.vpn)
    then { s with xlat := { s.xlat with invBusy := false, invHeld := [], invLines := [] } } else s)

/-! ## The fault ring and the driver's answers (R81 to R84) -/

/-- XLAT_FQ_ENABLE: a change from 0 to 1 zeroes PROD (R76); faults that waited without a record get theirs where the ring
has room (R81). -/
def execXlatFqEnable (d : Word32) (s : State) : Out :=
  .next (if !answers s 0x2818 || frozen s then s else
    serveFaults { s with xlat := { s.xlat with
        fqLog := d.setWidth 4, fqEnable := true, prod := if s.xlat.fqEnable then s.xlat.prod else 0
        badId := s.xlat.badId && !d.getLsbD 10, lost := s.xlat.lost && !d.getLsbD 11 } })

/-- XLAT_FQ_CONS_WRITE: frees ring room; faults that waited without a record get theirs (R81). -/
def execXlatFqConsWrite (d : Word32) (s : State) : Out :=
  .next (if answers s 0x2820 && !frozen s then serveFaults { s with xlat := { s.xlat with cons := d } } else s)

/-- The parked accesses, queues, records and launches that wait on a fault go on (R83). -/
def wakeFault (key : Nat) (s : State) : State :=
  let un (f : Option Nat) : Option Nat := if f == some key then none else f
  { s with
    accesses := s.accesses.map (fun a => match a.st with
      | .parked k x f => { a with st := .parked k x (un f) }
      | _ => a)
    queues := s.queues.map (fun q => { q with fault := un q.fault, waiting := q.waiting.map (fun w => { w with faults := w.faults.map un }) })
    launches := s.launches.map (fun l => { l with fault := un l.fault })
    placed := s.placed.map (fun p => { p with fault := un p.fault })
    crews := s.crews.map (fun e => (e.1, { e.2 with moving := un e.2.moving })) }

/-- The outstanding fault that a response names. -/
def answered (s : State) : Option FaultRec := s.xlat.faults.find? (fun f => f.id == some s.xlat.respId.toNat)

def dropFault (key : Nat) (s : State) : State :=
  { s with xlat := { s.xlat with faults := s.xlat.faults.filter (·.key != key) } }

def badResponse (s : State) : State := { s with xlat := { s.xlat with badId := true } }

/-- RETRY (R83). -/
def execRetry (s : State) : Out :=
  .next (if !answers s 0x2828 || frozen s then s else match answered s with
    | none => badResponse s
    | some f => serveFaults (wakeFault f.key (dropFault f.key s)))

/-- Stops a queue with an error (R86, R88, R90). -/
def stopQueue (q err : Nat) (s : State) : State := modQueue q (fun x => { x with err := err, stopped := true, fault := none }) s

/-- A record that ends before any launch of it ran: its completion word carries the code (R90, R139, R145). -/
def endRecord (q : Nat) (w : Waiting) (cause : Nat) (s : State) : State :=
  let img : Image := { pa := 0, frames := [], creww := 0, emulate := false, stitch := false, entry := 0, emuh := 0xFFFF, width := 32, scratch := 0,
                       teamMax := 0, cpool := [], blocks := [] }
  let l : Launch :=
    { id := s.disp.nextLaunch, raw := w.raw, queue := q, index := w.index, space := (queue s q).space.toNat, prio := 0,
      order := 0, parent := none, parentTeam := 0, number := 0, depth := 0, vt := none, phase := .aborted, image := img,
      params := [], nextTeam := 0, retired := 0, teamCommits := 0, cause := some cause, causeAt := s.cycles, causeVt := 0, report := none, tern := false,
      deadline := 0, hang := 0, freeStacks := [], fault := none, faultVa := 0, requeue := false, ran := false, dies := [], stream := none, units := [] }
  modQueue q (fun x => { x with waiting := x.waiting.filter (·.index != w.index) })
    { s with launches := s.launches ++ [l], disp := { s.disp with nextLaunch := s.disp.nextLaunch + 1 } }

/-- The address that an access parked on a fault waits for: its own, within the page of the fault. -/
def parkedVa (f : FaultRec) (a : Access) : Nat :=
  match a.st with
  | .parked _ va _ => if va % 2 ^ 54 / 4096 = f.va / 4096 then va else f.va
  | _ => f.va

/-- What holds a launch on a fault: its accesses, its crews and the blocks that it fetches, each with the address and the tag that a report of it names. -/
def faultHolders (s : State) (f : FaultRec) : List (Nat × Nat × Nat) :=
  s.accesses.filterMap (fun a => match a.st with
    | .parked _ _ k => if k = some f.key then
        some (a.f.launch, parkedVa f a, ((thread? s a.f.thread).bind (fun t => vtOf s a.f.launch t.team)).getD 0xFFFF) else none
    | _ => none) ++
  (s.crews.filter (fun e => e.2.moving == some f.key)).filterMap (fun e =>
    (team? s e.2.team).map (fun t => (t.launch, e.2.movingVa, (vtOf s t.launch t.key).getD 0xFFFF))) ++
  (s.placed.filter (fun p => p.fault == some f.key)).filterMap (fun p =>
    (launch? s p.launch).map (fun l => (l.id, p.faultVa, namedTag s l)))

/-- The report of a fault that the driver has answered with FATAL: only ADDR is valid, and it and VT are the launch's own, though
other launches wait under the same FAULT_ID (R82, R83, R164). -/
def fatalReport (va vt : Nat) : Report := { emptyReport 0 vt with addrValid := true, addr := BitVec.ofNat 64 (va % 2 ^ 54) }

/-- FATAL: the launches that hold the ID's accesses abort with PAGE or PERM; a KIND 6 fault stops its queue; a
dependency word's record ends; a completion word's queue stops (R83, R84, R91, R139). -/
def execFatal (s : State) : Out :=
  .next (if !answers s 0x2828 || frozen s then s else match answered s with
    | none => badResponse s
    | some f =>
      let cause := if f.reason = 0 then 0x01 else 0x02
      let s := (faultHolders s f).foldl (fun s h =>
        let depth := ((launch? s h.1).map (·.depth)).getD 0
        abortLaunch h.1 cause false (some { fatalReport h.2.1 h.2.2 with depth := depth }) s) s
      let s := (List.range 64).foldl (fun s q =>
        if (queue s q).fault == some f.key then stopQueue q 3 s
        else ((queue s q).waiting.filter (fun w => w.faults.contains (some f.key))).foldl (fun s w => endRecord q w cause s) s) s
      let s := (s.launches.filter (fun l => l.fault == some f.key)).foldl (fun s l =>
        if l.phase == .dispatching then abortLaunch l.id cause false (some (fatalReport l.faultVa (namedTag s l))) s else badRec l s) s
      serveFaults (dropFault f.key s))

/-! ## Spaces (R69, R49) -/

/-- AS_CTRL_WRITE: disabling is ignored while LIVE is not 0; a space that is torn down refuses packets again, and a cut-over stops it no
more (R49 (d)). -/
def execAsCtrlWrite (n : Fin 64) (d : Word32) (s : State) : Out :=
  .next (if !answers s (0x2008 + 16 * n.val) then s
    else if d.getLsbD 0 then modSpace n.val (fun p => { p with enable := true }) s
    else if live s n.val ≠ 0 then s
    else modSpace n.val (fun p => { p with enable := false, dropEth := false, cutOver := false }) s)

/-! ## Queues (R85 to R90) -/

def queueBase (s : State) (q : Nat) : Nat :=
  bits (queue s q).baseLo.toNat 31 8 * 256 + bits (queue s q).baseHi.toNat 21 0 * 2 ^ 32

/-- The ring's records, LOGSIZE below 4 acting as 4 (R85). -/
def queueSize (s : State) (q : Nat) : Nat := 2 ^ Nat.max 4 (queue s q).logSize.toNat

/-- A queue's memory: the physical address of an open, writable page; else the queue parks or stops with BADQ
(R80, R86). (DEDUCED, log 27) An access that companion memory answers with an error, or whose page table holds an uncorrectable error, changes
nothing, and the queue unit makes it again. (DESIGN CHOICE, log 51) -/
def queueMem (q va : Nat) (s : State) : Option Nat × State :=
  let sp := (queue s q).space.toNat
  let rec_ (r : Nat) : FaultRec := { key := 0, id := none, space := sp, va := va, kind := 6, reason := r, vt := q, core := 0xFFFF,
                                     cookie := 0 }
  match translate s 160 sp va .devWrite with
  | .ok pa p _ => if !pteOpen p then (none, stopQueue q 3 s) else if reachable s pa then (some pa, s) else (none, s)
  | .link | .ue _ => (none, s)
  | .park r =>
    if !s.xlat.fqEnable then (none, stopQueue q 3 (fatalFault (rec_ r) s))
    else
      let (k, s) := parkFault (rec_ r) s
      (none, modQueue q (fun x => { x with fault := some k }) s)
  | .page => (none, stopQueue q 3 (fatalFault (rec_ 2) s))
  | .perm => (none, stopQueue q 3 (fatalFault (rec_ 3) s))

/-- May the queue unit work on this queue now? -/
def queueRuns (s : State) (q : Nat) : Bool :=
  let x := queue s q
  s.boot.released && !frozen s && x.enable && !x.stopped && x.fault.isNone && (space s x.space.toNat).enable

/-- Reads HEAD where an enable has asked for it (R85, R88). (DEDUCED, log 27) -/
def readHead (q : Nat) (s : State) : State :=
  if !(queue s q).needHead then s
  else match queueMem q (queueBase s q + 128) s with
    | (some pa, s) =>
      let h := ofBytes (readHome s pa 8)
      modQueue q (fun x => { x with head := h, tail := h, needHead := false }) s
    | (none, s) => s

/-- Reads TAIL at system scope; a TAIL that overruns the ring or moves backwards stops the queue (R87, R88). (DEDUCED, log 27) -/
def readTail (q : Nat) (s : State) : State :=
  let s := readHead q s
  if (queue s q).needHead || !queueRuns s q then s
  else match queueMem q (queueBase s q) s with
    | (some pa, s) =>
      let t := ofBytes (readHome s pa 8)
      if t < (queue s q).tail then stopQueue q 2 s
      else if queueSize s q < t - (queue s q).head then stopQueue q 1 s
      else modQueue q (fun x => { x with tail := t }) s
    | (none, s) => s

/-- QUEUE_ENABLE: clears ERR and STOPPED and reads HEAD and TAIL; fields other than ENABLE are written only while
ENABLE is 0 (R85). Bindings are accepted from READY on (R53). -/
def execQueueEnable (q : Fin 64) (d : Word32) (s : State) : Out :=
  .next (if (queue s q.val).enable || !answers s (0x2408 + 16 * q.val) || !ioRuns s then s
    else
      let v := d.toNat
      let s := modQueue q.val (fun x => { x with
        space := BitVec.ofNat 6 (bits v 5 0), prio := BitVec.ofNat 2 (bits v 7 6), logSize := BitVec.ofNat 4 (bits v 11 8),
        enable := true, err := 0, stopped := false, needHead := true, fault := none }) s
      if queueRuns s q.val then readTail q.val s else s)

/-- QUEUE_DISABLE: records already taken continue (R85). -/
def execQueueDisable (q : Fin 64) (d : Word32) (s : State) : Out :=
  .next (if !answers s (0x2408 + 16 * q.val) then s
    else
      let v := d.toNat
      if (queue s q.val).enable then modQueue q.val (fun x => { x with enable := false }) s
      else modQueue q.val (fun x => { x with
        space := BitVec.ofNat 6 (bits v 5 0), prio := BitVec.ofNat 2 (bits v 7 6), logSize := BitVec.ofNat 4 (bits v 11 8) }) s)

/-- QUEUE_TAIL_READ (R87). -/
def execQueueTailRead (q : Fin 64) (s : State) : Out := .next (if queueRuns s q.val then readTail q.val s else s)

/-! ## Dependency words (R139) -/

/-- The lines that dependency words are monitored on. (DEDUCED, log 27) -/
def monitoredLines (s : State) : List Nat :=
  ((s.queues.map (fun q => (q.waiting.map (fun w => w.monitored.filterMap id)).flatten)).flatten).eraseDups

/-- Reads one dependency word of a waiting record (R80, R139): one that parks is not satisfied until it has been read again. (DEDUCED, log 27) One that companion memory answers with an error leaves
what was known of it, and is read again. (DESIGN CHOICE, log 51) -/
def readDep (q index i : Nat) (s : State) : State :=
  match (queue s q).waiting.find? (·.index == index) with
  | none => s
  | some w =>
    let sp := (queue s q).space.toNat
    let va := lrDepAddr w.raw i
    let rec_ (r : Nat) : FaultRec := { key := 0, id := none, space := sp, va := va, kind := 5, reason := r, vt := 0, core := 0xFFFF,
                                       cookie := BitVec.ofNat 64 (lrCookie w.raw) }
    let setW (f : Waiting → Waiting) (s : State) : State :=
      modQueue q (fun x => { x with waiting := modWhere (·.index == index) f x.waiting }) s
    match translate s 160 sp va .device with
    | .link | .ue _ => s
    | .ok pa _ _ =>
      if !reachable s pa then s
      else
      let v := ofBytes (readHome s pa 8)
      let good := if lrDepMode w.raw i = 1 then v == lrDepVal w.raw i else decide (lrDepVal w.raw i ≤ v)
      let line := pa / 128
      let mon := monitoredLines s
      let m := if mon.contains line || mon.length < 256 then some line else none
      setW (fun w => { w with sat := w.sat.set i good, monitored := w.monitored.set i m, faults := w.faults.set i none }) s
    | .park r =>
      if !s.xlat.fqEnable then endRecord q w (if r = 0 then 0x01 else 0x02) (fatalFault (rec_ r) s)
      else
        let (k, s) := parkFault (rec_ r) s
        setW (fun w => { w with faults := w.faults.set i (some k), sat := w.sat.set i false }) s
    | .page => endRecord q w 0x01 (fatalFault (rec_ 2) s)
    | .perm => endRecord q w 0x02 (fatalFault (rec_ 3) s)

/-- RECORD_TAKE: checks LR_DONE, copies the record, writes HEAD + 1, refuses a record with a broken field, and reads
the dependency words (R87, R90, R138, R139). -/
def execRecordTake (q : Fin 64) (s : State) : Out :=
  .next (if !queueRuns s q.val || (queue s q.val).needHead || (queue s q.val).tail ≤ (queue s q.val).head then s
    else
      let q := q.val
      let x := queue s q
      let i := x.head
      match queueMem q (queueBase s q + 256 + 256 * (i % queueSize s q)) s with
      | (none, s) => s
      | (some pa, s) =>
        let raw := readHome s pa 256
        if lrDone raw % 8 ≠ 0 || (openTarget s x.space.toNat (lrDone raw) 8).isNone then stopQueue q 4 s
        else match queueMem q (queueBase s q + 128) s with
          | (none, s) => s
          | (some ha, s) =>
            let s := writeSys ha (toBytes 8 (i + 1)) s
            let w : Waiting := { index := i, raw := raw, sat := (List.range 4).map (fun k => decide (lrDepMode raw k = 0)),
                                 monitored := List.replicate 4 none, faults := List.replicate 4 none, wasElig := false }
            let s := modQueue q (fun x => { x with head := i + 1, waiting := x.waiting ++ [w] }) s
            if !lrLimitsOk raw then endRecord q w 0x06 s
            else (List.range 4).foldl (fun s k => if lrDepMode raw k = 0 then s else readDep q i k s) s)

/-- Is the word of a waiting record still to be read, monitored or not as asked? -/
def depPending (s : State) (q index i : Nat) (mon : Bool) : Bool :=
  match (queue s q).waiting.find? (·.index == index) with
  | some w => !w.wasElig && lrDepMode w.raw i ≠ 0 && (w.faults.getD i none).isNone && (w.monitored.getD i none).isSome == mon
  | none => false

/-- DEP_WORD_READ: a monitored word's line was invalidated (R139). -/
def execDepWordRead (q : Fin 64) (index : Nat) (i : Fin 4) (s : State) : Out :=
  .next (if !frozen s && depPending s q.val index i.val true then readDep q.val index i.val s else s)

/-- DEP_POLL: the words that cannot be monitored are read again every 10 µs, which are 7,000 cycles (R6, R139). -/
def execDepPoll (q : Fin 64) (index : Nat) (i : Fin 4) (s : State) : Out :=
  .next (if !frozen s && depPending s q.val index i.val false && (s.pollAt == s.cycles || decide (s.pollAt + 7000 ≤ s.cycles))
    then readDep q.val index i.val { s with pollAt := s.cycles } else s)

/-! ## Placer rings (R149) -/

/-- PLC_RING_ENABLE: a change of ENABLE from 0 to 1 zeroes the ring's producer and consumer registers (R149). -/
def execPlcRingEnable (die : Fin 4) (log : Bool) (d : Word32) (s : State) : Out :=
  .next (if !answers s 0x3608 then s else
    let f (p : Placer) : Placer :=
      if log then (if p.logOn then p else { p with logLog := d.setWidth 4, logOn := true, logProd := 0, logCons := 0 })
      else (if p.freeOn then p else { p with freeLog := d.setWidth 4, freeOn := true, freeProd := 0, freeCons := 0 })
    { s with placers := listMod s.placers die.val f })

end Sys2Proof.Machine
end

