-- ==== Sys2Proof/Machine/Endings.lean ====
section
/-! DEFINITION. What ends launches from outside their firings: a hang (R159, R160), a deadline (R143), a kill (R145), a cluster's reset
(R200) and the failure of a Kamub port (R35). The meanings of HANG, DEADLINE, KILL, KILL_ALL, KILL_DONE, CLUSTER_RESET, FLIT_CRC_ERROR and
PORT_DOWN. -/

namespace Sys2Proof.Machine

/-! ## Hangs (R159, R160) -/

/-- An .sc atomic that is in flight and waits for the serialising token has its turn, and the token goes on as it was (R160, R229).
(DEDUCED, log 36) -/
def attemptSc (id : Nat) (s : State) : State :=
  match s.scWaiting.find? (fun w => w / 4 == id) with
  | none => s
  | some w => { attempt id { s with scToken := w % 4, scAt := netCycle s, scLast := 0 } with scToken := s.scToken, scAt := s.scAt, scLast := s.scLast }

/-- The accesses in flight of some launches complete, in the order in which they issued, and deliver nothing (R160 step 1): a copy has
the words that it has still to move, and everything else one attempt. What parks or waits stays. (DEDUCED, log 36) -/
def finishFlight (ids : List Nat) (s : State) : State :=
  let going := sortBy (fun (a : Access) => a.order) (s.accesses.filter (fun a => ids.contains a.f.launch &&
    (a.st == .flight || a.st == .held || (a.st == .blocked && !a.left.isEmpty))))
  going.foldl (fun s a =>
    let s := captureCopy a.id (attemptSc a.id (attempt a.id s))
    match access? s a.id with
    | some x => (match x.i with
        | .copy _ _ _ _ | .copys _ _ _ _ => (List.range (copyShape x).words).foldl (fun s w => copyWord x.id w s) s
        | _ => s)
    | none => s) s

/-- Does a top-level launch hang now: has its counter reached LR_HANG, unpaused, while it holds tokens or waiting threads and its tag is
ACTIVE (R159)? -/
def hangDue (s : State) (id : Nat) : Bool :=
  match launch? s id with
  | some l => l.parent.isNone && !hangPaused s id && decide (lrHang l.raw ≤ l.hang) && holdsWork s id && topActive s l
  | none => false

/-- HANG (R159, R160). (DEDUCED, log 36) -/
def evHang (id : Nat) (s : State) : State :=
  match launch? s id with
  | some l => if hangDue s id then abortLaunch id 0x0C false none (occupancyMap l (finishFlight (family s id) s)) else s
  | none => s

/-- A launch that hangs in this cycle hangs before a cause of a higher code ends it, since of the causes of one cycle the lowest code wins
(R165 (b)). A firing or a response would have restarted its counter (R159), so this is asked only of causes that come from outside.
(DEDUCED, log 36) -/
def hangFirst (id : Nat) (s : State) : State := evHang (topOf s id) s

def execHang (id : Nat) (s : State) : Out := .next (evHang id s)

/-! ## Deadlines (R143) -/

/-- DEADLINE (R143). (DEDUCED, log 36) -/
def evDeadline (id : Nat) (s : State) : State :=
  match launch? s id with
  | none => s
  | some l =>
    if l.parent.isNone && !frozen s && lrDeadline l.raw != 0 && decide (lrDeadline l.raw * cyclesPerUs ≤ l.deadline) && (topActive s l || abortedNow s l)
    then abortLaunch id 0x0D false none (hangFirst id s) else s

def execDeadline (id : Nat) (s : State) : Out := .next (evDeadline id s)

/-! ## Kills (R144, R145) -/

/-- Kills one taken record: a waiting one is removed, a launch that R144 counts as ACTIVE aborts. (DEDUCED, log 42) -/
def killRecord (q index : Nat) (s : State) : State :=
  let bump (s : State) : State := { s with disp := { s.disp with kills := satAdd 255 s.disp.kills 1 } }
  match (queue s q).waiting.find? (·.index == index) with
  | some w =>
    let t := bump s
    endRecord q w 0x17 { t with disp := { t.disp with killed := t.disp.nextLaunch :: t.disp.killed } }
  | none =>
    match s.launches.find? (fun l => l.queue == q && l.index == index && l.parent.isNone) with
    | some l =>
      let s := hangFirst l.id s
      let t := abortLaunch l.id 0x17 false none s
      if l.cause.isNone && (match launch? t l.id with | some m => m.cause.isSome | none => false)
      then { (bump t) with disp := { (bump t).disp with killed := l.id :: t.disp.killed } } else t
    | none => s

/-- Starts a kill unless one is in progress. (DEDUCED, log 42) -/
def startKill (d : Word32) (act : State → State) (s : State) : State :=
  if s.disp.killBusy || !answers s 0x3414 || frozen s then s
  else act { s with disp := { s.disp with killQ := d.setWidth 6, killAll := d.getLsbD 8, killBusy := true, killed := [] } }

/-- KILL: the one record whose index DISP_KILL_HI:LO names (R145). -/
def execKill (d : Word32) (s : State) : Out :=
  .next (startKill d (fun s => killRecord s.disp.killQ.toNat (s.disp.killHi.toNat * 2 ^ 32 + s.disp.killLo.toNat) s) s)

/-- KILL_ALL: every record of the queue that has been taken and has not finished (R145). -/
def execKillAll (d : Word32) (s : State) : Out :=
  .next (startKill d (fun s =>
    let q := s.disp.killQ.toNat
    let idx := (queue s q).waiting.map (·.index) ++
      (s.launches.filter (fun l => l.queue == q && l.parent.isNone)).map (·.index)
    idx.foldl (fun s i => killRecord q i s) s) s)

/-- KILL_DONE: every effect of the kill has completed, the completion words of the records it removed among them (R145). -/
def execKillDone (s : State) : Out :=
  .next (if s.disp.killBusy && !frozen s && s.disp.killed.all (fun i => (launch? s i).isNone)
    then { s with disp := { s.disp with killBusy := false, killed := [] } } else s)

/-! ## Cluster reset (R200) -/

/-- Empties the fabrics of a cluster: tokens in stores, buffers, switch boxes and seam registers go, matches that wait to be made again
with them, the links have their allowances back, and what its accesses in flight would still
answer is dropped (R200 steps 4 and 6). (DEDUCED, log 34) -/
def clearFabrics (c : Nat) (s : State) : State :=
  { s with
    tokens := s.tokens.filter (fun k => k.place == .overflow || coreOf k.thread / 4 != c)
    resumed := s.resumed.filter (fun f => f.core / 4 != c)
    seams := s.seams.filter (fun e => e.1 / 768 != c)
    accesses := s.accesses.map (fun (a : Access) =>
      if a.f.core / 4 == c && (match a.st with | .parked _ _ _ | .waiting => false | _ => true) then { a with drop := true } else a) }

/-- CLUSTER_RESET: every launch with stitched blocks on the cluster aborts with CLUSTER, and the cluster's fabrics are
cleared. The seven steps of R200 are one step of the model, which takes no time: no route stays broken behind it, and a packet or a
response that its ports drop is an access whose answer is dropped. (DEDUCED, log 34) -/
def evClusterReset (c : Nat) (s : State) : State :=
  if 40 ≤ c then s
  else
    let ids := ((s.placed.filter (fun p => p.core / 4 == c && isStitched s p.launch p.block)).map (·.launch)).eraseDups
    clearFabrics c (ids.foldl (fun s l => abortLaunch l 0x18 false none (hangFirst l s)) s)

/-- A unit of allowance comes back over a seam link; one that would raise the allowance above 4 resets the cluster (R199, R200). -/
def seamUnit (link : Nat) (s : State) : State :=
  if tabGet 0 s.seams link = 0 then evClusterReset (link / 768) s
  else { s with seams := tabSet 0 s.seams link (tabGet 0 s.seams link - 1) }

/-- CLUSTER_RESET (R200); while its clocks stand it does not act (R61). -/
def execClusterReset (c : Nat) (s : State) : Out := .next (if frozen s then s else evClusterReset c s)

/-! ## Kamub ports (R35) -/

/-- The ranges of virtual memory for which an access that is under way asks, or has still to ask: the words of a copy that have not moved,
the lanes of a gather or scatter that are not delivered, the rows of a tile, the record of a child launch. (DEDUCED, log 24) -/
def wireRanges (a : Access) : List (Nat × Nat) :=
  let lanes (sp : Sp) (sx : Bool) (step n count : Nat) : List (Nat × Nat) :=
    if sp = .g ∨ sp = .l then
      (undelivered a count).filterMap (fun i => (laneIndex sx a.b.toNat i).map (fun k => (laneAddr (a.a.toNat % 2 ^ 64) step k, n)))
    else []
  let rows (n : Node) (sc : ScaleKind) : List (Nat × Nat) :=
    let d := tileDesc (a.b.toNat % 2 ^ 64)
    let h : Head := { elem := n.ty, scale := sc, rows := d.rows, cols := d.cols }
    (List.range d.rows).map (fun r => ((a.a.toNat % 2 ^ 64 + d.stride * r) % 2 ^ 64, imageElems h + imageScales h))
  match a.i with
  | .copy _ x y _ | .copys _ x y _ =>
    let left := (List.range (copyShape a).words).filter (fun w => decide (a.left.headD 0 ≤ w) && !a.left.tail.contains w)
    left.flatMap (fun w => (if x ∨ !a.got.isEmpty then [] else [(copySrc a w, 8)]) ++ (if y then [] else [(copyDst a w, 8)]))
  | .gather n sp sx _ | .scatter n sp sx _ | .scatadd n sp sx _ => lanes sp sx (tyBits n.ty / 8) (tyBits n.ty / 8) (256 / tyBits n.ty)
  | .gathert n sp sx sc _ =>
    let d := tileDesc (a.c.toNat % 2 ^ 64)
    let h : Head := { elem := n.ty, scale := sc, rows := 8, cols := d.cols }
    lanes sp sx d.stride (imageElems h + imageScales h) 8
  | .tload n sc _ => if a.got.isEmpty then rows n sc else []
  | .tstore n sc _ _ => rows n sc
  | .launch _ => [(a.a.toNat % 2 ^ 64, 256)]
  | .nsend _ _ | .nrecv _ _ | .flushr _ _ | .discr _ => [(a.a.toNat % 2 ^ 64, a.b.toNat % 2 ^ 64)]
  | _ => match accVa a with
    | some va => [(va % 2 ^ 64, match form a.i with | some m => Nat.max 1 (tyBits m.node.ty / 8) | none => 1)]
    | none => []

/-- Has an access requests on their way to memory? -/
def underWay (a : Access) : Bool :=
  match a.st with
  | .flight | .held => true
  | .blocked => (match a.i with | .copy _ _ _ _ | .copys _ _ _ _ => true | _ => false)
  | _ => false

/-- Does an access under way ask a line of the companion over a port? -/
def onPort (s : State) (p : Nat) (a : Access) : Bool :=
  underWay a && (wireRanges a).any (fun r => (physical s a.f (.g, r.1 % 2 ^ 54, r.2)).any (fun q =>
    decide (2 ^ 51 ≤ q.1) && (List.range ((q.1 + q.2 + 127) / 128 - q.1 / 128)).any (fun i =>
      Config.kamubPort (q.1 / 128 + i) s.kamub.up.toNat == p)))

/-- A port goes down: requests in flight on it abort their launches with LINK, and companion copies count as
dropped (R35). (DESIGN CHOICE, log 16) (DEDUCED, log 24) -/
def portFails (p : Nat) (s : State) : State :=
  let hit := s.accesses.filter (onPort s p)
  let s := { s with kamub := { s.kamub with up := s.kamub.up &&& ~~~(1#4 <<< p), down := s.kamub.down ||| (1#4 <<< p),
                                            copies := [], retries := s.kamub.retries.set p 0 } }
  raiseAlert 5 (hit.foldl (fun s a => abortOf a.f 0x15 (hangFirst a.f.launch s)) s)

/-- FLIT_CRC_ERROR: the flit is retried, up to 8 times (R35); during a freeze the ports stay trained (R61). -/
def execFlitCrcError (p : Fin 4) (s : State) : Out :=
  .next (if frozen s || !s.kamub.up.getLsbD p.val then s
    else if s.kamub.retries.getD p.val 0 < 8 then
      { s with kamub := { s.kamub with retries := listMod s.kamub.retries p.val (· + 1),
                                       retryCount := satAdd 255 s.kamub.retryCount 1 } }
    else portFails p.val s)

/-- PORT_DOWN (R35); during a freeze the ports stay trained (R61). -/
def execPortDown (p : Fin 4) (s : State) : Out := .next (if !frozen s && s.kamub.up.getLsbD p.val then portFails p.val s else s)

end Sys2Proof.Machine
end

