-- ==== Sys2Proof/Machine/Tokens.lean ====
section
/-! DEFINITION. Tokens and firing (R167, R170 to R178, R192, R381): a token's way into a matching store or the overflow area and
back, matches, and the firing that a PE chooses. The meanings of TOKEN_ARRIVE, TOKEN_RETURN, AGE_RENUMBER and
DEPARTURE_COMPLETE. -/

namespace Sys2Proof.Machine

/-- How a node matches (R171, R192, R290, R381). -/
inductive Matching where
  | entry
  | ports (n : Nat)
  | merge
  | combine
  | join
  deriving DecidableEq, Repr

def matchingOf (i : Instr) : Matching :=
  match i with
  | .merge _ _ => .merge
  | .cmb _ _ => .combine
  | .undef w => if w.toNat / 2 ^ 107 % 4 = 0 then .entry else .ports (w.toNat / 2 ^ 107 % 4)
  | _ =>
    match form i with
    | some m => if m.node.tag = .join then .join else if m.node.ari.val = 0 then .entry else .ports m.node.ari.val
    | none => .entry

def inStore (k : Token) : Bool := k.place == .general || k.place == .completion

/-- Do two tokens stand for one node of one block? -/
def sameNode (k j : Token) : Bool := k.launch == j.launch && k.block == j.block && k.replica == j.replica && k.node == j.node

/-- Have two tokens one key at that node: thread and wave (R171)? -/
def sameKey (k j : Token) : Bool := sameNode k j && k.thread == j.thread && k.wave == j.wave

/-- Have two tokens one key at a crew-join node: logical crew and wave (R192)? -/
def sameCrew (s : State) (k j : Token) : Bool :=
  sameNode k j && k.wave == j.wave && ((thread? s k.thread).map (·.team)) == ((thread? s j.thread).map (·.team)) &&
  logicalCrew s k.launch k.thread == logicalCrew s j.launch j.thread

/-- The PE that a token is bound for. -/
def peOf (s : State) (k : Token) : Nat := physPe s (coreOf k.thread) k.launch k.block k.replica k.node

def modToken (seq : Nat) (g : Token → Token) (s : State) : State := { s with tokens := modWhere (·.seq == seq) g s.tokens }
def dropToken (seq : Nat) (s : State) : State := { s with tokens := s.tokens.filter (·.seq != seq) }

/-- The firing that a token's thread makes of some tokens. -/
def firingOf (k : Token) (toks : List Token) : Firing :=
  { thread := k.thread, core := coreOf k.thread, launch := k.launch, block := k.block, replica := k.replica, node := k.node,
    wave := k.wave, toks := toks }

/-! ## Masks of crew-join nodes (R192, R338, R339) -/

/-- The lanes of a thread's logical crew that exist. -/
def lanesThere (s : State) (l t : Nat) : List Nat :=
  let w := widthOf s l
  let size := (((thread? s t).bind (fun x => team? s x.team)).map (·.size)).getD 0
  (List.range w).filter (fun i => decide (logicalCrew s l t * w + i < size))

/-- Those lanes as a mask. -/
def laneBits (s : State) (l t : Nat) : Nat := ((lanesThere s l t).map (2 ^ ·)).sum

/-- The mask that a crew-join node reads: its bits below the effective width, or every lane that exists (R339). -/
def joinMask (s : State) (n : Node) (l t : Nat) : Nat :=
  let w := widthOf s l
  match n.b with
  | .kreg k => (kWord s l t k.val + (if w = 64 then 2 ^ 32 * kWord s l t (k.val + 1) else 0)) % 2 ^ w
  | .imm => ((immRaw n).signExtend 64).toNat % 2 ^ w
  | _ => laneBits s l t

/-- The lanes that a collective waits for: those of the mask that exist and have not retired. -/
def waitedLanes (s : State) (l t mask : Nat) : List Nat :=
  (lanesThere s l t).filter (fun i => bit mask i &&
    (match (thread? s t).bind (fun x => team? s x.team) with
     | some m => (match thread? s (threadKey m (logicalCrew s l t * widthOf s l + i)) with | some x => x.st != .retired | none => false)
     | none => false))

/-! ## Matches -/

/-- The oldest of some tokens. -/
def oldest (ks : List Token) : Option Token := leastBy (fun (k : Token) => k.age * 2 ^ 64 + k.seq) ks

/-- The oldest token of each of the given groups, if every group has one. -/
def oldestEach : List (List Token) → Option (List Token)
  | [] => some []
  | g :: gs => match oldest g, oldestEach gs with
    | some k, some ks => some (k :: ks)
    | _, _ => none

/-- The groups whose oldest tokens make a token's match: one for each port, or one for each lane. -/
def groupsFor (s : State) (i : Instr) (k : Token) (store : List Token) : List (List Token) :=
  match matchingOf i with
  | .entry | .merge | .combine => [[k]]
  | .ports n => (List.range n).map (fun p => store.filter (fun j => sameKey k j && j.port == p))
  | .join => (waitedLanes s k.launch k.thread k.count).map (fun lane =>
      store.filter (fun j => sameCrew s k j && logicalLane s j.launch j.thread == lane))

/-- Has a token at a CMB node reached its count? `val` holds the accumulator, and from bit 64 the tokens combined. -/
def combined (k : Token) : Nat := k.val.toNat / 2 ^ 64 % 2 ^ 32

/-- The complete match that a token in a store belongs to. -/
def matchFrom (s : State) (i : Instr) (k : Token) (store : List Token) : Option Firing :=
  match matchingOf i with
  | .combine => if 0 < k.count ∧ combined k = k.count then some (firingOf k [k]) else none
  | .join => if k.count = 0 then none else (match oldestEach (groupsFor s i k store) with
      | some (j :: js) => some (firingOf j (j :: js))
      | _ => none)
  | _ => (oldestEach (groupsFor s i k store)).map (firingOf k)

/-- Does a token complete a match with tokens already in the store: has every other port, or lane, one to spare? (DEDUCED, log 34) -/
def completes (s : State) (i : Instr) (k : Token) (store : List Token) : Bool :=
  match matchingOf i with
  | .entry | .merge => true
  | .combine => decide (0 < k.count) && combined k == k.count
  | .ports n =>
    let mine := (store.filter (fun j => sameKey k j && j.port == k.port)).length
    (List.range n).all (fun p => p == k.port || decide (mine < (store.filter (fun j => sameKey k j && j.port == p)).length))
  | .join =>
    let at_ (lane : Nat) : Nat := (store.filter (fun j => sameCrew s k j && logicalLane s j.launch j.thread == lane)).length
    let own := logicalLane s k.launch k.thread
    (waitedLanes s k.launch k.thread k.count).all (fun lane => lane == own || decide (at_ own < at_ lane))

/-! ## Into the store (R170, R174) -/

/-- A core's age counter (R170). -/
def ageNow (s : State) (core : Nat) : Nat := s.cycles - tabGet 0 s.core.ageBase core

/-- The tokens of a PE that take entries of one kind, those of the matches that wait to be made again among them. -/
def entriesOf (s : State) (pe : Nat) (p : Place) : Nat :=
  ((s.tokens ++ s.resumed.flatMap (·.toks)).filter (fun k => k.place == p && k.port != 3 && peOf s k == pe)).length

/-- The core on whose fabric a token stands: behind a seam link the receiver's, and a token that a port sends that of its thread. -/
def fabricOf (k : Token) : Nat :=
  match k.place with
  | .seam link => link / 768 * 4 + link / 48 % 4
  | _ => if k.src < 2 ^ 24 then k.src / 8 / 256 else coreOf k.thread

/-- Have the switch boxes of a core's fabric room for `n` more tokens? Of the 1,024 tokens of R185, 384 stand in the seam registers, 4 for each of
the 96 links into a fabric (R199), and 640 in the boxes, with those that a collective still holds. (DESIGN CHOICE, log 13) -/
def boxRoom (s : State) (core n : Nat) : Bool :=
  decide ((s.tokens.filter (fun j => (j.place == .net || j.place == .due) && fabricOf j == core)).length + n ≤ 640)

/-- A token that cannot enter stays on its arc; in the switch boxes while they have room (R174, R176, R185). (DEDUCED, log 13) -/
def stayOut (k : Token) (s : State) : State :=
  if (k.place == .out || k.place == .port) && boxRoom s (fabricOf k) 1 then modToken k.seq (fun j => { j with place := .net }) s else s

/-- The token of the highest AGE among some, the first listed of several. -/
def highestAge (ks : List Token) : Option Token :=
  let top := ks.foldl (fun n k => Nat.max n k.age) 0
  ks.find? (fun k => k.age == top)

/-- The youngest token in the general entries of a PE. -/
def youngest (s : State) (pe : Nat) : Option Token :=
  highestAge (s.tokens.filter (fun k => k.place == .general && k.port != 3 && peOf s k == pe))

/-- A token takes a completion entry, a general entry, or goes to the overflow area: with every general entry full,
the youngest of the entries and the arriving token is written out. (DEDUCED, log 13) (DEDUCED, log 34) Where both have one AGE it is the
arriving token (R174). (DESIGN CHOICE, log 52) -/
def enterStore (i : Instr) (k : Token) (s : State) : State :=
  let pe := peOf s k
  let age := ageNow s (coreOf k.thread)
  let put (p : Place) (s : State) : State := modToken k.seq (fun j => { j with place := p, age := age, count := k.count, val := k.val }) s
  if completes s i k (s.tokens.filter (fun j => inStore j && j.seq != k.seq)) then
    (if entriesOf s pe .completion < 8 then put .completion s else stayOut k s)
  else if entriesOf s pe .general < 120 then put .general s
  else if areaRoom s k.launch = 0 then stayOut k s
  else
    let s := (areaWrite k.launch 1 s).2
    match youngest s pe with
    | some y => if age < y.age then put .general (modToken y.seq (fun j => { j with place := .overflow }) s) else put .overflow s
    | none => put .overflow s

/-- The key of a token at a crew-join node, with a mask for it (R192, R339). -/
def keyMask (s : State) (k : Token) (mask : Nat) : JoinMask :=
  { launch := k.launch, block := k.block, replica := k.replica, node := k.node, wave := k.wave,
    team := ((thread? s k.thread).map (·.team)).getD 0, crew := logicalCrew s k.launch k.thread, mask := mask }

/-- The mask that has been read for a token's key. -/
def maskOf (s : State) (k : Token) : Option Nat := (s.masks.find? (fun m => m == keyMask s k m.mask)).map (·.mask)

/-- A token at a crew-join node: the first one of its key reads the mask for them all, be it a member's or not; the first member's checks
it, and a token from outside it is consumed (R192, R339). (DEDUCED, log 34) -/
def takeJoin (n : Node) (k : Token) (enter : Token → State → State) (s : State) : State :=
  let mask := (maskOf s k).getD (joinMask s n k.launch k.thread)
  let s := if (maskOf s k).isSome then s else { s with masks := s.masks ++ [keyMask s k mask] }
  if !bit mask (logicalLane s k.launch k.thread) then dropToken k.seq s
  else if mask &&& laneBits s k.launch k.thread != mask then trapNode (firingOf k [k]) 0x12 s
  else enter { k with count := mask } s

/-- The count of a CMB node (R381). -/
def combCount (s : State) (n : Node) (l t : Nat) : Nat :=
  match n.b with
  | .kreg k => kWord s l t k.val
  | _ => (immRaw n).toNat

/-- A token at a CMB node: it combines into its key's accumulator, wherever that stands, or starts one. The accumulator takes the number of
the token that it took last, since its match is complete no sooner (R381). (DEDUCED, log 34) -/
def takeCombine (n : Node) (op : CombOp) (k : Token) (enter : Token → State → State) (s : State) : State :=
  let w := tyBits n.ty
  match s.tokens.find? (fun j => j.seq != k.seq && sameKey k j && decide (combined j < j.count)) with
  | some acc =>
    let v := combineOp n.ty op [acc.val.toNat % 2 ^ w, k.val.toNat % 2 ^ w] % 2 ^ w
    modToken acc.seq (fun j => { j with seq := k.seq, val := BitVec.ofNat 256 (v + 2 ^ 64 * (combined j + 1)) }) (dropToken k.seq s)
  | none =>
    let c := combCount s n k.launch k.thread
    if c = 0 ∨ 65535 < c then abortOf (firingOf k [k]) 0x06 s
    else enter { k with count := c, val := BitVec.ofNat 256 (combineOp n.ty op [k.val.toNat % 2 ^ w] % 2 ^ w + 2 ^ 64) } s

/-- Does a node read its count or its mask as a token arrives (R339, R381)? -/
def readsAtArrival (i : Instr) : Bool := matchingOf i == .combine || matchingOf i == .join

/-- What its node makes of an arriving token before it takes an entry. A token that a firing of the cycle has made waits for the next one where
the node reads a k register for it, which it so finds as that firing left it (R260, R428). -/
def takeIn (i : Instr) (k : Token) (enter : Token → State → State) (s : State) : State :=
  if s.dawn ≤ k.seq && k.count = 0 && readsAtArrival i then s
  else match i with
  | .cmb n op => if 0 < k.count then enter k s else takeCombine n op k enter s
  | _ =>
    match matchingOf i, form i with
    | .join, some m => if 0 < k.count then enter k s else takeJoin m.node k enter s
    | _, _ => enter k s

/-- Do tokens come from one node over one network to one port (R168)? (DESIGN CHOICE, log 40) -/
def sameArc (k j : Token) : Bool := sameNode k j && k.src == j.src && k.net == j.net && k.port == j.port

/-- May the tokens of a block move: its launch runs and its block is resident? -/
def blockRuns (s : State) (k : Token) : Bool :=
  launchRuns s k.launch && isResident s (coreOf k.thread) k.launch k.block

/-! ### Seams (R198, R199) -/

/-- The next quadrant on a token's way: first across the edge between west and east, then across the one between north and south. -/
def nextQuadrant (cur dst : Nat) : Nat := if cur % 2 = dst % 2 then dst else cur / 2 * 2 + dst % 2

/-- The seam link that a token crosses next: its cluster, the quadrants that it joins in this direction, the network, and one of the 16
links of the edge by the row or column of the element that the token is bound for. (DESIGN CHOICE, log 40) -/
def seamLink (s : State) (k : Token) : Nat :=
  let cur := fabricOf k
  let nxt := nextQuadrant cur (peOf s k / 256)
  let pe := peOf s k % 256
  let row := pe / 16 / 4 * 4 + pe % 16 / 4
  let col := pe / 16 % 4 * 4 + pe % 4
  (((cur / 4) * 16 + cur % 4 * 4 + nxt % 4) * 3 + netCode k.net) * 16 + (if cur % 2 = nxt % 2 then col else row)

/-- The units of a link's allowance of 4 that are spent. -/
def spent (s : State) (link : Nat) : Nat := tabGet 0 s.seams link

/-- As a token leaves a link's input register its unit goes back to the sender (R199, R200). -/
def returnUnit (k : Token) (s : State) : State :=
  match k.place with
  | .seam link => seamUnit link s
  | _ => s

/-- A token crosses one seam, where its link has a unit of allowance left (R199); it stands in the link's register behind it. Tokens on a link
stand in the order in which they crossed. (DEDUCED, log 13) -/
def crossSeam (k : Token) (s : State) : State :=
  let link := seamLink s k
  if 4 ≤ spent s link then s
  else returnUnit k { s with tokens := s.tokens.filter (·.seq != k.seq) ++ [{ k with place := .seam link }],
                             seams := tabSet 0 s.seams link (spent s link + 1) }

/-- May a token move on: is it the first of its output buffer, or of its seam link, and the first of its arc that has come no farther
(R168, R173, R199)? (DESIGN CHOICE, log 40) -/
def firstThere (s : State) (k : Token) : Bool :=
  (!(k.place == .out || k.place == .port) ||
    s.tokens.all (fun j => !(j.place == k.place && j.net == k.net && j.src / 8 == k.src / 8 && decide (j.seq < k.seq)))) &&
  (!inSeam k || (s.tokens.find? (fun j => j.place == k.place)).any (·.seq == k.seq)) &&
  s.tokens.all (fun j => !(onArc j && sameArc k j && fabricOf j == fabricOf k && decide (j.seq < k.seq)))

/-- A token that a collective still holds takes the next free place of its output buffer (R173, R185). (DESIGN CHOICE, log 13) -/
def takePlace (k : Token) (s : State) : State :=
  let mine (j : Token) : Bool := j.net == k.net && j.src / 8 == k.src / 8
  if 4 ≤ (s.tokens.filter (fun j => j.place == .out && mine j)).length ∨
     s.tokens.any (fun j => j.place == .due && mine j && decide (j.seq < k.seq)) then s
  else modToken k.seq (fun j => { j with place := .out }) s

/-- TOKEN_ARRIVE (R168, R173, R174, R199): the first token of its buffer and arc enters its store, or crosses the next seam on its way
there; one that its collective still holds comes into the buffer. (DEDUCED, log 13) (DESIGN CHOICE, log 40) -/
def evTokenArrive (ix : Nat) (s : State) : State :=
  match s.tokens[ix]? with
  | none => s
  | some k =>
    if k.place == .due then (if blockRuns s k then takePlace k s else s)
    else if !onArc k || !blockRuns s k || !firstThere s k then s
    else match nodeAt s k.launch k.block k.node with
      | none => dropToken k.seq s
      | some i =>
        if fabricOf k ≠ peOf s k / 256 then crossSeam k s
        else
          let t := takeIn i k (enterStore i) s
          if (t.tokens.find? (fun j => j.seq == k.seq)).any onArc then t else returnUnit k t

def execTokenArrive (ix : Nat) (s : State) : Out := .next (evTokenArrive ix s)

/-! ## Back from the overflow area (R175) -/

/-- Do all the other tokens of a match that a token completes stand in the store or in the area (R175)? -/
def reunites (s : State) (i : Instr) (k : Token) : Bool :=
  completes s i k (s.tokens.filter (fun j => (inStore j || j.place == .overflow) && j.seq != k.seq && peOf s j == peOf s k))

/-- The youngest general token of a PE that does not belong to the same match as a token. -/
def stranger (s : State) (i : Instr) (k : Token) : Option Token :=
  let mine (j : Token) : Bool := match matchingOf i with | .join => sameCrew s k j | _ => sameKey k j
  highestAge (s.tokens.filter (fun j => j.place == .general && j.port != 3 && peOf s j == peOf s k && !mine j))

/-- A token returns with its AGE: through a completion entry if it is all that a match misses, into a free general entry if it is its
PE's oldest in the area, and with every general entry full in the place of one that belongs to another match, if all of its own match
stand in the store or in the area, so that every such match fires. (DEDUCED, log 34) -/
def returnStore (i : Instr) (k : Token) (s : State) : State :=
  let pe := peOf s k
  let first := s.tokens.all (fun j => j.place != .overflow || peOf s j != pe || !(isResident s (coreOf j.thread) j.launch j.block) ||
    decide (k.age * 2 ^ 64 + k.seq ≤ j.age * 2 ^ 64 + j.seq))
  let put (p : Place) (s : State) : State := modToken k.seq (fun j => { j with place := p, count := k.count, val := k.val }) s
  if completes s i k (s.tokens.filter (fun j => inStore j && j.seq != k.seq)) && decide (entriesOf s pe .completion < 8) then put .completion s
  else if decide (entriesOf s pe .general < 120) then (if first then put .general s else s)
  else if reunites s i k then
    (match stranger s i k with
     | some y => put .general (modToken y.seq (fun j => { j with place := .overflow }) (areaWrite y.launch 1 s).2)
     | none => s)
  else s

/-- TOKEN_RETURN (R175). -/
def evTokenReturn (ix : Nat) (s : State) : State :=
  match s.tokens[ix]? with
  | none => s
  | some k =>
    if k.place != .overflow || !blockRuns s k then s
    else match nodeAt s k.launch k.block k.node with
      | none => dropToken k.seq s
      | some i => match areaRead k.launch s with
        | (true, s) => takeIn i k (returnStore i) s
        | (false, s) => s

def execTokenReturn (ix : Nat) (s : State) : Out := .next (evTokenReturn ix s)

/-! ## Ages (R170) -/

/-- The live AGEs of a core, ascending. -/
def liveAges (s : State) (core : Nat) : List Nat :=
  let aged (k : Token) : Bool := coreOf k.thread == core && !onArc k
  (sortBy id ((s.tokens.filter aged).map (·.age) ++ ((s.resumed.filter (·.core == core)).flatMap (·.toks)).map (·.age) ++
    (s.accesses.filter (·.f.core == core)).flatMap (fun a => a.age :: a.f.toks.map (·.age)))).eraseDups

/-- AGE_RENUMBER: live AGEs become their ranks, and the counter goes on after them. -/
def evAgeRenumber (core : Nat) (s : State) : State :=
  let ages := liveAges s core
  match ages with
  | [] => s
  | a :: _ =>
    if ageNow s core + 1 < a + 2 ^ 31 then s
    else
      let rank (x : Nat) : Nat := (ages.idxOf? x).getD 0
      let re (k : Token) : Token := if coreOf k.thread = core then { k with age := rank k.age } else k
      { s with
        tokens := s.tokens.map (fun k => if onArc k then k else re k)
        resumed := s.resumed.map (fun f => { f with toks := f.toks.map re })
        accesses := s.accesses.map (fun a => if a.f.core = core then { a with age := rank a.age, f := { a.f with toks := a.f.toks.map re } } else a)
        core := { s.core with ageBase := tabSet 0 s.core.ageBase core (s.cycles - ages.length) } }

/-- AGE_RENUMBER (R170); while the core's clocks stand it does not act (R61). -/
def execAgeRenumber (core : Nat) (s : State) : Out := .next (if frozen s then s else evAgeRenumber core s)

/-- DEPARTURE_COMPLETE (R296); it needs no firing, so it goes on while a save waits for it (R297). -/
def execDepartureComplete (t : Nat) (s : State) : Out :=
  .next (match thread? s t with
    | some x => if launchRuns s x.launch then completeDeparture t s else s
    | none => s)

/-! ## Candidates (R172, R173, R178, R306, R307) -/

def opcOf (i : Instr) : Nat := match i with | .undef w => w.toNat / 2 ^ 120 | _ => ((form i).map (·.opc)).getD 0

/-- The classes that the governor's duty holds: packed vector, tile, systolic and stream (R21, R270). -/
def dutyClass (opc : Nat) : Bool := decide (0x90 ≤ opc ∧ opc < 0xA0) || decide (0xB0 ≤ opc ∧ opc < 0xD0)

/-- The live waves of a thread in a block. -/
def liveWaves (s : State) (f : Firing) : List Nat := (List.range 64).filter (liveWave s f.thread f.launch f.block)

def otherLive (s : State) (f : Firing) : Bool := (liveWaves s f).any (· != f.wave)

/-- The live waves of the thread that were created before a wave of the same block (R215, R306). -/
def earlierWaves (s : State) (f : Firing) : List Episode :=
  match thread? s f.thread with
  | none => []
  | some t => ((t.episodes.filter (fun e => e.block == f.block)).takeWhile (fun e => e.wave != f.wave)).filter (fun e =>
      liveWave s f.thread f.launch f.block e.wave)

def isDeparture (i : Instr) : Bool :=
  match i with
  | .exit _ | .exitc _ | .call _ _ | .calli _ _ | .ret _ => true
  | _ => false

/-- What a loop block asks of a match (R178, R296, R306, R307). -/
def waveReady (s : State) (i : Instr) (f : Firing) : Bool :=
  if isHandler s f.launch f.block then true
  else
    let looped := isLoop s f.launch f.block
    let w := (f.wave + 1) % 64
    let bound := ((blockAt s f.launch f.block).map (·.waveB)).getD 1
    let opens : Bool := match form i with
      | some m => m.node.tag == .winc && (m.node.d0.isSome || m.node.d1.isSome)
      | none => false
    (!(looped && opens) || liveWave s f.thread f.launch f.block w || decide ((liveWaves s f).length < bound)) &&
    (!(looped && isDeparture i) || !otherLive s f) &&
    (match i with
     | .loopx _ _ => !otherLive s f
     | .waveb _ _ => (earlierWaves s f).all (fun e => e.passed.contains f.node)
     | _ => true)

/-- Has the PE a cycle left in the governor's window for this class (R21)? (DESIGN CHOICE, log 12) -/
def dutyReady (s : State) (pe : Nat) (i : Instr) : Bool :=
  !dutyClass (opcOf i) ||
  (match tabFind s.core.pes pe with
   | some u => if u.window = s.cycles / 64 then decide (u.used < s.gov.duty) else decide (0 < s.gov.duty)
   | none => true)

/-- Is every thread of a match in its block? The handler's tokens match wherever their thread stands (R195, R296). -/
def threadsReady (s : State) (f : Firing) : Bool :=
  (f.thread :: f.toks.map (·.thread)).all (fun t =>
    match thread? s t with
    | some x => isHandler s f.launch f.block || x.st == .inBlock f.block
    | none => false)

/-- Does a node draw from its thread's generator (R249)? -/
def drawsAt (i : Instr) : Bool :=
  match i with
  | .cvt _ _ r | .srnd _ r | .vcvt _ _ r _ | .tcvt _ _ r _ => r.rnd == .rs
  | _ => false

/-- Draws follow the order of the thread's firings: an RS node waits for the draws of a TCVT that fired before it (R249). (DEDUCED, log 33) -/
def drawReady (s : State) (i : Instr) (f : Firing) : Bool :=
  !drawsAt i || s.accesses.all (fun a => !(a.f.thread == f.thread && a.st != .done && drawsAt a.i))

/-- Is a PE's multiply array free for a product match: an array computes one product at a time (R353)? -/
def arrayReady (s : State) (pe : Nat) (i : Instr) : Bool :=
  !isProductNode i || s.accesses.all (fun a => !(isProductNode a.i && (a.st == .flight || a.st == .done) &&
    physPe s a.f.core a.f.launch a.f.block a.f.replica a.f.node == pe))

/-- Did every token of a match stand in the store as the cycle began: a token that a firing of the cycle has made fires nothing in it
(R168, R260, R296)? -/
def sinceDawn (s : State) (f : Firing) : Bool := f.toks.all (fun k => decide (k.seq < s.dawn))

/-- May a complete match fire in this cycle, room in its output buffers apart? -/
def isCandidate (s : State) (pe : Nat) (i : Instr) (f : Firing) : Bool :=
  sinceDawn s f && arrayReady s pe i &&
  (match launch? s f.launch with | some l => l.phase == .running | none => false) &&
  (match placedOf s f.core f.launch f.block with | some p => p.resident && !p.stopped | none => false) &&
  threadsReady s f && dutyReady s pe i && waveReady s i f && drawReady s i f

/-- The complete matches of a PE, those made again among them. -/
def matchesAt (s : State) (pe : Nat) : List (Instr × Firing) :=
  let store := s.tokens.filter (fun k => inStore k && peOf s k == pe)
  (store.filterMap (fun k => (nodeAt s k.launch k.block k.node).bind (fun i => (matchFrom s i k store).map (fun f => (i, f))))) ++
  ((s.resumed.filter (fun f => physPe s f.core f.launch f.block f.replica f.node == pe)).filterMap (fun f =>
    (nodeAt s f.launch f.block f.node).map (fun i => (i, f))))

/-- The PE's use of this cycle and of the governor's window. -/
def usePe (pe : Nat) (held : Bool) (s : State) : State :=
  let u := (tabFind s.core.pes pe).getD { last := 0, window := 0, used := 0 }
  let used := if u.window = s.cycles / 64 then u.used else 0
  let now : PeUse := { last := s.cycles + 1, window := s.cycles / 64, used := if held then used + 1 else used }
  { s with core := { s.core with pes := tabPut s.core.pes pe now } }

/-- A firing takes its tokens from the store and stands ready to run (R167, R171). -/
def beginFire (pe : Nat) (i : Instr) (f : Firing) (s : State) : State :=
  let seqs := f.toks.map (·.seq)
  let s := { s with tokens := s.tokens.filter (fun k => !seqs.contains k.seq), resumed := s.resumed.filter (· != f), cur := some f }
  let s := clearHang f.launch (usePe pe (dutyClass (opcOf i)) s)
  { s with placed := s.placed.map (fun p =>
      if p.launch == f.launch && p.block == f.block && (servedCores s p).contains f.core then { p with fired := s.cycles } else p) }

end Sys2Proof.Machine
end

