-- ==== Sys2Proof/Machine/Save.lean ====
section
/-! DEFINITION. Pre-emption, save and restore (R150 to R158): the meanings of PREEMPT, SAVE, SAVE_DONE, RESTORE and
RESTORE_DONE. -/

namespace Sys2Proof.Machine

/-! ## Save units and their room (R152, R156) -/

/-- The teams of a launch on a core: a save unit, where there are any. -/
def unitTeams (s : State) (id core : Nat) : List Team := s.teams.filter (fun m => m.launch == id && m.core == core && !m.retired)

/-- The members of a family that a save takes, in the order of their creation. -/
def saveFamily (s : State) (top : Nat) : List Launch :=
  sortBy (fun (l : Launch) => l.id) (s.launches.filter (fun l => (family s top).contains l.id && (l.phase == .running || l.phase == .saving)))

/-- The save units of a family, in the order of R154. -/
def unitsOf (s : State) (top : Nat) : List (Nat × Nat) :=
  (saveFamily s top).flatMap (fun l => ((List.range 160).filter (fun c => !(unitTeams s l.id c).isEmpty)).map (fun c => (l.id, c)))

/-- The crew slots and scratchpad bytes of a unit. -/
def unitNeeds (s : State) (id core : Nat) : Nat × Nat :=
  let ts := unitTeams s id core
  ((ts.map (·.crews.length)).sum, ts.length * ((imageOf s id).map (·.scratch)).getD 0)

/-- What a unit takes of a core. -/
structure UnitRoom where
  core : Nat
  crews : Nat
  pad : Nat
  launch : Nat
  stitch : Bool
  deriving DecidableEq, Repr

/-- What a unit takes of a core, its whole cluster where its launch is stitched. -/
def unitTakes (s : State) (u : SavedUnit) (c : Nat) : UnitRoom :=
  { core := c, crews := (unitNeeds s u.launch u.home).1, pad := (unitNeeds s u.launch u.home).2, launch := u.launch,
    stitch := ((imageOf s u.launch).map (·.stitch)).getD false }

/-- Does a core have room for a unit, whole, beside what the units before it take (R142, R156)? -/
def unitFits (s : State) (u : SavedUnit) (taken : List UnitRoom) (c : Nat) : Bool :=
  let x := unitTakes s u c
  let mine := taken.filter (fun e => e.core == c)
  decide (x.crews + (mine.map (·.crews)).sum ≤ (freeSlots s c).length) &&
  decide (x.pad + (mine.map (·.pad)).sum + padUsed s c ≤ 1048576) && clusterOpen s u.launch x.stitch c &&
  taken.all (fun e => clusterOf e.core != clusterOf c || e.launch == u.launch || (!e.stitch && !x.stitch))

/-- A core for each unit, whole: of the placings in which every unit has room, the one with the lowest core for the first unit, and so on
(R156). `taken` is what the units before it take. (DESIGN CHOICE, log 17) -/
def placeUnits (s : State) : List SavedUnit → List UnitRoom → Option (List (SavedUnit × Nat))
  | [], _ => some []
  | u :: us, taken => ((List.range 160).filter (unitFits s u taken)).findSome? (fun c =>
      (placeUnits s us (unitTakes s u c :: taken)).map (fun l => (u, c) :: l))

/-- The units of a held launch, without its LSTART records. -/
def heldUnits (l : Launch) : List SavedUnit := l.units.filter (·.core.isSome)

/-- Does every save unit of a held launch fit on some core (R156)? Each must fit alone, which is soon asked, and all of them together. -/
def unitsFit (s : State) (l : Launch) : Bool :=
  (heldUnits l).all (fun u => (List.range 160).any (unitFits s u [])) && (placeUnits s (heldUnits l) []).isSome

/-! ## The save pool (R153) -/

def poolBase (s : State) : Nat := bits s.disp.saveLo.toNat 31 12 * 4096 + bits s.disp.saveHi.toNat 19 0 * 2 ^ 32

/-- The size of a family's stream. (DEDUCED, log 38) -/
def streamSize (s : State) (top : Nat) : Nat :=
  roundUp (80 + 336 * (saveFamily s top).length +
    ((unitsOf s top).map (fun u => 4903696 + 8 * (unitTeams s u.1 u.2).length)).sum) 4096

/-- The streams that hold space of the pool. -/
def poolStreams (s : State) : List (Nat × Nat) := (s.launches.filter (·.phase != .aborted)).filterMap (·.stream)

/-- The lowest place in the pool for so many contiguous bytes. (DEDUCED, log 38) -/
def poolFit (s : State) (n : Nat) : Option Nat :=
  let used := poolStreams s
  leastBy id ((0 :: used.map (fun u => u.1 + u.2)).filter (fun o =>
    decide (o + n ≤ s.disp.saveSize.toNat * 2 ^ 20) && used.all (fun u => decide (o + n ≤ u.1 ∨ u.1 + u.2 ≤ o))))

/-! ## Choosing victims (R150) -/

/-- What makes a victim a REPLAY victim, the pool apart: systolic blocks, streams, posted receives (R150 (b) to (d)). (DEDUCED, log 38) -/
def unsavable (s : State) (top : Nat) : Bool :=
  let ids := family s top
  let teamIn (key : Nat) : Bool := match team? s key with | some m => ids.contains m.launch | none => false
  s.placed.any (fun p => ids.contains p.launch && (match blockAt s p.launch p.block with | some b => b.syst | none => false)) ||
  s.strms.any (fun m => teamIn m.team || m.subs.any (fun u => teamIn u.team)) ||
  s.posted.any (fun p => match access? s p.access with | some a => ids.contains a.f.launch | none => false)

/-- Every launch of a family off its cores, for reckoning room. -/
def withoutFamily (top : Nat) (s : State) : State := (family s top).foldl (fun s i => stopLaunch i s) s

/-- Is there room on the cores for all of a launch's teams that are not yet ready, or for a held launch's units? -/
def roomFor (s : State) (l : Launch) : Bool :=
  if l.phase = .held then unitsFit s l
  else
    let n := hwCrews l.image.width (lrTeamSz l.raw)
    let onCore (c : Nat) : Nat :=
      if clusterOpen s l.id l.image.stitch c then
        let k := (freeSlots s c).length / n
        if l.image.scratch = 0 then k else Nat.min k ((1048576 - padUsed s c) / l.image.scratch)
      else 0
    decide (lrTeams l.raw - l.nextTeam ≤ ((List.range 160).map onCore).sum)

/-- Can the launch make no team ready (R141), or a held launch not be restored? -/
def stuck (s : State) (l : Launch) : Bool :=
  (l.phase == .held && l.parent.isNone && !unitsFit s l) ||
  (l.phase == .running && l.stream.isNone && decide (l.nextTeam < lrTeams l.raw) &&
    ((readyCore s l).isNone || (l.vt.isNone && decide (freeTags s ≤ 128))))

/-- Has a launch under GRAN = TEAM committed a team, or is a commit of one in progress, which can no longer be undone (R121, R150)? -/
def teamCommitted (s : State) (v : Launch) : Bool :=
  lrTeamGran v.raw && (decide (0 < v.teamCommits) || s.skim.tags.any (fun e => e.2.launch == v.id && e.2.st == .committing))

/-- The launches that may be pre-empted for a launch, the first choice first. -/
def candidates (s : State) (l : Launch) : List Launch :=
  let last := s.launches.foldl (fun n v => Nat.max n v.order) 0
  sortBy (fun (v : Launch) => v.prio * (last + 1) + (last - v.order)) (s.launches.filter (fun v =>
    v.parent.isNone && v.phase == .running && v.stream.isNone && decide (v.prio < l.prio) && topActive s v && !teamCommitted s v))

/-- Victims until there is room, in a state in which the earlier ones are off their cores. (DEDUCED, log 37) -/
def victims (l : Launch) : List Launch → State → List Nat
  | [], _ => []
  | v :: vs, t => if roomFor t l then [] else v.id :: victims l vs (withoutFamily v.id t)

/-- A REPLAY victim aborts with PREEMPT and its record returns to its queue (R151), unless it hangs in this cycle (R165 (b)). -/
def replayVictim (id : Nat) (s : State) : State :=
  if hangDue s id then evHang id s
  else abortLaunch id 0x19 false none (modLaunch id (fun l => { l with requeue := true, stream := none })
    { s with disp := { s.disp with replays := satAdd 255 s.disp.replays 1 } })

/-- Pre-empts one victim in its record's mode, or as REPLAY where it cannot be saved (R150, R153). (DEDUCED, log 37) -/
def takeVictim (id : Nat) (s : State) : State :=
  match launch? s id with
  | none => s
  | some v =>
    let n := streamSize s id
    match poolFit s n with
    | some o =>
      if lrReplay v.raw || unsavable s id then replayVictim id s
      else modLaunch id (fun v => { v with stream := some (o, n) }) s
    | none => replayVictim id s

/-- PREEMPT (R150). -/
def evPreempt (id : Nat) (s : State) : State :=
  match launch? s id with
  | none => s
  | some l =>
    if !coresRun s || !s.disp.preempt || !stuck s l then s
    else
      let going := s.launches.filter (fun v => v.parent.isNone && v.stream.isSome && (v.phase == .running || v.phase == .saving))
      let t := going.foldl (fun t v => withoutFamily v.id t) s
      (victims l (candidates s l) t).foldl (fun s v => takeVictim v s) s

def execPreempt (id : Nat) (s : State) : Out := .next (evPreempt id s)

/-! ## Moving a unit between homes -/

/-- Where a unit's crew slots go. -/
abbrev CrewMap := List (Nat × Nat)

def newCrew (m : CrewMap) (c : Nat) : Nat := ((m.find? (fun e => e.1 == c)).map (·.2)).getD c
def newThread (m : CrewMap) (t : Nat) : Nat := newCrew m (t / 32) * 32 + t % 32

/-- Gives the entries of some keys of a table other keys. -/
def reKey {α : Type} (mine : Nat → Bool) (f : Nat → Nat) (t : Tab α) : Tab α :=
  (t.filter (fun e => mine e.1)).foldl (fun t e => tabPut t (f e.1) e.2) (t.filter (fun e => !mine e.1))

/-- Moves a firing's thread. -/
def moveFiring (m : CrewMap) (core : Nat) (f : Firing) : Firing :=
  { f with thread := newThread m f.thread, core := core, toks := f.toks.map (fun k => { k with thread := newThread m k.thread }) }

/-- Moves a unit's teams with their crews, storage, threads, tokens and accesses to a core and the crew slots of the map. (DEDUCED, log 14) -/
def moveUnit (teams : List Nat) (m : CrewMap) (core : Nat) (s : State) : State :=
  let mineC (c : Nat) : Bool := m.any (fun e => e.1 == c)
  let mineT (t : Nat) : Bool := mineC (t / 32)
  { s with
    teams := s.teams.map (fun (x : Team) => if teams.contains x.key then { x with core := core, crews := x.crews.map (newCrew m) } else x)
    crews := reKey mineC (newCrew m) s.crews
    threads := reKey mineT (newThread m) s.threads
    core := { s.core with
      lvs := reKey (fun k => mineC (k / 2048)) (fun k => newCrew m (k / 2048) * 2048 + k % 2048) s.core.lvs
      kregs := reKey (fun k => mineC (k / 128)) (fun k => newCrew m (k / 128) * 128 + k % 128) s.core.kregs }
    tokens := s.tokens.map (fun (k : Token) => if mineT k.thread then { k with thread := newThread m k.thread } else k)
    accesses := s.accesses.map (fun (a : Access) => if mineT a.f.thread then { a with f := moveFiring m core a.f } else a) }

/-- Tokens leave the fabric: into the overflow area while it has room, and otherwise on to their arcs, as tokens that a port sends, until
they can arrive (R176). (DEDUCED, log 38) -/
def toAreaOrArc (l : Nat) (p : Token → Bool) (s : State) : State :=
  let n := Nat.min (areaRoom s l) (s.tokens.filter p).length
  let s := (areaWrite l n { s with seams := backUnits (s.tokens.filter p) s.seams }).2
  let age (k : Token) : Nat := if onArc k then ageNow s (coreOf k.thread) else k.age
  let arc (k : Token) : Token := { k with place := .net, age := age k, src := if k.src < 2 ^ 24 then k.src + 2 ^ 24 else k.src }
  let go (st : List Token × Nat) (k : Token) : List Token × Nat :=
    if !p k then (st.1 ++ [k], st.2)
    else if st.2 = 0 then (st.1 ++ [arc k], 0)
    else (st.1 ++ [{ k with place := .overflow, age := age k }], st.2 - 1)
  { s with tokens := (s.tokens.foldl go ([], n)).1 }

/-- A unit's threads leave a block: their tokens leave the fabric and their bits say where they wait (R184). (DEDUCED, log 38) -/
def leaveBlock (mine : Nat → Bool) (l b : Nat) (s : State) : State :=
  let s := toAreaOrArc l (fun k => k.launch == l && k.block == b && mine k.thread && k.place != .overflow) s
  { s with
    threads := s.threads.map (fun (e : Nat × Thread) => if mine e.1 && e.2.launch == l && e.2.st == .inBlock b
      then (e.1, { e.2 with st := .waiting b, saved := true, since := s.cycles }) else e) }

/-! ## Saving (R152, R154) -/

/-- Has the access nothing in flight that a save waits for (R152 step 2)? What waits on a fault, a tag, a window, an earlier access, its
turn, a child, or the threads of its team is saved as it stands, and so is a response that finds no room (R176). (DEDUCED, log 38) -/
def settledAccess (s : State) (a : Access) : Bool :=
  match a.st with
  | .parked _ _ _ | .waiting | .held => true
  | .blocked => isSync a.i
  | .done => !responseRoom s a
  | .flight => !inOrder s a || (match a.i with
      | .lwait _ | .launch _ | .port _ | .nfence _ => true
      | i => isSync i && (match (perform a s).1 with | .wait => true | _ => false))

/-- Matches whose access has not issued, and those waiting to be made again, are tokens again; with the tokens on arcs they go to the
overflow area, or on to their arcs where it is full. (DEDUCED, log 38) -/
def takeBack (l : Nat) (mine : Nat → Bool) (s : State) : State :=
  let back := ((s.resumed.filter (fun f => mine f.thread)) ++
    (s.accesses.filter (fun a => mine a.f.thread && a.st == .waiting)).map (·.f)).flatMap (·.toks)
  let seqs := back.map (·.seq)
  toAreaOrArc l (fun k => mine k.thread && (onArc k || seqs.contains k.seq)) { s with
    tokens := s.tokens ++ back.map (fun (k : Token) => { k with place := .general })
    resumed := s.resumed.filter (fun f => !mine f.thread)
    accesses := s.accesses.filter (fun a => !(mine a.f.thread && a.st == .waiting)) }

/-- Which parts of an access a stream does not hold: the progress of an access that will be made again from its operands. (DEDUCED, log 38) -/
def restartAccess (a : Access) : Access :=
  match a.st, a.i with
  | .parked _ _ _, .launch _ => a
  | .parked _ _ _, _ => { a with left := [], got := [], result := 0 }
  | _, _ => a

/-- The LSTART payload of a launch; `units` is the whole stream's list. -/
def lstartPayload (l : Launch) (units : List SavedUnit) : List Byte :=
  let parent := match l.parent with
    | none => 0xFFFFFFFF
    | some p => ((units.takeWhile (fun u => !(u.launch == p && u.core.isNone))).map (·.records)).sum
  l.raw ++ toBytes 2 l.queue ++ toBytes 1 l.depth ++ [0] ++
  toBytes 4 (units.filter (fun u => u.launch == l.id && u.core.isSome)).length ++ toBytes 8 l.index ++
  toBytes 8 (l.deadline / cyclesPerUs) ++ toBytes 4 l.retired ++ toBytes 4 parent ++ List.replicate 32 0

/-- Writes the LSTART record of a unit list's entry. (DEDUCED, log 14) -/
def writeLstart (at_ : Nat) (u : SavedUnit) (units : List SavedUnit) (s : State) : State :=
  match launch? s u.launch with
  | some l => writeSys at_ (recordBytes 0x0100 true (lrCookie l.raw) (lstartPayload l units)) s
  | none => s

/-- Writes every LSTART record of a stream from an address on. -/
def writeLstarts (units : List SavedUnit) : List SavedUnit → Nat → State → State
  | [], _, s => s
  | u :: us, at_, s => writeLstarts units us (at_ + u.bytes) (if u.core.isNone then writeLstart at_ u units s else s)

/-- The place in memory of a launch's stream. -/
def streamAt (s : State) (top : Nat) : Nat := poolBase s + ((((launch? s top).bind (·.stream)).map (·.1)).getD 0)

def unitsBytes (units : List SavedUnit) : Nat := (units.map (·.bytes)).sum

/-- Entries for the LSTART records up to a launch. -/
def withLstarts (s : State) (top upTo : Nat) (units : List SavedUnit) : List SavedUnit :=
  (saveFamily s top).foldl (fun us l =>
    if upTo < l.id || us.any (fun u => u.launch == l.id && u.core.isNone) then us
    else us ++ [{ launch := l.id, core := none, home := 0, records := 1, bytes := 336 }]) units

/-- With its last unit written the launch is held: LSTART and LSTOP are complete. -/
def finishSave (top : Nat) (s : State) : State :=
  match launch? s top with
  | none => s
  | some l =>
    let last := ((saveFamily s top).map (·.id)).foldl Nat.max 0
    let units := withLstarts s top last l.units
    let base := streamAt s top
    let s := writeLstarts units units base s
    let n := unitsBytes units
    let s := writeSys (base + n) (recordBytes 0x01FF true ((units.map (·.records)).sum + 1)
      (toBytes 64 (sha512 (readHome s base n)).toNat)) s
    let ids := (saveFamily s top).map (·.id)
    let gone (p : Placed) : Bool := ids.contains p.launch && decide (p.core < 160)
    { s with
      launches := s.launches.map (fun (x : Launch) =>
        if ids.contains x.id then { x with phase := .held, units := if x.id = top then units else x.units } else x)
      placed := s.placed.filter (fun p => !gone p) }

/-- The victim with its stream in the pool: the space that it holds or, where its stream has outgrown that, new space; none where the pool
cannot hold it (R153). -/
def fitStream (l : Launch) (s : State) : Option State :=
  let n := streamSize s l.id
  if n ≤ (l.stream.map (·.2)).getD 0 then some s
  else (poolFit (modLaunch l.id (fun l => { l with stream := none }) s) n).map
    (fun o => modLaunch l.id (fun l => { l with stream := some (o, n) }) s)

/-- SAVE: the cores stop firing the victim's nodes (R152 step 1), and the SAVE pre-emption counts (R146). A victim that can no longer be
saved, or whose stream the pool cannot hold (R153), is pre-empted as REPLAY; one whose commit request has gone out is left to commit, and one of teams that has committed a team since is not
replayed but goes on (R150). -/
def evSave (id : Nat) (s : State) : State :=
  match launch? s id with
  | none => s
  | some l =>
    if !coresRun s || l.stream.isNone || l.phase != .running then s
    else if !topActive s l || (teamCommitted s l && (unsavable s id || (fitStream l s).isNone))
    then modLaunch id (fun l => { l with stream := none }) s
    else if unsavable s id then replayVictim id s
    else match fitStream l s with
      | none => replayVictim id s
      | some s =>
        let ids := (saveFamily s id).map (·.id)
        let s := { s with
          disp := { s.disp with preempts := satAdd 255 s.disp.preempts 1 }
          launches := s.launches.map (fun (x : Launch) => if ids.contains x.id then { x with phase := .saving } else x) }
        if (unitsOf s id).isEmpty then finishSave id s else s

def execSave (id : Nat) (s : State) : Out := .next (evSave id s)

/-- A core that no hardware has, to keep a unit under while its launch is held. (DEDUCED, log 14) -/
def newHome (s : State) : Nat := 4 + ((s.launches.flatMap (·.units)).map (·.home)).foldl Nat.max 156

/-- Writes one unit and frees its core. Its blocks stay with it as they are placed, a stitched block in every unit that it serves; threads
of a block that is not resident leave it. For its threads the save is a release at system scope (R231). (DEDUCED, log 14) (DEDUCED, log 38) -/
def saveUnit (top id core : Nat) (s : State) : State :=
  match launch? s top with
  | none => s
  | some l =>
    let ts := unitTeams s id core
    let crews := ts.flatMap (·.crews)
    let mine (t : Nat) : Bool := crews.contains (crewOf t)
    let s := takeBack id mine (drainDies [dieOf core] s)
    let (here, away) := (s.placed.filter (fun p => p.launch == id && (servedCores s p).contains core)).partition
      (fun p => p.resident || unhoused p)
    let s := away.foldl (fun s p => leaveBlock mine id p.block s) s
    let units := withLstarts s top id l.units
    let number := (units.filter (·.core.isSome)).length
    let records := unitRecords s id core number
    let data := records.flatten
    let base := streamAt s top
    let s := writeLstarts units units base s
    let s := writeSys (base + unitsBytes units) data s
    let home := newHome s
    let span (p : Placed) : Nat := if isStitched s id p.block then 64 else 16
    let stay (p : Placed) : Placed :=
      { p with core := home, stopped := false, replicas := p.replicas.map (fun r => r.map (fun g => home * 16 + g % span p)) }
    let s := moveUnit (ts.map (·.key)) (crews.map (fun c => (c, home * 256 + c % 256))) home s
    let s := { s with
      placed := (s.placed.filter (fun p => !(p.launch == id && p.core == core && !isStitched s id p.block))) ++ here.map stay
      accesses := s.accesses.map (fun (a : Access) => if a.f.core = home then restartAccess a else a) }
    modLaunch top (fun l => { l with units := units ++
      [{ launch := id, core := some core, home := home, records := records.length, bytes := data.length }] }) s

/-- SAVE_DONE: the next unit of R154's order, with nothing of it in flight and no departure under way (R297), is written (R152 steps 2 to
4). (DEDUCED, log 14) -/
def evSaveDone (id core : Nat) (s : State) : State :=
  let top := topOf s id
  match launch? s top with
  | none => s
  | some l =>
    if l.phase != .saving || !coresRun s then s
    else match unitsOf s top with
      | [] => finishSave top s
      | u :: _ =>
        if u != (id, core) || s.accesses.any (fun a => a.f.launch == id && a.f.core == core && !settledAccess s a) ||
           s.threads.any (fun e => e.2.launch == id && coreOf e.1 == core && (match e.2.st with | .departing _ _ _ => true | _ => false)) then s
        else
          let s := saveUnit top id core s
          if (unitsOf s top).isEmpty then finishSave top s else s

def execSaveDone (id core : Nat) (s : State) : Out := .next (evSaveDone id core s)

/-! ## Restoring (R45, R156) -/

/-- The tags of R154. -/
def contextTags : List Nat :=
  [0x0100, 0x0101, 0x010A, 0x0102, 0x0103, 0x010D, 0x0107, 0x0108, 0x0104, 0x010B, 0x0109, 0x010C, 0x0106, 0x0105, 0x01FF]

/-- Is a record one that its reader must refuse (R45)? -/
def recordFatal (h : List Byte) : Bool :=
  let tag := field h 0 2
  tag == 0 || (bit (field h 3 1) 0 && (!contextTags.contains tag || decide (1 < field h 2 1)))

/-- Does a stream hold a record that R45 makes fatal? Each record is found by the length of the one before it. (DEDUCED, log 14) -/
def streamFatal (s : State) (at_ limit : Nat) : Nat → Bool
  | 0 => false
  | k + 1 =>
    if limit < at_ + 16 then false
    else
      let h := readHome s at_ 16
      recordFatal h || (field h 0 2 != 0x01FF && streamFatal s (at_ + 16 + roundUp (field h 4 4) 8) limit k)

/-! ### What a stream says of its units (R45, R154, R155) -/

/-- The records of a stream from an address on, with their tags and KEYs, as R45 finds each by the length of the one before it. -/
def streamRecords (s : State) (at_ limit : Nat) : Nat → List (Nat × Nat × List Byte)
  | 0 => []
  | k + 1 =>
    if limit < at_ + 16 then []
    else
      let h := readHome s at_ 16
      let n := Nat.min (field h 4 4) (limit - at_ - 16)
      (field h 0 2, field h 8 8, readHome s (at_ + 16) n) ::
        (if field h 0 2 = 0x01FF then [] else streamRecords s (at_ + 16 + roundUp (field h 4 4) 8) limit k)

/-- CREW: frame positions, the window's place, the rows spilled and the window stack. Fields that a record lacks read as zero (R45 (e)). -/
def readCrews (p : List Byte) (crews : List Nat) (s : State) : State :=
  let at_ (c : Nat) : Option Nat := (crews.idxOf? c).map (128 * ·)
  { s with
    crews := s.crews.map (fun (e : Nat × Crew) => match at_ e.1 with
      | some o => (e.1, { e.2 with lo := field p (o + 64) 2, high := field p (o + 68) 4, stack := field p (o + 72) 4 })
      | none => e)
    threads := s.threads.map (fun (e : Nat × Thread) => match at_ (crewOf e.1) with
      | some o => (e.1, { e.2 with fp := field p (o + 2 * laneOf e.1) 2 })
      | none => e) }

/-- LVS. -/
def readLvs (p : List Byte) (crews : List Nat) (s : State) : State :=
  { s with core := { s.core with lvs := (List.range (2048 * crews.length)).foldl (fun t i =>
      tabSet 0 t (crews.getD (i / 2048) 0 * 2048 + i % 2048) (BitVec.ofNat 32 (field p (4 * i) 4))) s.core.lvs } }

/-- UNIFORM. -/
def readUniform (p : List Byte) (crews : List Nat) (s : State) : State :=
  { s with core := { s.core with kregs := (List.range (128 * crews.length)).foldl (fun t i =>
      tabSet 0 t (crews.getD (i / 128) 0 * 128 + i % 128) (BitVec.ofNat 32 (field p (4 * i) 4))) s.core.kregs } }

/-- Changes each thread of a unit; `g` has the thread's number in the record. -/
def readThreads (crews : List Nat) (g : Nat → Thread → Thread) (s : State) : State :=
  { s with threads := s.threads.map (fun (e : Nat × Thread) => match crews.idxOf? (crewOf e.1) with
      | some c => (e.1, g (32 * c + laneOf e.1) e.2)
      | none => e) }

/-- The state of a thread as WAITING gives it; what it does not say of a thread in the same state stays. -/
def readWaiting (w : Nat) (th : Thread) : Thread :=
  let b := w % 4096
  match w / 4096 % 4 with
  | 0 => { th with st := .retired }
  | 1 => if th.st == .waiting b then th else { th with st := .waiting b, saved := false }
  | _ => { th with st := .inBlock b }

/-- ORDER: the SEQ that the thread's open episode expects. -/
def readOrder (q : Nat) (th : Thread) : Thread :=
  { th with episodes := th.episodes.map (fun (e : Episode) => if e.closed then e else { e with expect := e.expect.map (fun _ => q % 256) }) }

/-- A token as its entry has it; `old` gives what an entry does not hold. -/
def readToken (e : List Byte) (thread : Nat → Nat) (old : Token) : Token :=
  let dest := field e 35 2
  { old with
    val := BitVec.ofNat 256 (field e 0 32), thread := thread (field e 32 2 % 8192), wave := field e 34 1 % 64
    net := match field e 34 1 / 64 with | 0 => .narrow | 1 => .wide | _ => .pred
    node := dest / 4 % 8192, port := dest % 4, block := field e 37 2 % 4096, age := field e 40 4 }

/-- MATCH: the valid entries in their order, each with the token that stood in its place. -/
def readMatch (p : List Byte) (l : Nat) (crews : List Nat) (s : State) : State :=
  let mine (k : Token) : Bool := crews.contains (crewOf k.thread) && k.place != .overflow
  let old := s.tokens.filter mine
  let fresh (i : Nat) : Token :=
    { thread := 0, wave := 0, net := .narrow, val := 0, launch := l, block := 0, replica := 0, node := 0, port := 0, age := 0,
      place := .general, src := 2 ^ 24, seq := s.nextId + i, count := 0, inv := 0 }
  let entries := (List.range (p.length / 44)).map (fun i => (i, (p.drop (44 * i)).take 44))
  let new := (entries.filter (fun e => bit (field e.2 35 2) 15)).map (fun e =>
    readToken e.2 (fun n => crews.getD (n / 32) 0 * 32 + n % 32) (old.getD e.1 (fresh e.1)))
  { s with tokens := s.tokens.filter (fun k => !mine k) ++ new, nextId := s.nextId + entries.length }

/-- SCRATCH: the teams' scratchpads, then their presence bits. -/
def readScratch (p : List Byte) (teams : List Nat) (size : Nat) (s : State) : State :=
  let bitsAt := size * teams.length
  let each_ := (size / 8 + 7) / 8
  ((List.range teams.length).zip teams).foldl (fun s e =>
    let s := padWrite e.2 0 (padTo size ((p.drop (size * e.1)).take size)) s
    (List.range (size / 8)).foldl (fun s w =>
      if bit (field p (bitsAt + each_ * e.1 + w / 8) 1) (w % 8) then s else clearPresent e.2 w s) s) s

/-- UNIT: each team's number and crews. -/
def readUnit (p : List Byte) (keys crews : List Nat) (s : State) : State :=
  ((List.range (Nat.min keys.length (field p 2 2))).zip keys).foldl (fun s e =>
    modTeam e.2 (fun m => { m with num := field p (32 + 8 * e.1) 4,
                                   crews := (crews.drop (field p (36 + 8 * e.1) 2)).take (field p (38 + 8 * e.1) 2) }) s) s

/-- The address waited on of a PARKED entry of KIND 0, as the machine holds it (R155, R201). -/
def readWordAddr (s : State) (f : Firing) (old addr : Nat) : Nat :=
  match teamOf s f with
  | none => old
  | some m => match s.teams.find? (fun t => t.launch == f.launch && t.num == addr / 2 ^ 20) with
    | some t => (if addr < 2 ^ 20 then m.key else t.key) * 2 ^ 20 + addr % 2 ^ 20
    | none => if addr < 2 ^ 20 then m.key * 2 ^ 20 + addr else old

/-- A parked match as its entry has it; `old` gives what an entry does not hold. One whose fault has been answered while the launch was held
waits for no fault of the entry's FAULT_ID, which may be another page's by now: it is tried again (R157). -/
def readParkedEntry (e : List Byte) (thread : Nat → Nat) (old : Access) (s : State) : Access :=
  let dest := field e 35 2
  let f := { old.f with thread := thread (field e 32 2 % 8192), wave := field e 34 1 % 64, node := dest / 4 % 8192, block := field e 37 2 % 4096 }
  match old.st with
  | .parked _ addr fault =>
    let k := field e 44 1
    let id := field e 56 4
    let fault := if k = 1 ∧ s.xlat.faults.any (fun x => fault == some x.key) then ((s.xlat.faults.find? (fun x => x.id == some id)).map (fun x => some x.key)).getD fault else fault
    { old with f := f, age := field e 40 4, st := .parked k (if k = 0 then readWordAddr s f addr (field e 48 8) else field e 48 8) fault }
  | _ => old

/-- PARKED: each entry changes the match that it was written from. -/
def readParked (p : List Byte) (crews : List Nat) (s : State) : State :=
  let mine := s.accesses.filter (fun a => crews.contains (crewOf a.f.thread) && (match a.st with | .parked _ _ _ => true | _ => false))
  let thread (n : Nat) : Nat := crews.getD (n / 32) 0 * 32 + n % 32
  let new := (mine.zip (List.range (p.length / 64))).map (fun e => readParkedEntry ((p.drop (64 * e.2)).take 64) thread e.1 s)
  { s with accesses := s.accesses.map (fun a => (new.find? (fun n => n.id == a.id)).getD a) }

/-- OVERFLOW: the core's age counter goes on from no less than the unit's next age, so that the ages keep their order. (DEDUCED, log 14) -/
def readOverflow (p : List Byte) (core : Nat) (s : State) : State :=
  { s with core := { s.core with ageBase := tabSet 0 s.core.ageBase core (s.cycles - Nat.max (ageNow s core) (field p 16 8)) } }

/-- One page of CONFIG: its node words and the address of its source. -/
def readConfigPage (e : List Byte) (b : Block) : Block :=
  let page := field e 2 1
  { b with
    source := b.source.set page (field e 8 8)
    words := (List.range 128).foldl (fun t i =>
      let w := BitVec.ofNat 128 (field e (16 + 16 * i) 16)
      if tabFind t (page * 128 + i) = some w ∨ ((tabFind t (page * 128 + i)).isNone ∧ w = 0) then t else tabPut t (page * 128 + i) w) b.words }

/-- CONFIG: the pages of the launch's blocks as saved. -/
def readConfig (p : List Byte) (id : Nat) (s : State) : State :=
  (List.range (p.length / 2064)).foldl (fun s i =>
    let e := (p.drop (2064 * i)).take 2064
    modLaunch id (fun l => { l with image := { l.image with blocks := l.image.blocks.modify (field e 0 2) (readConfigPage e) } }) s) s

/-- TEAMSYNC: the arrivals of each barrier. An access that waits on a semaphore of which no entry's bitmap names its thread tries again. -/
def readSync (p : List Byte) (teams : List Nat) (s : State) : State :=
  let entries := (List.range (p.length / 136)).map (fun i => (p.drop (136 * i)).take 136)
  let named (t : Thread) (k : Nat) : Bool := entries.any (fun e =>
    field e 0 1 == 1 && field e 1 1 == k && teams[field e 2 2]? == some t.team && bit (field e 8 128) t.tid)
  let waits (a : Access) : Bool :=
    match thread? s a.f.thread, semWaits a with
    | some t, some k => !teams.contains t.team || named t k
    | _, _ => true
  let s := { s with accesses := s.accesses.map (fun (a : Access) => if a.st == .blocked && !waits a then { a with st := .flight } else a) }
  entries.foldl (fun s e =>
    match teams[field e 2 2]?, decide (field e 0 1 = 0) with
    | some key, true => (match team? s key with
        | some m => putBarrier key { barrierOf m (field e 1 1 % 16) with arrived := field e 4 4 } s
        | none => s)
    | _, _ => s) s

/-- LSTART: the launch record, and what the launch counts. The used time is kept to the cycle where the record has the same microseconds;
`parent` gives the launch of an LSTART by its place in the stream. -/
def readLstart (p : List Byte) (parent : Nat → Option Nat) (l : Launch) : Launch :=
  let up := field p 284 4
  { l with
    raw := padTo 256 (p.take 256), queue := field p 256 2, depth := field p 258 1, index := field p 264 8
    deadline := if l.deadline / cyclesPerUs = field p 272 8 then l.deadline else field p 272 8 * cyclesPerUs
    retired := field p 280 4
    parent := if up = 0xFFFFFFFF then none else match parent up with | some i => some i | none => l.parent }

/-- One record of a unit takes the place of what the unit held (R156); fields that a record lacks read as zero (R45 (e)). What the bytes of
R155 do not give, the machine keeps. (DEDUCED, log 14) -/
def readRecord (id core : Nat) (teams : List Team) (tag : Nat) (p : List Byte) (s : State) : State :=
  let crews := teams.flatMap (·.crews)
  let keys := teams.map (·.key)
  if tag = 0x0101 then readUnit p keys crews s
  else if tag = 0x010A then readCrews p crews s
  else if tag = 0x0102 then readLvs p crews s
  else if tag = 0x0103 then readUniform p crews s
  else if tag = 0x010D then readThreads crews (fun i th => { th with prng := BitVec.ofNat 32 (field p (4 * i) 4) }) s
  else if tag = 0x0107 then readThreads crews (fun i th => readWaiting (field p (2 * i) 2) th) s
  else if tag = 0x0108 then readThreads crews (fun i th => readOrder (field p (2 * i) 2) th) s
  else if tag = 0x0104 then readMatch p id crews s
  else if tag = 0x010B then readParked p crews s
  else if tag = 0x0109 then readOverflow p core s
  else if tag = 0x010C then readSync p keys s
  else if tag = 0x0106 then readScratch p keys (((imageOf s id).map (·.scratch)).getD 0) s
  else if tag = 0x0105 then readConfig p id s
  else s

/-- The launches of a held family take what their LSTART records say, in the order of the stream. -/
def readStarts (recs : List (Nat × Nat × List Byte)) (units : List SavedUnit) (s : State) : State :=
  let parent (i : Nat) : Option Nat :=
    ((List.range units.length).find? (fun k => ((units.take k).map (·.records)).sum == i && (units[k]?).any (·.core.isNone))).bind
      (fun k => (units[k]?).map (·.launch))
  (((units.filter (·.core.isNone)).map (·.launch)).zip ((recs.filter (fun r => r.1 == 0x0100)).map (fun r => r.2.2))).foldl
    (fun s e => modLaunch e.1 (readLstart e.2 parent) s) s

/-- The units of a held launch take what the records of its stream say; `number` is the KEY of the first. (DEDUCED, log 14) -/
def readUnits (recs : List (Nat × Nat × List Byte)) : List (SavedUnit × Nat) → Nat → State → State
  | [], _, s => s
  | (u, core) :: us, number, s =>
    let mine := recs.filter (fun r => r.2.1 == number && r.1 != 0x0100 && r.1 != 0x01FF)
    readUnits recs us (number + 1)
      (mine.foldl (fun s r => readRecord u.launch core (unitTeams s u.launch u.home) r.1 r.2.2 s) s)

/-- A saved block comes to its core with the pages that CONFIG gives it (R156). Where another unit of the launch has brought the block there,
a stitched block is one block for both, and of any other the pages stand beside those of the first as further replicas. (DEDUCED, log 14) -/
def joinPlaced (mine : Nat → Bool) (p : Placed) (s : State) : State :=
  let core := if isStitched s p.launch p.block then p.core / 4 * 4 else p.core
  let p := { p with core := core }
  match s.placed.find? (fun q => q.launch == p.launch && q.block == p.block && q.core == core) with
  | none => housePlaced p s
  | some q =>
    if isStitched s p.launch p.block then s
    else
      let n := q.replicas.length
      let there (l b t : Nat) : Bool := l == p.launch && b == p.block && mine t
      housePlaced { q with replicas := q.replicas ++ p.replicas } { s with
        tokens := s.tokens.map (fun (k : Token) => if there k.launch k.block k.thread then { k with replica := k.replica + n } else k)
        accesses := s.accesses.map (fun (a : Access) => if there a.f.launch a.f.block a.f.thread
          then { a with f := { a.f with replica := a.f.replica + n } } else a)
        masks := s.masks.map (fun m => if m.launch == p.launch && m.block == p.block && (match team? s m.team with
          | some tm => tm.crews.any (fun c => mine (c * 32))
          | none => false) then { m with replica := m.replica + n } else m)
        threads := s.threads.map (fun (e : Nat × Thread) => if mine e.1 && e.2.launch == p.launch && e.2.st == .inBlock p.block
          then (e.1, { e.2 with replica := e.2.replica + n }) else e) }

/-- Puts one unit on a core: new crew slots with their old window stacks, and its pages, as saved, where the core has room for them; a
block for which it has none stays without pages until the scheduler has made room (R156). For its threads the restore is an acquire at
system scope (R231). (DEDUCED, log 14) (DEDUCED, log 38) -/
def restoreUnit (top : Nat) (u : SavedUnit) (core : Nat) (s : State) : State :=
  let ts := unitTeams s u.launch u.home
  let crews := ts.flatMap (·.crews)
  let slots := (freeSlots s core).take crews.length
  let blocks := s.placed.filter (fun p => p.core == u.home)
  let s := { s with placed := s.placed.filter (fun p => p.core != u.home) }
  let s := moveUnit (ts.map (·.key)) (crews.zip (slots.map (core * 256 + ·))) core s
  let s := joinDie top (dieOf core) (acquireWork (dieOf core) .sys s)
  blocks.foldl (fun s p => joinPlaced (fun t => (slots.map (core * 256 + ·)).contains (crewOf t)) { p with core := core, fired := s.cycles } s) s

/-- RESTORE: the held launch that the dispatcher selects takes its cores again, unless a launch that pre-empts has a claim on them (R140,
R150, R156); an uncorrectable error in its stream ends it
(R29 (c)). -/
def evRestore (id : Nat) (s : State) : State :=
  if !coresRun s || s.disp.hold then s
  else
    let s := noteHeads (unitsFit s) s
    match selection s (unitsFit s) with
    | some (q, some l) =>
      if l.id != id || claimAbove s l.prio then s
      else match placeUnits s (heldUnits l) [] with
        | none => s
        | some places =>
          let base := streamAt s id
          let limit := base + ((l.stream.map (·.2)).getD 0)
          let count := (l.units.map (·.records)).sum + 1
          match badAt s base (unitsBytes l.units + 80) with
          | some e => ueAbort id l.vt e s
          | none =>
          if streamFatal s base limit count then abortLaunch id 0x06 false none s
          else
            let recs := streamRecords s base limit count
            let s := readUnits recs places 0 (readStarts recs l.units s)
            let s := places.foldl (fun s e => restoreUnit id e.1 e.2 s) s
            let ids := family s id
            chargeFair q (lrTeams l.raw) { s with launches := s.launches.map (fun (x : Launch) =>
              if ids.contains x.id && x.phase == .held then { x with phase := .restoring } else x) }
    | _ => s

def execRestore (id : Nat) (s : State) : Out := .next (evRestore id s)

/-- RESTORE_DONE: the launch goes on, and the space of its stream is free (R153, R156). -/
def evRestoreDone (id : Nat) (s : State) : State :=
  match launch? s id with
  | none => s
  | some l =>
    if l.phase != .restoring || !coresRun s || l.parent.isSome then s
    else
      let ids := family s id
      { s with launches := s.launches.map (fun (x : Launch) =>
          if ids.contains x.id && x.phase == .restoring then { x with phase := .running, stream := none, units := [] } else x) }

def execRestoreDone (id : Nat) (s : State) : Out := .next (evRestoreDone id s)

end Sys2Proof.Machine
end

