-- ==== Sys2Proof/Machine/Migrate.lean ====
section
/-! DEFINITION. Page migration (R135, R147 to R149): the meaning of PAGE_MIGRATE. A first step reads the leaf and takes a frame;
the next one of the page copies it and swaps the leaf. -/

namespace Sys2Proof.Machine

/-- Entries of a placer ring. -/
def ringSize (log : BitVec 4) : Nat := 2 ^ (Nat.min log.toNat 12 + 4)

def plcBase (lo hi : Word32) : Nat := bits lo.toNat 31 12 * 4096 + bits hi.toNat 19 0 * 2 ^ 32

def modPlacer (die : Nat) (f : Placer → Placer) (s : State) : State := { s with placers := listMod s.placers die f }

def placer (s : State) (die : Nat) : Placer := s.placers.getD die Placer.reset

/-- Has a transaction a part in the page that keeps it where it is (R135)? -/
def pageShadowed (s : State) (frame : Nat) : Bool :=
  s.skim.entries.any (fun e => decide (e.unit_ / 2 ^ 21 = frame / 2 ^ 21)) ||
  s.skim.lines.any (fun l => decide (128 * l.line / 2 ^ 21 = frame / 2 ^ 21))

/-- Have a die's cores made at least twice as many accesses to a frame in the last millisecond as those of its home, and any at all (R147)? -/
def usedMore (s : State) (die frame : Nat) : Bool :=
  decide (0 < usesOf s die frame ∧ 2 * usesOf s (homeDie frame) frame ≤ usesOf s die frame)

/-- May this leaf be migrated to a die (R147)? -/
def movable (s : State) (die level p : Nat) : Bool :=
  level == 4 && pteSize p == 0 && !ptePin p && !pteX p && !pteSys p &&
  (match backing s (pteFrame p) with | .hbm _ => homeDie (pteFrame p) != die | _ => false) && !pageShadowed s (pteFrame p) &&
  usedMore s die (pteFrame p)

/-- Is a free-ring entry a frame of the die's stacks (R149)? -/
def frameOk (s : State) (die e : Nat) : Bool :=
  e % 2 ^ 21 == 0 && decide (e < 2 ^ 52) && (match backing s e with | .hbm k => k / 3 == die | _ => false)

/-- Has the log ring of a die room for one more entry? -/
def logRoom (p : Placer) : Bool :=
  p.logOn && decide ((p.logProd.toNat + 2 ^ 32 - p.logCons.toNat) % 2 ^ 32 < ringSize p.logLog)

/-- Takes the next entry of the free ring: a frame to migrate to, or an entry to be skipped (R149). (DEDUCED, log 39) A ring that the companion
does not answer for gives none (R31). (DESIGN CHOICE, log 51) -/
def takeFrame (sp va die leaf : Nat) (s : State) : State :=
  let p := placer s die
  let at_ := plcBase p.freeLo p.freeHi + 8 * (p.freeCons.toNat % ringSize p.freeLog)
  let e := ofBytes (readHome s at_ 8)
  if !reachable s at_ then s
  else if frameOk s die e then
    modPlacer die (fun p => { p with freeCons := p.freeCons + 1, job := some { space := sp, va := va, leaf := leaf, frame := e } }) s
  else modPlacer die (fun p => { p with freeCons := p.freeCons + 1, badFrame := satAdd 255 p.badFrame 1 }) s

/-- The stores to the old frame that stand in remote store buffers are performed there (R77, R148). (DEDUCED, log 39) -/
def settlePage (frame : Nat) (s : State) : State :=
  let es := ((s.mem.rsb.filter (fun e => decide (e.1 % 2 ^ 52 / 2 ^ 21 = frame / 2 ^ 21))).map (fun e =>
    (e.1 / 2 ^ 52, e.1 % 2 ^ 52 / 128))).eraseDups
  es.foldl (fun s e => rsbDrain e.1 e.2 s) s

/-- The placer's log entry (R149). (DEDUCED, log 39) -/
def writeMoveLog (die : Nat) (j : Move) (s : State) : State :=
  let p := placer s die
  let data := toBytes 8 j.va ++ toBytes 8 j.space ++ toBytes 8 (pteFrame j.leaf) ++ toBytes 8 j.frame
  modPlacer die (fun p => { p with logProd := p.logProd + 1, migrated := satAdd 65535 p.migrated 1, job := none })
    (writeSys (plcBase p.logLo p.logHi + 32 * (p.logProd.toNat % ringSize p.logLog)) data s)

/-- The copy of the page into its new frame. It takes the words as they are stored where they hold an uncorrectable error and logs nothing
(DESIGN CHOICE, log 49). Copies of the new frame's lines, which hold what the frame held before, go (R148). (DEDUCED, log 39) -/
def copyPage (old frame : Nat) (s : State) : State :=
  let s := settlePage old s
  let s := writeSys frame (readHome s old (2 ^ 21)) s
  (List.range 16384).foldl (fun s i => dropCopies (frame / 128 + i) s) s

/-- The copy, the swap, the shootdown and the log entry; the swap fails where the leaf is no longer what was read, and that ends the
migration, with the page copied (R78, R148). (DEDUCED, log 39) -/
def finishMove (die : Nat) (j : Move) (s : State) : State :=
  let old := pteFrame j.leaf
  let abandon (s : State) : State := modPlacer die (fun p =>
    { p with freeCons := p.freeCons - 1, abandoned := satAdd 255 p.abandoned 1, job := none }) s
  if pageShadowed s old || !logRoom (placer s die) then s
  else
    let s := copyPage old j.frame s
    match leafAddr s j.space j.va with
    | none => abandon s
    | some at_ =>
      if ofBytes (readHome s at_ 8) ≠ j.leaf then abandon s
      else
      let s := writeSys at_ (toBytes 8 (j.leaf - old + j.frame)) s
      writeMoveLog die j { s with xlat := { s.xlat with tlb := s.xlat.tlb.filter (fun e =>
        !(e.space == j.space && decide (e.vpn / 512 = j.va / 2 ^ 21))) } }

/-- PAGE_MIGRATE (R147, R148). (DEDUCED, log 39) -/
def evPageMigrate (sp : Fin 64) (va : Word64) (die : Fin 4) (s : State) : State :=
  let page := va.toNat % 2 ^ 54 / 2 ^ 21 * 2 ^ 21
  let p := placer s die.val
  if !coresRun s || !s.disp.migrate then s
  else match p.job with
    | some j => if j.space = sp.val ∧ j.va = page then finishMove die.val j s else s
    | none =>
      match walk s sp.val page with
      | .leaf level leaf =>
        if movable s die.val level leaf && p.freeOn && p.freeProd != p.freeCons && logRoom p then takeFrame sp.val page die.val leaf s else s
      | _ => s

def execPageMigrate (sp : Fin 64) (va : Word64) (die : Fin 4) (s : State) : Out := .next (evPageMigrate sp va die s)

end Sys2Proof.Machine
end

