-- ==== Sys2Proof/Machine/Rambler.lean ====
section
/-! DEFINITION. The Rambler (R42 to R51): its commands, the handshake, the frames it sends and takes, rounds and cut-over. -/

namespace Sys2Proof.Machine

/-! ## Slots -/

def rambler (s : State) (n : Nat) : Rambler := s.ramblers.getD n Rambler.reset
def modRambler (n : Nat) (f : Rambler → Rambler) (s : State) : State := { s with ramblers := listMod s.ramblers n f }

/-- A session of the slot is on its way (STATE 1 to 4). -/
def inSession (r : Rambler) : Bool := decide (1 ≤ r.state ∧ r.state ≤ 4)

/-- The session fails with an ERR code (R51). -/
def failSession (n err : Nat) (s : State) : State := modRambler n (fun r => { r with state := 6, err := err }) s

/-- Does a slot hold its space? It does until it is released, unless it failed because another slot held the space (R51). -/
def holdsSpace (r : Rambler) : Bool := r.state != 0 && !(r.state == 6 && r.err == 6)

/-- Does another slot hold the slot's space? -/
def spaceTaken (s : State) (n : Nat) : Bool :=
  (List.range 4).any (fun k => k != n && holdsSpace (rambler s k) && (rambler s k).space == (rambler s n).space)

/-- Does the Rambler's logic run? -/
def ramblerRuns (s : State) : Bool := s.boot.released && !frozen s

/-- The device's identity public key (R60). -/
def ownIdentity (s : State) : List Byte := padTo 32 (ed25519Public s.boot.identity)

/-- The peer's identity key as software wrote it (R51). -/
def peerIdentity (r : Rambler) : List Byte := r.peerKey.flatMap (fun w => toBytes 4 w.toNat)

/-! ## Handshake (R42) -/

/-- HELLO or REPLY without its signature. (DEDUCED, log 18) -/
def helloBytes (m : Hello) : List Byte := toBytes 4 m.session.toNat ++ m.pub ++ m.nonce ++ m.ident

/-- What a side's signature covers: the byte 0x01 or 0x02, then HELLO and REPLY. -/
def handshakeDigest (b : Byte) (hello reply : Hello) : BitVec 512 :=
  sha512 (b :: (helloBytes hello ++ helloBytes reply))

/-- This side's HELLO, or its REPLY before the signature. (DEDUCED, log 18) -/
def ownHello (s : State) (r : Rambler) (session : Word32) : Hello :=
  { session := session, pub := padTo 32 (x25519Public r.secret), nonce := r.nonce, ident := ownIdentity s, sig := [] }

/-- The session keys, or failure on an all-zero secret; round 1 is the current round. -/
def deriveKeys (n : Nat) (peerPub : List Byte) (hello reply : Hello) (s : State) : State :=
  let shared := x25519 (rambler s n).secret peerPub
  if allZero shared then failSession n 1 s
  else
    let info := [0x48, 0x46, 0x37, 0x31, 0x36, 0x30, 0x2D, 0x52, 0x4D, 0x42, 0x4C, 0x2D, 0x31] ++ toBytes 4 hello.session.toNat
    let out := hkdf shared (hello.nonce ++ reply.nonce) info 36
    modRambler n (fun r => { r with key := out.take 32, salt := (out.drop 32).take 4, state := 2, round := 1, begun := true }) s

/-- A start of a slot (R42, R51): nothing while STATE is not 0; BUSY where another slot holds the space. -/
def startSlot (n : Nat) (src : Bool) (f : Fresh) (s : State) : State :=
  if !answers s 0xA00 || !ramblerRuns s || (rambler s n).state != 0 then s
  else
    let s := modRambler n (fun r => { r with src := src, session := f.session, secret := f.secret, nonce := f.nonce, state := 1, round := 0,
                                             err := 0 }) s
    if spaceTaken s n then failSession n 6 s else s

/-- SEND (R42). -/
def evSend (n : Nat) (f : Fresh) (s : State) : State :=
  let t := startSlot n true f s
  if (rambler s n).state = 0 ∧ (rambler t n).state = 1 then
    let h := ownHello t (rambler t n) f.session
    modRambler n (fun r => { r with hello := some h }) { t with outputs := t.outputs ++ [.hello n h] }
  else t

def execSend (slot : Fin 4) (f : Fresh) (s : State) : Out := .next (evSend slot.val f s)

/-- RECV (R42). -/
def execRecv (slot : Fin 4) (f : Fresh) (s : State) : Out := .next (startSlot slot.val false f s)

/-- RMBL_HELLO: the destination checks the key and answers with a signed REPLY (R42). (DEDUCED, log 18) -/
def evHello (n : Nat) (m : Hello) (s : State) : State :=
  let r := rambler s n
  if !ramblerRuns s || r.src || r.state != 1 || r.hello.isSome then s
  else if m.ident ≠ peerIdentity r then failSession n 2 s
  else
    let bare := ownHello s r m.session
    let reply := { bare with sig := padTo 64 (ed25519Sign s.boot.identity (handshakeDigest 1 m bare)) }
    modRambler n (fun r => { r with hello := some m, reply := some reply, session := m.session })
      { s with outputs := s.outputs ++ [.reply n reply] }

def execRmblHello (slot : Fin 4) (m : Hello) (s : State) : Out := .next (evHello slot.val m s)

/-- RMBL_FINISH: the destination checks the source's signature and derives the keys (R42). (DEDUCED, log 18) -/
def evFinish (n : Nat) (sig : List Byte) (s : State) : State :=
  let r := rambler s n
  match r.hello, r.reply with
  | some h, some p =>
    if !ramblerRuns s || r.src || r.state != 1 then s
    else if !ed25519Verify (peerIdentity r) (handshakeDigest 2 h p) sig then failSession n 1 s
    else deriveKeys n h.pub h p s
  | _, _ => s

def execRmblFinish (slot : Fin 4) (sig : List Byte) (s : State) : Out := .next (evFinish slot.val sig s)

/-! ## Sending (R43, R44, R46, R47) -/

/-- A frame around one plaintext record: header, ciphertext and tag (R43). -/
def sealFrame (r : Rambler) (seq : Nat) (rec_ : List Byte) : List Byte :=
  let h := toBytes 4 r.session.toNat ++ toBytes 4 0 ++ toBytes 8 seq
  h ++ gcmSeal r.key (r.salt ++ toBytes 8 seq) h rec_

/-- Sends one record. -/
def sendRecord (n : Nat) (rec_ : List Byte) (s : State) : State :=
  let r := rambler s n
  let seq := r.seqOut + 1
  modRambler n (fun r => { r with seqOut := seq, unacked := r.unacked ++ [seq], transcript := tabPut r.transcript seq rec_ })
    { s with outputs := s.outputs ++ [.frame n seq (sealFrame r seq rec_)] }

/-- The address bits below a level's entries. -/
def levelShift (level : Nat) : Nat := 57 - 9 * level

/-- The leaves below a table, in ascending virtual address: address, frame, bytes; none through an entry that the companion does not answer for
(R31). (DESIGN CHOICE, log 51) -/
def leavesFrom (s : State) : Nat → Nat → Nat → Nat → List (Nat × Nat × Nat)
  | 0, _, _, _ => []
  | fuel + 1, level, table, va =>
    (List.range (if level = 1 then 64 else 512)).flatMap (fun i =>
      let p := ofBytes (readHome s (table + 8 * i) 8)
      let at_ := va + i * 2 ^ levelShift level
      if !reachable s (table + 8 * i) || !pteV p || pteBad level p then []
      else if pteL p then [(at_, pteFrame p, pageBytes level (pteSize p))]
      else leavesFrom s fuel (level + 1) (pteFrame p) at_)

/-- The mapped 4 KiB sub-pages of a space whose frames have dirty bits. A leaf of more than one entry is listed once. -/
def subPages (s : State) (sp : Nat) : List (Nat × Nat) :=
  let pages := (leavesFrom s 5 1 (rootOf s sp) 0).flatMap (fun e =>
    let va := e.1 / e.2.2 * e.2.2
    (List.range (e.2.2 / 4096)).map (fun i => (va + 4096 * i, e.2.1 + 4096 * i)))
  (pages.eraseDups).filter (fun e => match backing s e.2 with | .hbm _ | .carve _ => true | _ => false)

/-- Sends one sub-page, its dirty bit cleared first. -/
def sendPage (n : Nat) (e : Nat × Nat) (s : State) : State :=
  let s := { s with mem := { s.mem with clean := tabPut s.mem.clean (dirtyIndex e.2) () } }
  let data := readHome s e.2 4096
  let rec_ := if allZero data then recordBytes 3 true e.1 [] else recordBytes 2 true e.1 data
  sendRecord n rec_ (modRambler n (fun r => { r with roundSent := r.roundSent + 1 }) s)

def isDirty (s : State) (pa : Nat) : Bool := (tabFind s.mem.clean (dirtyIndex pa)).isNone

/-- One walk of the space (R47): in ascending address, the sub-pages whose bit is set as the walk reads it, or every one. -/
def walkSpace (n : Nat) (every : Bool) (s : State) : State :=
  (subPages s (rambler s n).space.toNat).foldl (fun s e => if every || isDirty s e.2 then sendPage n e s else s) s

/-- ROUND_END (R46). -/
def sendRoundEnd (n : Nat) (s : State) : State :=
  let r := rambler s n
  modRambler n (fun r => { r with roundEnd := true }) (sendRecord n (recordBytes 4 true r.round (toBytes 8 r.roundSent)) s)

/-- The queues bound to a space: those that name it and are enabled or still hold records that they have taken. (DEDUCED, log 18) -/
def boundQueues (s : State) (sp : Nat) : List Nat :=
  (List.range 64).filter (fun q => ((queue s q).enable || !(queue s q).waiting.isEmpty) && (queue s q).space.toNat == sp)

/-- BEGIN (R46). -/
def beginPayload (s : State) (sp : Nat) : List Byte :=
  let p := space s sp
  let ct := bits p.ctLo.toNat 31 6 * 64 + bits p.ctHi.toNat 19 0 * 2 ^ 32
  let used := (List.range p.ctCount.toNat).any (fun i => reachable s (ct + 64 * i) && bit (ofBytes (readHome s (ct + 64 * i + 23) 1)) 0)
  toBytes 8 s.boot.fwrev.toNat ++ toBytes 1 sp ++ toBytes 1 (boundQueues s sp).length ++ toBytes 2 0 ++ toBytes 4 p.ctCount.toNat ++
  toBytes 8 (subPages s sp).length ++ toBytes 4 p.hmSize.toNat ++ toBytes 4 (boolBit used 0) ++ toBytes 8 0

/-- RMBL_REPLY: the source checks REPLY, sends FINISH, derives the keys and begins round 1 (R42, R47). (DEDUCED, log 18) -/
def evReply (n : Nat) (m : Hello) (s : State) : State :=
  let r := rambler s n
  match r.hello with
  | none => s
  | some h =>
    if !ramblerRuns s || !r.src || r.state != 1 || m.session != h.session then s
    else if m.ident ≠ peerIdentity r then failSession n 2 s
    else if !ed25519Verify (peerIdentity r) (handshakeDigest 1 h { m with sig := [] }) m.sig then failSession n 1 s
    else
      let fin := padTo 64 (ed25519Sign s.boot.identity (handshakeDigest 2 h m))
      let s := modRambler n (fun r => { r with reply := some m }) { s with outputs := s.outputs ++ [.finish n fin] }
      let s := deriveKeys n m.pub h m s
      if (rambler s n).state = 2 then
        walkSpace n true (sendRecord n (recordBytes 1 true h.session.toNat (beginPayload s r.space.toNat)) s)
      else s

def execRmblReply (slot : Fin 4) (m : Hello) (s : State) : Out := .next (evReply slot.val m s)

/-- Has the final round begun? -/
def inFinal (r : Rambler) : Bool := r.state == 4 && r.cutAt.isNone

/-- RMBL_ACK: with every frame of a round acknowledged ROUND_END follows; END's acknowledgement ends the session (R47, R49). (DEDUCED, log 18) -/
def evAck (n seq : Nat) (s : State) : State :=
  let r := rambler s n
  if !ramblerRuns s || !r.src || !r.begun || !inSession r || !r.unacked.contains seq then s
  else
    let s := modRambler n (fun r => { r with unacked := r.unacked.erase seq }) s
    let r := rambler s n
    if !r.unacked.isEmpty then s
    else if r.ended then modRambler n (fun r => { r with state := 5, sent := r.roundSent }) s
    else if inFinal r then s
    else if r.roundEnd then modRambler n (fun r => { r with sent := r.roundSent }) s
    else sendRoundEnd n s

def execRmblAck (slot : Fin 4) (seq : Nat) (s : State) : Out := .next (evAck slot.val seq s)

/-- QUEUE and its LAUNCH records (R46, R48). -/
def sendQueue (n q : Nat) (s : State) : State :=
  let x := queue s q
  let log := Nat.min 16 (Nat.max 4 x.logSize.toNat)
  let payload := toBytes 1 x.prio.toNat ++ toBytes 1 log ++ toBytes 6 0 ++
    toBytes 8 (bits x.baseLo.toNat 31 8 * 256 + bits x.baseHi.toNat 21 0 * 2 ^ 32) ++ toBytes 8 x.head ++ toBytes 8 x.tail
  x.waiting.foldl (fun s w => sendRecord n (recordBytes 0x11 true q w.raw) s) (sendRecord n (recordBytes 0x10 true q payload) s)

/-- The plaintext records before END, in the order of their sequence numbers. -/
def recordsSoFar (r : Rambler) : List Byte := r.transcript.flatMap (·.2)

/-- ROUND_END, the queues and END close the final round (R48 step 5). (DEDUCED, log 18) -/
def closeFinal (n : Nat) (s : State) : State :=
  let s := (boundQueues s (rambler s n).space.toNat).foldl (fun s q => sendQueue n q s) (sendRoundEnd n s)
  let r := rambler s n
  let last := recordBytes 0xFF true (r.seqOut + 1) (toBytes 64 (sha512 (recordsSoFar r)).toNat)
  modRambler n (fun r => { r with ended := true }) (sendRecord n last s)

/-- A walk of the final round: it sends what is dirty; a walk that finds nothing, with no launch of the space left, closes the
round. -/
def walkFinal (n : Nat) (s : State) : State :=
  let sp := (rambler s n).space.toNat
  if (subPages s sp).any (fun e => isDirty s e.2) then walkSpace n false s
  else if s.launches.any (fun l => l.space == sp) then s
  else closeFinal n s

/-- RMBL_ROUND: the next round, once ROUND_END is acknowledged (R47, R48). (DEDUCED, log 18) -/
def evRound (n : Nat) (s : State) : State :=
  let r := rambler s n
  if !ramblerRuns s || !r.src || !r.begun || !r.unacked.isEmpty || r.ended then s
  else if inFinal r then walkFinal n s
  else if !r.roundEnd || (r.state != 2 && r.state != 4) then s
  else
    let s := modRambler n (fun r => { r with round := r.round + 1, roundEnd := false, roundSent := 0,
                                             cutAt := if r.state = 4 then none else r.cutAt }) s
    if r.state = 4 then walkFinal n s
    else
      let s := walkSpace n false s
      if (rambler s n).unacked.isEmpty then sendRoundEnd n s else s

def execRmblRound (slot : Fin 4) (s : State) : Out := .next (evRound slot.val s)

/-! ## Cut-over (R48, R49, R51) -/

/-- CUT (R48 step 1). -/
def evCut (n : Nat) (s : State) : State :=
  let r := rambler s n
  if !answers s 0xA00 || frozen s || !r.src || r.state != 2 then s
  else modSpace r.space.toNat (fun p => { p with cutOver := true })
    (modRambler n (fun r => { r with state := 3, cutAt := some s.cycles }) s)

def execCut (slot : Fin 4) (s : State) : Out := .next (evCut slot.val s)

/-- A launch at the end of the grace period (R48 step 3). A team in COMMITTING cannot end without its commit (R109), so its launch is
one that has committed a team. A launch that hangs in this cycle hangs (R165 (b)). -/
def cutLaunch (id : Nat) (s : State) : State :=
  match launch? s id with
  | none => s
  | some l =>
    if hangDue s id then evHang id s
    else
    let committing := (endTags s l none).any (fun v => (tag? s v).any (·.st == .committing))
    if lrTeamGran l.raw && (decide (0 < l.teamCommits) || committing) then abortLaunch id 0x1A false none s
    else
      let t := abortLaunch id 0x19 false none s
      match launch? t id with
      | some k => if l.cause.isNone && k.cause.isSome then modLaunch id (fun k => { k with requeue := true }) t else t
      | none => t

/-- RMBL_GRACE_EXPIRY (R48 steps 3 and 4). A session that has failed within the grace period is at STATE 3 no more, and the step is not made
(R49). (DESIGN CHOICE, log 52) -/
def evGraceExpiry (n : Nat) (s : State) : State :=
  let r := rambler s n
  match r.cutAt with
  | none => s
  | some c =>
    if !ramblerRuns s || r.state != 3 || decide (s.cycles < c + r.grace.toNat * 700) then s
    else
      let sp := r.space.toNat
      let ids := (s.launches.filter (fun l => l.space == sp && l.parent.isNone)).map (·.id)
      let s := ids.foldl (fun s i => cutLaunch i s) s
      modSpace sp (fun p => { p with dropEth := true }) (modRambler n (fun r => { r with state := 4 }) s)

def execRmblGraceExpiry (slot : Fin 4) (s : State) : Out := .next (evGraceExpiry slot.val s)

/-- A slot that software has released keeps its configuration registers and nothing else. -/
def releasedSlot (r : Rambler) : Rambler :=
  { Rambler.reset with space := r.space, grace := r.grace, ports := r.ports, sent := r.sent, logLo := r.logLo, logHi := r.logHi,
                       logSize := r.logSize, peerAddr := r.peerAddr, peerKey := r.peerKey }

/-- RESUME: the slot is released, and where it held its space dispatch goes on (R49). (DEDUCED, log 18) -/
def evResume (n : Nat) (s : State) : State :=
  let r := rambler s n
  if !answers s 0xA00 || frozen s || (r.state != 5 && r.state != 6) then s
  else
    let s' := modRambler n releasedSlot s
    if !holdsSpace r then s' else modSpace r.space.toNat (fun p => { p with cutOver := false, dropEth := false }) s'

def execResume (slot : Fin 4) (s : State) : Out := .next (evResume slot.val s)

/-- CANCEL (R51). -/
def execCancel (slot : Fin 4) (s : State) : Out :=
  .next (if answers s 0xA00 && !frozen s && inSession (rambler s slot.val) then failSession slot.val 7 s else s)

/-- RMBL_NET_FAIL (R51). -/
def execRmblNetFail (slot : Fin 4) (s : State) : Out :=
  .next (if ramblerRuns s && inSession (rambler s slot.val) then failSession slot.val 5 s else s)

/-! ## Receiving (R43 to R46, R50) -/

/-- A record as its reader takes it: tag, whether it must be understood, version, key, payload. -/
structure Rec where
  tag : Nat
  req : Bool
  ver : Nat
  key : Nat
  payload : List Byte
  raw : List Byte
  deriving DecidableEq, Repr

def parseRecord (b : List Byte) : Rec :=
  { tag := field b 0 2, ver := field b 2 1, req := bit (field b 3 1) 0, key := field b 8 8,
    payload := (b.drop 16).take (field b 4 4), raw := b }

/-- The Rambler's tags (R46). -/
def ramblerTags : List Nat := [1, 2, 3, 4, 0x10, 0x11, 0xFF]

/-- Writes bytes of the destination's record log; a page of it that cannot be written, or a companion frame that does not
answer, fails the session. (DEDUCED, log 18) -/
def writeLog (n : Nat) (data : List Byte) (s : State) : State :=
  let r := rambler s n
  let base := r.logLo.toNat + r.logHi.toNat * 2 ^ 32 + r.logUsed
  let pas := (List.range data.length).mapM (fun i =>
    match translate s 160 r.space.toNat (base + i) .device with | .ok pa _ _ => if reachable s pa then some pa else none | _ => none)
  if r.logSize.toNat < r.logUsed + data.length then failSession n 4 s
  else match pas with
    | none => failSession n 4 s
    | some l =>
      let s := (l.zip data).foldl (fun s e => deviceWrite e.1 [e.2] (some r.space.toNat) s) s
      modRambler n (fun r => { r with logUsed := r.logUsed + data.length }) s

/-- PAGE and ZERO (R50). A frame in companion memory that cannot be reached fails the session as an unmapped KEY does. (DEDUCED, log 18) -/
def writePage (n key : Nat) (data : List Byte) (s : State) : State :=
  let sp := (rambler s n).space.toNat
  match translate s 160 sp (key / 4096 * 4096) .device with
  | .ok pa _ _ => if reachable s pa then deviceWrite pa data (some sp) s else failSession n 3 s
  | _ => failSession n 3 s

/-- END: the count and the digest decide (R50). (DEDUCED, log 18) -/
def takeEnd (n seq : Nat) (r : Rec) (s : State) : State :=
  let t := rambler s n
  let before := (t.transcript.filter (fun e => e.1 != seq)).flatMap (·.2)
  if r.key = t.accepted.length ∧ padTo 64 r.payload = toBytes 64 (sha512 before).toNat then
    modRambler n (fun t => { t with state := 5 }) s
  else failSession n 8 s

/-- Applies one record (R45, R50). (DEDUCED, log 18) -/
def takeRecord (n seq : Nat) (r : Rec) (s : State) : State :=
  if r.tag = 0 ∨ (r.req = true ∧ (1 < r.ver ∨ !ramblerTags.contains r.tag)) then failSession n 8 s
  else if !ramblerTags.contains r.tag then s
  else if r.tag = 2 then writePage n r.key (padTo 4096 r.payload) s
  else if r.tag = 3 then writePage n r.key (List.replicate 4096 0) s
  else
    let s := writeLog n r.raw s
    if (rambler s n).state = 6 then s
    else if r.tag = 4 then modRambler n (fun t => { t with round := r.key + 1 }) s
    else if r.tag = 0xFF then takeEnd n seq r s
    else s

/-- A frame reaches a destination slot (R43); `ours` says whether the row at hand is for records of its tag. A frame already accepted
is discarded; any other whose tag fails to verify fails the session, one with another session number in its header among them, since
the header is authenticated. -/
def receiveFrame (n : Nat) (ours : Nat → Bool) (f : List Byte) (s : State) : State :=
  let r := rambler s n
  if !ramblerRuns s || r.src || !r.begun || !inSession r then s
  else
    let seq := field f 8 8
    if r.accepted.contains seq then s
    else match gcmOpen r.key (r.salt ++ toBytes 8 seq) (f.take 16) (f.drop 16) with
      | none => failSession n 1 s
      | some plain =>
        let x := parseRecord plain
        if !ours x.tag then s
        else takeRecord n seq x (modRambler n (fun t => { t with accepted := t.accepted ++ [seq],
                                                                   transcript := tabPut t.transcript seq plain }) s)

/-- RMBL_BEGIN (R46). -/
def execRmblBegin (slot : Fin 4) (f : List Byte) (s : State) : Out := .next (receiveFrame slot.val (· == 1) f s)
/-- RMBL_PAGE (R50). -/
def execRmblPage (slot : Fin 4) (f : List Byte) (s : State) : Out := .next (receiveFrame slot.val (· == 2) f s)
/-- RMBL_ZERO (R50). -/
def execRmblZero (slot : Fin 4) (f : List Byte) (s : State) : Out := .next (receiveFrame slot.val (· == 3) f s)
/-- RMBL_ROUND_END (R50). -/
def execRmblRoundEnd (slot : Fin 4) (f : List Byte) (s : State) : Out := .next (receiveFrame slot.val (· == 4) f s)
/-- RMBL_QUEUE (R50). -/
def execRmblQueue (slot : Fin 4) (f : List Byte) (s : State) : Out := .next (receiveFrame slot.val (· == 0x10) f s)
/-- RMBL_LAUNCH (R50). -/
def execRmblLaunch (slot : Fin 4) (f : List Byte) (s : State) : Out := .next (receiveFrame slot.val (· == 0x11) f s)
/-- RMBL_END (R50). -/
def execRmblEnd (slot : Fin 4) (f : List Byte) (s : State) : Out := .next (receiveFrame slot.val (· == 0xFF) f s)
/-- RMBL_UNKNOWN_TAG (R45). -/
def execRmblUnknownTag (slot : Fin 4) (f : List Byte) (s : State) : Out :=
  .next (receiveFrame slot.val (fun t => !ramblerTags.contains t) f s)

end Sys2Proof.Machine
end

