-- ==== Sys2Proof/Machine/Events.lean ====
section
/-! DEFINITION. The meanings of the device's own events on the Skim, memory and the dispatcher (R91, R109 to R136, R138, R211,
R229): each acts while the fabric runs. -/

namespace Sys2Proof.Machine

/-- An event of the fabric: nothing before the cores are released and nothing during a freeze (R53, R61). (DESIGN CHOICE, log 1) -/
def whileRunning (f : State → State) (s : State) : Out := .next (if coresRun s then f s else s)

/-- DISPATCH (R138). -/
def execDispatch (s : State) : Out := whileRunning (evDispatch (unitsFit s)) s
/-- COMPLETION_WORD (R91). -/
def execCompletionWord (id : Nat) (s : State) : Out := whileRunning (evCompletionWord id) s
/-- COMMIT_REQUEST (R119). -/
def execCommitRequest (id : Nat) (team : Option Nat) (s : State) : Out := whileRunning (evCommitRequest id team) s
/-- COMMIT_START (R121). -/
def execCommitStart (s : State) : Out := whileRunning evCommitStart s
/-- COMMIT_WALK (R121). -/
def execCommitWalk (die : Fin 4) (s : State) : Out := whileRunning (evCommitWalk die) s
/-- COMMIT_FLIP (R121). -/
def execCommitFlip (s : State) : Out := whileRunning evCommitFlip s
/-- COMMIT_RELEASE (R121). -/
def execCommitRelease (s : State) : Out := whileRunning evCommitRelease s
/-- LINE_DRAIN (R123). -/
def execLineDrain (vt line : Nat) (s : State) : Out := whileRunning (evLineDrain vt line) s
/-- ABORT_COMPLETE (R125). -/
def execAbortComplete (vt : Nat) (s : State) : Out := whileRunning (evAbortComplete vt) s
/-- SHADOW_EVICT (R112). -/
def execShadowEvict (vt line : Nat) (s : State) : Out := whileRunning (evShadowEvict vt line) s
/-- RSB_WRITEBACK (R211). -/
def execRsbWriteback (die : Fin 4) (line : Nat) (s : State) : Out := whileRunning (evRsbWriteback die line) s
/-- SC_TOKEN_HOP (R229). -/
def execScTokenHop (s : State) : Out := whileRunning evScTokenHop s

end Sys2Proof.Machine
end

