-- ==== Sys2Proof/Machine/Flow.lean ====
section
/-! DEFINITION. Flow, call, loop and predicate nodes (R282 to R309), port-return and the nodes of an emulation handler (R195 to
R197). -/

namespace Sys2Proof.Machine

/-- In the handler block the node acts as SINK (R197). -/
def unlessHandler (s : State) (k : Out) : Out :=
  match s.cur with
  | some f => if isHandler s f.launch f.block then .next { s with cur := none } else k
  | none => k

/-! ## Bringing values in and out (R285 to R288) -/

/-- The operand of a live-value node: eight slots, two, one, or a predicate (R285). -/
def liveOpd (n : Node) (src : Src) (wide : Bool) : Opd :=
  match liveNet src wide with
  | .wide => opdW src
  | .pred => opdP src
  | _ => opdT n.ty src

/-- LIVEIN (R285). -/
def execLivein (n : Node) (wide : Bool) (s : State) : Out :=
  unlessHandler s (calc1 n (.livein n wide) (liveOpd n n.a wide) (liveNet n.a wide) id s)

/-- Writes the slots that a live-value operand names (R187, R286). -/
def writeLive (t node : Nat) (o : Opd) (v : Nat) (s : State) : State :=
  match o.src with
  | .win k => if 32 ≤ k.val then writePred t node (k.val - 32) v s else writeSlots t node k.val (slotsOf o).length v s
  | _ => s

/-- LIVEOUT (R286). -/
def execLiveout (n : Node) (wide : Bool) (s : State) : Out :=
  let o := liveOpd n n.b wide
  unlessHandler s (runNode n (.liveout n wide) [{ o with src := n.a }] (slotsOf o) (fun f v s =>
    emit n f (liveNet n.b wide) (v.getD 0 0) (writeLive f.thread f.node o (v.getD 0 0) s)) s)

/-- CONST (R287). -/
def execConst (n : Node) (s : State) : Out := calc1 n (.const n) (opdT n.ty n.a) .narrow id s

/-- CONSTW: the payload stands in the next slot (R266, R288). -/
def execConstw (n : Node) (s : State) : Out :=
  runNode n (.constw n) [] [] (fun f _ s =>
    let w := ((blockAt s f.launch f.block).bind (fun b => tabFind b.words (f.node + 1))).getD 0
    emit n f .narrow (w.toNat % 2 ^ 64) s) s

/-! ## Steering and carrying (R289 to R294) -/

/-- STEER (R289). -/
def execSteer (n : Node) (c : Cls) (s : State) : Out :=
  runNode n (.steer n c) [opdC c n.a, opdP n.b] [] (fun f v s => emitBit n f (clsNet c) (v.getD 0 0) (v.getD 1 0 % 2 == 1) s) s

/-- MERGE sends the one token that it matched (R290). -/
def execMerge (n : Node) (c : Cls) (s : State) : Out :=
  runNode n (.merge n c) [] [] (fun f _ s =>
    let v := ((f.toks.head?).map (fun (k : Token) => k.val.toNat)).getD 0
    emit n f (clsNet c) (cutTo (opdC c n.a).wd v) s) s

/-- SELECT (R291). -/
def execSelect (n : Node) (c : Cls) (s : State) : Out :=
  runNode n (.select n c) [opdP n.a, opdC c n.b, opdC c (srcC n)] [] (fun f v s =>
    emit n f (clsNet c) (if v.getD 0 0 % 2 = 1 then v.getD 1 0 else v.getD 2 0) s) s

/-- GATE (R292). -/
def execGate (n : Node) (c : Cls) (s : State) : Out := calc1 n (.gate n c) (opdC c n.a) (clsNet c) id s

/-- SINK: an ordered one retires its position of the chain (R294). -/
def execSink (n : Node) (unord : Bool) (s : State) : Out :=
  runNode n (.sink n unord) [] [] (fun f _ s => if unord then s else submit (.sink n unord) f 0 0 0 s) s

/-- DUP (R293). -/
def execDup (n : Node) (c : Cls) (s : State) : Out := calc1 n (.dup n c) (opdC c n.a) (clsNet c) id s

/-- PASS (R293). -/
def execPass (n : Node) (c : Cls) (s : State) : Out := calc1 n (.pass n c) (opdC c n.a) (clsNet c) id s

/-! ## Leaving a block (R295 to R304) -/

/-- EXIT (R298). -/
def execExit (n : Node) (s : State) : Out :=
  unlessHandler s (runNode n (.exit n) [opd32 n.b] [] (fun f v s => departTo f (v.getD 0 0) (fpOf s f.thread) s) s)

/-- EXITC (R299). -/
def execExitc (n : Node) (s : State) : Out :=
  unlessHandler s (runNode n (.exitc n) [opdP n.a, opd32 n.b] [] (fun f v s =>
    let b := v.getD 1 0
    departTo f (if v.getD 0 0 % 2 = 1 then b % 65536 else b / 65536) (fpOf s f.thread) s) s)

/-- Both fields of a call word are valid (R301, R302). -/
def callOk (m : Image) (word : Nat) : Bool := word % 65536 != 65535 && targetOk m (word % 65536) && targetOk m (word / 65536 % 65536)

/-- The rows that bound FP + 32 (R188). -/
def windowTop (s : State) (l : Nat) : Nat := Nat.max 64 (((launch? s l).map (fun x => lrWsRows x.raw)).getD 0)

/-- A call with frame size `k`: the word's check, the depth check, the link word, the departure (R301). -/
def callTo (i : Instr) (f : Firing) (k word : Nat) (s : State) : State :=
  let fp := fpOf s f.thread
  match imageOf s f.launch with
  | none => s
  | some m =>
    if !callOk m word then abortOf f 0x06 s
    else if windowTop s f.launch < fp + k + 32 then trapNode f 0x10 s
    else match absent s f [k - 1] with
      | some pos => parkWindow i f pos s
      | none => depart f (word % 65536) (fp + k) (setSlot f.thread f.node (k - 1) (-1) (BitVec.ofNat 32 (word / 65536 % 65536 + 65536 * (k - 1))) s)

/-- CALL (R301). -/
def execCall (n : Node) (k : Fin 32) (s : State) : Out :=
  unlessHandler s (runNode n (.call n k) [opd32 n.b] [] (fun f v s => callTo (.call n k) f (k.val + 1) (v.getD 0 0) s) s)

/-- CALLI (R301, R302). -/
def execCalli (n : Node) (k : Fin 32) (s : State) : Out :=
  unlessHandler s (runNode n (.calli n k) [opd32 n.b] [] (fun f v s => callTo (.calli n k) f (k.val + 1) (v.getD 0 0) s) s)

/-- The return that a link word names: target and new FP, if it is valid (R303). -/
def linkOf (m : Image) (fp word : Nat) : Option (Nat × Nat) :=
  let k := word / 65536 % 32 + 1
  if word / 2 ^ 21 ≠ 0 ∨ fp < k ∨ !targetOk m (word % 65536) then none else some (word % 65536, fp - k)

/-- RET (R303, R304). -/
def execRet (n : Node) (s : State) : Out :=
  unlessHandler s (runNode n (.ret n) [] [] (fun f _ s =>
    let fp := fpOf s f.thread
    if fp = 0 then depart f 65535 0 s
    else if !residentFor s f.thread (fp - 1) then parkWindow (.ret n) f (fp - 1) s
    else match (imageOf s f.launch).bind (fun m => linkOf m fp (lvsSeen s (crewOf f.thread) (fp - 1) (laneOf f.thread))) with
      | some (t, p) => depart f t p s
      | none => abortOf f 0x06 s) s)

/-! ## Waves (R305 to R307) -/

/-- WAVE (R305). -/
def execWave (n : Node) (c : Cls) (s : State) : Out := unlessHandler s (calc1 n (.wave n c) (opdC c n.a) (clsNet c) id s)

/-- Records that a wave has fired a WAVEB node (R306). -/
def passBarrier (f : Firing) (s : State) : State :=
  modThread f.thread (fun t => { t with episodes := t.episodes.map (fun e =>
    if e.block == f.block && e.wave == f.wave then { e with passed := insertNew f.node e.passed } else e) }) s

/-- WAVEB (R306). -/
def execWaveb (n : Node) (c : Cls) (s : State) : Out :=
  unlessHandler s (runNode n (.waveb n c) [opdC c n.a] [] (fun f v s => emit n f (clsNet c) (v.getD 0 0) (passBarrier f s)) s)

/-- LOOPX (R307). -/
def execLoopx (n : Node) (c : Cls) (s : State) : Out := unlessHandler s (calc1 n (.loopx n c) (opdC c n.a) (clsNet c) id s)

/-! ## Emulation (R195, R196) -/

/-- Tokens bound for a block other than the firing node's own: with `area` they go to the overflow area, and otherwise they stand in the
sender's output buffer. (DEDUCED, log 34) -/
def sendTo (f : Firing) (b r inv : Nat) (area : Bool) (items : List (Nat × Nat × Net × Nat)) (s : State) : State :=
  let age := if area then s.cycles - tabGet 0 s.core.ageBase f.core else 0
  let src := physPe s f.core f.launch f.block f.replica f.node * 8 + f.node % 8
  match (if area then areaWrite f.launch items.length s else (true, s)) with
  | (false, s) => s
  | (true, s) =>
  items.foldl (fun s e =>
    { s with
      tokens := s.tokens ++ [{ thread := f.thread, wave := f.wave, net := e.2.2.1, val := BitVec.ofNat 256 e.2.2.2, launch := f.launch,
                               block := b, replica := if area then 0 else r, node := e.1, port := e.2.1, age := age,
                               place := if area then .overflow else .out, src := src, seq := s.nextId, count := 0, inv := inv }]
      nextId := s.nextId + 1 }) s

/-- Has the area room for tokens that go straight to it? -/
def sendRoom (s : State) (f : Firing) (n : Nat) : Bool := decide (n ≤ areaRoom s f.launch)

/-- The replica of the trapped block that a returned token enters: the link's, or, where the block has been placed again since, the one
that its thread's tokens are in (R184, R196). (DEDUCED, log 34) -/
def returnReplica (s : State) (f : Firing) (b r : Nat) : Nat :=
  match thread? s f.thread with
  | some t => if t.st = .inBlock b then t.replica else r
  | none => r

/-- PASS with port-return: the value goes where the link's descriptors say (R196). -/
def execPassPret (n : Node) (c : Cls) (s : State) : Out :=
  runNode n (.passPret n c) [opd64 n.a, opd64 n.b] [] (fun f v s =>
    let link := v.getD 1 0
    let dst (own : Option Dst) (x : Nat) : List (Nat × Nat × Net × Nat) :=
      match own, dstOf x with
      | some _, some (some d) => if d.net = .edge then [] else [(d.page.val * 128 + d.pe.val * 8 + d.slot.val, d.port.val, d.net, v.getD 0 0)]
      | _, _ => []
    let items := dst n.d0 (link % 2 ^ 24) ++ dst n.d1 (link / 2 ^ 24 % 2 ^ 24)
    let b := link / 2 ^ 48 % 4096
    if isResident s f.core f.launch b then sendTo f b (returnReplica s f b (link / 2 ^ 60 % 4)) 0 false items s
    else if sendRoom s f items.length then sendTo f b 0 0 true items s else { s with resumed := s.resumed ++ [f] }) s

/-- The items of R195 for a trapped word. (DEDUCED, log 34) -/
def trapItems (f : Firing) (w : NodeWord) : List (Net × Nat) :=
  let port (p : Nat) : Net × Nat := ((f.toks.find? (·.port == p)).map (fun (k : Token) => (k.net, k.val.toNat))).getD (.narrow, 0)
  [(.narrow, w.toNat / 2 ^ 64), (.narrow, w.toNat % 2 ^ 64), (.narrow, w.toNat / 2 ^ 24 % 2 ^ 24 + w.toNat % 2 ^ 24 * 2 ^ 24 +
    f.block % 4096 * 2 ^ 48 + f.replica % 4 * 2 ^ 60), port 0, port 1, port 2]

/-- An unassigned word under EMULATE: its items go to the handler's entry nodes, by way of the overflow area as tokens of a block that is not resident, and belong to one invocation; in the handler itself it is a trap
(R195, R197). -/
def execUndef (w : NodeWord) (s : State) : Out :=
  .next (match s.cur with
    | none => s
    | some f =>
      let s := { s with cur := none }
      if isHandler s f.launch f.block then trapNode f 0x05 s
      else match imageOf s f.launch with
        | none => s
        | some m =>
          let entries := ((m.blocks[m.emuh]?).map (·.entries)).getD []
          let items := (entries.zip (trapItems f w)).map (fun e => (e.1, 0, e.2.1, e.2.2))
          if sendRoom s f items.length then sendTo f m.emuh 0 s.nextId true items s else { s with resumed := s.resumed ++ [f] })

/-! ## Predicates (R308, R309) -/

/-- PAND (R308). -/
def execPand (n : Node) (s : State) : Out := calc2 n (.pand n) (opdP n.a) (opdP n.b) .pred (fun a b => a &&& b) s

/-- POR (R308). -/
def execPor (n : Node) (s : State) : Out := calc2 n (.por n) (opdP n.a) (opdP n.b) .pred (fun a b => a ||| b) s

/-- PXOR (R308). -/
def execPxor (n : Node) (s : State) : Out := calc2 n (.pxor n) (opdP n.a) (opdP n.b) .pred (fun a b => a ^^^ b) s

/-- PNOT (R308). -/
def execPnot (n : Node) (s : State) : Out := calc1 n (.pnot n) (opdP n.a) .pred (fun a => 1 - a) s

/-- PTEST (R309). -/
def execPtest (n : Node) (t : PTest) (s : State) : Out :=
  calc2 n (.ptest n t) (opdT n.ty n.a) (opdT n.ty n.b) .pred (fun a b => if ptestHolds (tyBits n.ty) t a b then 1 else 0) s

end Sys2Proof.Machine
end

