-- ==== Sys2Proof/Machine/Integer.lean ====
section
/-! DEFINITION. The integer, address and bitfield nodes ADD to CMP (R310 to R318). -/

namespace Sys2Proof.Machine

/-! ## Exact results -/

/-- An exact result fitted to a node's type (R237, R310). -/
def fitTo (t : Ty) (sat : Bool) (x : Int) : Nat := intResult x (tyBits t) (isS t) sat

/-- Quotient and remainder of R312. -/
def intDiv (a b : Int) (w : Nat) (sg : Bool) : Int × Int :=
  if b = 0 then (if sg then -1 else 2 ^ w - 1, a) else (a.tdiv b, a - b * a.tdiv b)

/-- The bits [n−1:0] that are set. -/
def popCount : Nat → Nat → Nat
  | 0, _ => 0
  | n + 1, v => v % 2 + popCount n (v / 2)

/-- The leading zeros of an `n`-bit pattern. -/
def leadZeros : Nat → Nat → Nat
  | 0, _ => 0
  | n + 1, v => if v.testBit n then 0 else 1 + leadZeros n v

/-- The trailing zeros of an `n`-bit pattern. -/
def trailZeros : Nat → Nat → Nat
  | 0, _ => 0
  | n + 1, v => if v % 2 = 1 then 0 else 1 + trailZeros n (v / 2)

/-- The `n` low bits in reverse order. -/
def reverseBits : Nat → Nat → Nat
  | 0, _ => 0
  | n + 1, v => v % 2 * 2 ^ n + reverseBits n (v / 2)

/-- SAR: a count at or above `w` gives copies of the top bit (R313). -/
def sarBits (w v n : Nat) : Nat :=
  let x := intOperand v w true
  (x / 2 ^ Nat.min n w % 2 ^ w).toNat

def rolBits (w v n : Nat) : Nat :=
  let k := n % w
  (v * 2 ^ k + v / 2 ^ (w - k)) % 2 ^ w

/-- XTR: the window of `w` bits at a position of the pair (R313). -/
def xtrBits (w a b c : Nat) : Nat := (a + 2 ^ w * b) / 2 ^ Nat.min c w % 2 ^ w

/-- BFX (R315). -/
def bfxBits (t : Ty) (a d : Nat) : Nat :=
  let w := tyBits t
  let p := d % 256
  let n := Nat.min (d / 256 % 256) w
  let bitAt (i : Nat) : Nat := if i < w then a / 2 ^ i % 2 else if isS t then a / 2 ^ (w - 1) % 2 else 0
  let v := ((List.range n).map (fun j => bitAt (p + j) * 2 ^ j)).sum
  if n = 0 then 0 else intResult (intOperand v n (isS t)) w (isS t) false

/-- BFI (R315). -/
def bfiBits (w a d c : Nat) : Nat :=
  let p := d % 256
  let n := d / 256 % 256
  ((List.range w).map (fun i => (if p ≤ i ∧ i < p + n then c / 2 ^ (i - p) % 2 else a / 2 ^ i % 2) * 2 ^ i)).sum

/-- The sum of lane products of DOTB (R317). -/
def dotLanes (a b : Nat) (as bs h2 : Bool) : Int :=
  let w := if h2 then 16 else 8
  ((List.range (32 / w)).map (fun i => intOperand (a / 2 ^ (w * i)) w as * intOperand (b / 2 ^ (w * i)) w bs)).sum

/-- The sum of absolute differences of SAD (R317). -/
def sadLanes (a b : Nat) : Int :=
  ((List.range 4).map (fun i => (((a / 2 ^ (8 * i) % 256 : Nat) : Int) - ((b / 2 ^ (8 * i) % 256 : Nat) : Int)).natAbs)).sum

/-! ## Nodes of one, two and three operands of the node's type -/

def intNode1 (n : Node) (i : Instr) (g : Nat → Nat) (s : State) : Out := calc1 n i (opdT n.ty n.a) .narrow g s
def intNode2 (n : Node) (i : Instr) (g : Nat → Nat → Nat) (s : State) : Out :=
  calc2 n i (opdT n.ty n.a) (opdT n.ty n.b) .narrow g s
def intNode3 (n : Node) (i : Instr) (g : Nat → Nat → Nat → Nat) (s : State) : Out :=
  calc3 n i (opdT n.ty n.a) (opdT n.ty n.b) (opdT n.ty (srcC n)) .narrow g s

/-- ADD (R311). -/
def execAdd (n : Node) (sat : Bool) (s : State) : Out :=
  intNode2 n (.add n sat) (fun a b => fitTo n.ty sat (asInt n.ty a + asInt n.ty b)) s

/-- SUB (R311). -/
def execSub (n : Node) (sat : Bool) (s : State) : Out :=
  intNode2 n (.sub n sat) (fun a b => fitTo n.ty sat (asInt n.ty a - asInt n.ty b)) s

/-- MUL (R311). -/
def execMul (n : Node) (sat : Bool) (s : State) : Out :=
  intNode2 n (.mul n sat) (fun a b => fitTo n.ty sat (asInt n.ty a * asInt n.ty b)) s

/-- MULHI (R311): the floor of the product over 2^w. -/
def execMulhi (n : Node) (s : State) : Out :=
  intNode2 n (.mulhi n) (fun a b => fitTo n.ty false ((asInt n.ty a * asInt n.ty b) / 2 ^ tyBits n.ty)) s

/-- MULW (R311): the product at 64 bits. -/
def execMulw (n : Node) (s : State) : Out :=
  intNode2 n (.mulw n) (fun a b => intResult (asInt n.ty a * asInt n.ty b) 64 (isS n.ty) false) s

/-- MAD (R311). -/
def execMad (n : Node) (sat : Bool) (s : State) : Out :=
  intNode3 n (.mad n sat) (fun a b c => fitTo n.ty sat (asInt n.ty a * asInt n.ty b + asInt n.ty c)) s

/-- DIV (R312). -/
def execDiv (n : Node) (sat : Bool) (s : State) : Out :=
  intNode2 n (.div n sat) (fun a b => fitTo n.ty sat (intDiv (asInt n.ty a) (asInt n.ty b) (tyBits n.ty) (isS n.ty)).1) s

/-- REM (R312). -/
def execRem (n : Node) (s : State) : Out :=
  intNode2 n (.rem n) (fun a b => fitTo n.ty false (intDiv (asInt n.ty a) (asInt n.ty b) (tyBits n.ty) (isS n.ty)).2) s

/-- NEG (R311). -/
def execNeg (n : Node) (sat : Bool) (s : State) : Out := intNode1 n (.neg n sat) (fun a => fitTo n.ty sat (-asInt n.ty a)) s

/-- ABS (R311). -/
def execAbs (n : Node) (sat : Bool) (s : State) : Out :=
  intNode1 n (.abs n sat) (fun a => fitTo n.ty sat ((asInt n.ty a).natAbs)) s

/-- MIN (R311). -/
def execMin (n : Node) (s : State) : Out := intNode2 n (.min n) (intMin n.ty) s

/-- MAX (R311). -/
def execMax (n : Node) (s : State) : Out := intNode2 n (.max n) (intMax n.ty) s

/-- AND (R311). -/
def execAnd (n : Node) (s : State) : Out := intNode2 n (.and n) (fun a b => a &&& b) s

/-- OR (R311). -/
def execOr (n : Node) (s : State) : Out := intNode2 n (.or n) (fun a b => a ||| b) s

/-- XOR (R311). -/
def execXor (n : Node) (s : State) : Out := intNode2 n (.xor n) (fun a b => a ^^^ b) s

/-- NOT (R311). -/
def execNot (n : Node) (s : State) : Out := intNode1 n (.not n) (fun a => 2 ^ tyBits n.ty - 1 - a) s

/-- ANDN (R311): A and not B. -/
def execAndn (n : Node) (s : State) : Out := intNode2 n (.andn n) (fun a b => a &&& (2 ^ tyBits n.ty - 1 - b)) s

/-- SHL (R313). -/
def execShl (n : Node) (s : State) : Out :=
  intNode2 n (.shl n) (fun a k => a * 2 ^ Nat.min k (tyBits n.ty) % 2 ^ tyBits n.ty) s

/-- SHR (R313). -/
def execShr (n : Node) (s : State) : Out := intNode2 n (.shr n) (fun a k => a / 2 ^ Nat.min k (tyBits n.ty)) s

/-- SAR (R313). -/
def execSar (n : Node) (s : State) : Out := intNode2 n (.sar n) (fun a k => sarBits (tyBits n.ty) a k) s

/-- ROL (R313). -/
def execRol (n : Node) (s : State) : Out := intNode2 n (.rol n) (fun a k => rolBits (tyBits n.ty) a k) s

/-- ROR (R313). -/
def execRor (n : Node) (s : State) : Out :=
  intNode2 n (.ror n) (fun a k => rolBits (tyBits n.ty) a (tyBits n.ty - k % tyBits n.ty)) s

/-- XTR (R313). -/
def execXtr (n : Node) (s : State) : Out := intNode3 n (.xtr n) (fun a b c => xtrBits (tyBits n.ty) a b c) s

/-- LEA (R314). -/
def execLea (n : Node) (k : Fin 8) (sx : Bool) (s : State) : Out :=
  calc3 n (.lea n k sx) (opd64 n.a) (if sx then { opd32 n.b with ty := .b32 } else opd64 n.b) (opd64 (srcC n)) .narrow
    (fun a b c => intResult ((a : Int) + intOperand b (if sx then 32 else 64) sx * 2 ^ k.val + (c : Int)) 64 false false) s

/-- BFX (R315). -/
def execBfx (n : Node) (s : State) : Out :=
  calc2 n (.bfx n) (opdT n.ty n.a) { opd32 n.b with ty := n.ty } .narrow (fun a d => bfxBits n.ty a d) s

/-- BFI (R315). -/
def execBfi (n : Node) (s : State) : Out :=
  calc3 n (.bfi n) (opdT n.ty n.a) { opd32 n.b with ty := n.ty } (opdT n.ty (srcC n)) .narrow
    (fun a d c => bfiBits (tyBits n.ty) a d c) s

/-- POPC (R316). -/
def execPopc (n : Node) (s : State) : Out := intNode1 n (.popc n) (fun a => popCount (tyBits n.ty) a) s

/-- CLZ (R316). -/
def execClz (n : Node) (s : State) : Out := intNode1 n (.clz n) (fun a => leadZeros (tyBits n.ty) a) s

/-- CTZ (R316). -/
def execCtz (n : Node) (s : State) : Out := intNode1 n (.ctz n) (fun a => trailZeros (tyBits n.ty) a) s

/-- BREV (R316). -/
def execBrev (n : Node) (s : State) : Out := intNode1 n (.brev n) (fun a => reverseBits (tyBits n.ty) a) s

/-- BSWAP (R316). -/
def execBswap (n : Node) (s : State) : Out :=
  intNode1 n (.bswap n) (fun a => ofBytes (toBytes (tyBits n.ty / 8) a).reverse) s

/-- EXT (R316). -/
def execExt (n : Node) (k : Fin 3) (s : State) : Out :=
  intNode1 n (.ext n k) (fun a => fitTo n.ty false (intOperand a (8 * 2 ^ k.val) (isS n.ty))) s

/-- DOTB (R317). -/
def execDotb (n : Node) (as bs h2 sat : Bool) (s : State) : Out :=
  intNode3 n (.dotb n as bs h2 sat) (fun a b c => fitTo n.ty sat (asInt n.ty c + dotLanes a b as bs h2)) s

/-- SAD (R317). -/
def execSad (n : Node) (sat : Bool) (s : State) : Out :=
  intNode3 n (.sad n sat) (fun a b c => fitTo n.ty sat (asInt n.ty c + sadLanes a b)) s

/-- CMP (R318). -/
def execCmp (n : Node) (t : ITest) (s : State) : Out :=
  calc2 n (.cmp n t) (opdT n.ty n.a) (opdT n.ty n.b) .pred (fun a b => boolBit (itestHolds t (asInt n.ty a) (asInt n.ty b)) 0) s

end Sys2Proof.Machine
end

