-- ==== Sys2Proof/Machine/MemNodes.lean ====
section
/-! DEFINITION. The memory, atomic, synchronisation, engine, network and child-launch nodes as they fire (R370 to R401): each
reads its operands and hands its access over. -/

namespace Sys2Proof.Machine

/-- A node whose access takes no operand, one, two or three. -/
def mem0 (n : Node) (i : Instr) (s : State) : Out := runNode n i [] [] (fun f _ s => submit i f 0 0 0 s) s
def mem1 (n : Node) (i : Instr) (a : Opd) (s : State) : Out := runNode n i [a] [] (fun f v s => submit i f (v.getD 0 0) 0 0 s) s
def mem2 (n : Node) (i : Instr) (a b : Opd) (s : State) : Out :=
  runNode n i [a, b] [] (fun f v s => submit i f (v.getD 0 0) (v.getD 1 0) 0 s) s
def mem3 (n : Node) (i : Instr) (a b c : Opd) (s : State) : Out :=
  runNode n i [a, b, c] [] (fun f v s => submit i f (v.getD 0 0) (v.getD 1 0) (v.getD 2 0) s) s

/-! ## Loads, stores, presence (R374 to R377) -/

/-- LD (R374). -/
def execLd (n : Node) (sp : Sp) (m : MemFlags) (s : State) : Out := mem1 n (.ld n sp m) (opd64 n.a) s

/-- LDU (R374). -/
def execLdu (n : Node) (sp : Sp) (s : State) : Out := mem1 n (.ldu n sp) (opd64 n.a) s

/-- ST (R375). -/
def execSt (n : Node) (sp : Sp) (m : MemFlags) (s : State) : Out := mem2 n (.st n sp m) (opd64 n.a) (opdT n.ty n.b) s

/-- STU (R375). -/
def execStu (n : Node) (sp : Sp) (s : State) : Out := mem2 n (.stu n sp) (opd64 n.a) (opdT n.ty n.b) s

/-- LDW (R374). -/
def execLdw (n : Node) (sp : Sp) (m : MemFlags) (s : State) : Out := mem1 n (.ldw n sp m) (opd64 n.a) s

/-- STW (R375). -/
def execStw (n : Node) (sp : Sp) (m : MemFlags) (s : State) : Out := mem2 n (.stw n sp m) (opd64 n.a) (opdW n.b) s

/-- SPWAIT (R376). -/
def execSpwait (n : Node) (sp : Sp) (u : Bool) (s : State) : Out := mem2 n (.spwait n sp u) (opd64 n.a) (opd64 n.b) s

/-- SPSET (R376). -/
def execSpset (n : Node) (sp : Sp) (u : Bool) (s : State) : Out := mem2 n (.spset n sp u) (opd64 n.a) (opd64 n.b) s

/-- SPCLR (R376). -/
def execSpclr (n : Node) (sp : Sp) (u : Bool) (s : State) : Out := mem2 n (.spclr n sp u) (opd64 n.a) (opd64 n.b) s

/-- IREAD (R377). -/
def execIread (n : Node) (sp : Sp) (s : State) : Out := mem1 n (.iread n sp) (opd64 n.a) s

/-- IWRITE (R377). -/
def execIwrite (n : Node) (sp : Sp) (s : State) : Out := mem2 n (.iwrite n sp) (opd64 n.a) (opdT n.ty n.b) s

/-! ## Atomics (R378 to R380) -/

/-- AADD (R378). -/
def execAadd (n : Node) (sp : Sp) (m : MemFlags) (s : State) : Out := mem2 n (.aadd n sp m) (opd64 n.a) (opdT n.ty n.b) s

/-- AFADD (R378). -/
def execAfadd (n : Node) (sp : Sp) (m : MemFlags) (s : State) : Out := mem2 n (.afadd n sp m) (opd64 n.a) (opdT n.ty n.b) s

/-- AMIN (R378). -/
def execAmin (n : Node) (sp : Sp) (m : MemFlags) (s : State) : Out := mem2 n (.amin n sp m) (opd64 n.a) (opdT n.ty n.b) s

/-- AMAX (R378). -/
def execAmax (n : Node) (sp : Sp) (m : MemFlags) (s : State) : Out := mem2 n (.amax n sp m) (opd64 n.a) (opdT n.ty n.b) s

/-- AAND (R378). -/
def execAand (n : Node) (sp : Sp) (m : MemFlags) (s : State) : Out := mem2 n (.aand n sp m) (opd64 n.a) (opdT n.ty n.b) s

/-- AOR (R378). -/
def execAor (n : Node) (sp : Sp) (m : MemFlags) (s : State) : Out := mem2 n (.aor n sp m) (opd64 n.a) (opdT n.ty n.b) s

/-- AXOR (R378). -/
def execAxor (n : Node) (sp : Sp) (m : MemFlags) (s : State) : Out := mem2 n (.axor n sp m) (opd64 n.a) (opdT n.ty n.b) s

/-- AXCHG (R378). -/
def execAxchg (n : Node) (sp : Sp) (m : MemFlags) (s : State) : Out := mem2 n (.axchg n sp m) (opd64 n.a) (opdT n.ty n.b) s

/-- ACAS (R378): the comparand is at port b and the new value at port c. -/
def execAcas (n : Node) (sp : Sp) (m : MemFlags) (s : State) : Out :=
  mem3 n (.acas n sp m) (opd64 n.a) (opdT n.ty n.b) (opdT n.ty (srcC n)) s

/-- AINC (R378). -/
def execAinc (n : Node) (sp : Sp) (m : MemFlags) (s : State) : Out := mem2 n (.ainc n sp m) (opd64 n.a) (opdT n.ty n.b) s

/-- ADEC (R378). -/
def execAdec (n : Node) (sp : Sp) (m : MemFlags) (s : State) : Out := mem2 n (.adec n sp m) (opd64 n.a) (opdT n.ty n.b) s

/-- CMB fires once its count of tokens has combined, and sends the accumulator (R381). -/
def execCmb (n : Node) (op : CombOp) (s : State) : Out :=
  runNode n (.cmb n op) [] [] (fun f _ s => emit n f .narrow (portVal f 0 % 2 ^ tyBits n.ty) s) s

/-! ## Fences, flushes, prefetch (R382 to R385) -/

/-- FENCE (R382). -/
def execFence (n : Node) (sc : Scope) (s : State) : Out := mem0 n (.fence n sc) s

/-- FLUSHR (R383). -/
def execFlushr (n : Node) (sc : Scope) (s : State) : Out := mem2 n (.flushr n sc) (opd64 n.a) (opd64 n.b) s

/-- DISCR (R384). -/
def execDiscr (n : Node) (s : State) : Out := mem2 n (.discr n) (opd64 n.a) (opd64 n.b) s

/-- The line that PREF names comes to the core's L1 (VAR 0) or to its die's L2 (VAR 1), where a line homed at the die already has its place; a
companion line has no place in an L2 (R213). PREF does nothing where the page does not translate, the companion does not answer, the line holds
an uncorrectable error or another transaction shadows it: it never faults (R385). (DESIGN CHOICE, log 5) -/
def prefLine (f : Firing) (l2 : Bool) (va : Nat) (s : State) : State :=
  match translate s f.core (spaceOf s f) va .read with
  | .ok pa p _ =>
    let own := ((vtOfFiring s f).map (tagChain s)).getD []
    let die := dieOf f.core
    if !reachable s pa || s.skim.lines.any (fun l => l.line == pa / 128 && !own.contains l.vt) then s
    else if 2 ^ 51 ≤ pa then (if l2 then s else keepCompCopy f.core pa s)
    else if (badSeen s die (pa / 128 * 128) 128).isSome then s
    else if l2 then keepCopy die pa s
    else l1Take f.core pa p 15 (keepCopy die pa s)
  | _ => s

/-- PREF brings a line near and changes no value that a read may return; it never faults or parks, and sends 0 (R385). -/
def execPref (n : Node) (l2 : Bool) (s : State) : Out :=
  runNode n (.pref n l2) [opd64 n.a] [] (fun f v s => emit n f .narrow 0 (prefLine f l2 (v.getD 0 0) s)) s

/-! ## Barriers and semaphores (R386 to R391) -/

/-- BAR.ARRIVE (R387). -/
def execBarArrive (n : Node) (sc : Scope) (s : State) : Out := mem0 n (.barArrive n sc) s

/-- BAR.WAIT (R387). -/
def execBarWait (n : Node) (sc : Scope) (s : State) : Out := mem1 n (.barWait n sc) (opd64 n.a) s

/-- BAR.SYNC (R387). -/
def execBarSync (n : Node) (sc : Scope) (s : State) : Out := mem0 n (.barSync n sc) s

/-- SEMP (R390, R391). -/
def execSemp (n : Node) (sc : Scope) (s : State) : Out := mem1 n (.semp n sc) (opd64 n.a) s

/-- SEMV (R390). -/
def execSemv (n : Node) (sc : Scope) (s : State) : Out := mem1 n (.semv n sc) (opd64 n.a) s

/-- SEMTRY (R390). -/
def execSemtry (n : Node) (sc : Scope) (s : State) : Out := mem1 n (.semtry n sc) (opd64 n.a) s

/-- SEMDEC (R390). -/
def execSemdec (n : Node) (sc : Scope) (s : State) : Out := mem1 n (.semdec n sc) (opd64 n.a) s

/-! ## Engines, network, children (R392 to R401) -/

/-- COPY (R392, R393). -/
def execCopy (n : Node) (x y u : Bool) (s : State) : Out := mem3 n (.copy n x y u) (opd64 n.a) (opd64 n.b) (opd64 (srcC n)) s

/-- COPYS (R392, R393). -/
def execCopys (n : Node) (x y u : Bool) (s : State) : Out := mem3 n (.copys n x y u) (opd64 n.a) (opd64 n.b) (opd64 (srcC n)) s

/-- PORT (R394). -/
def execPort (n : Node) (s : State) : Out := mem0 n (.port n) s

/-- NSEND (R396). -/
def execNsend (n : Node) (u : Bool) (s : State) : Out := mem3 n (.nsend n u) (opd64 n.a) (opd64 n.b) (opd64 (srcC n)) s

/-- NRECV (R397). -/
def execNrecv (n : Node) (u : Bool) (s : State) : Out := mem3 n (.nrecv n u) (opd64 n.a) (opd64 n.b) (opd64 (srcC n)) s

/-- NFENCE (R398). -/
def execNfence (n : Node) (s : State) : Out := mem0 n (.nfence n) s

/-- LAUNCH (R399, R400). -/
def execLaunch (n : Node) (s : State) : Out := mem1 n (.launch n) (opd64 n.a) s

/-- LWAIT (R401). -/
def execLwait (n : Node) (s : State) : Out := mem1 n (.lwait n) (opd64 n.a) s

end Sys2Proof.Machine
end

