-- ==== Sys2Proof/Machine/System.lean ====
section
/-! DEFINITION. The system nodes ABORT to PROBE (R402 to R407). -/

namespace Sys2Proof.Machine

/-- ABORT (R402). -/
def execAbort (n : Node) (s : State) : Out := runNode n (.abort n) [opd64 n.a] [] (fun f v s => trap f 0x16 (v.getD 0 0) s) s

/-- TRAP (R402). -/
def execTrap (n : Node) (s : State) : Out := runNode n (.trap n) [opd64 n.a] [] (fun f v s => trap f 0x14 (v.getD 0 0) s) s

/-- A BRK of an armed space starts a freeze: the clocks stop at the end of its cycle, and of the BRKs that fire in one cycle the one on the
lowest core, and there in the lowest thread slot, is recorded; threads are numbered in that order (R61, R404). (DESIGN CHOICE, log 12)
(DEDUCED, log 35) -/
def breakAt (f : Firing) (n : Node) (v : Nat) (s : State) : State :=
  let s' := { s with brks := s.brks ++ [{ f := f, n := n, val := v, stopped := false }] }
  if s.brks.any (fun b => !b.stopped && decide (b.f.thread < f.thread)) then s'
  else { s' with boot := { s.boot with
      brkHit := BitVec.ofNat 32 (f.core + f.block * 2 ^ 8 + 2 ^ 20)
      brkNode := BitVec.ofNat 32 (f.node + spaceOf s f * 2 ^ 13) } }

/-- BRK: where its space is armed it sends A after the THAW (R404). -/
def execBrk (n : Node) (s : State) : Out :=
  runNode n (.brk n) [opd64 n.a] [] (fun f v s =>
    if s.boot.brk.getLsbD (spaceOf s f) then breakAt f n (v.getD 0 0) s else emit n f .narrow (v.getD 0 0) s) s

/-- A condition operand: a predicate or a narrow value (R403). -/
def condOpd (src : Src) : Opd :=
  match src with
  | .win k => if 32 ≤ k.val then opdP src else opd64 src
  | _ => opd64 src

/-- ASSERT (R403). -/
def execAssert (n : Node) (s : State) : Out :=
  runNode n (.assert_ n) [condOpd n.a, opd64 n.b] [] (fun f v s =>
    if v.getD 0 0 % 2 = 1 then emit n f .narrow 0 s else trap f 0x13 (v.getD 1 0) s) s

/-- RDSR (R405). -/
def execRdsr (n : Node) (k : Fin 16) (s : State) : Out := mem0 n (.rdsr n k) s

/-- YIELD: its block may go at the scheduler's next evaluation (R406). -/
def execYield (n : Node) (s : State) : Out :=
  runNode n (.yield n) [opd64 n.a] [] (fun f v s =>
    let s := match placedOf s f.core f.launch f.block with
      | some p => modPlaced p (fun q => { q with yielded := true }) s
      | none => s
    emit n f .narrow (v.getD 0 0) s) s

/-- A thread of a halted team departs to retirement from wherever it is (R406). (DEDUCED, log 35) -/
def haltThread (x : Thread) : Thread :=
  { x with st := match x.st with
    | .waiting b | .inBlock b | .departing b _ _ => .departing b 65535 x.fp
    | .retired => .retired }

/-- HALT: every thread of the team departs, without its parked reads (R296); waits in sync nodes end (R406). -/
def execHalt (n : Node) (s : State) : Out :=
  runNode n (.halt n) [] [] (fun f _ s =>
    match thread? s f.thread with
    | none => s
    | some t =>
      let mine (x : Nat) : Bool := match thread? s x with | some y => y.team == t.team | none => false
      { s with
        threads := s.threads.map (fun e => if e.2.team == t.team then (e.1, haltThread e.2) else e)
        accesses := s.accesses.filter (fun a => !(mine a.f.thread && (isSync a.i && a.st != .done || parkedRead a))) }) s

/-- NOP (R406). -/
def execNop (n : Node) (s : State) : Out := calc1 n (.nop n) (opd64 n.a) .narrow id s

/-- What PROBE answers for a leaf (R407). (DEDUCED, log 35) -/
def leafBits (s : State) (va level p : Nat) : Nat :=
  let pa := pteFrame p + va % pageBytes level (pteSize p)
  let comp := decide (2 ^ 51 ≤ pa)
  if backing s pa = .hole ∨ (comp && !compBacked s pa) then 0
  else 1 + boolBit (pteW p) 1 + boolBit (pteX p) 2 + boolBit (pteOpen p) 3 + boolBit (pteSync p) 4 + boolBit (ptePin p) 5 +
    pteGrain p * 2 ^ 6 + sizeCode level (pteSize p) * 2 ^ 8 + boolBit (pteSys p) 11 + boolBit comp 12

/-- PROBE in each space (R407). (DEDUCED, log 35) -/
def probeBits (s : State) (f : Firing) (sp : Sp) (va : Nat) : Nat :=
  let size := ((imageOf s f.launch).map (·.scratch)).getD 0
  let word (key off : Nat) : Nat := if off < size then 1 + boolBit (present s key (off / 8)) 1 else 0
  match sp with
  | .s => ((teamOf s f).map (fun m => word m.key va)).getD 0
  | .p =>
    (match teamOf s f with
     | none => 0
     | some m =>
       if 2 ^ 52 ≤ va then 0
       else match s.teams.find? (fun t => t.launch == f.launch && t.num == va / 2 ^ 20 && !t.retired && clusterOf t.core == clusterOf m.core) with
         | some t => word t.key (va % 2 ^ 20)
         | none => 0)
  | _ =>
    if 2 ^ 54 ≤ va then 0
    else match lookup s f.core (spaceOf s f) va with
      | .leaf level p => leafBits s va level p
      | _ => 0

/-- PROBE (R407). -/
def execProbe (n : Node) (sp : Sp) (s : State) : Out :=
  runNode n (.probe n sp) [opd64 n.a] [] (fun f v s => emit n f .narrow (probeBits s f sp (v.getD 0 0)) s) s

end Sys2Proof.Machine
end

