-- ==== Sys2Proof/Machine/TileNodes.lean ====
section
/-! DEFINITION. The tile, systolic, stream, gather and scatter nodes as they fire (R346 to R363, R366 to R369), and the sparse
index nodes (R364, R365). -/

namespace Sys2Proof.Machine

/-- TLOAD (R352). -/
def execTload (n : Node) (sc : ScaleKind) (l : Bool) (s : State) : Out := mem2 n (.tload n sc l) (opd64 n.a) (opd64 n.b) s

/-- TSTORE (R352). -/
def execTstore (n : Node) (sc : ScaleKind) (l ca : Bool) (s : State) : Out := mem2 n (.tstore n sc l ca) (opd64 n.a) (opd64 n.b) s

/-- TFILL (R352). -/
def execTfill (n : Node) (s : State) : Out := mem2 n (.tfill n) (opd64 n.a) (opd64 n.b) s

/-- TMMA (R355). -/
def execTmma (n : Node) (w : Ty) (ca cb : Bool) (s : State) : Out :=
  mem3 n (.tmma n w ca cb) (opd64 n.a) (opd64 n.b) (opd64 (srcC n)) s

/-- TTERN (R355). -/
def execTtern (n : Node) (ca cb : Bool) (s : State) : Out := mem3 n (.ttern n ca cb) (opd64 n.a) (opd64 n.b) (opd64 (srcC n)) s

/-- TGRP (R356). -/
def execTgrp (n : Node) (w : Ty) (ca cb : Bool) (s : State) : Out :=
  mem3 n (.tgrp n w ca cb) (opd64 n.a) (opd64 n.b) (opd64 (srcC n)) s

/-- TCVT (R352). -/
def execTcvt (n : Node) (t : Ty) (r : Round) (ca : Bool) (s : State) : Out := mem2 n (.tcvt n t r ca) (opd64 n.a) (opd64 n.b) s

/-- TTRANS (R352). -/
def execTtrans (n : Node) (ca : Bool) (s : State) : Out := mem2 n (.ttrans n ca) (opd64 n.a) (opd64 n.b) s

/-- TSCALE (R352). -/
def execTscale (n : Node) (sc : ScaleKind) (r : Round) (ca : Bool) (s : State) : Out :=
  mem3 n (.tscale n sc r ca) (opd64 n.a) (opdT .s32 n.b) (opd64 (srcC n)) s

/-- SYSCFG (R358). -/
def execSyscfg (n : Node) (w : Ty) (s : State) : Out := mem1 n (.syscfg n w) (opd64 n.a) s

/-- SYSW (R359). -/
def execSysw (n : Node) (ca : Bool) (s : State) : Out := mem1 n (.sysw n ca) (opd64 n.a) s

/-- SYSA (R359). -/
def execSysa (n : Node) (ca : Bool) (s : State) : Out := mem1 n (.sysa n ca) (opd64 n.a) s

/-- SYSD (R359). -/
def execSysd (n : Node) (s : State) : Out := mem1 n (.sysd n) (opd64 n.a) s

/-- STRM.OPEN (R362). -/
def execStrmOpen (n : Node) (u : Bool) (s : State) : Out := mem2 n (.strmOpen n u) (opd64 n.a) (opd64 n.b) s

/-- STRM.SUB (R362). -/
def execStrmSub (n : Node) (u : Bool) (s : State) : Out := mem2 n (.strmSub n u) (opd64 n.a) (opd64 n.b) s

/-- STRM.PUB (R362). -/
def execStrmPub (n : Node) (u ca : Bool) (s : State) : Out := mem2 n (.strmPub n u ca) (opd64 n.a) (opd64 n.b) s

/-- STRM.CLOSE.END (R362). -/
def execStrmCloseEnd (n : Node) (u : Bool) (s : State) : Out := mem1 n (.strmCloseEnd n u) (opd64 n.a) s

/-- STRM.CLOSE.LEAVE (R362). -/
def execStrmCloseLeave (n : Node) (u : Bool) (s : State) : Out := mem1 n (.strmCloseLeave n u) (opd64 n.a) s

/-- GATHER (R367). -/
def execGather (n : Node) (sp : Sp) (sx u : Bool) (s : State) : Out := mem2 n (.gather n sp sx u) (opd64 n.a) (opdW n.b) s

/-- GATHERT (R367). -/
def execGathert (n : Node) (sp : Sp) (sx : Bool) (sc : ScaleKind) (u : Bool) (s : State) : Out :=
  mem3 n (.gathert n sp sx sc u) (opd64 n.a) (opdW n.b) (opd64 (srcC n)) s

/-- SCATTER (R367). -/
def execScatter (n : Node) (sp : Sp) (sx u : Bool) (s : State) : Out :=
  mem3 n (.scatter n sp sx u) (opd64 n.a) (opdW n.b) (opdW (srcC n)) s

/-- SCATADD (R367). -/
def execScatadd (n : Node) (sp : Sp) (sx : Bool) (m : MemFlags) (s : State) : Out :=
  mem3 n (.scatadd n sp sx m) (opd64 n.a) (opdW n.b) (opdW (srcC n)) s

end Sys2Proof.Machine
end

