-- ==== Sys2Proof/Machine/Mgmt.lean ====
section
/-! DEFINITION. The paths to the management register space (R52): Kamub configuration space, I3C and JTAG, and the accesses that
they carry, whichever row of the table a register's access belongs to. -/

namespace Sys2Proof.Machine

/-! ## One register -/

/-- The state that an event leaves. -/
def after (o : Out) (s : State) : State := match o with | .next t => t | _ => s

/-- A number of an array of registers. -/
def index64 (x : Nat) : Fin 64 := ⟨x % 64, Nat.mod_lt _ (by decide)⟩
def index4 (x : Nat) : Fin 4 := ⟨x % 4, Nat.mod_lt _ (by decide)⟩
def index16 (x : Nat) : Fin 16 := ⟨x % 16, Nat.mod_lt _ (by decide)⟩
def index1024 (x : Nat) : Fin 1024 := ⟨x % 1024, Nat.mod_lt _ (by decide)⟩

/-- BOOT_CTRL: a start bit comes before FREEZE, and FREEZE before THAW, where one write sets several (R65). (DESIGN CHOICE, log 50) -/
def writeBoot (d : Word32) (s : State) : State :=
  if d.getLsbD 0 then after (execCold d s) s
  else if d.getLsbD 1 then after (execWarm d s) s
  else if d.getLsbD 3 then after (execFreeze d s) s
  else after (execThaw d s) s

/-- RMBL_CTRL: the lowest set command bit acts (R51). A session that starts so takes what the random sources give. (DESIGN CHOICE, log 6)
(DESIGN CHOICE, log 50) -/
def writeRmbl (n : Fin 4) (d : Word32) (s : State) : State :=
  let fresh := Config.freeFresh s.freeCtr
  let t := { s with freeCtr := s.freeCtr + 1 }
  if d.getLsbD 0 then after (execSend n fresh t) t
  else if d.getLsbD 1 then after (execRecv n fresh t) t
  else if d.getLsbD 2 then after (execCut n s) s
  else if d.getLsbD 3 then after (execResume n s) s
  else after (execCancel n s) s

/-- A write of an aligned offset: the row of the table that it belongs to, or a plain store (R52). Of ATT_CTRL's two commands
in one write ATTEST acts. (DESIGN CHOICE, log 50) -/
def writeAny (o : Nat) (d : Word32) (s : State) : State :=
  if !ownRow o d then (if answers s o then regWrite o d s else s)
  else if o = 4 then writeBoot d s
  else if o = 0x400 then after (execLimitW d s) s
  else if o = 0xC20 then (if d.getLsbD 0 then after (execAttest d s) s else after (execExtend d s) s)
  else if 0xA00 ≤ o ∧ o < 0xC00 then writeRmbl (index4 ((o - 0xA00) / 0x80)) d s
  else if o = 0x2808 then after (execShootdown d s) s
  else if o = 0x2818 then after (execXlatFqEnable d s) s
  else if o = 0x2820 then after (execXlatFqConsWrite d s) s
  else if o = 0x2828 then (if d.toNat % 4 = 1 then after (execRetry s) s else after (execFatal s) s)
  else if 0x2000 ≤ o ∧ o < 0x2400 then after (execAsCtrlWrite (index64 ((o - 0x2000) / 16)) d s) s
  else if 0x2400 ≤ o ∧ o < 0x2800 then
    (if d.getLsbD 12 then after (execQueueEnable (index64 ((o - 0x2400) / 16)) d s) s
     else after (execQueueDisable (index64 ((o - 0x2400) / 16)) d s) s)
  else if o = 0x3414 then (if d.getLsbD 8 then after (execKillAll d s) s else after (execKill d s) s)
  else after (execPlcRingEnable (index4 ((o - 0x3600) / 0x40)) ((o - 0x3600) % 0x40 = 0x1C) d s) s

/-- A read of an aligned offset: with the clearing or the latching of its row, or plain (R52). -/
def readAny (o : Nat) (s : State) : State :=
  if o = 0x408 then after (execGovPowerRead s) s
  else if o = 0x480 then after (execMerrStatusRead s) s
  else if o = 0x800 then after (execKlStatusRead s) s
  else if 0x900 ≤ o ∧ o < 0x940 then after (execEthStatusRead (index16 ((o - 0x900) / 4)) s) s
  else if o = 0x884 then after (execDirtyWordLoRead s) s
  else if 0x1000 ≤ o ∧ o < 0x2000 then after (execDebugWindowRead (index1024 ((o - 0x1000) / 4)) s) s
  else if o = 0x3000 then after (execSkimStatusRead s) s
  else if o = 0x3004 then after (execSkimAbortsRead s) s
  else if 0x3010 ≤ o ∧ o < 0x3020 then after (execSkimShareRead (index4 ((o - 0x3010) / 4)) s) s
  else if o = 0x3420 then after (execDispStatusRead s) s
  else if 0x3600 ≤ o ∧ o < 0x3700 ∧ (o - 0x3600) % 0x40 = 0x28 then after (execPlcStatusRead (index4 ((o - 0x3600) / 0x40)) s) s
  else if 0x3C00 ≤ o ∧ o < 0x4000 ∧ o % 16 = 0xC then after (execNetStatusRead (index64 ((o - 0x3C00) / 16)) s) s
  else readInto o s

/-! ## The paths -/

/-- An access to an offset of the space, with the data of a write. An offset that is not aligned or lies outside the 64 KiB reads zero
and writes nothing (R7, R52). (DEDUCED, log 25) -/
def accessReg (o : Nat) (data : Option Word32) (s : State) : State :=
  if o % 4 ≠ 0 ∨ 65536 ≤ o then (match data with | some _ => s | none => { s with readData := 0 })
  else match data with
    | some d => writeAny o d s
    | none => readAny o s

/-- One access as its path carries it (R52). Kamub configuration space does not answer while no port is up (R53). An I3C transfer of
another length than R52 gives has no effect. (DEDUCED, log 25) -/
def mgmtAccess (r : MgmtReq) (s : State) : State :=
  let mine (a : BitVec 7) : Bool := a == 0x3A || s.boot.i3cAddr == some a
  match r with
  | .kamub off width data =>
    if s.kamub.up = 0 then s
    else if width = 4 ∧ off % 4 = 0 then accessReg off (data.map (BitVec.ofNat 32)) s
    else (match data with | some _ => s | none => { s with readData := 0xFFFFFFFF })
  | .i3cWrite a bytes => if mine a && bytes.length == 8 then accessReg (field bytes 0 4) (some (w32 (field bytes 4 4))) s else s
  | .i3cRead a bytes => if mine a && bytes.length == 4 then accessReg (field bytes 0 4) none s else s
  | .jtag dr => accessReg (bits dr.toNat 15 0) (if dr.getLsbD 16 then some (w32 (bits dr.toNat 63 32)) else none) s

/-- The place of a path in one management cycle: Kamub, then I3C, then JTAG (R52). -/
def pathRank (r : MgmtReq) : Nat :=
  match r with
  | .kamub _ _ _ => 0
  | .i3cWrite _ _ | .i3cRead _ _ => 1
  | .jtag _ => 2

/-- The accesses that arrive in one management cycle, one after another (R52). -/
def mgmtCycle (reqs : List MgmtReq) (s : State) : State := (sortBy pathRank reqs).foldl (fun s r => mgmtAccess r s) s

end Sys2Proof.Machine
end

