-- ==== Sys2Proof/Machine/Turns.lean ====
section
/-! DEFINITION. What surrounds an event or a firing in a step: the schedule, the time that passes, what caches and the companion
do on their own, and the state that holds one given node (R6, R21, R29, R31, R61, R76, R112, R159, R211). -/

namespace Sys2Proof.Machine

/-! ## The schedule and time -/

/-- The next turn of the schedule; past its end, one that nothing fixes. (DESIGN CHOICE, log 1) -/
def takeTurn (s : State) : Option Turn × State :=
  match s.turns with
  | t :: rest => (some t, { s with turns := rest })
  | [] => (Config.freeTurn s.freeCtr, { s with freeCtr := s.freeCtr + 1 })

/-- The top-level launches of which the governor holds a complete match (R21, R159). (DEDUCED, log 36) -/
def governed (s : State) : List Nat :=
  if 64 ≤ s.gov.duty then []
  else
    let pes := ((s.tokens.filter inStore).map (peOf s)).eraseDups
    (pes.flatMap (fun pe => (matchesAt s pe).filterMap (fun c =>
      if dutyReady s pe c.1 then none else some (topOf s c.2.launch)))).eraseDups

/-- At the end of a cycle in which a BRK has started a freeze the clocks stop (R61, R404). (DESIGN CHOICE, log 12) -/
def stopBroken (s : State) : State :=
  if s.brks.all (·.stopped) then s
  else { freezeCmd s with brks := s.brks.map (fun b => { b with stopped := true }) }

/-- After the THAW each BRK that had stopped the clocks sends A, where its thread is still in its block (R404). -/
def sendBroken (s : State) : State :=
  if frozen s then s
  else (s.brks.filter (·.stopped)).foldl (fun s b =>
    match thread? s b.f.thread with
    | some t =>
      if t.st != .inBlock b.f.block then s
      else
        let since := s.nextId
        let s := emit b.n b.f .narrow b.val s
        if isResident s b.f.core b.f.launch b.f.block then s else toArea since b.f.core b.f.launch s
    | none => s) { s with brks := s.brks.filter (fun b => !b.stopped) }

/-- `dt` fabric cycles pass; none does during a freeze (R61, R62), but for the management controller, which times its stages. With
`dt` = 0 the turn lies in the fabric cycle of the one before it, and once that is in its second network cycle, so are the turns after it
(R6). (DESIGN CHOICE, log 12) -/
def passTime (dt : Nat) (half : Bool) (s : State) : State :=
  let s := { s with boot := { s.boot with stageAge := s.boot.stageAge + dt } }
  let s := if dt = 0 ∨ frozen s then s else stopBroken s
  if frozen s then s
  else advanceCounters dt (governed s)
    { s with cycles := s.cycles + dt, clock := s.clock + dt, half := half || (decide (dt = 0) && s.half)
             dawn := if dt = 0 then s.dawn else s.nextId }

/-! ## What happens on its own -/

/-- A memory's word, on a die, loses its check bits (R29). In a launch's own storage (sources 4 and 5) the number names the launch.
(DEDUCED, log 23) -/
def eccEvent (source die x : Nat) (s : State) : State :=
  if source = 4 ∨ source = 5 then
    (match launch? s x with
     | some l => abortLaunch l.id 0x0E false none (logUe source (die % 4) 0 (hangFirst l.id s))
     | none => s)
  else if source = 6 then logCe s
  else if source < 4 ∧ x < 2 ^ 51 ∧ backing s x ≠ .hole then
    { s with mem := { s.mem with bad := tabPut s.mem.bad (x / 32) (source, if source < 2 then homeDie x else die % 4) } }
  else s

/-- The companion stores into its own memory; cores keep the clean copies they have (R213), and verdicts from
the frame go (R79). -/
def compStore (pa : Nat) (data : List Byte) (s : State) : State :=
  if 2 ^ 51 ≤ pa ∧ pa + data.length ≤ 2 ^ 52 then
    ((List.range data.length).zip data).foldl (fun s e =>
      if compBacked s (pa + e.1) then
        let s := dropVerdicts (pa + e.1) s
        { s with mem := { s.mem with comp := tabSet 0 s.mem.comp (pa + e.1) e.2 } }
      else s) s
  else s

/-- A die drops a clean copy of a line, and with it the copies in the L1s above it (R208, R211 (a)). -/
def dropCopy (die line : Nat) (s : State) : State :=
  { s with mem := { s.mem with copies := tabDel s.mem.copies (die * 2 ^ 45 + line),
                               l1 := s.mem.l1.filter (fun e => !(l1Remote [die] e.1 && e.1 % 2 ^ 45 == line)) } }

/-- Something that a cache, a translation cache, a link or the companion does, or an access to the management registers. The companion and
the management controller run on during a freeze, the rest does not. -/
def ambient (x : Ambient) (s : State) : State :=
  match x with
  | .compBacks lo n => { s with kamub := { s.kamub with backed := s.kamub.backed ++ [(lo, n)] } }
  | .compStore pa data => compStore pa data s
  | .mgmt reqs => mgmtCycle reqs s
  | .flitOk port => { s with kamub := { s.kamub with retries := s.kamub.retries.set port 0 } }
  | .writeBack line => if frozen s || drainFirst s (homeDie (128 * line)) then s else writeBack line s
  | .dropCopy die line => if frozen s then s else dropCopy die line s
  | .evictL1 core line => if frozen s then s else { s with mem := { s.mem with l1 := tabDel s.mem.l1 (core * 2 ^ 45 + line) } }
  | .seamParity cluster => if frozen s then s else evClusterReset cluster s
  | .seamUnit link => if frozen s then s else seamUnit link s
  | .dropCompCopy core line =>
    if frozen s then s else { s with mem := { s.mem with compCopies := tabDel s.mem.compCopies (core * 2 ^ 45 + line) } }
  | .dropTlb core sp vpn =>
    if frozen s then s
    else { s with xlat := { s.xlat with tlb := s.xlat.tlb.filter (fun e => !(e.core == core && e.space == sp && e.vpn == vpn)) } }
  | .snoopEvict line => if frozen s then s else recallLine line s
  | .share die bytes => if frozen s then s else { s with skim := { s.skim with room := listMod s.skim.room die (fun _ => bytes) } }
  | .ecc source die x => if frozen s then s else eccEvent source die x s

/-- The part of a step before its event or firing: time passes, the dispatcher looks at the heads of its queues (R140), and the turn's
other happenings take place. (DESIGN CHOICE, log 1) -/
def startTurn (t : Turn) (s : State) : State :=
  let s := sendBroken { passTime t.dt t.half s with late := t.late }
  t.ambient.foldl (fun s x => ambient x s) (if coresRun s then noteHeads (unitsFit s) s else s)

/-- An instruction that is an event of the device, not a node. -/
def isEvent (i : Instr) : Bool := (form i).isNone && (match i with | .undef _ => false | _ => true)

/-! ## A state that holds one node -/

/-- A block of one page whose slot 0 holds a word. (DEDUCED, log 2) -/
def fetchBlock (w : NodeWord) : Block :=
  { off := 0, pages := 1, loop_ := false, coll := false, syst := false, handler := false, waveB := 1, sysMask := 0, ordered := false, entries := [],
    words := [(0, w)], formats := [], reason := 0, badNode := 0, badEdge := 0, source := [0] }

def fetchImage (w : NodeWord) : Image :=
  { pa := 0, frames := [], creww := 0, emulate := false, stitch := false, entry := 0, emuh := 0xFFFF, width := 32, scratch := 1048576,
    teamMax := 1, cpool := [], blocks := [fetchBlock w] }

/-- A launch that runs, with the tag 0. (DEDUCED, log 2) -/
def fetchLaunch (w : NodeWord) : Launch :=
  { id := 0, raw := List.replicate 256 0, queue := 0, index := 0, space := 0, prio := 0, order := 0, parent := none, parentTeam := 0,
    number := 0, depth := 0, vt := some 0, phase := .running, image := fetchImage w, params := [], nextTeam := 1, retired := 0,
    teamCommits := 0, cause := none, causeAt := 0, causeVt := 0, report := none, tern := false, deadline := 0, hang := 0, freeStacks := [],
    fault := none, faultVa := 0, requeue := false, ran := true, dies := [0], stream := none, units := [] }

def fetchTeam : Team :=
  { key := 0, launch := 0, num := 0, core := 0, crews := [0], size := 1, vt := none, retired := false, requested := false, barriers := [],
    children := [], status := [] }

def fetchThread : Thread :=
  { launch := 0, team := 0, tid := 0, fp := 0, st := .inBlock 0, saved := false, since := 0, replica := 0, prng := 1,
    episodes := [{ block := 0, wave := 0, inv := 0, expect := none, closed := false, passed := [] }] }

def fetchCrew : Crew := { team := 0, index := 0, lo := 0, target := 0, done := 0, high := 0, stack := 0, moving := none, movingVa := 0 }

def fetchPlaced : Placed :=
  { core := 0, launch := 0, block := 0, replicas := [[0]], resident := true, stopped := false, since := 0, fired := 0, pointer := 0,
    injectAt := 0, injectTo := 0, loading := 0, yielded := false, stale := false, fault := none, faultVa := 0 }

/-- A token in the matching store at a port of the node, from the number `base` on. -/
def fetchToken (base port val : Nat) : Token :=
  { thread := 0, wave := 0, net := .narrow, val := BitVec.ofNat 256 val, launch := 0, block := 0, replica := 0, node := 0, port := port,
    age := 0, place := .general, src := 0, seq := base + port, count := 1, inv := 0 }

/-- The tokens that a node matches: one for each port, the injection of an entry node, or what a MERGE, CMB or crew-join node
waits for. (DEDUCED, log 2) -/
def fetchTokens (base : Nat) (i : Instr) : List Token :=
  match matchingOf i with
  | .entry => [fetchToken base 3 0]
  | .ports n => (List.range n).map (fun p => fetchToken base p 0)
  | .merge | .join => [fetchToken base 0 0]
  | .combine => [fetchToken base 0 (2 ^ 64)]

/-- The machine at READY, running that launch, with the firing of element 0 as the next turn. (DEDUCED, log 2) -/
def fetchState (s : State) (w : NodeWord) : State :=
  let toks := match decode w with | .ok i => fetchTokens s.nextId i | .error _ => []
  { s with
    boot := { s.boot with stage := 8, failed := false, released := true, frozenCmd := false, frozenPin := false }
    skim := { s.skim with tags := tabPut s.skim.tags 0 { st := .active, launch := 0, team := none, parent := none, cause := 0, charge := 0,
                                                          logged := [] } }
    launches := [fetchLaunch w], teams := [fetchTeam], threads := [(0, fetchThread)], crews := [(0, fetchCrew)], tokens := toks,
    accesses := [], resumed := [], placed := [fetchPlaced], regions := [], strms := [], posted := [], scWaiting := [], cur := none,
    core := { s.core with pes := [], wrote := [] }
    nextId := s.nextId + 4, dawn := s.nextId + 4, masks := [], brks := []
    disp := { s.disp with nextLaunch := Nat.max 1 s.disp.nextLaunch, nextTeam := Nat.max 1 s.disp.nextTeam }
    half := false, seams := []
    turns := [{ dt := 0, half := false, ambient := [], late := false, what := .fire 0 }] }

end Sys2Proof.Machine
end

