-- ==== Sys2Proof/Machine/Dispatch.lean ====
section
/-! DEFINITION. One arm for each instruction: its meaning. -/

namespace Sys2Proof.Machine

def exec (i : Instr) (s : State) : Host.Outcome State Fault Refusal :=
  match i with
  | .livein x y => Sys2Proof.Machine.execLivein x y s
  | .liveout x y => Sys2Proof.Machine.execLiveout x y s
  | .const x => Sys2Proof.Machine.execConst x s
  | .constw x => Sys2Proof.Machine.execConstw x s
  | .steer x y => Sys2Proof.Machine.execSteer x y s
  | .merge x y => Sys2Proof.Machine.execMerge x y s
  | .select x y => Sys2Proof.Machine.execSelect x y s
  | .gate x y => Sys2Proof.Machine.execGate x y s
  | .sink x y => Sys2Proof.Machine.execSink x y s
  | .dup x y => Sys2Proof.Machine.execDup x y s
  | .exit x => Sys2Proof.Machine.execExit x s
  | .exitc x => Sys2Proof.Machine.execExitc x s
  | .call x y => Sys2Proof.Machine.execCall x y s
  | .calli x y => Sys2Proof.Machine.execCalli x y s
  | .ret x => Sys2Proof.Machine.execRet x s
  | .wave x y => Sys2Proof.Machine.execWave x y s
  | .waveb x y => Sys2Proof.Machine.execWaveb x y s
  | .loopx x y => Sys2Proof.Machine.execLoopx x y s
  | .pass x y => Sys2Proof.Machine.execPass x y s
  | .passPret x y => Sys2Proof.Machine.execPassPret x y s
  | .pand x => Sys2Proof.Machine.execPand x s
  | .por x => Sys2Proof.Machine.execPor x s
  | .pxor x => Sys2Proof.Machine.execPxor x s
  | .pnot x => Sys2Proof.Machine.execPnot x s
  | .ptest x y => Sys2Proof.Machine.execPtest x y s
  | .add x y => Sys2Proof.Machine.execAdd x y s
  | .sub x y => Sys2Proof.Machine.execSub x y s
  | .mul x y => Sys2Proof.Machine.execMul x y s
  | .mulhi x => Sys2Proof.Machine.execMulhi x s
  | .mulw x => Sys2Proof.Machine.execMulw x s
  | .mad x y => Sys2Proof.Machine.execMad x y s
  | .div x y => Sys2Proof.Machine.execDiv x y s
  | .rem x => Sys2Proof.Machine.execRem x s
  | .neg x y => Sys2Proof.Machine.execNeg x y s
  | .abs x y => Sys2Proof.Machine.execAbs x y s
  | .min x => Sys2Proof.Machine.execMin x s
  | .max x => Sys2Proof.Machine.execMax x s
  | .and x => Sys2Proof.Machine.execAnd x s
  | .or x => Sys2Proof.Machine.execOr x s
  | .xor x => Sys2Proof.Machine.execXor x s
  | .not x => Sys2Proof.Machine.execNot x s
  | .andn x => Sys2Proof.Machine.execAndn x s
  | .shl x => Sys2Proof.Machine.execShl x s
  | .shr x => Sys2Proof.Machine.execShr x s
  | .sar x => Sys2Proof.Machine.execSar x s
  | .rol x => Sys2Proof.Machine.execRol x s
  | .ror x => Sys2Proof.Machine.execRor x s
  | .xtr x => Sys2Proof.Machine.execXtr x s
  | .lea x y z => Sys2Proof.Machine.execLea x y z s
  | .bfx x => Sys2Proof.Machine.execBfx x s
  | .bfi x => Sys2Proof.Machine.execBfi x s
  | .popc x => Sys2Proof.Machine.execPopc x s
  | .clz x => Sys2Proof.Machine.execClz x s
  | .ctz x => Sys2Proof.Machine.execCtz x s
  | .brev x => Sys2Proof.Machine.execBrev x s
  | .bswap x => Sys2Proof.Machine.execBswap x s
  | .ext x y => Sys2Proof.Machine.execExt x y s
  | .dotb x y z u v => Sys2Proof.Machine.execDotb x y z u v s
  | .sad x y => Sys2Proof.Machine.execSad x y s
  | .cmp x y => Sys2Proof.Machine.execCmp x y s
  | .fadd x y => Sys2Proof.Machine.execFadd x y s
  | .fsub x y => Sys2Proof.Machine.execFsub x y s
  | .fmul x y => Sys2Proof.Machine.execFmul x y s
  | .ffma x y => Sys2Proof.Machine.execFfma x y s
  | .fdiv x y => Sys2Proof.Machine.execFdiv x y s
  | .fsqrt x y => Sys2Proof.Machine.execFsqrt x y s
  | .frcp x y => Sys2Proof.Machine.execFrcp x y s
  | .frsq x y => Sys2Proof.Machine.execFrsq x y s
  | .fexp2 x y => Sys2Proof.Machine.execFexp2 x y s
  | .flog2 x y => Sys2Proof.Machine.execFlog2 x y s
  | .fsin x y => Sys2Proof.Machine.execFsin x y s
  | .fcos x y => Sys2Proof.Machine.execFcos x y s
  | .ftanh x y => Sys2Proof.Machine.execFtanh x y s
  | .fmin x => Sys2Proof.Machine.execFmin x s
  | .fmax x => Sys2Proof.Machine.execFmax x s
  | .fabs x => Sys2Proof.Machine.execFabs x s
  | .fneg x => Sys2Proof.Machine.execFneg x s
  | .fcpys x => Sys2Proof.Machine.execFcpys x s
  | .fcmp x y => Sys2Proof.Machine.execFcmp x y s
  | .fclass x => Sys2Proof.Machine.execFclass x s
  | .frint x y => Sys2Proof.Machine.execFrint x y s
  | .cvt x y z => Sys2Proof.Machine.execCvt x y z s
  | .vadd x y => Sys2Proof.Machine.execVadd x y s
  | .vsub x y => Sys2Proof.Machine.execVsub x y s
  | .vmul x y => Sys2Proof.Machine.execVmul x y s
  | .vfma x y => Sys2Proof.Machine.execVfma x y s
  | .vmin x y => Sys2Proof.Machine.execVmin x y s
  | .vmax x y => Sys2Proof.Machine.execVmax x y s
  | .vpack x y => Sys2Proof.Machine.execVpack x y s
  | .vunpack x y => Sys2Proof.Machine.execVunpack x y s
  | .vperm x => Sys2Proof.Machine.execVperm x s
  | .vbcast x => Sys2Proof.Machine.execVbcast x s
  | .vred x y z => Sys2Proof.Machine.execVred x y z s
  | .vdot x y => Sys2Proof.Machine.execVdot x y s
  | .vscale x y => Sys2Proof.Machine.execVscale x y s
  | .srnd x y => Sys2Proof.Machine.execSrnd x y s
  | .vcvt x y z u => Sys2Proof.Machine.execVcvt x y z u s
  | .vcmp x y => Sys2Proof.Machine.execVcmp x y s
  | .cpoll x y z u => Sys2Proof.Machine.execCpoll x y z u s
  | .cmask x y z u => Sys2Proof.Machine.execCmask x y z u s
  | .cpull x y z u => Sys2Proof.Machine.execCpull x y z u s
  | .cred x y z u => Sys2Proof.Machine.execCred x y z u s
  | .cscan x y z u v => Sys2Proof.Machine.execCscan x y z u v s
  | .cseg x y z u v => Sys2Proof.Machine.execCseg x y z u v s
  | .cmatch x y z => Sys2Proof.Machine.execCmatch x y z s
  | .celect x y z u => Sys2Proof.Machine.execCelect x y z u s
  | .kwr x y => Sys2Proof.Machine.execKwr x y s
  | .tload x y z => Sys2Proof.Machine.execTload x y z s
  | .tstore x y z u => Sys2Proof.Machine.execTstore x y z u s
  | .tfill x => Sys2Proof.Machine.execTfill x s
  | .tmma x y z u => Sys2Proof.Machine.execTmma x y z u s
  | .ttern x y z => Sys2Proof.Machine.execTtern x y z s
  | .tgrp x y z u => Sys2Proof.Machine.execTgrp x y z u s
  | .tcvt x y z u => Sys2Proof.Machine.execTcvt x y z u s
  | .ttrans x y => Sys2Proof.Machine.execTtrans x y s
  | .tscale x y z u => Sys2Proof.Machine.execTscale x y z u s
  | .syscfg x y => Sys2Proof.Machine.execSyscfg x y s
  | .sysw x y => Sys2Proof.Machine.execSysw x y s
  | .sysa x y => Sys2Proof.Machine.execSysa x y s
  | .sysd x => Sys2Proof.Machine.execSysd x s
  | .strmOpen x y => Sys2Proof.Machine.execStrmOpen x y s
  | .strmSub x y => Sys2Proof.Machine.execStrmSub x y s
  | .strmPub x y z => Sys2Proof.Machine.execStrmPub x y z s
  | .strmCloseEnd x y => Sys2Proof.Machine.execStrmCloseEnd x y s
  | .strmCloseLeave x y => Sys2Proof.Machine.execStrmCloseLeave x y s
  | .scan x y z => Sys2Proof.Machine.execScan x y z s
  | .isect x => Sys2Proof.Machine.execIsect x s
  | .union x y => Sys2Proof.Machine.execUnion x y s
  | .repeat_ x => Sys2Proof.Machine.execRepeat x s
  | .sred x y => Sys2Proof.Machine.execSred x y s
  | .gather x y z u => Sys2Proof.Machine.execGather x y z u s
  | .gathert x y z u v => Sys2Proof.Machine.execGathert x y z u v s
  | .scatter x y z u => Sys2Proof.Machine.execScatter x y z u s
  | .scatadd x y z u => Sys2Proof.Machine.execScatadd x y z u s
  | .ld x y z => Sys2Proof.Machine.execLd x y z s
  | .ldu x y => Sys2Proof.Machine.execLdu x y s
  | .st x y z => Sys2Proof.Machine.execSt x y z s
  | .stu x y => Sys2Proof.Machine.execStu x y s
  | .ldw x y z => Sys2Proof.Machine.execLdw x y z s
  | .stw x y z => Sys2Proof.Machine.execStw x y z s
  | .spwait x y z => Sys2Proof.Machine.execSpwait x y z s
  | .spset x y z => Sys2Proof.Machine.execSpset x y z s
  | .spclr x y z => Sys2Proof.Machine.execSpclr x y z s
  | .iread x y => Sys2Proof.Machine.execIread x y s
  | .iwrite x y => Sys2Proof.Machine.execIwrite x y s
  | .aadd x y z => Sys2Proof.Machine.execAadd x y z s
  | .afadd x y z => Sys2Proof.Machine.execAfadd x y z s
  | .amin x y z => Sys2Proof.Machine.execAmin x y z s
  | .amax x y z => Sys2Proof.Machine.execAmax x y z s
  | .aand x y z => Sys2Proof.Machine.execAand x y z s
  | .aor x y z => Sys2Proof.Machine.execAor x y z s
  | .axor x y z => Sys2Proof.Machine.execAxor x y z s
  | .axchg x y z => Sys2Proof.Machine.execAxchg x y z s
  | .acas x y z => Sys2Proof.Machine.execAcas x y z s
  | .ainc x y z => Sys2Proof.Machine.execAinc x y z s
  | .adec x y z => Sys2Proof.Machine.execAdec x y z s
  | .cmb x y => Sys2Proof.Machine.execCmb x y s
  | .fence x y => Sys2Proof.Machine.execFence x y s
  | .flushr x y => Sys2Proof.Machine.execFlushr x y s
  | .discr x => Sys2Proof.Machine.execDiscr x s
  | .pref x y => Sys2Proof.Machine.execPref x y s
  | .barArrive x y => Sys2Proof.Machine.execBarArrive x y s
  | .barWait x y => Sys2Proof.Machine.execBarWait x y s
  | .barSync x y => Sys2Proof.Machine.execBarSync x y s
  | .cbar x => Sys2Proof.Machine.execCbar x s
  | .csync x y => Sys2Proof.Machine.execCsync x y s
  | .semp x y => Sys2Proof.Machine.execSemp x y s
  | .semv x y => Sys2Proof.Machine.execSemv x y s
  | .semtry x y => Sys2Proof.Machine.execSemtry x y s
  | .semdec x y => Sys2Proof.Machine.execSemdec x y s
  | .copy x y z u => Sys2Proof.Machine.execCopy x y z u s
  | .copys x y z u => Sys2Proof.Machine.execCopys x y z u s
  | .port x => Sys2Proof.Machine.execPort x s
  | .nsend x y => Sys2Proof.Machine.execNsend x y s
  | .nrecv x y => Sys2Proof.Machine.execNrecv x y s
  | .nfence x => Sys2Proof.Machine.execNfence x s
  | .launch x => Sys2Proof.Machine.execLaunch x s
  | .lwait x => Sys2Proof.Machine.execLwait x s
  | .abort x => Sys2Proof.Machine.execAbort x s
  | .trap x => Sys2Proof.Machine.execTrap x s
  | .brk x => Sys2Proof.Machine.execBrk x s
  | .assert_ x => Sys2Proof.Machine.execAssert x s
  | .rdsr x y => Sys2Proof.Machine.execRdsr x y s
  | .yield x => Sys2Proof.Machine.execYield x s
  | .halt x => Sys2Proof.Machine.execHalt x s
  | .nop x => Sys2Proof.Machine.execNop x s
  | .probe x y => Sys2Proof.Machine.execProbe x y s
  | .undef x => Sys2Proof.Machine.execUndef x s
  | .registerWrite x y z => Sys2Proof.Machine.execRegisterWrite x y z s
  | .i3cEntdaa x => Sys2Proof.Machine.execI3cEntdaa x s
  | .limitW x => Sys2Proof.Machine.execLimitW x s
  | .govPowerRead => Sys2Proof.Machine.execGovPowerRead s
  | .merrStatusRead => Sys2Proof.Machine.execMerrStatusRead s
  | .klStatusRead => Sys2Proof.Machine.execKlStatusRead s
  | .ethStatusRead x => Sys2Proof.Machine.execEthStatusRead x s
  | .skimStatusRead => Sys2Proof.Machine.execSkimStatusRead s
  | .skimAbortsRead => Sys2Proof.Machine.execSkimAbortsRead s
  | .skimShareRead x => Sys2Proof.Machine.execSkimShareRead x s
  | .dispStatusRead => Sys2Proof.Machine.execDispStatusRead s
  | .plcStatusRead x => Sys2Proof.Machine.execPlcStatusRead x s
  | .netStatusRead x => Sys2Proof.Machine.execNetStatusRead x s
  | .dirtyWordLoRead => Sys2Proof.Machine.execDirtyWordLoRead s
  | .debugWindowRead x => Sys2Proof.Machine.execDebugWindowRead x s
  | .send x y => Sys2Proof.Machine.execSend x y s
  | .recv x y => Sys2Proof.Machine.execRecv x y s
  | .cut x => Sys2Proof.Machine.execCut x s
  | .resume x => Sys2Proof.Machine.execResume x s
  | .cancel x => Sys2Proof.Machine.execCancel x s
  | .cold x => Sys2Proof.Machine.execCold x s
  | .warm x => Sys2Proof.Machine.execWarm x s
  | .freeze x => Sys2Proof.Machine.execFreeze x s
  | .thaw x => Sys2Proof.Machine.execThaw x s
  | .attest x => Sys2Proof.Machine.execAttest x s
  | .attestDone => Sys2Proof.Machine.execAttestDone s
  | .extend x => Sys2Proof.Machine.execExtend x s
  | .extendDone => Sys2Proof.Machine.execExtendDone s
  | .shootdown x => Sys2Proof.Machine.execShootdown x s
  | .shootdownDone => Sys2Proof.Machine.execShootdownDone s
  | .xlatFqEnable x => Sys2Proof.Machine.execXlatFqEnable x s
  | .xlatFqConsWrite x => Sys2Proof.Machine.execXlatFqConsWrite x s
  | .retry => Sys2Proof.Machine.execRetry s
  | .fatal => Sys2Proof.Machine.execFatal s
  | .asCtrlWrite x y => Sys2Proof.Machine.execAsCtrlWrite x y s
  | .queueEnable x y => Sys2Proof.Machine.execQueueEnable x y s
  | .queueDisable x y => Sys2Proof.Machine.execQueueDisable x y s
  | .kill x => Sys2Proof.Machine.execKill x s
  | .killAll x => Sys2Proof.Machine.execKillAll x s
  | .plcRingEnable x y z => Sys2Proof.Machine.execPlcRingEnable x y z s
  | .powerOn => Sys2Proof.Machine.execPowerOn s
  | .freezeNLow => Sys2Proof.Machine.execFreezeNLow s
  | .freezeNHigh => Sys2Proof.Machine.execFreezeNHigh s
  | .governorSample x y => Sys2Proof.Machine.execGovernorSample x y s
  | .powerHold => Sys2Proof.Machine.execPowerHold s
  | .hot x y => Sys2Proof.Machine.execHot x y s
  | .thermalTrip x y => Sys2Proof.Machine.execThermalTrip x y s
  | .flitCrcError x => Sys2Proof.Machine.execFlitCrcError x s
  | .portDown x => Sys2Proof.Machine.execPortDown x s
  | .portTrainRetry x => Sys2Proof.Machine.execPortTrainRetry x s
  | .portUp x => Sys2Proof.Machine.execPortUp x s
  | .ethLinkUp x y => Sys2Proof.Machine.execEthLinkUp x y s
  | .companionRead x y z => Sys2Proof.Machine.execCompanionRead x y z s
  | .companionWrite x y z => Sys2Proof.Machine.execCompanionWrite x y z s
  | .ethRx x y z u => Sys2Proof.Machine.execEthRx x y z u s
  | .uetReadRequest x y z u v => Sys2Proof.Machine.execUetReadRequest x y z u v s
  | .ethTrimNack x => Sys2Proof.Machine.execEthTrimNack x s
  | .nsendAck x y => Sys2Proof.Machine.execNsendAck x y s
  | .rom => Sys2Proof.Machine.execRom s
  | .image x y => Sys2Proof.Machine.execImage x y s
  | .fuse x y => Sys2Proof.Machine.execFuse x y s
  | .rails x y => Sys2Proof.Machine.execRails x y s
  | .railsTimeout x => Sys2Proof.Machine.execRailsTimeout x s
  | .hbm x y => Sys2Proof.Machine.execHbm x y s
  | .bist x y => Sys2Proof.Machine.execBist x y s
  | .fill x => Sys2Proof.Machine.execFill x s
  | .init x => Sys2Proof.Machine.execInit x s
  | .ready => Sys2Proof.Machine.execReady s
  | .rmblHello x y => Sys2Proof.Machine.execRmblHello x y s
  | .rmblReply x y => Sys2Proof.Machine.execRmblReply x y s
  | .rmblFinish x y => Sys2Proof.Machine.execRmblFinish x y s
  | .rmblBegin x y => Sys2Proof.Machine.execRmblBegin x y s
  | .rmblPage x y => Sys2Proof.Machine.execRmblPage x y s
  | .rmblZero x y => Sys2Proof.Machine.execRmblZero x y s
  | .rmblRoundEnd x y => Sys2Proof.Machine.execRmblRoundEnd x y s
  | .rmblQueue x y => Sys2Proof.Machine.execRmblQueue x y s
  | .rmblLaunch x y => Sys2Proof.Machine.execRmblLaunch x y s
  | .rmblEnd x y => Sys2Proof.Machine.execRmblEnd x y s
  | .rmblAck x y => Sys2Proof.Machine.execRmblAck x y s
  | .rmblRound x => Sys2Proof.Machine.execRmblRound x s
  | .rmblGraceExpiry x => Sys2Proof.Machine.execRmblGraceExpiry x s
  | .rmblNetFail x => Sys2Proof.Machine.execRmblNetFail x s
  | .queueTailRead x => Sys2Proof.Machine.execQueueTailRead x s
  | .recordTake x => Sys2Proof.Machine.execRecordTake x s
  | .depWordRead x y z => Sys2Proof.Machine.execDepWordRead x y z s
  | .depPoll x y z => Sys2Proof.Machine.execDepPoll x y z s
  | .dispatch => Sys2Proof.Machine.execDispatch s
  | .teamReady x => Sys2Proof.Machine.execTeamReady x s
  | .completionWord x => Sys2Proof.Machine.execCompletionWord x s
  | .preempt x => Sys2Proof.Machine.execPreempt x s
  | .save x => Sys2Proof.Machine.execSave x s
  | .saveDone x y => Sys2Proof.Machine.execSaveDone x y s
  | .restore x => Sys2Proof.Machine.execRestore x s
  | .deadline x => Sys2Proof.Machine.execDeadline x s
  | .hang x => Sys2Proof.Machine.execHang x s
  | .pageMigrate x y z => Sys2Proof.Machine.execPageMigrate x y z s
  | .commitRequest x y => Sys2Proof.Machine.execCommitRequest x y s
  | .commitStart => Sys2Proof.Machine.execCommitStart s
  | .commitWalk x => Sys2Proof.Machine.execCommitWalk x s
  | .commitFlip => Sys2Proof.Machine.execCommitFlip s
  | .commitRelease => Sys2Proof.Machine.execCommitRelease s
  | .lineDrain x y => Sys2Proof.Machine.execLineDrain x y s
  | .abortComplete x => Sys2Proof.Machine.execAbortComplete x s
  | .shadowEvict x y => Sys2Proof.Machine.execShadowEvict x y s
  | .rsbWriteback x y => Sys2Proof.Machine.execRsbWriteback x y s
  | .scTokenHop => Sys2Proof.Machine.execScTokenHop s
  | .orderedIssue x => Sys2Proof.Machine.execOrderedIssue x s
  | .accessResponse x y => Sys2Proof.Machine.execAccessResponse x y s
  | .copyWordArrival x y => Sys2Proof.Machine.execCopyWordArrival x y s
  | .strmCopy x y => Sys2Proof.Machine.execStrmCopy x y s
  | .semWake x y z u => Sys2Proof.Machine.execSemWake x y z u s
  | .parkResume x => Sys2Proof.Machine.execParkResume x s
  | .tokenArrive x => Sys2Proof.Machine.execTokenArrive x s
  | .tokenReturn x => Sys2Proof.Machine.execTokenReturn x s
  | .ageRenumber x => Sys2Proof.Machine.execAgeRenumber x s
  | .schedEval x => Sys2Proof.Machine.execSchedEval x s
  | .blockResident x y z => Sys2Proof.Machine.execBlockResident x y z s
  | .inject x y z u => Sys2Proof.Machine.execInject x y z u s
  | .evict x y z => Sys2Proof.Machine.execEvict x y z s
  | .hamperMove x => Sys2Proof.Machine.execHamperMove x s
  | .departureComplete x => Sys2Proof.Machine.execDepartureComplete x s
  | .clusterReset x => Sys2Proof.Machine.execClusterReset x s
  | .killDone => Sys2Proof.Machine.execKillDone s
  | .restoreDone x => Sys2Proof.Machine.execRestoreDone x s
  | .ethLinkDown x => Sys2Proof.Machine.execEthLinkDown x s
  | .rmblUnknownTag x y => Sys2Proof.Machine.execRmblUnknownTag x y s

end Sys2Proof.Machine
end

