-- ==== Sys2Proof/Machine/Fire.lean ====
section
/-! DEFINITION. What a processing element fires in a cycle (R172, R173). -/

namespace Sys2Proof.Machine

/-- Would a match that fires only wait to be made again: for a slot of the overflow area, for an entry to park in, for a window stack whose
Hamper is parked, or, once a CSYNC has fired, for its members' accesses (R176, R190, R193, R204, R388)? It is no candidate until it would do more. -/
def onlyWaits (s : State) (i : Instr) (f : Firing) (t : State) : Bool :=
  t.resumed.contains f && t.crews == s.crews && (!isCsync i || s.resumed.contains f)

/-- Has a PE's output buffer of each network room for every token that the firing produces there, and the overflow area for those that
go straight to it (R172, R173, R176, R195)? The firing is tried on the side to count them. A collective that produces more than the four
tokens that a buffer holds needs the buffer empty, and its tokens follow into it as places free; until then they take room of the fabric's
switch boxes. (DEDUCED, log 13) -/
def outRoom (s : State) (pe : Nat) (i : Instr) (f : Firing) : Bool :=
  match exec i (beginFire pe i f s) with
  | .next t =>
    let made := t.tokens.filter (fun k => decide (s.nextId ≤ k.seq))
    [Net.narrow, .wide, .pred].all (fun net =>
      let here (ks : List Token) : Nat := (ks.filter (fun k => (k.place == .out || k.place == .due) && k.net == net && k.src / 8 == pe)).length
      here made == 0 || decide (here s.tokens + here made ≤ 4) || (here s.tokens == 0 && decide (4 < here made))) &&
    boxRoom s (pe / 256) (made.filter (·.place == .due)).length &&
    decide ((made.filter (·.place == .overflow)).length ≤ areaRoom s f.launch) && !onlyWaits s i f t
  | _ => true

/-- The order of R172: oldest AGE, thread slot, node slot. -/
def fireKey (f : Firing) : Nat := oldestAge f * 2 ^ 20 + f.thread % 8192 * 8 + f.node % 8

/-- The candidate that a PE fires. -/
def chosen (s : State) (pe : Nat) : Option (Instr × Firing) :=
  leastBy (fun (c : Instr × Firing) => fireKey c.2) ((matchesAt s pe).filter (fun c => isCandidate s pe c.1 c.2 && outRoom s pe c.1 c.2))

/-- What a PE fires now, with the state in which its node runs; a PE fires at most one node in a cycle. -/
def takeFire (pe : Nat) (s : State) : Option (Instr × State) :=
  if !coresRun s || (match tabFind s.core.pes pe with | some u => u.last == s.cycles + 1 | none => false) then none
  else (chosen s pe).map (fun c => (c.1, beginFire pe c.1 c.2 s))

end Sys2Proof.Machine
end

