-- ==== Sys2Proof/Machine/Step.lean ====
section
/-! DEFINITION. One step of the machine: time passes, caches do as the schedule says, and one event happens or one processing
element fires (R6, R167, R172). -/

namespace Sys2Proof.Machine

/-- One step. A turn whose event cannot happen now, or is none, or whose element has nothing to fire, passes. (DESIGN CHOICE, log 1) -/
def step (s : State) : Out :=
  match takeTurn s with
  | (none, s) => .next s
  | (some t, s) =>
    let s := startTurn t s
    match t.what with
    | .fire pe =>
      match takeFire pe s with
      | some (i, s) => exec i s
      | none => .next s
    | .event i => if isEvent i && i.wf then exec i s else .next s

/-- The state in which the next step fires the node of a word: the word is slot 0 of a block that is placed on core 0, and one
thread has the tokens that the node matches. (DEDUCED, log 2) -/
def State.withFetchWord (s : State) (nbits w : Nat) : State := fetchState s (BitVec.ofNat 128 (w % 2 ^ nbits))

end Sys2Proof.Machine
end

