-- ==== Sys2Proof/Safety.lean ====
section
/-! DEFINITION. What the claims about the machine speak of: the canonical form of memory, a firing that is at hand, an access that
is performed, and the machine that runs or is frozen. -/

namespace Sys2Proof.Machine

/-! ## The canonical form of memory -/

/-- Memory in its one form: rising addresses, no byte listed that an unlisted address reads as, and rising keys in what the
caches hold. -/
def Memory.wf (m : Mem) : Bool :=
  memWf m.home && memWf m.comp && tabWf m.dirty && tabWf m.rsb && tabWf m.copies && tabWf m.compCopies && tabWf m.l1 && tabWf m.uses &&
  tabWf m.clean && tabWf m.bad

/-- What a run keeps: memory in its canonical form. -/
def State.MemOk (s : State) : Prop := Memory.wf s.mem = true

/-! ## A safe run -/

/-- A step is safe when it neither faults nor is refused. -/
def SafeStep (s : State) : Prop := ∃ t, step s = .next t

/-! ## Firing -/

/-- The state in which a firing's node acts: the firing is no longer at hand. -/
def fired (s : State) : State := { s with cur := none }

/-- A firing is at hand, and the window positions that its operands name, and `more`, are resident (R189, R260). -/
def Fires (s : State) (f : Firing) (ops : List Opd) (more : List Nat) : Prop :=
  s.cur = some f ∧ absent (fired s) f ((ops.map slotsOf).flatten ++ more) = none

/-- A firing is at hand in a block that is not its image's handler block. -/
def FiresOut (s : State) (f : Firing) (ops : List Opd) (more : List Nat) : Prop :=
  Fires s f ops more ∧ isHandler s f.launch f.block = false

/-- The value of an operand in the firing cycle. -/
def opVal (s : State) (f : Firing) (n : Node) (o : Opd) : Nat := opdVal (fired s) f n o

/-- The outcome of a node that sends one result. -/
def sends (n : Node) (f : Firing) (net : Net) (v : Nat) (s : State) : Out := .next (emit n f net v (fired s))

/-- The token that a firing sends to one destination (R168, R177, R261, R262, R265): the value on the network, or in each 64-bit
lane of a wide token where the node replicates. -/
def resultToken (n : Node) (f : Firing) (net : Net) (v : Nat) (d : Dst) (seq : Nat) (s : State) : Token :=
  { thread := f.thread, wave := waveOut s f n, net := if n.tag = .repl then .wide else net,
    val := BitVec.ofNat 256 (if n.tag = .repl then spread v else v), launch := f.launch, block := f.block, replica := f.replica,
    node := d.page.val * 128 + d.pe.val * 8 + d.slot.val, port := d.port.val, age := 0, place := .out,
    src := physPe s f.core f.launch f.block f.replica f.node * 8 + f.node % 8, seq := seq, count := 0, inv := invOf f }

/-! ## Accesses -/

/-- The access that a firing hands over, with its operands. -/
def handedOver (i : Instr) (f : Firing) (a b c : Nat) (st : AccSt) (s : State) : Access :=
  { id := s.nextId, i := i, f := f, a := BitVec.ofNat 256 a, b := BitVec.ofNat 256 b, c := BitVec.ofNat 256 c, st := st, order := s.nextId,
    left := [], got := [], result := 0, drop := false, age := oldestAge f, fence := none, issued := s.cycles }

/-- The sequence field of an ordered form; none for an unordered form and for a node without one. -/
def seqFieldOf (i : Instr) : Option (Nat × Nat × Nat) := (form i).bind (fun m => seqFields m.node)

/-- What a memory, synchronisation, engine or tile node does as it fires (R191, R214 to R217): its access stands in the ordering
unit with the operands that the firing read. An ordered form whose turn has not come waits there; it issues where its turn has
come, a copy into the scratchpad once no earlier access of its thread is still to touch its words. An unordered form is in flight at once, and performed at once unless the schedule leaves that to its response. -/
def HandsOver (i : Instr) (f : Firing) (a b c : Nat) (s : State) : Prop :=
  ∃ t, exec i s = .next t ∧
    (seqFieldOf i = none →
      let w := copyIssue (handedOver i f a b c .flight (fired s)) (addAccess i f a b c .flight (fired s))
      t = if s.late then w else captureCopy s.nextId (attempt s.nextId w)) ∧
    (∀ q p u, seqFieldOf i = some (q, p, u) →
      let w := addAccess i f a b c .waiting (ensureEpisode f p (fired s))
      t = match access? w s.nextId with
        | some x => if atTurn w f q p && !heldBack w f && !copyMustWait w x then issueAccess s.nextId w else w
        | none => w)

/-- An access of a state that is in flight, with no access before it that holds their port (R204), whose multiply array is free
where it is a tile product (R353), whose turn in its thread's order has come (R216, R217), and before which no engine operation
has bytes to read for a release (R230). -/
def InFlight (s : State) (a : Access) : Prop :=
  access? s a.id = some a ∧ a.st = .flight ∧ portHeld s a = false ∧ arrayBusy s a = false ∧ forceReads a s = s ∧ inOrder s a = true

/-- The outcome of a collective that sends each participant its own value (R194). -/
def sendsEach (n : Node) (f : Firing) (net : Net) (v : Member → Nat) (s : State) : Out :=
  .next (emitAll n net f ((membersOf (fired s) f).map (fun m => (m, v m))) (fired s))

/-- The state in which an access has been performed with a result, and waits to return it. -/
def performedAs (a : Access) (v : Nat) (s : State) : State :=
  modAccess a.id (fun x => { x with st := .done, result := BitVec.ofNat 256 v }) s

/-- The access, and the scratchpad bytes of its own team that it names: `n` bytes from its address, all inside the image's
scratchpad size (R201, R202). -/
def OnPad (s : State) (a : Access) (m : Team) (n : Nat) : Prop :=
  InFlight s a ∧ teamOf s a.f = some m ∧ ∃ im, imageOf s a.f.launch = some im ∧ a.a.toNat % 2 ^ 64 + n ≤ im.scratch

/-! ## The machine as a whole -/

/-- Parts of the machine that software and the fabric see and a node's result does not touch. -/
structure Visible where
  mem : Mem
  core : Core
  skim : Skim
  launches : List Launch
  teams : List Team
  boot : Boot
  gov : Gov
  merr : Merr
  xlat : Xlat
  spaces : List Space
  queues : List Queue
  disp : Disp
  deriving DecidableEq, Repr

def visible (s : State) : Visible :=
  { mem := s.mem, core := s.core, skim := s.skim, launches := s.launches, teams := s.teams, boot := s.boot, gov := s.gov, merr := s.merr,
    xlat := s.xlat, spaces := s.spaces, queues := s.queues, disp := s.disp }

end Sys2Proof.Machine
end

