-- ==== Sys2Proof/Certificates/Slice0/Obligations.lean ====
section
/-! DEFINITION. The statements about the Fennak that the provers are asked to settle. -/

open Sys2Proof Sys2Proof.Machine

/-! ## Words, steps, reset and memory (R6, R53, R106, R172, R255 to R273) -/

/-- R255, R257, R261, R271: the node words that the spec's worked encodings write out decode to their nodes; an empty slot and
a word of major 0xFF hold none. -/
def Obligations.WrittenWordsDecodeToTheirNodes : Prop :=
  let dst (pe : Fin 16) (slot : Fin 8) (port : Fin 3) (steer : Steer) : Option Dst :=
    some { net := .narrow, page := 0, pe := pe, slot := slot, port := port, steer := steer }
  let node (ty : Ty) (ari : Fin 4) (tag : Tag) (a b : Src) (low : Low) (d0 d1 : Option Dst) : Node :=
    { ty := ty, ari := ari, tag := tag, a := a, b := b, low := low, d0 := d0, d1 := d1 }
  let p : Fin 3 → Src := .port
  decode 0x01000000400000000000800800000000 =
    .ok (.livein (node .b32 0 .keep (.win 0) .none (.src .none) (dst 1 0 0 .always) none) false) ∧
  decode 0x20004800200080000005801000000000 = .ok (.add (node .s32 1 .keep (p 0) .imm (.imm 5) (dst 2 0 0 .always) none) false) ∧
  decode 0x02000800200040000000801800000000 =
    .ok (.liveout (node .b32 1 .keep (p 0) (.win 0) (.src .none) (dst 3 0 0 .always) none) false) ∧
  decode 0x0B00880020008000FFFF000000000000 = .ok (.exit (node .n32 1 .keep (p 0) .imm (.imm 0xFFFF) none none)) ∧
  decode 0x05003000200020010000804010804820 =
    .ok (.steer (node .b64 2 .keep (p 0) (p 1) (.src .none) (dst 8 0 0 .onOne) (dst 9 0 0 .onZero)) .narrow) ∧
  decode 0x10002900200000000000800840000000 =
    .ok (.wave (node .b64 1 .winc (p 0) .none (.src .none) (dst 1 0 1 .always) none) .narrow) ∧
  decode 0xA3004B052000800000FF803000000000 =
    .ok (.cred (node .s32 1 .join (p 0) .imm (.imm 0xFF) (dst 6 0 0 .always) none) .add 5 false) ∧
  decode 0xB34E7810200020010210801800000000 =
    .ok (.tmma (node .e4m3 3 .keep (p 0) (p 1) (.seq 2 1 0) (dst 3 0 0 .always) none) .e4m3 true false) ∧
  decode 0xE000A818200000000001801100000000 =
    .ok (.ld (node .n64 1 .keep (p 0) .none (.seq 0 0 1) (dst 2 1 0 .always) none) .g
      { unord := false, scope := .dev, acq := true, rel := false, sc := false }) ∧
  decode 0xF3803800200020010000803840000000 =
    .ok (.copy (node .b64 3 .keep (p 0) (p 1) (.seq 0 0 0) (dst 7 0 1 .always) none) false true false) ∧
  decode 0xEA08B003200020010000806140000000 =
    .ok (.amin (node .n64 2 .keep (p 0) (p 1) (.ignored 0) (dst 12 1 1 .always) none) .g
      { unord := true, scope := .team, acq := false, rel := false, sc := false }) ∧
  decode 0xA5020B44200000000000802E00000000 =
    .ok (.cseg (node .f32 1 .join (p 0) .none (.src .none) (dst 5 6 0 .always) none) .add false 4 true) ∧
  decode 0 = .error .emptySlot ∧ decode (BitVec.allOnes 128) = .error .unassigned

/-- R255 to R265: encoding and decoding are inverse: every well-formed node comes back from its word, and a word that decodes
is the encoding of its node, which is well formed; so no two words mean one node. -/
def Obligations.DecodeAndEncodeAreInverse : Prop :=
  (∀ i, i.wf = true → (form i).isSome = true → decode (encode i) = .ok i) ∧
  (∀ w i, decode w = .ok i → encode i = w ∧ i.wf = true ∧ (form i).isSome = true)

/-- R163, R164, R165: what each cause of R163 leaves, for every instruction and event that raises it on a launch whose tag is ACTIVE and which no
cause has reached: the launch stands aborted with the cause's code, its tag is ABORTING with that code, its teams run no more, its completion word
will carry the code, and its abort report names the node for a Trap cause and ALIGN, the address alone for PAGE and PERM, and nothing for the
others. The entries of a pre-emption and of a cut-over requeue the launch, but for CUTOVER, which a team's commit forbids. The completion word and the
report are those bytes in memory. Which launch a cause reaches in one cycle with a hang is the model's reading (logs 36 and 42), and so are the
address that PAGE and PERM show (log 31) and that an .S or .G access is checked for its alignment first. -/
def Obligations.CausesHaveTheirCodesAndOutcomes : Prop :=
  (∀ (s : State) (id v : Nat) (l : Launch) (g : VTag),
    launch? s id = some l → l.vt = some v → tag? s v = some g → g.launch = id → g.st = .active → l.cause = none → descendants s id = [] →
    let ended (code : Nat) (rep : Option Report) (t : State) : Prop := ∃ k h, launch? t id = some k ∧ k.phase = .aborted ∧ k.cause = some code ∧
      k.report = rep ∧ k.ran = l.ran ∧ tag? t v = some h ∧ h.st = .aborting ∧ h.cause = code ∧ (∀ m ∈ t.teams, m.launch = id → m.retired = true) ∧
      doneWord k % 2 ^ 15 = code + (if k.tern then 2 ^ 8 else 0) + (if lrTeamGran k.raw = true ∧ 0 < k.teamCommits then 2 ^ 9 else 0)
    (∀ (n : Node) (f : Firing) (w : NodeWord) (k : Fin 32) (im : Image) (th : Thread), f.launch = id → thread? s f.thread = some th →
      let named (x : Nat) : Option Report := some (nodeReport (fired s) f true x)
      let bare : Option Report := some (nodeReport (fired s) f false 0)
      let ends (i : Instr) (code : Nat) (rep : Option Report) : Prop := ∃ t, exec i s = .next t ∧ ended code rep t
      let a := opVal s f n (opd64 n.a)
      let cond := match n.a with | .win j => if 32 ≤ j.val then opdP n.a else opd64 n.a | _ => opd64 n.a
      let word := opVal s f n (opd32 n.b)
      let block (t : Nat) : Prop := t < im.blocks.length ∧ ¬(im.emulate = true ∧ im.emuh = t)
      let ok := word % 65536 ≠ 65535 ∧ block (word % 65536) ∧ (word / 65536 = 65535 ∨ block (word / 65536))
      (Fires s f [opd64 n.a] [] → ends (.trap n) 0x14 (named a) ∧ ends (.abort n) 0x16 (named a)) ∧
      (Fires s f [cond, opd64 n.b] [] → opVal s f n cond % 2 = 0 → ends (.assert_ n) 0x13 (named (opVal s f n (opd64 n.b)))) ∧
      (s.cur = some f → isHandler s f.launch f.block = true → ends (.undef w) 0x05 bare) ∧
      (FiresOut s f [opd32 n.b] [] → l.image = im →
        (¬ok → ends (.call n k) 0x06 none ∧ ends (.calli n k) 0x06 none) ∧
        (ok → Nat.max 64 (lrWsRows l.raw) < th.fp + (k.val + 1) + 32 → ends (.call n k) 0x10 bare ∧ ends (.calli n k) 0x10 bare) ∧
        (word ≠ 65535 → ¬block word → ends (.exit n) 0x06 none))) ∧
    (∀ (a : Access) (n : Node) (sp : Sp) (m : MemFlags) (u : Bool), InFlight s a → a.f.launch = id →
      let va := a.a.toNat % 2 ^ 64
      let count := a.b.toNat % 2 ^ 64
      let size := tyBits n.ty / 8
      let named (x : Nat) : Option Report := some (nodeReport s a.f true x)
      let bare : Option Report := some (nodeReport s a.f false 0)
      let address : Option Report := some { emptyReport l.depth ((vtOfFiring s a.f).getD 0) with addrValid := true, addr := BitVec.ofNat 64 (va % 2 ^ 54) }
      let ends (code : Nat) (rep : Option Report) : Prop := ended code rep (attempt a.id s)
      (va % size ≠ 0 →
        a.i ∈ [Instr.ld n sp m, .ldu n sp, .iread n sp, .st n sp m, .stu n sp, .iwrite n sp, .aadd n sp m, .afadd n sp m, .amin n sp m,
          .amax n sp m, .aand n sp m, .aor n sp m, .axor n sp m, .axchg n sp m, .acas n sp m, .ainc n sp m, .adec n sp m] → ends 0x03 (named va)) ∧
      (a.i = .ld n .g m → 0 < size → va % size = 0 → s.xlat.fqEnable = false →
        (translate s a.f.core l.space va .read = .park 0 ∨ translate s a.f.core l.space va .read = .page → ends 0x01 address) ∧
        (translate s a.f.core l.space va .read = .perm → ends 0x02 address) ∧
        (translate s a.f.core l.space va .read = .link → ends 0x15 none) ∧
        (∀ pa p lvl e, translate s a.f.core l.space va .read = .ok pa p lvl → pteOpen p = true → pa + size ≤ 2 ^ 51 → s.skim.lines = [] →
          badSeen (fillTlb a.f.core l.space va s) (dieOf a.f.core) pa size = some e → ends 0x0E none)) ∧
      (a.i = .st n .g m → m.rel = false → m.sc = false → 0 < size → va % size = 0 →
        (s.xlat.fqEnable = false → translate s a.f.core l.space va .write = .park 1 → ends 0x02 address) ∧
        (∀ pa p lvl, translate s a.f.core l.space va .write = .ok pa p lvl → pteOpen p = false → pa + size ≤ 2 ^ 51 → vtOfFiring s a.f = some v →
          let t := fillTlb a.f.core l.space va s
          let here (e : SkimEntry) : Bool := e.unit_ == (unitOf pa p).1 && e.len == (unitOf pa p).2
          unitHeld s v (unitOf pa p) = false →
          (∀ e, s.skim.entries.find? here = some e → v ∉ e.writers → 4 ≤ e.writers.length → ends 0x09 none) ∧
          (s.skim.entries.find? here = none → makeEntryRoom v (unitOf pa p).1 t = (false, t) → ends 0x08 none))) ∧
      (∀ tm im, a.i = .ld n .p m → 0 < size → va % size = 0 → teamOf s a.f = some tm → imageOf s a.f.launch = some im → va < 2 ^ 52 →
        va % 2 ^ 20 + size ≤ im.scratch → va / 2 ^ 20 ≠ tm.num →
        (∀ x, s.teams.find? (fun x => x.launch == id && x.num == va / 2 ^ 20) = some x → x.retired = true ∨ x.core / 4 ≠ tm.core / 4) →
        ends 0x07 (named va)) ∧
      (∀ tm, a.i = .launch n → l.phase = .running → teamOf s a.f = some tm → l.depth = 10 → ends 0x11 bare) ∧
      (∀ tm, a.i = .lwait n → teamOf s a.f = some tm → tm.children.length ≤ va → ends 0x06 none) ∧
      (a.i = .nsend n u ∨ a.i = .nrecv n u → let handle := a.c.toNat % 2 ^ 64
        (entryCut s l.space handle = true → ends 0x15 none) ∧
        (entryCut s l.space handle = false → entryUe s l.space handle = none → handleOf s l.space handle = none ∨ 16777216 < count → ends 0x06 none))) ∧
    (∀ (d : Word32) (c : Nat), s.boot.released = true → s.boot.failed = false → s.boot.frozenCmd = false → s.boot.frozenPin = false →
      let ends (i : Instr) (code : Nat) : Prop := ∃ t, exec i s = .next t ∧ ended code none t
      let quiet := ∀ a ∈ s.accesses, a.st ≠ .flight ∧ a.st ≠ .held ∧ (a.st = .blocked → a.left = [])
      (hangDue s id = true → quiet → (space s l.space).hmSize = 0 → ends (.hang id) 0x0C) ∧
      (hangDue s id = false → l.parent = none →
        (0 < lrDeadline l.raw → 700 * lrDeadline l.raw ≤ l.deadline → ends (.deadline id) 0x0D) ∧
        (s.disp.killBusy = false → s.disp.killHi.toNat * 2 ^ 32 + s.disp.killLo.toNat = l.index → (d.setWidth 6 : BitVec 6).toNat = l.queue →
          (queue s l.queue).waiting.find? (fun x => x.index == l.index) = none →
          s.launches.find? (fun x => x.queue == l.queue && x.index == l.index && x.parent.isNone) = some l → ends (.kill d) 0x17) ∧
        (c < 40 → ((s.placed.filter (fun q => q.core / 4 == c && isStitched s q.launch q.block)).map (·.launch)).eraseDups = [id] →
          ends (.clusterReset c) 0x18)))) ∧
  (∀ (s : State) (f : Firing) (x : Bool) (addr : Nat) (l : Launch) (m : Team) (th : Thread),
    thread? s f.thread = some th → team? s th.team = some m → launch? s f.launch = some l →
    nodeReport s f x addr =
      { nodeValid := true, addrValid := x, block := f.block, node := f.node, thread := th.tid, team := m.num, depth := l.depth,
        vt := ((if l.vt.isSome then l.vt else m.vt).getD 0xFFFF), addr := BitVec.ofNat 64 addr }) ∧
  (∀ (s : State) (n : Fin 4) (id at_ : Nat) (l : Launch), n.val < s.ramblers.length → s.boot.released = true → s.boot.frozenCmd = false →
    s.boot.frozenPin = false → (rambler s n.val).state = 3 → (rambler s n.val).cutAt = some at_ → at_ + 700 * (rambler s n.val).grace.toNat ≤ s.cycles →
    s.launches = [l] → l.id = id → l.space = (rambler s n.val).space.toNat → l.parent = none → l.cause = none → topActive s l = true → hangDue s id = false →
    (∀ e ∈ s.skim.tags, e.2.st ≠ .committing) →
    ∃ t k, exec (.rmblGraceExpiry n) s = .next t ∧ launch? t id = some k ∧ k.phase = .aborted ∧ k.report = none ∧
      (if lrTeamGran l.raw = true ∧ 0 < l.teamCommits then k.cause = some 0x1A ∧ k.requeue = l.requeue else k.cause = some 0x19 ∧ k.requeue = true)) ∧
  (∀ (s : State) (id pa p lvl rp c : Nat) (l : Launch), coresRun s = true → launch? s id = some l → l.phase = .aborted → l.cause = some c → c < 256 →
    wordReady s l = true → l.requeue = false → translate s 160 l.space (lrDone l.raw) .devWrite = .ok pa p lvl → pteOpen p = true → pteSys p = false →
    pa + 8 ≤ 2 ^ 51 → s.MemOk → s.skim.lines = [] → s.kamub.copies = [] →
    let word := c + (if l.tern then 2 ^ 8 else 0) + (if lrTeamGran l.raw = true ∧ 0 < l.teamCommits then 2 ^ 9 else 0) + 2 ^ 15 +
      2 ^ 32 * (lrCookie l.raw % 2 ^ 32)
    let r : Report := l.report.getD (emptyReport 0 l.causeVt)
    ∃ t, exec (.completionWord id) s = .next t ∧ launch? t id = none ∧ ofBytes (readHome t pa 8) = word ∧
      (l.ran = true → lrReport l.raw ≠ 0 → openTarget (drainDies l.dies s) l.space (lrReport l.raw + 64) 64 = some rp → rp + 64 ≤ 2 ^ 51 →
        (rp + 64 ≤ pa ∨ pa + 8 ≤ rp) →
        readHome t rp 64 = toBytes 1 c ++ toBytes 1 ((if r.nodeValid then 1 else 0) + (if r.addrValid then 2 else 0)) ++ toBytes 2 r.block ++
          toBytes 2 r.node ++ toBytes 2 r.thread ++ toBytes 4 r.team ++ toBytes 1 r.depth ++ [0] ++ toBytes 2 r.vt ++ toBytes 8 r.addr.toNat ++
          List.replicate 40 0))

/-- R6, R167, R172: a step runs the event that its turn names, or the node that the element fires, which is what the decoder
reads from the word of the node; a turn with nothing to do, or whose event is none, passes. That a step is one turn of a schedule is the model's choice
(log 1). -/
def Obligations.StepRunsTheDecodedInstruction : Prop :=
  ∀ (s u : State) (t : Turn) (pe : Nat) (i : Instr),
    (takeTurn s = (none, u) → step s = .next u) ∧
    (takeTurn s = (some t, u) →
      let v := startTurn t u
      (t.what = .event i → isEvent i = true → i.wf = true → step s = exec i v) ∧
      (t.what = .event i → isEvent i = false ∨ i.wf = false → step s = .next v) ∧
      (t.what = .fire pe → takeFire pe v = none → step s = .next v) ∧
      (t.what = .fire pe → ∀ f, coresRun v = true → (∀ x, tabFind v.core.pes pe = some x → x.last ≠ v.cycles + 1) →
        chosen v pe = some (i, f) → step s = exec i (beginFire pe i f v) ∧ (beginFire pe i f v).cur = some f ∧
          ∃ b w, blockAt v f.launch f.block = some b ∧ tabFind b.words f.node = some w ∧ decodeIn (emulatesOf v f.launch) w = .ok i))

/-- R24, R53, R54, R59, R64, R69, R76, R85, R109: the state at the start of a cold start: stage 0, cores in reset, the
measurement registers zero, the registers at the reset values that the spec gives, every tag FREE, and nothing in flight. -/
def Obligations.ResetHoldsTheStatedValues : Prop :=
  let s := State.reset
  s.boot.stage = 0 ∧ s.boot.released = false ∧ s.boot.vcore = false ∧ s.boot.failed = false ∧ s.boot.meas = List.replicate 8 0 ∧
  s.boot.frozenCmd = false ∧ s.boot.frozenPin = false ∧ s.boot.alert = 0 ∧ s.boot.alertEn = 0x3F ∧ s.boot.brk = 0 ∧ s.boot.brkHit = 0 ∧
  s.gov.limit = 0x960 ∧ s.gov.hot = false ∧ s.xlat.fqEnable = false ∧ s.xlat.prod = 0 ∧ s.xlat.cons = 0 ∧ s.xlat.tlb = [] ∧
  s.spaces.length = 64 ∧ (∀ x ∈ s.spaces, x.enable = false ∧ x.cutOver = false) ∧
  s.queues.length = 64 ∧ (∀ x ∈ s.queues, x.enable = false ∧ x.err = 0 ∧ x.waiting = []) ∧
  (∀ v < 1024, tag? s v = none) ∧ s.skim.lines = [] ∧ s.skim.entries = [] ∧ s.skim.commits = 0 ∧
  s.kamub.up = 0 ∧ (∀ e ∈ s.eth, e.up = false) ∧ (∀ r ∈ s.ramblers, r.state = 0) ∧
  s.launches = [] ∧ s.teams = [] ∧ s.threads = [] ∧ s.tokens = [] ∧ s.accesses = [] ∧ s.placed = [] ∧ s.outputs = []

/-- Memory after reset is in its canonical form, and lists no byte. The form of memory, and that an unlisted byte reads as
zero, are the model's choice (log 4). -/
def Obligations.MemoryIsCanonicalAtReset : Prop :=
  State.reset.MemOk ∧ State.reset.mem.home = [] ∧ State.reset.mem.comp = []

/-- Every step keeps memory, and what the caches hold of it, in canonical form: strictly rising addresses, and no byte listed
that an unlisted address reads as. The form of memory is the model's choice (log 4). -/
def Obligations.EveryStepKeepsMemoryCanonical : Prop :=
  ∀ (s t : State), s.MemOk → step s = .next t → t.MemOk

/-- R40, R208, R210, R211: a byte written at its home, in the home die's caches or in a remote store buffer is the byte that
is then read there, and no other committed byte changes; memory keeps its canonical form. How caches and buffers are kept is
the model's choice (log 5). -/
def Obligations.HomeWritesChangeOneByte : Prop :=
  ∀ (s : State) (pa x die : Nat) (b : Byte), s.MemOk → (∀ l ∈ s.skim.lines, tabWf l.bytes = true) →
    homeByte (writeHomeByte pa b s) x = (if x = pa then b else homeByte s x) ∧ (writeHomeByte pa b s).MemOk ∧
    homeByte (writeL2Byte pa b s) x = (if x = pa then b else homeByte s x) ∧ (writeL2Byte pa b s).MemOk ∧
    dieByte (writeRsbByte die pa b s) die pa = b ∧ homeByte (writeRsbByte die pa b s) x = homeByte s x ∧ (writeRsbByte die pa b s).MemOk

/-! ## Integer, bit-field and predicate nodes (R237, R308 to R318) -/

/-- R310, R311 (and R237 through `intResult`): ADD, SUB, MUL, MAD, NEG and ABS send the exact result fitted to the node's
type, MULHI the floor of the product over 2^w, MULW the product at 64 bits. -/
def Obligations.IntegerArithmeticSendsFittedResult : Prop :=
  ∀ (n : Node) (f : Firing) (s : State) (sat : Bool),
    let w := tyBits n.ty
    let A := opdT n.ty n.a
    let B := opdT n.ty n.b
    let C := opdT n.ty (srcC n)
    let a := asInt n.ty (opVal s f n A)
    let b := asInt n.ty (opVal s f n B)
    let c := asInt n.ty (opVal s f n C)
    let fit (x : Int) (sat : Bool) : Nat := intResult x w (isS n.ty) sat
    (Fires s f [A, B] [] →
      exec (.add n sat) s = sends n f .narrow (fit (a + b) sat) s ∧
      exec (.sub n sat) s = sends n f .narrow (fit (a - b) sat) s ∧
      exec (.mul n sat) s = sends n f .narrow (fit (a * b) sat) s ∧
      exec (.mulhi n) s = sends n f .narrow (fit ((a * b) / 2 ^ w) false) s ∧
      exec (.mulw n) s = sends n f .narrow (intResult (a * b) 64 (isS n.ty) false) s) ∧
    (Fires s f [A] [] →
      exec (.neg n sat) s = sends n f .narrow (fit (-a) sat) s ∧
      exec (.abs n sat) s = sends n f .narrow (fit (if a < 0 then -a else a) sat) s) ∧
    (Fires s f [A, B, C] [] →
      exec (.mad n sat) s = sends n f .narrow (fit (a * b + c) sat) s)

/-- R312: DIV sends the quotient truncated toward zero and REM the remainder with the sign of the dividend, fitted; a division
by zero gives −1 or 2^w − 1 and the dividend, and raises nothing. -/
def Obligations.DivisionSendsQuotientAndRemainder : Prop :=
  ∀ (n : Node) (f : Firing) (s : State) (sat : Bool),
    let w := tyBits n.ty
    let A := opdT n.ty n.a
    let B := opdT n.ty n.b
    let a := asInt n.ty (opVal s f n A)
    let b := asInt n.ty (opVal s f n B)
    let fit (x : Int) (sat : Bool) : Nat := intResult x w (isS n.ty) sat
    Fires s f [A, B] [] →
      (b = 0 →
        exec (.div n sat) s = sends n f .narrow (fit (if isS n.ty then -1 else 2 ^ w - 1) sat) s ∧
        exec (.rem n) s = sends n f .narrow (fit a false) s) ∧
      (b ≠ 0 → ∃ q r : Int, a = b * q + r ∧ r.natAbs < b.natAbs ∧ (r = 0 ∨ (r < 0 ↔ a < 0)) ∧
        exec (.div n sat) s = sends n f .narrow (fit q sat) s ∧ exec (.rem n) s = sends n f .narrow (fit r false) s)

/-- R237: an integer result wraps modulo 2^w unless SAT is 1, and then takes the nearest end of the range; the value read back
at the type is in the type's range, and is the exact one wherever that fits. -/
def Obligations.IntegerResultWrapsOrSaturates : Prop :=
  ∀ (x : Int) (w : Nat) (sg sat : Bool), 0 < w →
    let lo : Int := if sg then -(2 ^ (w - 1)) else 0
    let hi : Int := if sg then 2 ^ (w - 1) - 1 else 2 ^ w - 1
    let v := intResult x w sg sat
    let back := intOperand v w sg
    v < 2 ^ w ∧ lo ≤ back ∧ back ≤ hi ∧ (lo ≤ x → x ≤ hi → back = x) ∧ (sat = false → (2 ^ w : Int) ∣ x - back) ∧
    (sat = true → (x < lo → back = lo) ∧ (hi < x → back = hi))

/-- R311: MIN and MAX send the lesser and the greater operand by the order of the type; AND to ANDN work bit by bit on the
w-bit patterns. R313: SHL and SHR fill with zeros, SAR with copies of the top bit, for every count; ROL and ROR rotate by the
count modulo w; XTR sends the w-bit window of the pair that starts at bit min(C, w). -/
def Obligations.OrderLogicAndShiftNodesMoveBits : Prop :=
  (∀ (n : Node) (f : Firing) (s : State),
     let w := tyBits n.ty
     let A := opdT n.ty n.a
     let B := opdT n.ty n.b
     let a := opVal s f n A
     let b := opVal s f n B
     (Fires s f [A, B] [] →
       exec (.min n) s = sends n f .narrow (if asInt n.ty b < asInt n.ty a then b else a) s ∧
       exec (.max n) s = sends n f .narrow (if asInt n.ty a < asInt n.ty b then b else a) s ∧
       (∃ v, exec (.and n) s = sends n f .narrow v s ∧ v < 2 ^ w ∧ ∀ i < w, v.testBit i = (a.testBit i && b.testBit i)) ∧
       (∃ v, exec (.or n) s = sends n f .narrow v s ∧ v < 2 ^ w ∧ ∀ i < w, v.testBit i = (a.testBit i || b.testBit i)) ∧
       (∃ v, exec (.xor n) s = sends n f .narrow v s ∧ v < 2 ^ w ∧ ∀ i < w, v.testBit i = (a.testBit i ^^ b.testBit i)) ∧
       (∃ v, exec (.andn n) s = sends n f .narrow v s ∧ v < 2 ^ w ∧ ∀ i < w, v.testBit i = (a.testBit i && !b.testBit i))) ∧
     (Fires s f [A] [] →
       ∃ v, exec (.not n) s = sends n f .narrow v s ∧ v < 2 ^ w ∧ ∀ i < w, v.testBit i = !a.testBit i)) ∧
  (∀ (n : Node) (f : Firing) (s : State),
     let w := tyBits n.ty
     let A := opdT n.ty n.a
     let B := opdT n.ty n.b
     let C := opdT n.ty (srcC n)
     let a := opVal s f n A
     let k := opVal s f n B
     (Fires s f [A, B] [] →
       (∃ v, exec (.shl n) s = sends n f .narrow v s ∧ v < 2 ^ w ∧ ∀ i < w, v.testBit i = (decide (k ≤ i) && a.testBit (i - k))) ∧
       (∃ v, exec (.shr n) s = sends n f .narrow v s ∧ v < 2 ^ w ∧ ∀ i < w, v.testBit i = a.testBit (i + k)) ∧
       (∃ v, exec (.sar n) s = sends n f .narrow v s ∧ v < 2 ^ w ∧
         ∀ i < w, v.testBit i = (if i + k < w then a.testBit (i + k) else a.testBit (w - 1))) ∧
       (∃ v, exec (.rol n) s = sends n f .narrow v s ∧ v < 2 ^ w ∧ ∀ i < w, v.testBit ((i + k) % w) = a.testBit i) ∧
       (∃ v, exec (.ror n) s = sends n f .narrow v s ∧ v < 2 ^ w ∧ ∀ i < w, v.testBit i = a.testBit ((i + k) % w))) ∧
     (Fires s f [A, B, C] [] →
       let m := Nat.min (opVal s f n C) w
       ∃ v, exec (.xtr n) s = sends n f .narrow v s ∧ v < 2 ^ w ∧
         ∀ i < w, v.testBit i = if m + i < w then a.testBit (m + i) else k.testBit (m + i - w)))

/-- R315, R316: what BFX, BFI, POPC, CLZ, CTZ, BREV, BSWAP and EXT send, bit by bit. R314, R317, R318: LEA adds a shifted
index modulo 2^64, DOTB and SAD add their lane sums to C and fit the exact sum, CMP sends the truth of its test. -/
def Obligations.BitFieldAndAddressNodesSendResult : Prop :=
  (∀ (n : Node) (f : Firing) (s : State) (k : Fin 3),
     let w := tyBits n.ty
     let A := opdT n.ty n.a
     let D : Opd := { src := n.b, wd := .bits 32, ty := n.ty }
     let C := opdT n.ty (srcC n)
     let a := opVal s f n A
     let p := opVal s f n D % 256
     let l := opVal s f n D / 256 % 256
     let c := opVal s f n C
     let top (i : Nat) : Bool := if i < w then a.testBit i else isS n.ty && a.testBit (w - 1)
     (Fires s f [A, D] [] →
       ∃ v, exec (.bfx n) s = sends n f .narrow v s ∧ v < 2 ^ w ∧
         ∀ i < w, v.testBit i = if i < Nat.min l w then top (p + i) else decide (0 < l) && isS n.ty && top (p + Nat.min l w - 1)) ∧
     (Fires s f [A, D, C] [] →
       ∃ v, exec (.bfi n) s = sends n f .narrow v s ∧ v < 2 ^ w ∧
         ∀ i < w, v.testBit i = if p ≤ i ∧ i < p + l then c.testBit (i - p) else a.testBit i) ∧
     (Fires s f [A] [] →
       exec (.popc n) s = sends n f .narrow ((List.range w).countP (fun i => a.testBit i)) s ∧
       (∃ v ≤ w, exec (.clz n) s = sends n f .narrow v s ∧ (∀ i, w - v ≤ i → a.testBit i = false) ∧ (v < w → a.testBit (w - 1 - v) = true)) ∧
       (∃ v ≤ w, exec (.ctz n) s = sends n f .narrow v s ∧ (∀ i < v, a.testBit i = false) ∧ (v < w → a.testBit v = true)) ∧
       (∃ v, exec (.brev n) s = sends n f .narrow v s ∧ v < 2 ^ w ∧ ∀ i < w, v.testBit i = a.testBit (w - 1 - i)) ∧
       (8 ∣ w → ∃ v, exec (.bswap n) s = sends n f .narrow v s ∧ v < 2 ^ w ∧
         ∀ i < w, v.testBit i = a.testBit (w - 8 - i / 8 * 8 + i % 8)) ∧
       exec (.ext n k) s = sends n f .narrow (intResult (intOperand a (8 * 2 ^ k.val) (isS n.ty)) w (isS n.ty) false) s)) ∧
  (∀ (n : Node) (f : Firing) (s : State) (k : Fin 8) (sx as bs sat : Bool) (t : ITest),
     let A64 := opd64 n.a
     let B64 : Opd := if sx then { src := n.b, wd := .bits 32, ty := .b32 } else opd64 n.b
     let C64 := opd64 (srcC n)
     let A := opdT n.ty n.a
     let B := opdT n.ty n.b
     let C := opdT n.ty (srcC n)
     let a := opVal s f n A
     let b := opVal s f n B
     let c := asInt n.ty (opVal s f n C)
     let fit (x : Int) : Nat := intResult x (tyBits n.ty) (isS n.ty) sat
     let lane (w v i : Nat) (sg : Bool) : Int := intOperand (v / 2 ^ (w * i)) w sg
     let byte (v i : Nat) : Int := lane 8 v i false
     let diff (i : Nat) : Int := if byte a i < byte b i then byte b i - byte a i else byte a i - byte b i
     (Fires s f [A64, B64, C64] [] →
       exec (.lea n k sx) s = sends n f .narrow
         (((opVal s f n A64 : Int) + intOperand (opVal s f n B64) (if sx then 32 else 64) sx * 2 ^ k.val + opVal s f n C64) % 2 ^ 64).toNat s) ∧
     (Fires s f [A, B, C] [] →
       exec (.dotb n as bs false sat) s = sends n f .narrow (fit (c + (lane 8 a 0 as * lane 8 b 0 bs + lane 8 a 1 as * lane 8 b 1 bs +
         lane 8 a 2 as * lane 8 b 2 bs + lane 8 a 3 as * lane 8 b 3 bs))) s ∧
       exec (.dotb n as bs true sat) s = sends n f .narrow (fit (c + (lane 16 a 0 as * lane 16 b 0 bs + lane 16 a 1 as * lane 16 b 1 bs))) s ∧
       exec (.sad n sat) s = sends n f .narrow (fit (c + (diff 0 + diff 1 + diff 2 + diff 3))) s) ∧
     (Fires s f [A, B] [] →
       let holds := match t with
         | .eq => decide (asInt n.ty a = asInt n.ty b)
         | .ne => decide (asInt n.ty a ≠ asInt n.ty b)
         | .lt => decide (asInt n.ty a < asInt n.ty b)
         | .le => decide (asInt n.ty a ≤ asInt n.ty b)
         | .gt => decide (asInt n.ty b < asInt n.ty a)
         | .ge => decide (asInt n.ty b ≤ asInt n.ty a)
       exec (.cmp n t) s = sends n f .pred (if holds then 1 else 0) s))

/-- R308, R309: the predicate nodes combine bits; PTEST tests a narrow value of type B32 or B64, and no other type or variant
of it decodes. -/
def Obligations.PredicateNodesSendOneBit : Prop :=
  ∀ (n : Node) (f : Firing) (s : State) (t : PTest),
    let P := opdP n.a
    let Q := opdP n.b
    let A := opdT n.ty n.a
    let B := opdT n.ty n.b
    let p := decide (opVal s f n P = 1)
    let q := decide (opVal s f n Q = 1)
    let bit (x : Bool) : Nat := if x then 1 else 0
    (Fires s f [P, Q] [] →
      exec (.pand n) s = sends n f .pred (bit (p && q)) s ∧ exec (.por n) s = sends n f .pred (bit (p || q)) s ∧
      exec (.pxor n) s = sends n f .pred (bit (p != q)) s) ∧
    (Fires s f [P] [] → exec (.pnot n) s = sends n f .pred (bit (!p)) s) ∧
    (Fires s f [A, B] [] →
      let a := opVal s f n A
      let i := opVal s f n B
      exec (.ptest n t) s = sends n f .pred (bit (match t with
        | .nz => decide (a ≠ 0)
        | .z => decide (a = 0)
        | .bit => decide (i < tyBits n.ty) && a.testBit i)) s) ∧
    (∀ w : NodeWord, w.toNat / 2 ^ 120 = 0x18 →
      (3 ≤ w.toNat / 2 ^ 114 % 64 → decode w = .error .unassigned) ∧
      (w.toNat / 2 ^ 114 % 64 < 3 → 2 ≤ w.toNat / 2 ^ 109 % 32 → ∀ i, decode w ≠ .ok i) ∧
      (∀ i, decode w = .ok i → ∃ m u, i = .ptest m u))

/-! ## Floating-point, packed and joining nodes (R238 to R254, R319 to R337) -/

/-- R321: FADD to FSQRT send the exact value of their operation, rounded once to the node's
format under RND and SAT. R246: what that rounding gives, for every format: the value of the format's grid below the magnitude or the
next above it, by the mode and, under RS, by the draw; beyond the largest finite value the overflow code; the canonical NaN, infinities
and signed zeros. When the exact value of a sum, product, quotient or root is NaN, infinite or zero, with its
sign, and that it is the rational result otherwise. The square root that is rounded is exact, or lies
with the true root strictly between two neighbours that are 2^−200 apart, so that it rounds as the true root does (log 7). Where the
note of R246 reads otherwise than its function, the function holds (log 19). -/
def Obligations.FloatArithmeticRoundsExactValueOnce : Prop :=
  (∀ (n : Node) (f : Firing) (s : State) (r : Round),
     let A := opdT n.ty n.a
     let B := opdT n.ty n.b
     let C := opdT n.ty (srcC n)
     let a := asFloat n.ty (opVal s f n A)
     let b := asFloat n.ty (opVal s f n B)
     let c := asFloat n.ty (opVal s f n C)
     let once (x : Exact) : Nat := encodeFloat (fmtOf n.ty) x r.rnd r.sat 0
     (Fires s f [A, B] [] →
       exec (.fadd n r) s = sends n f .narrow (once (exSum r.rnd [a, b])) s ∧
       exec (.fsub n r) s = sends n f .narrow (once (exSum r.rnd [a, exNeg b])) s ∧
       exec (.fmul n r) s = sends n f .narrow (once (exMul a b)) s ∧
       exec (.fdiv n r) s = sends n f .narrow (once (exDiv a b)) s) ∧
     (Fires s f [A] [] → exec (.fsqrt n r) s = sends n f .narrow (once (exSqrt a)) s) ∧
     (Fires s f [A, B, C] [] → exec (.ffma n r) s = sends n f .narrow (once (exSum r.rnd [exMul a b, c])) s)) ∧
  (∀ (rnd : Rnd) (x : Exact) (g h : Bool) (p q : Rat),
     (exSum rnd [.nan, x] = .nan ∧ exSum rnd [x, .nan] = .nan ∧ exSum rnd [.inf g, .inf (!g)] = .nan ∧
       exSum rnd [.inf g, .inf g] = .inf g ∧ exSum rnd [.inf g, .fin h q] = .inf g ∧ exSum rnd [.fin h q, .inf g] = .inf g ∧
       (p + q ≠ 0 → ∃ k, exSum rnd [.fin g p, .fin h q] = .fin k (p + q)) ∧
       exSum rnd [.fin true 0, .fin true 0] = .fin true 0 ∧ exSum rnd [.fin false 0, .fin false 0] = .fin false 0 ∧
       (∀ k, exSum rnd [.fin k 0, .fin (!k) 0] = .fin (rnd == .rm) 0) ∧ (p ≠ 0 → exSum rnd [.fin g p, .fin h (-p)] = .fin (rnd == .rm) 0)) ∧
     (exMul .nan x = .nan ∧ exMul x .nan = .nan ∧ exMul (.inf g) (.fin h 0) = .nan ∧ exMul (.fin h 0) (.inf g) = .nan ∧
       exMul (.inf g) (.inf h) = .inf (g != h) ∧ (q ≠ 0 → exMul (.inf g) (.fin h q) = .inf (g != decide (q < 0)) ∧ exMul (.fin h q) (.inf g) = .inf (decide (q < 0) != g) ∧
         exMul (.fin g 0) (.fin h q) = .fin (g != decide (q < 0)) 0 ∧ exMul (.fin h q) (.fin g 0) = .fin (decide (q < 0) != g) 0) ∧
       exMul (.fin g 0) (.fin h 0) = .fin (g != h) 0 ∧ ∃ k, exMul (.fin g p) (.fin h q) = .fin k (p * q)) ∧
     (exDiv .nan x = .nan ∧ exDiv x .nan = .nan ∧ exDiv (.inf g) (.inf h) = .nan ∧ exDiv (.fin g 0) (.fin h 0) = .nan ∧
       (p ≠ 0 → exDiv (.fin g p) (.fin h 0) = .inf (decide (p < 0) != h)) ∧ exDiv (.inf g) (.fin h 0) = .inf (g != h) ∧
       exDiv (.fin g 0) (.inf h) = .fin (g != h) 0 ∧
       (q ≠ 0 → exDiv (.inf g) (.fin h q) = .inf (g != decide (q < 0)) ∧ exDiv (.fin h q) (.inf g) = .fin (decide (q < 0) != g) 0 ∧
         exDiv (.fin g 0) (.fin h q) = .fin (g != decide (q < 0)) 0) ∧ (q ≠ 0 → ∃ k, exDiv (.fin g p) (.fin h q) = .fin k (p / q))) ∧
     (exSqrt .nan = .nan ∧ exSqrt (.inf true) = .nan ∧ exSqrt (.inf false) = .inf false ∧ exSqrt (.fin g 0) = .fin g 0 ∧
       (q < 0 → exSqrt (.fin g q) = .nan) ∧ (0 < q → exSqrt (.fin g q) = .fin false (sqrtRat q)))) ∧
  (∀ (t : Ty) (rnd : Rnd) (sat g : Bool) (u : Nat) (q : Rat), t ∈ [Ty.f32, .bf16, .f16, .e4m3, .e5m2, .e2m1] →
     let F := fmtOf t
     let sign (neg : Bool) : Nat := if neg then 2 ^ (F.n - 1) else 0
     let beyond (neg : Bool) : Nat := (if sat || t == .e2m1 then F.top else F.top + 1) + sign neg
     encodeFloat F .nan rnd sat u = (match t with
       | .f32 => 0x7FC00000 | .bf16 => 0x7FC0 | .f16 => 0x7E00 | .e4m3 => 0x7F | .e5m2 => 0x7E | _ => 0) ∧
     encodeFloat F (.inf g) rnd sat u = beyond g ∧ encodeFloat F (.fin g 0) rnd sat u = sign g ∧
     (q ≠ 0 →
       let a := ratAbs q
       let neg := decide (q < 0)
       let v := encodeFloat F (.fin g q) rnd sat u
       let least : Int := 1 - F.bias
       ∃ (ex : Int) (k : Nat) (top : Rat), floatValue F F.top = .fin false top ∧ least ≤ ex ∧ a < pow2 (ex + 1) ∧ (pow2 ex ≤ a ∨ ex = least) ∧
         let ulp := pow2 (ex - F.m)
         let d := a - k * ulp
         let up : Bool := match rnd with
           | .rn => decide (ulp < 2 * d) || (decide (2 * d = ulp) && k % 2 == 1)
           | .rz => false
           | .rp => !neg && decide (d ≠ 0)
           | .rm => neg && decide (d ≠ 0)
           | .rs => decide (d ≠ 0) && decide (65536 ≤ (d / ulp * 65536).floor.toNat + u)
         let mag : Rat := ((if up then k + 1 else k : Nat) : Rat) * ulp
         0 ≤ d ∧ d < ulp ∧ srndLane.gridOf F rnd u q = mag ∧
         (mag ≤ top → floatValue F v = .fin neg (if neg then -mag else mag)) ∧ (top < mag → v = beyond neg))) ∧
  (∀ q : Rat, 0 ≤ q → q < pow2 400 →
     let v := sqrtRat q
     let h := pow2 (-201)
     0 ≤ v ∧ (v * v = q ∨ (h ≤ v ∧ (v - h) * (v - h) < q ∧ q < (v + h) * (v + h))))

/-- R322: what the approximate functions send for the operands whose results the rule lists as exact; that FRCP lies within an
ulp of the reciprocal, and FSIN and FCOS of a large operand within [−1, 1]; and that all complete on every operand. An infinite
result follows SAT (R247). Which values the functions take inside their bounds is free (log 7). -/
def Obligations.ApproximateFunctionsSendExactValues : Prop :=
  ∀ (n : Node) (f : Firing) (s : State) (sat : Bool), n.ty = .f32 →
    Fires s f [opdT n.ty n.a] [] →
    let F := fmtOf .f32
    let x := floatValue F (opVal s f n (opdT n.ty n.a))
    let sign (g : Bool) : Nat := if g then 2 ^ 31 else 0
    let inf (g : Bool) : Nat := sign g + if sat then 0x7F7FFFFF else 0x7F800000
    let one := 0x3F800000
    let nan := 0x7FC00000
    (∃ v, exec (.frcp n sat) s = sends n f .narrow v s ∧ (x = .nan → v = nan) ∧ (∀ g, x = .fin g 0 → v = inf g) ∧
      (∀ g, x = .inf g → v = sign g) ∧ (∀ g q, x = .fin g q → q ≠ 0 →
        (pow2 128 - pow2 104 < ratAbs (1 / q) → v = inf (decide (q < 0))) ∧
        (ratAbs (1 / q) ≤ pow2 128 - pow2 104 → ∃ h c, floatValue F v = .fin h c ∧ ratAbs (c - 1 / q) ≤ ulpOf (1 / q) ∧
          (∀ k : Int, ratAbs q = pow2 k → c = 1 / q)))) ∧
    (∃ v, exec (.frsq n sat) s = sends n f .narrow v s ∧ (x = .nan → v = nan) ∧ (∀ g, x = .fin g 0 → v = inf g) ∧
      (x = .inf false → v = 0) ∧ (x = .inf true → v = nan) ∧ (∀ g q, x = .fin g q → q < 0 → v = nan) ∧
      (∀ g (j : Int), x = .fin g (pow2 (2 * j)) → floatValue F v = .fin false (pow2 (-j)))) ∧
    (∃ v, exec (.fexp2 n sat) s = sends n f .narrow v s ∧ (x = .nan → v = nan) ∧ (x = .inf true → v = 0) ∧
      (x = .inf false → v = inf false) ∧ (∀ g q, x = .fin g q → 128 ≤ q → v = inf false) ∧
      (∀ g (k : Int), x = .fin g (k : Rat) → -149 ≤ k → k ≤ 127 → floatValue F v = .fin false (pow2 k))) ∧
    (∃ v, exec (.flog2 n sat) s = sends n f .narrow v s ∧ (x = .nan → v = nan) ∧ (∀ g, x = .fin g 0 → v = inf true) ∧
      (x = .inf false → v = inf false) ∧ (x = .inf true → v = nan) ∧ (∀ g q, x = .fin g q → q < 0 → v = nan) ∧
      (∀ g (k : Int), x = .fin g (pow2 k) → floatValue F v = .fin (decide (k < 0)) (k : Rat))) ∧
    (∃ v, exec (.fsin n sat) s = sends n f .narrow v s ∧ (x = .nan → v = nan) ∧ (∀ g, x = .inf g → v = nan) ∧
      (∀ g, x = .fin g 0 → v = sign g) ∧ (∀ g q, x = .fin g q → 32768 < ratAbs q → ∃ h c, floatValue F v = .fin h c ∧ ratAbs c ≤ 1)) ∧
    (∃ v, exec (.fcos n sat) s = sends n f .narrow v s ∧ (x = .nan → v = nan) ∧ (∀ g, x = .inf g → v = nan) ∧
      (∀ g, x = .fin g 0 → v = one) ∧ (∀ g q, x = .fin g q → 32768 < ratAbs q → ∃ h c, floatValue F v = .fin h c ∧ ratAbs c ≤ 1)) ∧
    (∃ v, exec (.ftanh n sat) s = sends n f .narrow v s ∧ (x = .nan → v = nan) ∧ (∀ g, x = .inf g → v = sign g + one) ∧
      (∀ g, x = .fin g 0 → v = sign g) ∧ (∀ g q, x = .fin g q → (9 ≤ q → v = one) ∧ (q ≤ -9 → v = sign true + one)))

/-- R323, R324, R325, R326: the order, sign, comparison and class nodes. R327: FRINT sends NaN as the canonical NaN, an
infinity, a zero and an integral value unchanged, and every other value rounded to an integer under RND, with its sign. -/
def Obligations.FloatOrderClassAndRoundingNodes : Prop :=
  (∀ (n : Node) (f : Firing) (s : State) (t : FTest), n.ty = .f32 ∨ n.ty = .bf16 ∨ n.ty = .f16 →
     let w := tyBits n.ty
     let A := opdT n.ty n.a
     let B := opdT n.ty n.b
     let a := opVal s f n A
     let b := opVal s f n B
     let x := asFloat n.ty a
     let y := asFloat n.ty b
     let less (x y : Exact) : Bool := exLt x y || (exEq x y && exSign x && !exSign y)
     let pick (swap : Bool) : Nat :=
       if x = .nan then (if y = .nan then canonicalNan (fmtOf n.ty) else b) else if y = .nan then a else if swap then b else a
     (Fires s f [A, B] [] →
       exec (.fmin n) s = sends n f .narrow (pick (less y x)) s ∧
       exec (.fmax n) s = sends n f .narrow (pick (less x y)) s ∧
       (∃ v, exec (.fcpys n) s = sends n f .narrow v s ∧ v < 2 ^ w ∧
         ∀ i < w, v.testBit i = if i = w - 1 then b.testBit i else a.testBit i) ∧
       exec (.fcmp n t) s = sends n f .pred (if ((match t with
         | .eq => exEq x y
         | .ne => !exEq x y
         | .lt => exLt x y
         | .le => exLt x y || exEq x y
         | .gt => exLt y x
         | .ge => exLt y x || exEq x y
         | .uno => decide (x = .nan ∨ y = .nan)
         | .ord => decide (x ≠ .nan ∧ y ≠ .nan)) : Bool) then 1 else 0) s) ∧
     (Fires s f [A] [] →
       (∃ v, exec (.fabs n) s = sends n f .narrow v s ∧ v < 2 ^ w ∧ ∀ i < w, v.testBit i = (decide (i ≠ w - 1) && a.testBit i)) ∧
       (∃ v, exec (.fneg n) s = sends n f .narrow v s ∧ v < 2 ^ w ∧ ∀ i < w, v.testBit i = (a.testBit i != decide (i = w - 1))) ∧
       exec (.fclass n) s = sends n f .narrow (2 ^ (match x with
         | .nan => 8
         | .inf g => if g then 0 else 7
         | .fin g q =>
           if q = 0 then (if g then 3 else 4)
           else if ratAbs q < pow2 (1 - ((fmtOf n.ty).bias : Int)) then (if g then 2 else 5)
           else if g then 1 else 6)) s)) ∧
  (∀ (n : Node) (f : Firing) (s : State) (rnd : Rnd), n.ty = .f32 ∨ n.ty = .bf16 ∨ n.ty = .f16 →
     Fires s f [opdT n.ty n.a] [] →
     let a := opVal s f n (opdT n.ty n.a)
     ∃ v, exec (.frint n rnd) s = sends n f .narrow v s ∧
       (match asFloat n.ty a with
        | .nan => v = canonicalNan (fmtOf n.ty)
        | .inf _ => v = a
        | .fin g q => v = encodeFloat (fmtOf n.ty) (.fin g (roundInt rnd q : Rat)) .rn false 0 ∧ (q.den = 1 → v = a) ∧
           (rnd = .rz → ratAbs (roundInt rnd q : Rat) ≤ ratAbs q) ∧ (rnd = .rp → q ≤ (roundInt rnd q : Rat)) ∧
           (rnd = .rm → (roundInt rnd q : Rat) ≤ q) ∧ ratAbs (q - (roundInt rnd q : Rat)) < 1 ∧ (rnd = .rn → ratAbs (q - (roundInt rnd q : Rat)) ≤ mkRat 1 2)))

/-- R328, R335, R336, R248, R249: the conversions. R250: what a conversion gives: the pattern of a B type as it is, cut or filled with
zeros; a float rounded once; an integer fitted; NaN as 0 and a float rounded to an integer within the destination's range. R335: a lane
of SRND is the F32 of the value that its target reaches, and NaN where that is E2M1 and lies past its largest. Without RS nothing is drawn; under RS the thread's generator advances by
one draw for CVT, by eight for SRND and by one for each converted lane for VCVT, in element order. An immediate extends by the
node's TY (R251). -/
def Obligations.ConversionsSendConvertedLanes : Prop :=
  (∀ (dst src : Ty) (r : Round) (u b : Nat),
     let w := tyBits dst
     let x := b % 2 ^ tyBits src
     let v := convert dst src r u b
     let lo : Int := if isS dst then -(2 ^ (w - 1)) else 0
     let hi : Int := if isS dst then 2 ^ (w - 1) - 1 else 2 ^ w - 1
     (isB dst = true ∨ isB src = true → v = x % 2 ^ w) ∧
     (isB src = false → isFloat dst = true → isFloat src = true ∨ isInt src = true →
       v = encodeFloat (fmtOf dst) (if isFloat src then floatValue (fmtOf src) x else .fin false (intOperand x (tyBits src) (isS src))) r.rnd r.sat u) ∧
     (isInt dst = true → isInt src = true → v = intResult (intOperand x (tyBits src) (isS src)) w (isS dst) r.sat) ∧
     (isInt dst = true → isFloat src = true → v < 2 ^ w ∧
       match floatValue (fmtOf src) x with
       | .nan => v = 0
       | .inf neg => asInt dst v = if neg then lo else hi
       | .fin _ q => let i := roundInt r.rnd q
         asInt dst v = if i < lo then lo else if hi < i then hi else i)) ∧
  (∀ (t : Ty) (r : Round) (u x : Nat), t ∈ [Ty.bf16, .f16, .e4m3, .e5m2, .e2m1] →
     let y := floatValue (fmtOf .f32) x
     let nearest := encodeFloat (fmtOf .f32) (floatValue (fmtOf t) (encodeFloat (fmtOf t) y r.rnd r.sat u)) .rn false 0
     let past : Bool := match y with
       | .fin _ q => decide (6 < srndLane.gridOf (fmtOf .e2m1) r.rnd u q)
       | _ => true
     srndLane t r u x = if y = .nan ∨ (t = .e2m1 ∧ r.sat = false ∧ past = true) then 0x7FC00000 else nearest) ∧
  ∀ (n : Node) (f : Firing) (s : State) (src : Ty) (r : Round) (pos : Fin 8) (th : Thread),
    thread? s f.thread = some th →
    let A := { opdT src n.a with ty := n.ty }
    let F := { opdV .f32 n.a with ty := n.ty }
    let V := { opdV src n.a with ty := n.ty }
    let M := opdV n.ty n.b
    let count := 256 / Nat.max (tyBits n.ty) (tyBits src)
    let drawn (k : Nat) : State := modThread f.thread (fun x => { x with prng := (prngDraws k th.prng).1 }) (fired s)
    let draw (k i : Nat) : Nat := (prngDraws k th.prng).2.getD i 0
    (Fires s f [A] [] →
      (r.rnd ≠ .rs → exec (.cvt n src r) s = sends n f .narrow (convert n.ty src r 0 (opVal s f n A)) s) ∧
      (r.rnd = .rs → exec (.cvt n src r) s = .next (emit n f .narrow (convert n.ty src r (draw 1 0) (opVal s f n A)) (drawn 1)))) ∧
    (Fires s f [F] [] → ∃ v < 2 ^ 256,
      (r.rnd ≠ .rs → exec (.srnd n r) s = sends n f .wide v s ∧ ∀ i < 8, laneAt 32 v i = srndLane n.ty r 0 (laneAt 32 (opVal s f n F) i)) ∧
      (r.rnd = .rs → exec (.srnd n r) s = .next (emit n f .wide v (drawn 8)) ∧
        ∀ i < 8, laneAt 32 v i = srndLane n.ty r (draw 8 i) (laneAt 32 (opVal s f n F) i))) ∧
    (Fires s f [V, M] [] → ∃ v < 2 ^ 256,
      (exec (.vcvt n src r pos) s = if r.rnd = .rs then .next (emit n f .wide v (drawn count)) else sends n f .wide v s) ∧
      ∀ j < 256 / tyBits n.ty,
        let u (i : Nat) : Nat := if r.rnd = .rs then draw count i else 0
        let lane (i : Nat) : Nat := laneAt (tyBits src) (opVal s f n V) i
        laneAt (tyBits n.ty) v j =
          if tyBits n.ty ≤ tyBits src then
            (if pos.val * count ≤ j ∧ j < pos.val * count + count then convert n.ty src r (u (j - pos.val * count)) (lane (j - pos.val * count))
             else laneAt (tyBits n.ty) (opVal s f n M) j)
          else convert n.ty src r (u j) (lane (pos.val * count + j)))

/-- R331, R332, R334, R337: what every lane of the packed nodes' results holds; a float lane is rounded once under RND and SAT. -/
def Obligations.PackedNodesComputeEveryLane : Prop :=
  ∀ (n : Node) (f : Firing) (s : State) (r : Round) (k : Fin 64) (t : FTest),
    let w := tyBits n.ty
    let A := opdV n.ty n.a
    let B := opdV n.ty n.b
    let C := opdV n.ty (srcC n)
    let X : Opd := { src := n.a, wd := .bits 64, ty := n.ty }
    let Y : Opd := { src := n.b, wd := .bits 64, ty := n.ty }
    let Z : Opd := { src := n.b, wd := .bits 64, ty := .s32 }
    let a (i : Nat) : Nat := laneAt w (opVal s f n A) i
    let b (i : Nat) : Nat := laneAt w (opVal s f n B) i
    let c (i : Nat) : Nat := laneAt w (opVal s f n C) i
    let flt (x : Exact) : Nat := encodeFloat (fmtOf n.ty) x r.rnd r.sat 0
    let int (x : Int) : Nat := intResult x w (isS n.ty) r.sat
    let F (x : Nat) : Exact := asFloat n.ty x
    let I (x : Nat) : Int := asInt n.ty x
    let wide (i : Instr) (lane : Nat → Nat) : Prop :=
      ∃ v < 2 ^ 256, exec i s = sends n f .wide v s ∧ ∀ j < 256 / w, laneAt w v j = lane j
    (Fires s f [A, B] [] →
      wide (.vadd n r) (fun j => if isFloat n.ty then flt (exSum r.rnd [F (a j), F (b j)]) else int (I (a j) + I (b j))) ∧
      wide (.vsub n r) (fun j => if isFloat n.ty then flt (exSum r.rnd [F (a j), exNeg (F (b j))]) else int (I (a j) - I (b j))) ∧
      wide (.vmul n r) (fun j => if isFloat n.ty then flt (exMul (F (a j)) (F (b j))) else int (I (a j) * I (b j))) ∧
      wide (.vmin n r) (fun j => if isFloat n.ty then flt (F (fltPick n.ty false (a j) (b j))) else if I (b j) < I (a j) then b j else a j) ∧
      wide (.vmax n r) (fun j => if isFloat n.ty then flt (F (fltPick n.ty true (a j) (b j))) else if I (a j) < I (b j) then b j else a j) ∧
      ∃ v, exec (.vcmp n t) s = sends n f .narrow v s ∧ ∀ j, v.testBit j = (decide (j < 256 / w) &&
        if isFloat n.ty then ftestHolds t (F (a j)) (F (b j)) else ftestInt t (I (a j)) (I (b j)))) ∧
    (Fires s f [A, B, C] [] →
      wide (.vfma n r) (fun j => if isFloat n.ty then flt (exSum r.rnd [exMul (F (a j)) (F (b j)), F (c j)]) else int (I (a j) * I (b j) + I (c j)))) ∧
    (Fires s f [A, Y] [] →
      wide (.vpack n k) (fun j => if j = k.val then opVal s f n Y % 2 ^ w else a j)) ∧
    (Fires s f [A, Z] [] →
      wide (.vscale n r) (fun j => flt (exMul (F (a j)) (.fin false (pow2 (max (-1024) (min 1024 (intOperand (opVal s f n Z) 32 true)))))))) ∧
    (Fires s f [A] [] → exec (.vunpack n k) s = sends n f .narrow (a k.val) s) ∧
    (Fires s f [X] [] → wide (.vbcast n) (fun _ => opVal s f n X % 2 ^ w)) ∧
    (Fires s f [A, opdW n.b] [] → wide (.vperm n) (fun j => a (laneAt 8 (opVal s f n (opdW n.b)) j % (256 / w))))

/-- R333: VRED joins the lanes of its operand and VDOT adds the products of lanes to C, exactly, and round or fit once. -/
def Obligations.JoiningNodesRoundExactSumOnce : Prop :=
  ∀ (n : Node) (f : Firing) (s : State) (r : Round),
    let w := tyBits n.ty
    let A := opdV n.ty n.a
    let B := opdV n.ty n.b
    let C : Opd := { src := srcC n, wd := .bits 64, ty := n.ty }
    let as := (List.range (256 / w)).map (fun i => opVal s f n A / 2 ^ (w * i) % 2 ^ w)
    let bs := (List.range (256 / w)).map (fun i => opVal s f n B / 2 ^ (w * i) % 2 ^ w)
    let c := opVal s f n C
    let flt (x : Exact) : Nat := encodeFloat (fmtOf .f32) x r.rnd r.sat 0
    (Fires s f [A] [] →
      exec (.vred n .add r) s = sends n f .narrow (if isFloat n.ty then flt (exSum r.rnd (as.map (asFloat n.ty)))
        else intResult (as.map (asInt n.ty)).sum 32 (isS n.ty) r.sat) s ∧
      (isFloat n.ty = false →
        (∃ v ∈ as, exec (.vred n .min r) s = sends n f .narrow v s ∧ ∀ x ∈ as, asInt n.ty v ≤ asInt n.ty x) ∧
        (∃ v ∈ as, exec (.vred n .max r) s = sends n f .narrow v s ∧ ∀ x ∈ as, asInt n.ty x ≤ asInt n.ty v)) ∧
      (isFloat n.ty = true →
        exec (.vred n .min r) s = sends n f .narrow (as.tail.foldl (fltPick n.ty false) (as.getD 0 0)) s ∧
        exec (.vred n .max r) s = sends n f .narrow (as.tail.foldl (fltPick n.ty true) (as.getD 0 0)) s)) ∧
    (Fires s f [A, B, C] [] →
      exec (.vdot n r) s = sends n f .narrow
        (if isFloat n.ty then flt (exSum r.rnd (floatValue (fmtOf .f32) (c % 2 ^ 32) :: (as.zip bs).map (fun p => exMul (asFloat n.ty p.1) (asFloat n.ty p.2))))
         else intResult (intOperand c 32 true + ((as.zip bs).map (fun p => asInt n.ty p.1 * asInt n.ty p.2)).sum) 32 true r.sat) s)

/-! ## Results, flow nodes and the handler (R168, R177, R195 to R197, R261 to R307, R365) -/

/-- R177, R261 to R263, R265: what a result changes. One token goes to each valid destination that the steer bit selects, in
the order of the descriptors, with the node's wave and value; everything else of the state is as before, but for the number of
the next token and, where the tokens open a wave, that thread's list of episodes and the crew-join masks that were read for an earlier
wave of the number (R339; log 44). The nodes that compute one result from their
operands complete with exactly that, whatever the operands hold; under RS the thread's generator moves on as well (R249). -/
def Obligations.ResultTokensAndFrame : Prop :=
  (∀ (n : Node) (f : Firing) (s : State) (r : Round) (src : Ty) (k : Fin 64) (pos : Fin 8) (t : FTest) (sat : Bool),
     let A := opdT n.ty n.a
     let V := opdV n.ty n.a
     let W := opdV n.ty n.b
     let B64 : Opd := { src := n.b, wd := .bits 64, ty := n.ty }
     let one (ops : List Opd) (net : Net) (is : List Instr) : Prop :=
       Fires s f ops [] → ∀ i ∈ is, ∃ v, exec i s = .next (emit n f net v (fired s))
     let drawn (ops : List Opd) (net : Net) (i : Instr) : Prop :=
       Fires s f ops [] → ∃ (v : Nat) (g : Word32 → Word32), exec i s = .next (emit n f net v (modThread f.thread (fun x => { x with prng := g x.prng }) (fired s)))
     one [A] .narrow [.const n, .fsqrt n r, .frcp n sat, .frsq n sat, .fexp2 n sat, .flog2 n sat, .fsin n sat, .fcos n sat, .ftanh n sat] ∧
     one [] .narrow [.constw n] ∧
     one [A, opdT n.ty n.b] .narrow [.fadd n r, .fsub n r, .fmul n r, .fdiv n r] ∧
     one [A, opdT n.ty n.b, opdT n.ty (srcC n)] .narrow [.ffma n r] ∧
     one [V, W] .wide [.vadd n r, .vsub n r, .vmul n r, .vmin n r, .vmax n r] ∧
     one [V, W] .narrow [.vcmp n t] ∧
     one [V, W, opdV n.ty (srcC n)] .wide [.vfma n r] ∧
     one [V, B64] .wide [.vpack n k] ∧ one [V, { B64 with ty := .s32 }] .wide [.vscale n r] ∧
     one [V] .narrow [.vunpack n k] ∧ one [V, opdW n.b] .wide [.vperm n] ∧ one [{ B64 with src := n.a }] .wide [.vbcast n] ∧
     drawn [{ opdT src n.a with ty := n.ty }] .narrow (.cvt n src r) ∧
     drawn [{ opdV .f32 n.a with ty := n.ty }] .wide (.srnd n r) ∧
     drawn [{ opdV src n.a with ty := n.ty }, W] .wide (.vcvt n src r pos)) ∧
  (∀ (n : Node) (f : Firing) (net : Net) (v : Nat) (bit : Bool) (s : State),
     let ds := ([n.d0, n.d1].filterMap id).filter (fun d => d.net != .edge && (match d.steer with | .always => true | .onOne => bit | .onZero => !bit))
     let t := emitBit n f net v bit s
     t.tokens = s.tokens ++ ds.mapIdx (fun k d => resultToken n f net v d (s.nextId + k) s) ∧
     t = { s with tokens := t.tokens, nextId := s.nextId + ds.length, threads := t.threads, masks := t.masks } ∧ (∀ m ∈ t.masks, m ∈ s.masks) ∧
     (∀ k, k ≠ f.thread → tabFind t.threads k = tabFind s.threads k) ∧
     (∀ x, tabFind t.threads f.thread = some x → ∃ y, tabFind s.threads f.thread = some y ∧ x = { y with episodes := x.episodes }) ∧
     (waveOut s f n = f.wave → t.threads = s.threads ∧ t.masks = s.masks))

/-- R285 to R288: LIVEIN sends the slots or the predicate that it names, CONST its operand, CONSTW the payload of the next
slot. R286, R187: LIVEOUT sends its value and writes it to the slots, or to the one bit of w31, that B names, and changes no
other word of any thread. R260: no firing of the cycle sees that write. R286: it stands over what a node of a higher number
writes to the same slot in the cycle. -/
def Obligations.LiveinsConstantsAndLiveoutsActOnSlots : Prop :=
  (∀ (n : Node) (f : Firing) (s : State) (k : Fin 48) (b : Block) (w : NodeWord),
     (n.a = .win k →
       (n.ty = .b32 → k.val < 32 → FiresOut s f [opdT n.ty n.a] [] →
         exec (.livein n false) s = sends n f .narrow (slotWord s f.thread k.val) s) ∧
       (n.ty = .b64 → k.val < 31 → FiresOut s f [opdT n.ty n.a] [] →
         exec (.livein n false) s = sends n f .narrow (slotWord s f.thread k.val + 2 ^ 32 * slotWord s f.thread (k.val + 1)) s) ∧
       (k.val < 25 → FiresOut s f [opdW n.a] [] →
         exec (.livein n true) s = sends n f .wide
           (((List.range 8).map (fun i => slotWord s f.thread (k.val + i) * 2 ^ (32 * i))).sum) s) ∧
       (32 ≤ k.val → FiresOut s f [opdP n.a] [] →
         exec (.livein n false) s = sends n f .pred (slotWord s f.thread 31 / 2 ^ (k.val - 32) % 2) s)) ∧
     (Fires s f [opdT n.ty n.a] [] → exec (.const n) s = sends n f .narrow (opVal s f n (opdT n.ty n.a)) s) ∧
     (Fires s f [] [] → blockAt s f.launch f.block = some b → tabFind b.words (f.node + 1) = some w →
       exec (.constw n) s = sends n f .narrow (w.toNat % 2 ^ 64) s)) ∧
  (∀ (n : Node) (f : Firing) (s : State) (k : Fin 48) (wide : Bool),
     n.b = .win k → n.ty = .b32 ∨ n.ty = .b64 → (wide = true → k.val < 32) → tabWf s.core.lvs = true →
     let o : Opd := if wide then opdW n.b else if 32 ≤ k.val then opdP n.b else opdT n.ty n.b
     let count := if wide then 8 else if 32 ≤ k.val then 1 else if n.ty = .b64 then 2 else 1
     FiresOut s f [{ o with src := n.a }] (slotsOf o) →
     let v := opVal s f n { o with src := n.a }
     let at_ (t i : Nat) : Nat := lvsKey (crewOf t) (fpOf s t + i) (laneOf t)
     let own (i : Nat) : Nat := at_ f.thread (if 32 ≤ k.val then 31 else k.val + i)
     let holds (u : State) (key : Nat) : Nat := (tabGet 0 u.core.lvs key).toNat
     ∃ u, exec (.liveout n wide) s = .next (emit n f (if wide then .wide else if 32 ≤ k.val then .pred else .narrow) v u) ∧
       u = { (fired s) with core := { s.core with lvs := u.core.lvs, wrote := u.core.wrote, wroteAt := u.core.wroteAt } } ∧
       (∀ t i, slotWord u t i = slotWord s t i) ∧
       (∀ i < count, k.val < 32 → (∀ w ∈ wroteNow s, w.kreg = false → w.key = own i → f.node < w.node ∧ f.node < 2 ^ 20) →
         holds u (own i) = v / 2 ^ (32 * i) % 2 ^ 32) ∧
       (32 ≤ k.val → wroteNow s = [] → ∀ j < 32, (holds u (own 0)).testBit j =
         if j = k.val - 32 then decide (v = 1) else (holds s (own 0)).testBit j) ∧
       (∀ key, (∀ i < count, key ≠ own i) → holds u key = holds s key))

/-- R289 to R293, R305 to R307: the carrying nodes send a value without changing it. STEER sends A to the destinations that
bit 0 of B selects; SELECT sends B or C; MERGE sends the one token that it matched; WAVEB notes its wave's passage. R294,
R406: SINK without order consumes its tokens, NOP sends A, and YIELD sends A and marks its block for the scheduler; nothing
else changes. -/
def Obligations.CarryingNodesSendTheValueUnchanged : Prop :=
  (∀ (n : Node) (f : Firing) (s : State) (c : Cls),
     let net : Net := match c with | .narrow => .narrow | .wide => .wide | .pred => .pred
     let A := opdC c n.a
     let a := opVal s f n A
     let width := match c with | .narrow => 64 | .wide => 256 | .pred => 1
     (Fires s f [A] [] →
       exec (.gate n c) s = sends n f net a s ∧ exec (.dup n c) s = sends n f net a s ∧ exec (.pass n c) s = sends n f net a s) ∧
     (Fires s f [A, opdP n.b] [] →
       exec (.steer n c) s = .next (emitBit n f net a (decide (opVal s f n (opdP n.b) = 1)) (fired s))) ∧
     (Fires s f [opdP n.a, opdC c n.b, opdC c (srcC n)] [] →
       exec (.select n c) s = sends n f net (if opVal s f n (opdP n.a) = 1 then opVal s f n (opdC c n.b) else opVal s f n (opdC c (srcC n))) s) ∧
     (∀ k, f.toks = [k] → Fires s f [] [] → exec (.merge n c) s = sends n f net (k.val.toNat % 2 ^ width) s) ∧
     (FiresOut s f [A] [] →
       exec (.wave n c) s = sends n f net a s ∧ exec (.loopx n c) s = sends n f net a s ∧
       ∃ u, exec (.waveb n c) s = .next (emit n f net a u) ∧ u = { (fired s) with threads := u.threads } ∧
         ∀ x, tabFind s.threads f.thread = some x → ∃ y, tabFind u.threads f.thread = some y ∧ y = { x with episodes := y.episodes } ∧
           ∀ e ∈ y.episodes, e.block = f.block → e.wave = f.wave → f.node ∈ e.passed)) ∧
  (∀ (n : Node) (f : Firing) (s : State),
     (Fires s f [] [] → exec (.sink n true) s = .next (fired s)) ∧
     (Fires s f [opd64 n.a] [] →
       exec (.nop n) s = sends n f .narrow (opVal s f n (opd64 n.a)) s ∧
       ∃ u, exec (.yield n) s = .next (emit n f .narrow (opVal s f n (opd64 n.a)) u) ∧ u = { (fired s) with placed := u.placed } ∧
         ∀ p, placedOf s f.core f.launch f.block = some p → placedOf u f.core f.launch f.block = some { p with yielded := true }))

/-- R295, R298, R299: EXIT and EXITC leave the block for the target that they read, or retire, and drop the thread's parked
reads there (R296); an invalid target aborts the
launch with FORMAT. R303: RET retires the thread at FP = 0; otherwise it follows the link word at FP − 1, and a link word that
is not valid aborts the launch with FORMAT. -/
def Obligations.ExitNodesAndReturnDepart : Prop :=
  (∀ (n : Node) (f : Firing) (s : State) (m : Image) (th : Thread),
     imageOf s f.launch = some m → thread? s f.thread = some th →
     let valid (t : Nat) : Prop := t = 65535 ∨ (t < m.blocks.length ∧ ¬(m.emulate = true ∧ m.emuh = t))
     let leaves (i : Instr) (t : Nat) : Prop :=
       (valid t → exec i s = .next (dropParkedReads f.thread f.block (modThread f.thread (fun x => { x with st := .departing f.block t th.fp }) (fired s)))) ∧
       (¬valid t → exec i s = .next (abortLaunch f.launch 0x06 false none (fired s)))
     (FiresOut s f [opd32 n.b] [] → leaves (.exit n) (opVal s f n (opd32 n.b))) ∧
     (FiresOut s f [opdP n.a, opd32 n.b] [] →
       let b := opVal s f n (opd32 n.b)
       leaves (.exitc n) (if opVal s f n (opdP n.a) = 1 then b % 65536 else b / 65536))) ∧
  (∀ (n : Node) (f : Firing) (s : State) (m : Image) (th : Thread),
     imageOf s f.launch = some m → thread? s f.thread = some th → FiresOut s f [] [] →
     let word := lvsSeen s (crewOf f.thread) (th.fp - 1) (laneOf f.thread)
     let k := word / 65536 % 32 + 1
     let back := word % 65536
     let ok := word < 2 ^ 21 ∧ k ≤ th.fp ∧ (back = 65535 ∨ (back < m.blocks.length ∧ ¬(m.emulate = true ∧ m.emuh = back)))
     let go (t p : Nat) : Out := .next (dropParkedReads f.thread f.block (modThread f.thread (fun x => { x with st := .departing f.block t p }) (fired s)))
     (th.fp = 0 → exec (.ret n) s = go 65535 0) ∧
     (0 < th.fp → residentFor s f.thread (th.fp - 1) = true → ok → exec (.ret n) s = go back (th.fp - k)) ∧
     (0 < th.fp → residentFor s f.thread (th.fp - 1) = true → ¬ok →
       exec (.ret n) s = .next (abortLaunch f.launch 0x06 false none (fired s))) ∧
     (0 < th.fp → residentFor s f.thread (th.fp - 1) = false → exec (.ret n) s = .next (parkWindow (.ret n) f (th.fp - 1) (fired s)))) ∧
  (∀ (s : State) (t b : Nat) (a : Access), a ∈ (dropParkedReads t b s).accesses ↔ a ∈ s.accesses ∧
     ¬(a.f.thread = t ∧ a.f.block = b ∧ ∃ k x fl, a.st = .parked k x fl ∧ (k = 3 ∨ isRead a.i = true)))

/-- R301, R302: CALL and CALLI check the call word, then the window's depth, write the link word to the caller's slot F − 1,
and leave for the callee with FP + F, dropping the thread's parked reads (R296). -/
def Obligations.CallNodesWriteLinkAndDepart : Prop :=
  ∀ (n : Node) (k : Fin 32) (f : Firing) (s : State) (m : Image) (l : Launch) (th : Thread),
    launch? s f.launch = some l → l.image = m → thread? s f.thread = some th → FiresOut s f [opd32 n.b] [] →
    let word := opVal s f n (opd32 n.b)
    let callee := word % 65536
    let back := word / 65536
    let block (t : Nat) : Prop := t < m.blocks.length ∧ ¬(m.emulate = true ∧ m.emuh = t)
    let ok := callee ≠ 65535 ∧ block callee ∧ (back = 65535 ∨ block back)
    let deep := Nat.max 64 (lrWsRows l.raw) < th.fp + (k.val + 1) + 32
    (¬ok → exec (.call n k) s = .next (abortLaunch f.launch 0x06 false none (fired s)) ∧
      exec (.calli n k) s = .next (abortLaunch f.launch 0x06 false none (fired s))) ∧
    (ok → deep → exec (.call n k) s = .next (trapNode f 0x10 (fired s)) ∧ exec (.calli n k) s = .next (trapNode f 0x10 (fired s))) ∧
    (ok → ¬deep → residentFor s f.thread (th.fp + k.val) = true → tabWf s.core.lvs = true →
      let own := lvsKey (crewOf f.thread) (th.fp + k.val) (laneOf f.thread)
      ∃ u, u = { (fired s) with core := { s.core with lvs := u.core.lvs, wrote := u.core.wrote, wroteAt := u.core.wroteAt } } ∧
        (wroteNow s = [] → (tabGet 0 u.core.lvs own).toNat = back + 65536 * k.val) ∧
        (∀ key, key ≠ own → tabGet 0 u.core.lvs key = tabGet 0 s.core.lvs key) ∧
        let t := dropParkedReads f.thread f.block (modThread f.thread (fun x => { x with st := .departing f.block callee (th.fp + (k.val + 1)) }) u)
        exec (.call n k) s = .next t ∧ exec (.calli n k) s = .next t)

/-- R195, R196: an unassigned word under EMULATE sends its six items to the handler's entry nodes, through the overflow area; a
port-return sends the handler's value to the trapped node's destinations that it marks; both with the match's thread and wave.
R197: in the handler itself an unassigned word raises DOUBLE_UNDEF, and LIVEIN, LIVEOUT, EXIT, EXITC, CALL, CALLI, RET, WAVE,
WAVEB and LOOPX act as SINK. That a firing waits while the area has no room for its items, that a page of the area which bars the write ends the launch (R176), and the replica that a returned
value enters, are the model's reading (log 34); which slots of the area tokens fill is its choice (log 40). -/
def Obligations.EmulationItemsReachHandlerAndReturn : Prop :=
  ∀ (w : NodeWord) (n : Node) (c : Cls) (wide : Bool) (k : Fin 32) (f : Firing) (s : State) (m : Image) (h : Block) (th : Thread),
    (s.cur = some f → isHandler s f.launch f.block = true → exec (.undef w) s = .next (trapNode f 0x05 (fired s)) ∧
      ∀ i ∈ [Instr.livein n wide, .liveout n wide, .exit n, .exitc n, .call n k, .calli n k, .ret n, .wave n c, .waveb n c, .loopx n c],
        exec i s = .next (fired s)) ∧
    (s.cur = some f → isHandler s f.launch f.block = false → imageOf s f.launch = some m → m.blocks[m.emuh]? = some h →
      Nat.min h.entries.length 6 ≤ areaRoom s f.launch → (areaWrite f.launch (Nat.min h.entries.length 6) (fired s)).1 = true →
      let port (p : Nat) : Net × Nat := match f.toks.find? (fun k => k.port == p) with | some k => (k.net, k.val.toNat) | none => (.narrow, 0)
      let link := w.toNat / 2 ^ 24 % 2 ^ 24 + w.toNat % 2 ^ 24 * 2 ^ 24 + f.block % 4096 * 2 ^ 48 + f.replica % 4 * 2 ^ 60
      let items : List (Net × Nat) := [(.narrow, w.toNat / 2 ^ 64), (.narrow, w.toNat % 2 ^ 64), (.narrow, link), port 0, port 1, port 2]
      ∃ t, exec (.undef w) s = .next t ∧ visible t = { visible s with mem := { s.mem with clean := t.mem.clean } } ∧ t.accesses = s.accesses ∧
        ∃ ks, t.tokens = s.tokens ++ ks ∧
          ks.map (fun (k : Token) => (k.thread, k.wave, k.launch, k.block, k.node, k.port, k.net, k.val, k.place)) =
            (h.entries.zip items).map (fun e => (f.thread, f.wave, f.launch, m.emuh, e.1, 0, e.2.1, BitVec.ofNat 256 e.2.2, Place.overflow))) ∧
    (Fires s f [opd64 n.a, opd64 n.b] [] → thread? s f.thread = some th →
      isResident s f.core f.launch (opVal s f n (opd64 n.b) / 2 ^ 48 % 4096) = true →
      let link := opVal s f n (opd64 n.b)
      let b := link / 2 ^ 48 % 4096
      let want (own : Option Dst) (x : Nat) : List (Nat × Nat × Net) := match own, dstOf x with
        | some _, some (some d) => if d.net = .edge then [] else [(d.page.val * 128 + d.pe.val * 8 + d.slot.val, d.port.val, d.net)]
        | _, _ => []
      ∃ t, exec (.passPret n c) s = .next t ∧ visible t = visible s ∧ t.accesses = s.accesses ∧
        ∃ ks, t.tokens = s.tokens ++ ks ∧
          ks.map (fun (k : Token) => (k.thread, k.wave, k.launch, k.block, k.replica, k.val, k.node, k.port, k.net)) =
            (want n.d0 (link % 2 ^ 24) ++ want n.d1 (link / 2 ^ 24 % 2 ^ 24)).map (fun d =>
              (f.thread, f.wave, f.launch, b, if th.st = .inBlock b then th.replica else link / 2 ^ 60 % 4,
                BitVec.ofNat 256 (opVal s f n (opd64 n.a)), d.1, d.2.1, d.2.2)))

/-- R365: the sparse nodes' lanes: the prefix combinations of SCAN, the hits of ISECT, the merged indices of UNION, the runs
of REPEAT and SRED; and what a combination is: a sum that wraps, or is rounded once for F32, or the least or greatest, where NaN is
taken only if every value is NaN (R323, R240). -/
def Obligations.SparseNodesSendTheirLanes : Prop :=
  (∀ (t : Ty) (x : Nat) (xs : List Nat), t = .s32 ∨ t = .n32 ∨ t = .f32 → (∀ y ∈ x :: xs, y < 2 ^ 32) →
     let l := x :: xs
     let F (y : Nat) : Exact := floatValue (fmtOf .f32) y
     let below (x y : Nat) : Bool := exLt (F x) (F y) || (exEq (F x) (F y) && exSign (F x) && !exSign (F y))
     combineAll t .add l = (if t = .f32 then encodeFloat (fmtOf .f32) (exSum .rn (l.map F)) .rn false 0 else l.sum % 2 ^ 32) ∧
     (t ≠ .f32 → combineAll t .min l ∈ l ∧ combineAll t .max l ∈ l ∧
       ∀ y ∈ l, asInt t (combineAll t .min l) ≤ asInt t y ∧ asInt t y ≤ asInt t (combineAll t .max l)) ∧
     (t = .f32 → (∀ y ∈ l, F y = .nan) → combineAll t .min l = 0x7FC00000 ∧ combineAll t .max l = 0x7FC00000) ∧
     (t = .f32 → (∃ y ∈ l, F y ≠ .nan) →
       (combineAll t .min l ∈ l ∧ F (combineAll t .min l) ≠ .nan ∧ ∀ y ∈ l, below y (combineAll t .min l) = false) ∧
       (combineAll t .max l ∈ l ∧ F (combineAll t .max l) ≠ .nan ∧ ∀ y ∈ l, below (combineAll t .max l) y = false))) ∧
  ∀ (n : Node) (f : Firing) (s : State) (op : RedOp) (excl : Bool),
    let A := opdW n.a
    let B := opdW n.b
    let lane (v i : Nat) : Nat := v / 2 ^ (32 * i) % 2 ^ 32
    let a (i : Nat) : Nat := lane (opVal s f n A) i
    let b (i : Nat) : Nat := lane (opVal s f n B) i
    let pad := 2 ^ 32 - 1
    (Fires s f [A, opdT n.ty n.b] [] → tyBits n.ty = 32 →
      let carry := opVal s f n (opdT n.ty n.b)
      ∃ v, exec (.scan n op excl) s = sends n f .wide v s ∧ ∀ i < 8,
        lane v i = if excl && i == 0 then carry else combineAll n.ty op (carry :: (List.range (if excl then i else i + 1)).map a)) ∧
    (Fires s f [A, B] [] →
      (∃ v, exec (.isect n) s = sends n f .narrow v s ∧ v < 2 ^ 18 ∧
        (∀ i < 8, v.testBit i = true ↔ a i ≠ pad ∧ ∃ j < 8, b j = a i) ∧
        (∀ i < 8, v.testBit (8 + i) = true ↔ b i ≠ pad ∧ ∃ j < 8, a j = b i) ∧
        (v.testBit 16 = true ↔ ∀ i < 8, a i ≠ pad → ∃ j < 8, b j ≠ pad ∧ a i ≤ b j) ∧
        (v.testBit 17 = true ↔ ∀ i < 8, b i ≠ pad → ∃ j < 8, a j ≠ pad ∧ b i ≤ a j)) ∧
      (∃ v, exec (.union n false) s = sends n f .wide v s ∧
        (∀ i < 8, lane v i ≠ pad → (∃ j < 8, lane v i = a j ∨ lane v i = b j)) ∧
        (∀ i < 7, lane v i < lane v (i + 1) ∨ lane v (i + 1) = pad) ∧
        (∀ x ≠ pad, (∃ j < 8, a j = x ∨ b j = x) → (∃ i < 8, lane v i = x) ∨ (∀ i < 8, lane v i < x))) ∧
      (∃ v w, exec (.union n false) s = sends n f .wide v s ∧ exec (.union n true) s = sends n f .narrow w s ∧
        w = ((List.range 8).filter (fun i => a i != pad && (List.range 8).any (fun j => lane v j == a i))).length +
          16 * ((List.range 8).filter (fun i => b i != pad && (List.range 8).any (fun j => lane v j == b i))).length) ∧
      (tyBits n.ty = 32 → ∃ v, exec (.sred n op) s = sends n f .wide v s ∧ ∀ i < 8, ∃ p ≤ i,
        (∀ j, p ≤ j → j ≤ i → b j = b i) ∧ (p = 0 ∨ b (p - 1) ≠ b i) ∧
        lane v i = combineAll n.ty op ((List.range (i - p + 1)).map (fun j => a (p + j))))) ∧
    (Fires s f [A, opd32 n.b] [] →
      let start := opVal s f n (opd32 n.b)
      let upto (i : Nat) : Nat := ((List.range i).map a).sum
      ∃ v, exec (.repeat_ n) s = sends n f .wide v s ∧ ∀ j < 8,
        (lane v j = pad ∧ upto 8 ≤ start + j) ∨ (lane v j < 8 ∧ upto (lane v j) ≤ start + j ∧ start + j < upto (lane v j + 1)))

/-! ## Crew collectives and joins (R192 to R194, R338 to R345, R388, R428) -/

/-- R341: the polls, masks and elections over the participants. -/
def Obligations.PollsMasksAndElectionsOverParticipants : Prop :=
  ∀ (n : Node) (slot : Fin 64) (all : Bool) (f : Firing) (s : State) (vs : List Nat),
    s.cur = some f → (membersOf (fired s) f).Pairwise (fun x y => x.lane < y.lane) → (∀ m ∈ membersOf (fired s) f, m.lane < 64) →
    let ps := membersOf (fired s) f
    let q (m : Member) : Bool := vs.getD m.lane 0 % 2 == 1
    let ones := ps.countP q
    let bit (b : Bool) : Nat := if b then 1 else 0
    (laneSources (fired s) f slot.val .b32 (List.range (widthOf s f.launch)) = .ok vs →
      exec (.cpoll n .some slot all) s = sendsEach n f .pred (fun _ => bit (decide (1 ≤ ones))) s ∧
      exec (.cpoll n .every slot all) s = sendsEach n f .pred (fun _ => bit (decide (ones = ps.length))) s ∧
      exec (.cpoll n .same slot all) s = sendsEach n f .pred (fun _ => bit (decide (ones = 0 ∨ ones = ps.length))) s ∧
      exec (.cpoll n .most slot all) s = sendsEach n f .pred (fun _ => bit (decide (ps.length < 2 * ones))) s ∧
      (∃ r, exec (.cmask n false slot all) s = sendsEach n f .narrow (fun _ => r) s ∧
        ∀ l, r.testBit l = ps.any (fun m => m.lane == l && q m)) ∧
      exec (.celect n true slot all) s = sendsEach n f .pred (fun m => bit (q m && ps.all (fun o => !(q o) || decide (m.lane ≤ o.lane)))) s) ∧
    (∃ r, exec (.cmask n true slot all) s = sendsEach n f .narrow (fun _ => r) s ∧ ∀ l, r.testBit l = ps.any (fun m => m.lane == l)) ∧
    exec (.celect n false slot all) s = sendsEach n f .pred (fun m => bit (ps.all (fun o => decide (m.lane ≤ o.lane)))) s ∧
    (laneSources (fired s) f slot.val n.ty (List.range (widthOf s f.launch)) = .ok vs →
      ∃ r : Member → Nat, exec (.cmatch n slot all) s = sendsEach n f .narrow r s ∧
        ∀ m ∈ ps, ∀ l, (r m).testBit l = ps.any (fun o => o.lane == l && vs.getD o.lane 0 == vs.getD m.lane 0))

/-- R342, R343, R344: CPULL sends the word of the source lane, CRED the combination of every participant's value, CSCAN that
of the participants up to each or before it, CSEG that of each segment. R343: what a combination of participants' values is: a
sum that wraps or is rounded once, the least or greatest, or bits, of F32 as SRED's combination has it (R365). R193: a collective reads a lane's source at that lane's own
position: one word, two for a 64-bit type, or one bit of w31; the word of a lane that does not exist reads as zero. That all
sources are read in one step is the model's reading (log 44). -/
def Obligations.PullsAndReductionsOverParticipants : Prop :=
  (∀ (n : Node) (op : CombOp) (slot : Fin 64) (all : Bool) (f : Firing) (s : State) (vs : List Nat),
     s.cur = some f → (membersOf (fired s) f).Pairwise (fun x y => x.lane < y.lane) →
     laneSources (fired s) f slot.val n.ty (List.range (widthOf s f.launch)) = .ok vs →
     let ps := membersOf (fired s) f
     let width := widthOf s f.launch
     let v (l : Nat) : Nat := vs.getD l 0
     let comb (ms : List Member) : Nat := combineOp n.ty op (ms.map (fun m => v m.lane))
     let arg (m : Member) : Int := let d := intOperand m.arg 32 true; if width = 16 ∧ 16 ≤ d ∧ d ≤ 31 then d - 16 else d
     let starts (m : Member) : Bool := m.arg % 2 == 1 || ps.all (fun o => decide (m.lane ≤ o.lane))
     let sameSegment (m o : Member) : Bool := ps.all (fun x => !(starts x) || !(decide (Nat.min m.lane o.lane < x.lane ∧ x.lane ≤ Nat.max m.lane o.lane)))
     exec (.cpull n .wrap slot all) s = sendsEach n f .narrow (fun m => v (arg m % width).toNat) s ∧
     exec (.cpull n .edge slot all) s = sendsEach n f .narrow (fun m => if 0 ≤ arg m ∧ arg m < width then v (arg m).toNat else v m.lane) s ∧
     exec (.cpull n .zero slot all) s = sendsEach n f .narrow (fun m => if 0 ≤ arg m ∧ arg m < width then v (arg m).toNat else 0) s ∧
     exec (.cred n op slot all) s = sendsEach n f .narrow (fun _ => comb ps) s ∧
     exec (.cscan n op false slot all) s = sendsEach n f .narrow (fun m => comb (ps.filter (fun o => decide (o.lane ≤ m.lane)))) s ∧
     exec (.cscan n op true slot all) s = sendsEach n f .narrow (fun m =>
       if ps.all (fun o => decide (m.lane ≤ o.lane)) then identityOf n.ty op else comb (ps.filter (fun o => decide (o.lane < m.lane)))) s ∧
     exec (.cseg n op false slot all) s = sendsEach n f .narrow (fun m => comb (ps.filter (fun o => sameSegment m o))) s ∧
     exec (.cseg n op true slot all) s = sendsEach n f .narrow (fun m => comb (ps.filter (fun o => sameSegment m o && decide (o.lane ≤ m.lane)))) s) ∧
  (∀ (t : Ty) (x : Nat) (xs : List Nat), t = .s32 ∨ t = .n32 ∨ t = .s64 ∨ t = .n64 ∨ t = .f32 → (∀ y ∈ x :: xs, y < 2 ^ tyBits t) →
     let l := x :: xs
     combineOp t .add l = (if t = .f32 then encodeFloat (fmtOf .f32) (exSum .rn (l.map (asFloat .f32))) .rn false 0 else l.sum % 2 ^ tyBits t) ∧
     (t = .f32 → combineOp t .min l = combineAll t .min l ∧ combineOp t .max l = combineAll t .max l) ∧
     (t ≠ .f32 → combineOp t .min l ∈ l ∧ combineOp t .max l ∈ l ∧
       ∀ y ∈ l, asInt t (combineOp t .min l) ≤ asInt t y ∧ asInt t y ≤ asInt t (combineOp t .max l)) ∧
     (∀ i, (combineOp t .and l).testBit i = l.all (fun y => y.testBit i)) ∧
     (∀ i, (combineOp t .or l).testBit i = l.any (fun y => y.testBit i)) ∧
     (∀ i, (combineOp t .xor l).testBit i = decide (l.countP (fun y => y.testBit i) % 2 = 1))) ∧
  (∀ (s : State) (f : Firing) (slot : Nat) (t : Ty) (lane : Nat) (m : Team) (k : Nat),
     teamOf s f = some m →
     let tid := logicalCrew s f.launch f.thread * widthOf s f.launch + lane
     (m.size ≤ tid → laneSource s f slot t lane = .ok 0) ∧
     (tid < m.size → threadKey m tid = k →
       (∀ i ≤ 32, residentFor s k (fpOf s k + i) = true) →
       (32 ≤ slot → laneSource s f slot t lane = .ok (slotWord s k 31 / 2 ^ (slot - 32) % 2)) ∧
       (slot < 32 → tyBits t = 32 → laneSource s f slot t lane = .ok (slotWord s k slot)) ∧
       (slot < 32 → tyBits t = 64 → laneSource s f slot t lane = .ok (slotWord s k slot + 2 ^ 32 * slotWord s k (slot + 1)))))

/-- R388, R428: CBAR sends zero to every participant; KWR writes the lowest participant's argument to the k register of the
logical crew, which no firing of the cycle sees (R260), and sends it to every participant; CSYNC does so once what its releases must follow has been performed. That
CSYNC is tried again until its accesses are performed is the model's reading (log 8). -/
def Obligations.CrewJoinsAndKwrComplete : Prop :=
  ∀ (n : Node) (k : Fin 128) (sc : Scope) (f : Firing) (s : State) (m : Member) (ms : List Member),
    s.cur = some f → membersOf (fired s) f = m :: ms → tabWf s.core.kregs = true →
    let i := kIndex (widthOf s f.launch) (laneOf f.thread) k.val
    exec (.cbar n) s = sendsEach n f .narrow (fun _ => 0) s ∧
    (∃ u, exec (.kwr n k) s = .next (emitAll n .narrow f ((m :: ms).map (fun p => (p, m.arg % 2 ^ tyBits n.ty))) u) ∧
      u = { (fired s) with core := { s.core with kregs := u.core.kregs, wrote := u.core.wrote, wroteAt := u.core.wroteAt } } ∧
      (∀ t j, kWord u f.launch t j = kWord s f.launch t j) ∧
      (wroteNow s = [] → n.ty = .b32 → ∀ c ∈ crewsOf s f, tabGet 0 u.core.kregs (c * 128 + i) = BitVec.ofNat 32 m.arg) ∧
      (wroteNow s = [] → n.ty = .b64 → k.val ≤ 126 → widthOf s f.launch ≠ 16 → ∀ c ∈ crewsOf s f,
        tabGet 0 u.core.kregs (c * 128 + k.val) = BitVec.ofNat 32 m.arg ∧
        tabGet 0 u.core.kregs (c * 128 + (k.val + 1)) = BitVec.ofNat 32 (m.arg % 2 ^ 64 / 2 ^ 32)) ∧
      ∀ key, (∀ c ∈ crewsOf s f, key ≠ c * 128 + i ∧ (n.ty = .b64 → key ≠ c * 128 + kIndex (widthOf s f.launch) (laneOf f.thread) (k.val + 1))) →
        tyBits n.ty = 32 ∨ n.ty = .b64 → tabGet 0 u.core.kregs key = tabGet 0 s.core.kregs key) ∧
    (let parts := (m :: ms).map (fun p => syncPart n sc f p s.nextId)
     let u := parts.foldl (fun s a => forceReads a s) (fired s)
     (parts.all (fun a => inOrder u a) = true →
       exec (.csync n sc) s = .next (emitAll n .narrow f ((m :: ms).map (fun p => (p, 0))) (parts.foldl (fun s a => acquireFor a (releaseFor a s)) u))) ∧
     (parts.all (fun a => inOrder u a) = false → exec (.csync n sc) s = .next { u with resumed := u.resumed ++ [f] }))

/-! ## System nodes and traps (R125, R163 to R165, R402 to R407) -/

/-- R402, R403, R407, R381, R385: ABORT, TRAP and a failed ASSERT trap with their operand; a passing ASSERT and PREF
send zero, and PREF brings its line to the core's L1 or its die's L2, where there is room, changes no value that a read returns, and does nothing
for a line that another transaction shadows or a page that does not translate; BRK of a space that is not armed and CMB send their value; PROBE
sends its answer. R404: BRK of an armed space does nothing but to record itself, and its core, block, node and space unless a BRK of the
same cycle from a lower core or thread slot has; the device freezes at the end of that cycle, and after the THAW it sends A. R405: RDSR
sends what it read as it issued. R273: the special registers' values, and those of RDSR's further indices. That the freeze begins with the next cycle, with
none of its 20 ns, is the model's choice (log 12), and that BRK sends A to its block's overflow area where the block has gone is its reading
(log 35). What PREF
leaves of a line that the die's L2 holds in another form is read in log 5. -/
def Obligations.SystemNodesTrapBreakAndReadRegisters : Prop :=
  (∀ (n : Node) (f : Firing) (s : State) (sp : Sp) (op : CombOp),
     let A := opd64 n.a
     let B := opd64 n.b
     let a := opVal s f n A
     let b := opVal s f n B
     let cond := match n.a with | .win k => if 32 ≤ k.val then opdP n.a else A | _ => A
     let traps (cause v : Nat) : Out := .next (abortLaunch f.launch cause false (some (nodeReport (fired s) f true v)) (fired s))
     (Fires s f [A] [] →
       exec (.abort n) s = traps 0x16 a ∧ exec (.trap n) s = traps 0x14 a ∧
       exec (.probe n sp) s = sends n f .narrow (probeBits (fired s) f sp a) s ∧
       (∀ l2 : Bool, ∃ u, exec (.pref n l2) s = .next (emit n f .narrow 0 u) ∧ u.core = s.core ∧
         ((∀ pa p lvl, translate s f.core (spaceOf s f) a .read ≠ .ok pa p lvl) → u = fired s) ∧
         (∀ pa p lvl, translate s f.core (spaceOf s f) a .read = .ok pa p lvl → pa < 2 ^ 52 → s.MemOk →
           l2Lines s (dieOf f.core) < 1048576 → l1Lines s f.core < 12288 →
           let own := ((vtOfFiring s f).map (tagChain s)).getD []
           let other := ∃ x ∈ s.skim.lines, x.line = pa / 128 ∧ x.vt ∉ own
           let near := reachable s pa = true ∧ ¬other ∧ badSeen s (dieOf f.core) (pa / 128 * 128) 128 = none
           (other → u = fired s) ∧
           u = { (fired s) with mem := { s.mem with copies := u.mem.copies, l1 := u.mem.l1, compCopies := u.mem.compCopies, bad := u.mem.bad } } ∧
           (∀ d x, x < 2 ^ 51 → homeByte u x = homeByte s x ∧ dieByte u d x = dieByte s d x) ∧ (∀ c x, x < 2 ^ 52 → compByte u c x = compByte s c x) ∧
           (near → pa < 2 ^ 51 → l2 = false → ∃ y, tabFind u.mem.l1 (f.core * 2 ^ 45 + pa / 128) = some y ∧ y.sectors = 15) ∧
           (near → pa < 2 ^ 51 → homeDie pa ≠ dieOf f.core → heldOtherwise s (dieOf f.core) (pa / 128) = false →
             (tabFind u.mem.copies (dieOf f.core * 2 ^ 45 + pa / 128)).isSome = true) ∧
           (near → 2 ^ 51 ≤ pa → l2 = false → (tabFind u.mem.compCopies (f.core * 2 ^ 45 + pa / 128)).isSome = true))) ∧
       (s.boot.brk.getLsbD (spaceOf s f) = false → exec (.brk n) s = sends n f .narrow a s)) ∧
     (Fires s f [cond, B] [] →
       exec (.assert_ n) s = if opVal s f n cond % 2 = 1 then sends n f .narrow 0 s else traps 0x13 b) ∧
     (Fires s f [] [] → exec (.cmb n op) s = sends n f .narrow (portVal f 0 % 2 ^ tyBits n.ty) s)) ∧
  (∀ (n : Node) (f : Firing) (s : State), Fires s f [opd64 n.a] [] → s.boot.brk.getLsbD (spaceOf s f) = true →
     ∃ u, exec (.brk n) s = .next u ∧
       u = { (fired s) with boot := u.boot, brks := s.brks ++ [{ f := f, n := n, val := opVal s f n (opd64 n.a), stopped := false }] } ∧
       u.boot = { s.boot with brkHit := u.boot.brkHit, brkNode := u.boot.brkNode } ∧
       (s.brks.any (fun b => !b.stopped && decide (b.f.thread < f.thread)) = false →
         u.boot.brkHit = BitVec.ofNat 32 (f.core + f.block * 2 ^ 8 + 2 ^ 20) ∧
         u.boot.brkNode = BitVec.ofNat 32 (f.node + spaceOf s f * 2 ^ 13)) ∧
       (s.brks.any (fun b => !b.stopped && decide (b.f.thread < f.thread)) = true → u.boot = s.boot)) ∧
  (∀ (s : State) (dt : Nat) (half : Bool), s.boot.frozenCmd = false → s.boot.frozenPin = false →
     (∃ b ∈ s.brks, b.stopped = false) →
     let t := passTime dt half s
     (dt = 0 → t.boot.frozenCmd = false ∧ t.brks = s.brks) ∧
     (dt ≠ 0 → t.boot.frozenCmd = true ∧ t.boot.brkHit = s.boot.brkHit ∧ t.boot.brkNode = s.boot.brkNode ∧ t.cycles = s.cycles ∧
       t.brks = s.brks.map (fun b => { b with stopped := true }))) ∧
  (∀ (s : State) (b : Broken), s.brks = [b] → b.stopped = true →
     (s.boot.frozenCmd = true ∨ s.boot.frozenPin = true → sendBroken s = s) ∧
     (s.boot.frozenCmd = false → s.boot.frozenPin = false →
       let t := { s with brks := [] }
       (∀ th, thread? s b.f.thread = some th → th.st = .inBlock b.f.block → isResident s b.f.core b.f.launch b.f.block = true →
         sendBroken s = emit b.n b.f .narrow b.val t) ∧
       ((∀ x, thread? s b.f.thread = some x → x.st ≠ .inBlock b.f.block) → sendBroken s = t))) ∧
  (∀ (n : Node) (f : Firing) (s : State) (x : Thread) (m : Team) (l top : Launch),
     thread? s f.thread = some x → team? s x.team = some m → launch? s f.launch = some l → launch? s (topOf s f.launch) = some top →
     let w := widthOf s f.launch
     let core := f.thread / 8192
     let tag := (if l.vt.isSome then l.vt else m.vt).getD 0
     let named : List Nat := [x.tid, x.tid % w, x.tid / w, m.num, tag, core, core / 4, core / 40, f.wave, l.depth, w, s.clock % 2 ^ 64]
     (∀ i < 12, specialReg s f i = named.getD i 0 ∧ rdsrValue s f i = named.getD i 0) ∧
     (∀ i : Fin 12, opdVal s f n { src := .sr i, wd := .bits 64, ty := .n64 } = named.getD i.val 0 % 2 ^ 64) ∧
     rdsrValue s f 12 = (if top.tern then 1 else 0) ∧ rdsrValue s f 13 = m.children.length ∧ rdsrValue s f 14 = s.gov.duty ∧
     rdsrValue s f 15 = 1024 - s.skim.tags.length) ∧
  (∀ (s : State) (a : Access) (n : Node) (k : Fin 16) (v : Nat), InFlight s a → a.i = .rdsr n k → a.left = [v] →
     attempt a.id s = performedAs a v s)

/-- R406: HALT has every thread of the team depart to retirement from its block, and ends the team's parked reads and its waits in sync nodes.
R125, R163, R164, R165: an abort of a launch whose tag is ACTIVE makes the tag ABORTING, records the first cause with its
report, and stops the launch's teams; memory is as before. The frame pointer of a thread that departs by HALT is the model's
reading (log 35). -/
def Obligations.HaltRetiresAndAbortStops : Prop :=
  (∀ (n : Node) (f : Firing) (s : State) (th : Thread), Fires s f [] [] → thread? s f.thread = some th →
     ∃ t, exec (.halt n) s = .next t ∧ t = { (fired s) with threads := t.threads, accesses := t.accesses } ∧
       (∀ k x, tabFind s.threads k = some x → ∃ y, tabFind t.threads k = some y ∧
         (x.team ≠ th.team → y = x) ∧ (x.team = th.team → y = { x with st := y.st }) ∧
         (x.team = th.team → x.st ≠ .retired → ∃ b, y.st = .departing b 65535 x.fp)) ∧
       (∀ a, a ∈ t.accesses ↔ a ∈ s.accesses ∧ ∀ x, thread? s a.f.thread = some x → x.team = th.team →
         parkedRead a = false ∧ (isSync a.i = true → a.st = .done))) ∧
  (∀ (s : State) (id cause v : Nat) (rep : Option Report) (l : Launch) (g : VTag),
     launch? s id = some l → l.vt = some v → tag? s v = some g → g.launch = id → g.st = .active → l.cause = none → descendants s id = [] →
     let t := abortLaunch id cause false rep s
     (∃ h, tag? t v = some h ∧ h = { g with st := .aborting, cause := cause }) ∧
     (∃ k, launch? t id = some k ∧ k.phase = .aborted ∧ k.cause = some cause ∧ k.causeAt = s.cycles ∧ k.report = rep) ∧
     (∀ m ∈ t.teams, m.launch = id → m.retired = true) ∧ (∀ p ∈ t.placed, p.launch ≠ id) ∧
     t.mem = s.mem ∧ t.boot = s.boot ∧ t.spaces = s.spaces ∧ t.queues = s.queues)

/-! ## Accesses (R191, R201 to R217, R346 to R401) -/

/-- R191, R214 to R217: a load, store, presence node, write-once node or atomic reads its operands as it fires and hands its
access over. When an access is performed is the schedule's choice (log 8), and the order within a thread is read as log 11
says. -/
def Obligations.LoadStoreAtomicNodesHandOver : Prop :=
  ∀ (n : Node) (sp : Sp) (m : MemFlags) (u : Bool) (f : Firing) (s : State),
    let A := opd64 n.a
    let B := opdT n.ty n.b
    let C := opdT n.ty (srcC n)
    let v (o : Opd) : Nat := opVal s f n o
    (Fires s f [A] [] → ∀ i ∈ [Instr.ld n sp m, .ldu n sp, .ldw n sp m, .iread n sp], HandsOver i f (v A) 0 0 s) ∧
    (Fires s f [A, B] [] →
      ∀ i ∈ [Instr.st n sp m, .stu n sp, .iwrite n sp, .aadd n sp m, .afadd n sp m, .amin n sp m, .amax n sp m, .aand n sp m,
        .aor n sp m, .axor n sp m, .axchg n sp m, .ainc n sp m, .adec n sp m], HandsOver i f (v A) (v B) 0 s) ∧
    (Fires s f [A, opdW n.b] [] → HandsOver (.stw n sp m) f (v A) (v (opdW n.b)) 0 s) ∧
    (Fires s f [A, opd64 n.b] [] →
      ∀ i ∈ [Instr.spwait n sp u, .spset n sp u, .spclr n sp u], HandsOver i f (v A) (v (opd64 n.b)) 0 s) ∧
    (Fires s f [A, B, C] [] → HandsOver (.acas n sp m) f (v A) (v B) (v C) s)

/-- R216, R373, R382 to R401, R405, R294: fences, flushes, discards, barriers, semaphores, engine operations, sends, receives,
launches, waits, register reads and ordered sinks hand their access over with their operands. R346 to R369: tile, systolic,
stream, gather and scatter nodes hand their access over with their operands. R346, R352, R355, R356, R358, R359, R367 to R369: what a packet's
writing leaves in a scratchpad, what TFILL, TLOAD, TSTORE, TCVT, TTRANS, TSCALE, TMMA, TTERN, TGRP, GATHERT and the systolic nodes make of the packets
that stand at their places, R253: how a float product accumulates, R242, R243, R249: what a conversion makes of a scaled packet, how it quantises into
MX blocks and what it draws, and what the lanes of a gather, a scatter and a scattered add read and write in
every space. When an access is performed is the schedule's
choice (log 8), and the order within a thread is read as log 11 says. That a copy into a scratchpad which an earlier access is still to touch is held back at
its issue, and what it captures there, is the model's reading (log 32), and so is which check of a packet node comes first, and that a
fill word is refused whether or not the packet fits (log 33). The address that a parked access shows is the
model's own (log 26). -/
def Obligations.EngineAndTileNodesHandOverAndAct : Prop :=
  (∀ (n : Node) (sc : Scope) (x y u : Bool) (k : Fin 16) (f : Firing) (s : State),
     let A := opd64 n.a
     let B := opd64 n.b
     let C := opd64 (srcC n)
     let v (o : Opd) : Nat := opVal s f n o
     (Fires s f [] [] →
       ∀ i ∈ [Instr.fence n sc, .barArrive n sc, .barSync n sc, .port n, .nfence n, .rdsr n k, .sink n false], HandsOver i f 0 0 0 s) ∧
     (Fires s f [A] [] →
       ∀ i ∈ [Instr.barWait n sc, .semp n sc, .semv n sc, .semtry n sc, .semdec n sc, .launch n, .lwait n], HandsOver i f (v A) 0 0 s) ∧
     (Fires s f [A, B] [] → ∀ i ∈ [Instr.flushr n sc, .discr n], HandsOver i f (v A) (v B) 0 s) ∧
     (Fires s f [A, B, C] [] →
       ∀ i ∈ [Instr.copy n x y u, .copys n x y u, .nsend n u, .nrecv n u], HandsOver i f (v A) (v B) (v C) s)) ∧
  (∀ (n : Node) (t : Ty) (k : ScaleKind) (r : Round) (sp : Sp) (m : MemFlags) (x y u : Bool) (f : Firing) (s : State),
     let A := opd64 n.a
     let B := opd64 n.b
     let C := opd64 (srcC n)
     let v (o : Opd) : Nat := opVal s f n o
     (Fires s f [A] [] →
       ∀ i ∈ [Instr.syscfg n t, .sysw n x, .sysa n x, .sysd n, .strmCloseEnd n u, .strmCloseLeave n u], HandsOver i f (v A) 0 0 s) ∧
     (Fires s f [A, B] [] →
       ∀ i ∈ [Instr.tload n k x, .tstore n k x y, .tfill n, .tcvt n t r x, .ttrans n x, .strmOpen n u, .strmSub n u, .strmPub n u x],
         HandsOver i f (v A) (v B) 0 s) ∧
     (Fires s f [A, B, C] [] →
       ∀ i ∈ [Instr.tmma n t x y, .ttern n x y, .tgrp n t x y], HandsOver i f (v A) (v B) (v C) s) ∧
     (Fires s f [A, opdT .s32 n.b, C] [] → HandsOver (.tscale n k r x) f (v A) (v (opdT .s32 n.b)) (v C) s) ∧
     (Fires s f [A, opdW n.b] [] → HandsOver (.gather n sp x u) f (v A) (v (opdW n.b)) 0 s) ∧
     (Fires s f [A, opdW n.b, C] [] → HandsOver (.gathert n sp x k u) f (v A) (v (opdW n.b)) (v C) s) ∧
     (Fires s f [A, opdW n.b, opdW (srcC n)] [] →
       HandsOver (.scatter n sp x u) f (v A) (v (opdW n.b)) (v (opdW (srcC n))) s ∧
       HandsOver (.scatadd n sp x m) f (v A) (v (opdW n.b)) (v (opdW (srcC n))) s)) ∧
  (∀ (s : State) (key toff : Nat) (p : Packet), tabWf s.core.scratch = true → tabWf s.core.absent = true → toff % 8 = 0 →
     let h := p.head
     let w := tyBits h.elem
     let span := spanOf h
     let u := putPacket key toff p s
     1 ≤ h.rows → h.rows ≤ 256 → 1 ≤ h.cols → h.cols ≤ 256 → toff + span ≤ 2 ^ 20 →
     p.elems.length = h.rows → (∀ r ∈ p.elems, r.length = h.cols ∧ ∀ x ∈ r, x < 2 ^ w) →
     p.scales.length = h.rows → (∀ r ∈ p.scales, r.length = scaleCount h ∧ ∀ x ∈ r, x < 2 ^ scaleWidth h) →
     u = { s with core := { s.core with scratch := u.core.scratch, absent := u.core.absent } } ∧
     ofBytes (padBytes u key toff 8) = tyCode h.elem + (match h.scale with | .none => 0xFF | .e8m0 => 0x16 | .f32 => 0x10 | .bf16 => 0x11) * 2 ^ 8 +
       (h.rows - 1) * 2 ^ 16 + (h.cols - 1) * 2 ^ 24 + 0xA5 * 2 ^ 56 ∧
     packetOf h (padBytes u key toff span) = p ∧
     (∀ k x, x < 2 ^ 20 → (k ≠ key ∨ x < toff ∨ toff + span ≤ x) → padByte u k x = padByte s k x) ∧
     (∀ k x, x < 2 ^ 17 → present u k x = if k = key ∧ toff / 8 ≤ x ∧ x * 8 < toff + span then true else present s k x)) ∧
  (∀ (s : State) (a : Access) (m : Team) (im : Image) (n : Node) (t : Ty) (k : ScaleKind) (r : Round) (x y : Bool),
     InFlight s a → teamOf s a.f = some m → imageOf s a.f.launch = some im → parkedOn s a.f.core < 512 →
     let va := a.a.toNat % 2 ^ 64
     let vb := a.b.toNat % 2 ^ 64
     let vc := a.c.toNat % 2 ^ 64
     let d := tileDesc vb
     let traps (cause v : Nat) (u : State) : State := abortLaunch a.f.launch cause false (some (nodeReport u a.f true v)) u
     let parks (toff : Nat) : State := modAccess a.id (fun x => { x with st := .parked 0 (m.key * 2 ^ 20 + 8 * (toff / 8)) none }) s
     let fits (toff : Nat) (h : Head) : Prop := toff % 256 = 0 ∧ toff + spanOf h ≤ im.scratch
     let free (toff : Nat) (h : Head) : Prop := fits toff h ∧ present s m.key (toff / 8) = false
     let holds (src : Src) (toff : Nat) (p : Packet) : Prop := fits toff p.head ∧ present s m.key (toff / 8) = true ∧
       headOf (ofBytes (padBytes s m.key toff 8)) = some p.head ∧ packetOf p.head (padBytes s m.key toff (spanOf p.head)) = p ∧
       ∀ e, declared s a.f src = some e → e = thScale p.head.scale
     let plain (src : Src) (p : Packet) : Prop := declared s a.f src = none → p.head.scale = .none
     let takes (toff : Nat) (yes : Bool) (u : State) : State := if yes then clearPresent m.key (toff / 8) u else u
     let at_ (p : Packet) (i j : Nat) : Nat := (p.elems.getD i []).getD j 0
     let cell (w : Ty) (pa pb pc : Packet) (i j : Nat) : Nat :=
       if isInt n.ty then
         let weight (c : Nat) : Int := if w = .t2 then (if c = 1 then 1 else if c = 3 then -1 else 0) else asInt w c
         intResult ((at_ pc i j : Int) + ((List.range pa.head.cols).map (fun k => asInt n.ty (at_ pa i k) * weight (at_ pb j k))).sum) 32 true false
       else mmaGroups (pa.head.cols / 16 + 1)
         ((List.range pa.head.cols).map (fun k => exMul ((rowExact pa i).getD k (.fin false 0)) ((rowExact pb j).getD k (.fin false 0)))) (at_ pc i j)
     let reserved (p : Packet) : Bool := p.head.elem == .t2 && p.elems.any (fun r => r.contains 2)
     let marked (yes : Bool) : State := if yes then modLaunch (topOf s a.f.launch) (fun l => { l with tern := true }) s else s
     (a.i = .tfill n →
       let h : Head := { elem := n.ty, scale := .none, rows := vb % 256 + 1, cols := vb / 2 ^ 8 % 256 + 1 }
       (va % 256 ≠ 0 → attempt a.id s = traps 0x03 va s) ∧
       (va % 256 = 0 → vb / 2 ^ 16 % 2 ^ 16 ≠ 0 → attempt a.id s = traps 0x06 va s) ∧
       (vb / 2 ^ 16 % 2 ^ 16 = 0 → fits va h → present s m.key (va / 8) = true → attempt a.id s = parks va) ∧
       (vb / 2 ^ 16 % 2 ^ 16 = 0 → free va h → attempt a.id s = performedAs a va (putPacket m.key va
         { head := h, elems := List.replicate h.rows (List.replicate h.cols (vb / 2 ^ 32 % 2 ^ tyBits n.ty)), scales := List.replicate h.rows [] } s))) ∧
     (a.i = .tload n k x →
       let h : Head := { elem := n.ty, scale := k, rows := d.rows, cols := d.cols }
       let len := imageElems h + imageScales h
       (va % 32 ≠ 0 → attempt a.id s = traps 0x03 va s) ∧
       (∀ l u, va % 32 = 0 → free d.toff h → a.got = [] → tloadRows a d h x s = (.ok l, u) →
         let row (i : Nat) : List Byte := (l.drop (len * i)).take len
         ∃ p : Packet, p.head = h ∧ attempt a.id s = performedAs a d.toff (putPacket m.key d.toff p u) ∧
           ∀ i < d.rows, p.elems[i]? = some (codesOf (tyBits n.ty) d.cols (field (row i) 0 (imageElems h))) ∧
             p.scales[i]? = some (codesOf (scaleWidth h) (scaleCount h) (field (row i) (imageElems h) (imageScales h))))) ∧
     (∀ p, a.i = .tstore n k x y → a.got = [] → holds n.b d.toff p → p.head.elem = n.ty → (declared s a.f n.b = none → p.head.scale = k) →
       (va % 32 ≠ 0 → attempt a.id s = traps 0x03 va s) ∧
       (va % 32 = 0 → p.head.rows ≠ d.rows ∨ p.head.cols ≠ d.cols → attempt a.id s = traps 0x06 d.toff s) ∧
       (∀ u, va % 32 = 0 → p.head.rows = d.rows → p.head.cols = d.cols →
         tstoreFrom a x (tstorePieces va d.stride p) 0 (modAccess a.id (fun x => { x with got := packetBytes p }) (takes d.toff y s)) = (.ok (), u) →
         attempt a.id s = performedAs a d.toff u)) ∧
     (∀ p, holds n.a va p →
       (a.i = .ttrans n x → p.head.elem = n.ty → p.head.scale = .none → ∃ q : Packet, q.head = { p.head with rows := p.head.cols, cols := p.head.rows } ∧
         (∀ i < p.head.cols, ∀ j < p.head.rows, at_ q i j = at_ p j i) ∧
         (vb = va ∨ free vb q.head → fits vb q.head → attempt a.id s = performedAs a vb (putPacket m.key vb q (takes va x s)))) ∧
       (∀ th, a.i = .tcvt n t r x → p.head.elem = t → thread? s a.f.thread = some th → ∃ q : Packet,
         let count := p.head.rows * p.head.cols
         let u (i j : Nat) : Nat := if r.rnd = .rs then (prngDraws count th.prng).2.getD (i * p.head.cols + j) 0 else 0
         let drawn : State := if r.rnd = .rs then modThread a.f.thread (fun x => { x with prng := (prngDraws count th.prng).1 }) s else s
         let scale (i j : Nat) : Exact := let c := (p.scales.getD i []).getD (if p.head.scale = .e8m0 then j / 32 else 0) 0
           match p.head.scale with
           | .none => .fin false 1
           | .e8m0 => if c = 0xFF then .nan else .fin false (pow2 ((c : Int) - 127))
           | .f32 => floatValue (fmtOf .f32) c
           | .bf16 => floatValue (fmtOf .bf16) c
         let value (i j : Nat) : Exact := let x := codeExact t (at_ p i j)
           if p.head.scale = .none then x else exMul x (scale i j)
         let isFin (x : Exact) : Bool := match x with | .fin _ _ => true | _ => false
         q.head = { p.head with elem := n.ty, scale := if isMx n.ty then .e8m0 else .none } ∧
         (isMx n.ty = false → ∀ i < p.head.rows, ∀ j < p.head.cols,
           (p.head.scale = .none → at_ q i j = convert n.ty t r (u i j) (at_ p i j)) ∧
           (p.head.scale ≠ .none → at_ q i j = if isFloat n.ty then encodeFloat (fmtOf n.ty) (value i j) r.rnd r.sat (u i j) else match value i j with
             | .nan => 0
             | .inf neg => intResult (if neg then -(2 ^ 200) else 2 ^ 200) (tyBits n.ty) (isS n.ty) true
             | .fin _ z => intResult (roundInt r.rnd z) (tyBits n.ty) (isS n.ty) true)) ∧
         (isMx n.ty = true → ∀ i < p.head.rows, ∀ b, 32 * b < p.head.cols →
           let within (j : Nat) : Prop := 32 * b ≤ j ∧ j < 32 * b + 32 ∧ j < p.head.cols
           let code := (q.scales.getD i []).getD b 0
           ((∃ j, within j ∧ isFin (value i j) = false) → code = 0xFF ∧ ∀ j, within j → at_ q i j = 0) ∧
           ((∀ j, within j → isFin (value i j) = true) → ∃ x : Int, -127 ≤ x ∧ x ≤ 127 ∧ code = (x + 127).toNat ∧
             ((∀ j, within j → exFin (value i j) = 0) → x = -127) ∧
             (∀ big j, within j → ratAbs (exFin (value i j)) = big → 0 < big → (∀ j', within j' → ratAbs (exFin (value i j')) ≤ big) →
               ∃ e : Int, pow2 e ≤ big ∧ big < pow2 (e + 1) ∧
                 x = max (-127) (min 127 (e - (match n.ty with | .mxe4m3 => 8 | .mxe5m2 => 15 | .mxs8 => 0 | _ => 2)))) ∧
             ∀ j, within j →
               (n.ty ≠ .mxs8 → at_ q i j = encodeFloat (fmtOf n.ty) (exMul (value i j) (.fin false (pow2 (-x)))) r.rnd true (u i j)) ∧
               (n.ty = .mxs8 → r.rnd ≠ .rs → at_ q i j = intResult (roundInt r.rnd (exFin (value i j) * pow2 (-x) * 64)) 8 true true) ∧
               (n.ty = .mxs8 → r.rnd = .rs →
                 let g := exFin (value i j) * pow2 (-x) * 64
                 let low := (ratAbs g).floor.toNat
                 let d := ratAbs g - (low : Rat)
                 let k : Nat := if d ≠ 0 ∧ 65536 ≤ (d * 65536).floor.toNat + u i j then low + 1 else low
                 at_ q i j = intResult (if g < 0 then -(k : Int) else k) 8 true true))) ∧
         (vb = va ∨ free vb q.head → fits vb q.head → attempt a.id s = performedAs a vb (putPacket m.key vb q (takes va x drawn)))) ∧
       (a.i = .tscale n k r x → p.head.elem = n.ty → (declared s a.f n.a = none → p.head.scale = k) → ∃ q : Packet, q.head = p.head ∧
         let by_ : Int := intOperand a.b.toNat 32 true
         let code (c : Nat) : Nat := if c = 0xFF then c else (max 0 (min 254 ((c : Int) + by_))).toNat
         (if isMx n.ty then q.elems = p.elems ∧ q.scales = p.scales.map (fun l => l.map code)
          else q.scales = p.scales ∧ q.elems = p.elems.map (fun l => l.map (fun c =>
            encodeFloat (fmtOf n.ty) (exMul (codeExact n.ty c) (.fin false (pow2 (max (-1024) (min 1024 by_))))) r.rnd r.sat 0))) ∧
         (vc = va ∨ free vc q.head → fits vc q.head → attempt a.id s = performedAs a vc (putPacket m.key vc q (takes va x s))))) ∧
     (∀ (pa pb pc : Packet) (w : Ty), a.i = .tmma n w x y ∨ (a.i = .ttern n x y ∧ w = .t2) → holds n.a va pa → holds n.b vb pb → holds (.port 2) vc pc →
       pa.head.elem = n.ty → pb.head.elem = w → pc.head.elem = (if isInt n.ty then .s32 else .f32) → plain (.port 2) pc →
       (pa.head.cols ≠ pb.head.cols → attempt a.id s = traps 0x06 vb s) ∧
       (pa.head.cols = pb.head.cols → pc.head.rows ≠ pa.head.rows ∨ pc.head.cols ≠ pb.head.rows → attempt a.id s = traps 0x06 vc s) ∧
       (pa.head.cols = pb.head.cols → pc.head.rows = pa.head.rows → pc.head.cols = pb.head.rows → ∃ q : Packet, q.head = pc.head ∧
         (∀ i < pc.head.rows, ∀ j < pc.head.cols, at_ q i j = cell w pa pb pc i j) ∧
         attempt a.id s = performedAs a vc (putPacket m.key vc q (takes vb y (takes va x (marked (reserved pb))))))) ∧
     (∀ (pa pc : Packet) (w : Ty) (tile : Nat → Packet), a.i = .tgrp n w x y → holds n.a va pa → holds (.port 2) vc pc → pa.head.elem = n.ty →
       pc.head.elem = (if isInt n.ty then .s32 else .f32) → plain (.port 2) pc →
       let groups := ofBytes (padBytes s m.key vb 8) % 128
       let entry (i : Nat) : Nat := ofBytes (padBytes s m.key (vb + 8 + 8 * i) 8)
       let rows (i : Nat) : Nat := entry i % 2 ^ 16
       let start (i : Nat) : Nat := ((List.range i).map rows).sum
       let toff (i : Nat) : Nat := entry i / 2 ^ 32 % 2 ^ 20
       let bad := ofBytes (padBytes s m.key vb 8) / 128 ≠ 0 ∨ ∃ i < groups, entry i / 2 ^ 16 % 2 ^ 16 ≠ 0 ∨ entry i / 2 ^ 52 ≠ 0
       let ragged := 64 < groups ∨ pa.head.rows < start groups
       let used := (List.range groups).filter (fun i => decide (0 < rows i))
       vb % 256 = 0 → vb + 8 + 8 * groups ≤ im.scratch → (∀ k, vb / 8 ≤ k → k * 8 < vb + 8 + 8 * groups → present s m.key k = true) →
       (bad → attempt a.id s = abortLaunch a.f.launch 0x06 false none s) ∧
       (¬bad → ragged → attempt a.id s = traps 0x0F vb s) ∧
       (¬bad → ¬ragged → pc.head.rows ≠ pa.head.rows → attempt a.id s = traps 0x06 vc s) ∧
       (¬bad → ¬ragged → pc.head.rows = pa.head.rows → (∀ i ∈ used, holds n.b (toff i) (tile i) ∧ (tile i).head.elem = w) →
         (∀ i ∈ used, ((tile i).head.cols ≠ pa.head.cols ∨ (tile i).head.rows ≠ pc.head.cols) →
           (∀ j ∈ used, j < i → (tile j).head.cols = pa.head.cols ∧ (tile j).head.rows = pc.head.cols) → attempt a.id s = traps 0x06 (toff i) s) ∧
         ((∀ i ∈ used, (tile i).head.cols = pa.head.cols ∧ (tile i).head.rows = pc.head.cols) → ∃ q : Packet, q.head = pc.head ∧
           (∀ i ∈ used, ∀ r, start i ≤ r → r < start (i + 1) → ∀ j < pc.head.cols, at_ q r j = cell w pa (tile i) pc r j) ∧
           (∀ r, start groups ≤ r → r < pc.head.rows → ∀ j < pc.head.cols, at_ q r j = at_ pc r j) ∧
           attempt a.id s = performedAs a vc (putPacket m.key vc q
             (used.foldl (fun t i => takes (toff i) y t) (takes va x (marked (used.any (fun i => reserved (tile i)))))))))) ∧
     (∀ (ps : List Exact) (g c : Nat), mmaGroups g [] c = c ∧ (ps ≠ [] → mmaGroups (g + 1) ps c = mmaGroups g (ps.drop 16)
       (encodeFloat (fmtOf .f32) (exSum .rn [floatValue (fmtOf .f32) c,
         exSum .rn (ps.take 16 ++ List.replicate (16 - ps.length) (Exact.fin false 0))]) .rn false 0))) ∧
     (∀ reg, regionAt s a.f = some reg →
       let waits : Prop := attempt a.id s = modAccess a.id (fun x => { x with st := .flight }) s
       let aborts : Prop := attempt a.id s = abortLaunch a.f.launch 0x06 false none s
       (a.i = .syscfg n t →
         let bad := va / 2 ^ 16 ≠ 0 ∨ va % 256 = 0 ∨ va / 256 % 256 = 0 ∨ 16 * regionPages s a.f < va % 256 * (va / 256 % 256)
         (reg.tiles ≠ [] → waits) ∧ (reg.tiles = [] → bad → aborts) ∧
         (reg.tiles = [] → ¬bad → ∃ u, attempt a.id s = performedAs a 0 u ∧ u = { s with regions := u.regions } ∧
           regionAt u a.f = some { reg with kr := va % 256, nc := va / 256 % 256, fa := n.ty, fw := t, w := [] })) ∧
       (a.i ∈ [Instr.sysw n x, .sysa n x, .sysd n] → reg.kr = 0 → aborts) ∧
       (∀ p, reg.kr ≠ 0 → holds n.a va p →
         (a.i = .sysw n x → (reg.tiles ≠ [] → waits) ∧
           (reg.tiles = [] → p.head.elem = reg.fw → p.head.rows ≤ 16 * reg.nc → p.head.cols ≤ 16 * reg.kr →
             ∃ u, attempt a.id s = performedAs a va (takes va x u) ∧ u = { s with regions := u.regions } ∧
               regionAt u a.f = some { reg with w := [packetBytes p] })) ∧
         (a.i = .sysa n x → (2 ≤ reg.tiles.length → waits) ∧
           (reg.tiles.length < 2 → p.head.elem = reg.fa → p.head.cols ≤ 16 * reg.kr →
             ∃ u, attempt a.id s = performedAs a va (takes va x u) ∧ u = { s with regions := u.regions } ∧
               regionAt u a.f = some { reg with tiles := reg.tiles ++ [packetBytes p] })) ∧
         (a.i = .sysd n → (reg.tiles = [] → waits) ∧
           (∀ l rest wl, reg.tiles = l :: rest → reg.w = [wl] → (heldPacket wl).head.elem ≠ .t2 → p.head.elem = (if isInt reg.fa then .s32 else .f32) → plain n.a p →
             p.head.rows = (heldPacket l).head.rows → p.head.cols ≤ 16 * reg.nc →
             ∃ u, attempt a.id s = performedAs a va (putPacket m.key va
                 (productRows (16 * reg.kr) 0 p.head.rows (heldPacket l) (heldPacket wl) p) u) ∧
               u = { s with regions := u.regions } ∧ regionAt u a.f = some { reg with tiles := rest }))))) ∧
  (∀ (s : State) (a : Access) (m : Team) (im : Image) (n : Node) (sx u : Bool) (fl : MemFlags),
     InFlight s a → teamOf s a.f = some m → imageOf s a.f.launch = some im → im.scratch ≤ 2 ^ 20 → a.left = [] → a.result = 0 →
     let w := tyBits n.ty
     let size := w / 8
     let count := 256 / w
     let base := a.a.toNat % 2 ^ 64
     let index (i : Nat) : Option Int := let v := a.b.toNat / 2 ^ (32 * i) % 2 ^ 32
       if sx then some (intOperand v 32 true) else if v = 2 ^ 32 - 1 then none else some v
     let addr (i : Nat) : Option Nat := (index i).map (fun k => (((base : Int) + k * size) % 2 ^ 64).toNat)
     let inside := ∀ i < count, ∀ x, addr i = some x → x + size ≤ im.scratch
     let ready (x : Nat) : Bool := present s m.key (x / 8)
     let lane (i : Nat) : Nat := match addr i with | some x => ofBytes (padBytes s m.key x size) | none => 0
     let last (i x : Nat) : Prop := addr i = some x ∧ ∀ j < count, ∀ y, i < j → addr j = some y → y ≠ x
     let outside (x : Nat) : Prop := ∀ i < count, ∀ y, addr i = some y → x < y ∨ y + size ≤ x
     w = 32 ∨ w = 64 →
     (base % size ≠ 0 → a.i ∈ [Instr.gather n .s sx u, .scatter n .s sx u, .scatadd n .s sx fl] →
       attempt a.id s = abortLaunch a.f.launch 0x03 false (some (nodeReport s a.f true base)) s) ∧
     (a.i = .gather n .s sx u → base % size = 0 → inside →
       ((∀ i < count, ∀ x, addr i = some x → ready x = true) → ∃ v, (∀ i < count, laneAt w v i = lane i) ∧
         attempt a.id s = modAccess a.id (fun e => { e with st := .done, left := List.range count, result := BitVec.ofNat 256 v }) s) ∧
       (∀ j < count, ∀ x, addr j = some x → ready x = false → (∀ i < count, i ≠ j → ∀ y, addr i = some y → ready y = true) →
         parkedOn s a.f.core < 512 → (∀ th b t p, thread? s a.f.thread = some th → th.st ≠ .departing b t p) →
         ∃ v, (∀ i < count, laneAt w v i = if i = j then 0 else lane i) ∧
           attempt a.id s = modAccess a.id (fun e =>
             { e with st := .parked 0 (m.key * 2 ^ 20 + 8 * (x / 8)) none, left := (List.range count).filter (· != j), result := BitVec.ofNat 256 v }) s)) ∧
     (a.i = .scatter n .s sx u → base % size = 0 → inside → tabWf s.core.scratch = true → tabWf s.core.absent = true →
       ∃ t, attempt a.id s = modAccess a.id (fun e => { e with st := .done, left := List.range count, result := 0 }) t ∧
         t = { s with core := { s.core with scratch := t.core.scratch, absent := t.core.absent } } ∧
         (∀ i < count, ∀ x, last i x → ofBytes (padBytes t m.key x size) = laneAt w a.c.toNat i ∧ present t m.key (x / 8) = true) ∧
         (∀ k x, x < 2 ^ 20 → (k ≠ m.key ∨ outside x) → padByte t k x = padByte s k x)) ∧
     (a.i = .scatadd n .s sx fl → fl.acq = false → fl.rel = false → fl.sc = false → isInt n.ty = true → base % size = 0 → inside →
       tabWf s.core.scratch = true → tabWf s.core.absent = true → (∀ i < count, ∀ x, addr i = some x → ready x = true) →
       ∃ t, attempt a.id s = modAccess a.id (fun e => { e with st := .done, left := List.range count, result := 0 }) t ∧
         t = { s with core := { s.core with scratch := t.core.scratch, absent := t.core.absent } } ∧
         (∀ x, (∃ i < count, addr i = some x) → ofBytes (padBytes t m.key x size) = (ofBytes (padBytes s m.key x size) +
           ((List.range count).map (fun i => if addr i = some x then laneAt w a.c.toNat i else 0)).sum) % 2 ^ w) ∧
         (∀ k x, x < 2 ^ 20 → (k ≠ m.key ∨ outside x) → padByte t k x = padByte s k x)) ∧
     (∀ (sp : Sp) (us : Nat → State), base % size = 0 → us 0 = s → sp = .g ∨ sp = .l ∨ sp = .p →
       let peer (u : State) (x key : Nat) : Prop := x < 2 ^ 52 ∧ x % 2 ^ 20 + size ≤ im.scratch ∧
         ((x / 2 ^ 20 = m.num ∧ key = m.key) ∨ (x / 2 ^ 20 ≠ m.num ∧ ∃ t, u.teams.find? (fun t => t.launch == a.f.launch && t.num == x / 2 ^ 20) = some t ∧
           t.retired = false ∧ t.core / 4 = m.core / 4 ∧ key = t.key))
       let all (u : State) (key x : Nat) : Prop := ∀ k, x % 2 ^ 20 / 8 ≤ k → k * 8 < x % 2 ^ 20 + size → present u key k = true
       let ends : Prop := attempt a.id s = modAccess a.id (fun e => { e with st := .done, result := if a.i = .gather n sp sx u then e.result else 0 }) (us count)
       (a.i = .gather n sp sx u →
         (∀ i < count, (addr i = none → us (i + 1) = deliver a.id i 0 w (us i)) ∧
           (∀ x, addr i = some x → (sp = .p → ∃ key, peer (us i) x key ∧ all (us i) key x ∧
               us (i + 1) = deliver a.id i (ofBytes (padBytes (us i) key (x % 2 ^ 20) size)) w (us i)) ∧
             (sp ≠ .p → ∃ l v, loadRange a.f 2 (sp == .l) x size (us i) = (.ok l, v) ∧ us (i + 1) = deliver a.id i (ofBytes l) w v))) →
         (∃ e, access? (us count) a.id = some e) → ends) ∧
       (a.i = .scatter n sp sx u →
         (∀ i < count, let data := toBytes size (a.c.toNat / 2 ^ (w * i))
           (addr i = none → us (i + 1) = deliver a.id i 0 0 (us i)) ∧
           (∀ x, addr i = some x → (sp = .p → ∃ key, peer (us i) x key ∧ us (i + 1) = deliver a.id i 0 0 (padWrite key (x % 2 ^ 20) data (us i))) ∧
             (sp ≠ .p → ∃ v, storeG a.f 2 (sp == .l) x data (us i) = (.ok (), v) ∧ us (i + 1) = deliver a.id i 0 0 v))) →
         (∃ e, access? (us count) a.id = some e) → ends) ∧
       (a.i = .scatadd n sp sx fl →
         (∀ i < count, let v := laneAt w a.c.toNat i
           (addr i = none → us (i + 1) = deliver a.id i 0 0 (us i)) ∧
           (∀ x, addr i = some x → ∃ old t, us (i + 1) = deliver a.id i 0 0 t ∧
             doAtomic { a with a := BitVec.ofNat 256 x } sp fl size (fun o => if n.ty = .f32 then encodeFloat (fmtOf .f32)
               (exSum .rn [floatValue (fmtOf .f32) o, floatValue (fmtOf .f32) v]) .rn false 0 else (o + v) % 2 ^ w) (us i) = (.done old, t))) →
         (∃ e, access? (us count) a.id = some e) → ends)) ∧
     (∀ (sp : Sp) (k : ScaleKind) (us : Nat → State), a.i = .gathert n sp sx k u → us 0 = s → a.got = [] →
       let d := tileDesc (a.c.toNat % 2 ^ 64)
       let h : Head := { elem := n.ty, scale := k, rows := 8, cols := d.cols }
       let len := imageElems h + imageScales h
       let row (i : Nat) : Option Nat := (index i).map (fun k => (((base : Int) + k * d.stride) % 2 ^ 64).toNat)
       let put (i : Nat) (l : List Byte) (t : State) : State :=
         deliver a.id i 0 0 (modAccess a.id (fun x => { x with got := padTo (i * len) x.got ++ l ++ x.got.drop ((i + 1) * len) }) t)
       (d.rows ≠ 8 → attempt a.id s = abortLaunch a.f.launch 0x06 false none s) ∧
       (d.rows = 8 → base % 32 ≠ 0 → attempt a.id s = abortLaunch a.f.launch 0x03 false (some (nodeReport s a.f true base)) s) ∧
       (∀ e, d.rows = 8 → base % 32 = 0 → d.toff % 256 = 0 → d.toff + spanOf h ≤ im.scratch → present s m.key (d.toff / 8) = false → sp = .g ∨ sp = .l →
         (∀ i < 8, (row i = none → us (i + 1) = put i (List.replicate len 0) (us i)) ∧
           (∀ x, row i = some x → ∃ l v, loadRange a.f 2 (sp == .l) x len (us i) = (.ok l, v) ∧ us (i + 1) = put i l v)) →
         access? (us 8) a.id = some e →
         attempt a.id s = performedAs a d.toff (putPacket m.key d.toff
           { head := h
             elems := (List.range 8).map (fun i => codesOf (tyBits n.ty) d.cols (field ((e.got.drop (i * len)).take len) 0 (imageElems h)))
             scales := (List.range 8).map (fun i => codesOf (scaleWidth h) (scaleCount h) (field ((e.got.drop (i * len)).take len) (imageElems h) (imageScales h))) }
           (us 8))))) ∧
  (∀ (s : State) (id i v w : Nat) (e : Access), access? s id = some e →
     access? (deliver id i v w s) id = some { e with left := e.left ++ [i], result := BitVec.ofNat 256 (e.result.toNat + v * 2 ^ (w * i)) } ∧
     deliver id i v w s = { s with accesses := (deliver id i v w s).accesses })

/-- R372: a load, store, write-once access or atomic whose address is not a multiple of its size traps with ALIGN and that
address, and does nothing else. -/
def Obligations.MisalignedAccessTraps : Prop :=
  ∀ (s : State) (a : Access) (n : Node) (sp : Sp) (m : MemFlags), InFlight s a →
    let va := a.a.toNat % 2 ^ 64
    let out := abortLaunch a.f.launch 0x03 false (some (nodeReport s a.f true va)) s
    (va % (tyBits n.ty / 8) ≠ 0 →
      a.i ∈ [Instr.ld n sp m, .ldu n sp, .iread n sp, .st n sp m, .stu n sp, .iwrite n sp, .aadd n sp m, .afadd n sp m, .amin n sp m,
        .amax n sp m, .aand n sp m, .aor n sp m, .axor n sp m, .axchg n sp m, .acas n sp m, .ainc n sp m, .adec n sp m] →
      attempt a.id s = out) ∧
    (va % 32 ≠ 0 → a.i ∈ [Instr.ldw n sp m, .stw n sp m] → attempt a.id s = out)

/-- R374, R203, R377: a scratchpad load of words that are all present answers their bytes, lowest first, zero-extended; it
changes nothing but its own access (and drops clean copies where it is an acquire). R191, R203: a scratchpad access that needs
a word whose presence bit is clear parks with KIND 0 on the first such word, unless its thread is leaving (R296). The address that a parked access shows is the
model's own (log 26). -/
def Obligations.ScratchpadLoadsReadOrPark : Prop :=
  (∀ (s : State) (a : Access) (n : Node) (f : MemFlags) (m : Team) (size : Nat),
     (a.i ∈ [Instr.ld n .s f, .ldu n .s, .iread n .s] ∧ size = tyBits n.ty / 8) ∨ (a.i = .ldw n .s f ∧ size = 32) →
     0 < size → OnPad s a m size →
     let va := a.a.toNat % 2 ^ 64
     va % size = 0 → (∀ w, va / 8 ≤ w → w * 8 < va + size → present s m.key w = true) →
     ∃ v < 2 ^ (8 * size), attempt a.id s = performedAs a v (acquireFor a s) ∧
       ∀ i < size, v / 2 ^ (8 * i) % 2 ^ 8 = (padByte s m.key (va + i)).toNat) ∧
  (∀ (s : State) (a : Access) (n : Node) (f : MemFlags) (m : Team) (size w : Nat),
     (a.i ∈ [Instr.ld n .s f, .ldu n .s, .iread n .s] ∧ size = tyBits n.ty / 8) ∨ (a.i = .ldw n .s f ∧ size = 32) →
     0 < size → OnPad s a m size → parkedOn s a.f.core < 512 →
     (∀ th b t p, thread? s a.f.thread = some th → th.st ≠ .departing b t p) →
     let va := a.a.toNat % 2 ^ 64
     va % size = 0 → va / 8 ≤ w → w * 8 < va + size → present s m.key w = false → (∀ x, va / 8 ≤ x → x < w → present s m.key x = true) →
     attempt a.id s = modAccess a.id (fun x => { x with st := .parked 0 (m.key * 2 ^ 20 + 8 * w) none }) s)

/-- R375, R203, R377: a scratchpad store, or a write-once store to a word that is absent, writes its bytes, sets the presence
bits of the words it touches, and changes no other byte or bit; a write-once store to a word that is present writes nothing.
-/
def Obligations.ScratchpadStoreWritesOnlyItsBytes : Prop :=
  ∀ (s : State) (a : Access) (n : Node) (f : MemFlags) (m : Team) (size : Nat),
    (a.i ∈ [Instr.st n .s f, .stu n .s, .iwrite n .s] ∧ size = tyBits n.ty / 8) ∨ (a.i = .stw n .s f ∧ size = 32) →
    0 < size → OnPad s a m size →
    let va := a.a.toNat % 2 ^ 64
    va % size = 0 → tabWf s.core.scratch = true → tabWf s.core.absent = true →
    va + size ≤ 2 ^ 20 →
    ∃ u v, attempt a.id s = performedAs a v u ∧ u = { releaseFor a s with core := { s.core with scratch := u.core.scratch, absent := u.core.absent } } ∧
      if a.i = .iwrite n .s ∧ present s m.key (va / 8) = true then v = 0 ∧ u = s
      else v = (if a.i = .iwrite n .s then 1 else 0) ∧ (∀ i < size, (padByte u m.key (va + i)).toNat = a.b.toNat / 2 ^ (8 * i) % 2 ^ 8) ∧
        (∀ k x, x < 2 ^ 20 → (k ≠ m.key ∨ x < va ∨ va + size ≤ x) → padByte u k x = padByte s k x) ∧
        (∀ k w, w < 2 ^ 17 → present u k w = if k = m.key ∧ va / 8 ≤ w ∧ w * 8 < va + size then true else present s k w)

/-- R376: SPSET and SPCLR set and clear exactly the presence bits of their words, and no data; SPWAIT completes once every
word is present, and at once for a count of 0; SPSET and SPCLR at an address, or with a count, that is not a multiple of 8 trap with ALIGN
and that number. R378, R380: an atomic in a scratchpad whose word is present answers the old
value and writes the new one in the same step, as its operation has it; one whose word is absent does its release and parks on the
word. The address that a parked access shows is the model's own (log 26). -/
def Obligations.PresenceNodesAndScratchpadAtomics : Prop :=
  (∀ (s : State) (a : Access) (n : Node) (u : Bool) (m : Team) (count : Nat),
     OnPad s a m count → a.b.toNat % 2 ^ 64 = count → tabWf s.core.absent = true →
     let va := a.a.toNat % 2 ^ 64
     va + count ≤ 2 ^ 20 →
     (∀ set : Bool, a.i = (if set then .spset n .s u else .spclr n .s u) → va % 8 = 0 → count % 8 = 0 →
       ∃ t, attempt a.id s = performedAs a 0 t ∧ t = { s with core := { s.core with absent := t.core.absent } } ∧
         ∀ k w, w < 2 ^ 17 → present t k w = if k = m.key ∧ va ≤ w * 8 ∧ w * 8 < va + count then set else present s k w) ∧
     (a.i = .spwait n .s u → (∀ w, va / 8 ≤ w → w * 8 < va + count → present s m.key w = true) → attempt a.id s = performedAs a 0 s) ∧
     (∀ set : Bool, a.i = (if set then .spset n .s u else .spclr n .s u) → va % 8 ≠ 0 →
       attempt a.id s = abortLaunch a.f.launch 0x03 false (some (nodeReport s a.f true va)) s) ∧
     (∀ set : Bool, a.i = (if set then .spset n .s u else .spclr n .s u) → va % 8 = 0 → count % 8 ≠ 0 →
       attempt a.id s = abortLaunch a.f.launch 0x03 false (some (nodeReport s a.f true count)) s)) ∧
  (∀ (s : State) (a : Access) (n : Node) (f : MemFlags) (m : Team) (size : Nat),
     a.i ∈ [Instr.aadd n .s f, .afadd n .s f, .amin n .s f, .amax n .s f, .aand n .s f, .aor n .s f, .axor n .s f, .axchg n .s f,
       .acas n .s f, .ainc n .s f, .adec n .s f] →
     tyBits n.ty / 8 = size → size = 4 ∨ size = 8 → OnPad s a m size → parkedOn s a.f.core < 512 →
     let va := a.a.toNat % 2 ^ 64
     va % size = 0 → present s m.key (va / 8) = false →
     attempt a.id s = modAccess a.id (fun x => { x with st := .parked 0 (m.key * 2 ^ 20 + 8 * (va / 8)) none }) (releaseFor a s)) ∧
  (∀ (s : State) (a : Access) (n : Node) (f : MemFlags) (m : Team) (w : Nat),
     tyBits n.ty = w → w = 32 ∨ w = 64 → OnPad s a m (w / 8) →
     let va := a.a.toNat % 2 ^ 64
     va % (w / 8) = 0 → tabWf s.core.scratch = true → tabWf s.core.absent = true → va + w / 8 ≤ 2 ^ 20 → present s m.key (va / 8) = true →
     let value (t : State) : Nat := ((List.range (w / 8)).map (fun i => (padByte t m.key (va + i)).toNat * 2 ^ (8 * i))).sum
     let old := value s
     let b := a.b.toNat % 2 ^ w
     let c := a.c.toNat % 2 ^ w
     let does (i : Instr) (new : Nat) : Prop := a.i = i →
       ∃ u, attempt a.id s = performedAs a old (acquireFor a u) ∧ value u = new ∧
         u = { releaseFor a s with core := { s.core with scratch := u.core.scratch, absent := u.core.absent } } ∧
         ∀ k x, x < 2 ^ 20 → (k ≠ m.key ∨ x < va ∨ va + w / 8 ≤ x) → padByte u k x = padByte s k x
     does (.aadd n .s f) ((old + b) % 2 ^ w) ∧
     does (.amin n .s f) (if asInt n.ty b < asInt n.ty old then b else old) ∧
     does (.amax n .s f) (if asInt n.ty old < asInt n.ty b then b else old) ∧
     does (.aand n .s f) (old &&& b) ∧ does (.aor n .s f) (old ||| b) ∧ does (.axor n .s f) (old ^^^ b) ∧
     does (.axchg n .s f) b ∧ does (.acas n .s f) (if old = b then c else old) ∧
     does (.ainc n .s f) (if b ≤ old then 0 else old + 1) ∧ does (.adec n .s f) (if old = 0 ∨ b < old then b else old - 1) ∧
     (n.ty = .f32 → does (.afadd n .s f) (encodeFloat (fmtOf .f32) (exSum .rn [floatValue (fmtOf .f32) old, floatValue (fmtOf .f32) b]) .rn false 0)))

/-- R105, R201, R374, R375: loads and stores of .G and .L in an open page of device memory, outside every transaction. A load of .G answers
what its die sees, one of .L what stands at the home with its die's buffered stores, and neither changes a byte of memory, nor what the die sees next;
R220 to R222: a load that is an acquire then drops what its scope has it drop, and a store that is a release first sends home what its die has buffered.
A store of .G is then seen by its die, and from the home die it changes no other committed byte; one of .L is performed at the home. R31, R34, R213: a load
of companion memory answers its core's copy or, of .L, the companion's byte, a store changes the companion's bytes and leaves no core a copy of the line,
and where the companion does not answer, the launch ends in LINK. R201, R202, R163: a load or store of .P is one in the scratchpad of the team that its
address names, its own or a peer's, parks on its first absent word, and traps with PEER_GONE where that team has exited.
R106, R111, R115, R116: a load and a store of .G in a page that is not open. The load
answers each byte from its own shadow, its ancestors', or committed memory, and is recorded where another tag writes the unit, while
the entry has a free reader slot. The store goes to its tag's shadow bytes alone and makes the tag a writer of the unit, or, where four
others are, aborts the transaction with CONFLICT before it performs. Both wait while a commit in progress holds the unit. How caches are
kept and what gives way in a full one is the model's choice (log 5), so this is said where they have room; how the Skim's room is counted is its choice
(log 30), and translations are kept as log 9 says. The address that a parked access shows is the model's own (log 26). -/
def Obligations.GlobalLoadsAndStores : Prop :=
  (∀ (s : State) (a : Access) (n : Node) (f : MemFlags) (l : Launch) (pa p lvl size : Nat),
    InFlight s a → launch? s a.f.launch = some l → 0 < size →
    let va := a.a.toNat % 2 ^ 64
    let die := dieOf a.f.core
    let r := releaseFor a s
    let loads (sp : Sp) : Prop := (a.i ∈ [Instr.ld n sp f, .ldu n sp] ∧ size = tyBits n.ty / 8) ∨ (a.i = .ldw n sp f ∧ size = 32)
    let stores (sp : Sp) : Prop := (a.i ∈ [Instr.st n sp f, .stu n sp] ∧ size = tyBits n.ty / 8) ∨ (a.i = .stw n sp f ∧ size = 32)
    let room (t : State) : Prop := l2Lines t die + 1 < 1048576 ∧ l1Lines t a.f.core + 1 < 12288
    let within (x : Nat) : Prop := pa ≤ x ∧ x < pa + size
    let datum (x : Nat) : Byte := BitVec.ofNat 8 (a.b.toNat / 2 ^ (8 * (x - pa)))
    let buffered (x : Nat) : Byte := (tabFind s.mem.rsb (die * 2 ^ 52 + x)).getD (homeByte s x)
    let before (x : Nat) : Byte := if (relScope a.i).any wideScope then buffered x else homeByte s x
    va % size = 0 →
    (pa + size ≤ 2 ^ 51 → pteOpen p = true → translate s a.f.core l.space va .read = .ok pa p lvl → room s →
      (loads .g → badSeen s die pa size = none →
        ∃ v u, attempt a.id s = performedAs a v (acquireFor a u) ∧
          u = { fillTlb a.f.core l.space va s with mem := { s.mem with copies := u.mem.copies, l1 := u.mem.l1, uses := u.mem.uses } } ∧
          ∀ i < size, v / 2 ^ (8 * i) % 2 ^ 8 = (dieByte s die (pa + i)).toNat ∧ dieByte u die (pa + i) = dieByte s die (pa + i)) ∧
      (loads .l → badAt s pa size = none →
        ∃ v u, attempt a.id s = performedAs a v (acquireFor a u) ∧
          u = { fillTlb a.f.core l.space va s with mem := { s.mem with copies := u.mem.copies, l1 := u.mem.l1, uses := u.mem.uses } } ∧
          ∀ i < size, v / 2 ^ (8 * i) % 2 ^ 8 = (buffered (pa + i)).toNat ∧ dieByte u die (pa + i) = buffered (pa + i))) ∧
    (pa + size ≤ 2 ^ 51 → pteOpen p = true → translate r a.f.core l.space va .write = .ok pa p lvl → s.skim.lines = [] → s.MemOk → room r →
      (stores .g → ((relScope a.i).any wideScope = true → s.kamub.copies = []) →
        ∃ u, attempt a.id s = performedAs a 0 u ∧
          (homeDie pa = die → ∀ x < 2 ^ 51, homeByte u x = if within x then datum x else before x) ∧
          (homeDie pa ≠ die → u.mem.home = r.mem.home ∧ u.mem.dirty = r.mem.dirty ∧ ∀ i < size, dieByte u die (pa + i) = datum (pa + i))) ∧
      (stores .l → s.kamub.copies = [] →
        ∃ u, attempt a.id s = performedAs a 0 u ∧
          ∀ x < 2 ^ 51, homeByte u x = if within x then datum x else if x / 128 = pa / 128 then buffered x else before x)) ∧
    (2 ^ 51 ≤ pa → pa + size ≤ 2 ^ 52 → l1Lines s a.f.core < 12288 → translate s a.f.core l.space va .read = .ok pa p lvl →
      let core := a.f.core
      let mine := (tabFind s.mem.compCopies (core * 2 ^ 45 + pa / 128)).isSome
      let t := fillTlb core l.space va s
      let answers (g : Nat → Byte) : Prop := ∃ v u, attempt a.id s = performedAs a v (acquireFor a u) ∧
        u = { t with mem := { s.mem with compCopies := u.mem.compCopies, bad := u.mem.bad, l1 := u.mem.l1 } } ∧
        ∀ i < size, v / 2 ^ (8 * i) % 2 ^ 8 = (g (pa + i)).toNat
      let cut : Prop := attempt a.id s = abortLaunch a.f.launch 0x15 false none t
      (loads .g → (mine = true → badCopy s core pa = none → answers (compByte s core)) ∧ (mine = false → linkOk s pa = true → answers (compByte s core)) ∧
        (mine = false → linkOk s pa = false → cut)) ∧
      (loads .l → (linkOk s pa = true → answers (fun x => tabGet 0 s.mem.comp x)) ∧ (linkOk s pa = false → cut))) ∧
    (2 ^ 51 ≤ pa → pa + size ≤ 2 ^ 52 → translate r a.f.core l.space va .write = .ok pa p lvl → s.MemOk →
      (stores .g ∨ stores .l → (linkOk r pa = true → ∃ u, attempt a.id s = performedAs a 0 u ∧ u.mem.home = r.mem.home ∧ u.mem.dirty = r.mem.dirty ∧
          u.mem.rsb = r.mem.rsb ∧ (∀ x < 2 ^ 52, tabGet 0 u.mem.comp x = if within x then datum x else tabGet 0 s.mem.comp x) ∧
          ∀ c x, within x → compByte u c x = datum x) ∧
        (linkOk r pa = false → attempt a.id s = abortLaunch a.f.launch 0x15 false none (fillTlb a.f.core l.space va r))))) ∧
  (∀ (s : State) (a : Access) (n : Node) (f : MemFlags) (m : Team) (im : Image) (size key : Nat),
    InFlight s a → teamOf s a.f = some m → imageOf s a.f.launch = some im → im.scratch ≤ 2 ^ 20 → 0 < size →
    let va := a.a.toNat % 2 ^ 64
    let off := va % 2 ^ 20
    let named := s.teams.find? (fun t => t.launch == a.f.launch && t.num == va / 2 ^ 20)
    let there := (va / 2 ^ 20 = m.num ∧ key = m.key) ∨
      (va / 2 ^ 20 ≠ m.num ∧ ∃ t, named = some t ∧ t.retired = false ∧ t.core / 4 = m.core / 4 ∧ key = t.key)
    let gone := va / 2 ^ 20 ≠ m.num ∧ ∀ t, named = some t → t.retired = true ∨ t.core / 4 ≠ m.core / 4
    let loads := (a.i ∈ [Instr.ld n .p f, .ldu n .p] ∧ size = tyBits n.ty / 8) ∨ (a.i = .ldw n .p f ∧ size = 32)
    let stores := (a.i ∈ [Instr.st n .p f, .stu n .p] ∧ size = tyBits n.ty / 8) ∨ (a.i = .stw n .p f ∧ size = 32)
    let needs (w : Nat) : Prop := off / 8 ≤ w ∧ w * 8 < off + size
    va % size = 0 → va < 2 ^ 52 → off + size ≤ im.scratch →
    (loads → gone → attempt a.id s = abortLaunch a.f.launch 0x07 false (some (nodeReport s a.f true va)) s) ∧
    (loads → there → (∀ w, needs w → present s key w = true) → ∃ v, attempt a.id s = performedAs a v (acquireFor a s) ∧
      ∀ i < size, v / 2 ^ (8 * i) % 2 ^ 8 = (padByte s key (off + i)).toNat) ∧
    (∀ w, loads → there → needs w → present s key w = false → (∀ x, needs x → x < w → present s key x = true) → parkedOn s a.f.core < 512 →
      (∀ th b t p, thread? s a.f.thread = some th → th.st ≠ .departing b t p) →
      attempt a.id s = modAccess a.id (fun x => { x with st := .parked 0 (key * 2 ^ 20 + 8 * w) none }) s) ∧
    (stores → gone → attempt a.id s = abortLaunch a.f.launch 0x07 false (some (nodeReport (releaseFor a s) a.f true va)) (releaseFor a s)) ∧
    (stores → there → tabWf s.core.scratch = true → tabWf s.core.absent = true →
      ∃ u, attempt a.id s = performedAs a 0 u ∧ u = { releaseFor a s with core := { s.core with scratch := u.core.scratch, absent := u.core.absent } } ∧
        (∀ i < size, padByte u key (off + i) = BitVec.ofNat 8 (a.b.toNat / 2 ^ (8 * i))) ∧ (∀ w, needs w → present u key w = true) ∧
        (∀ k x, x < 2 ^ 20 → (k ≠ key ∨ x < off ∨ off + size ≤ x) → padByte u k x = padByte s k x))) ∧
  (∀ (s : State) (a : Access) (n : Node) (f : MemFlags) (l : Launch) (pa p lvl vt size : Nat),
    InFlight s a → launch? s a.f.launch = some l → vtOfFiring s a.f = some vt → 0 < size →
    let va := a.a.toNat % 2 ^ 64
    let die := dieOf a.f.core
    let t := fillTlb a.f.core l.space va s
    let unit := unitOf pa p
    let here (e : SkimEntry) : Bool := e.unit_ == unit.1 && e.len == unit.2
    let waits : Prop := attempt a.id s = modAccess a.id (fun x => { x with st := .flight }) t
    let loads := (a.i ∈ [Instr.ld n .g f, .ldu n .g] ∧ size = tyBits n.ty / 8) ∨ (a.i = .ldw n .g f ∧ size = 32)
    let stores := (a.i ∈ [Instr.st n .g f, .stu n .g] ∧ size = tyBits n.ty / 8) ∨ (a.i = .stw n .g f ∧ size = 32)
    va % size = 0 → pa + size ≤ 2 ^ 51 → pteOpen p = false → (∀ k ∈ s.skim.lines, k.vt = vt → k.line = pa / 128 → k.place ≠ .log) →
    l2Lines s die + 1 < 1048576 → l1Lines s a.f.core + 1 < 12288 →
    (loads → translate s a.f.core l.space va .read = .ok pa p lvl → badSeen s die pa size = none →
      let seen (i : Nat) : Byte := match (tagChain s vt).findSome? (fun v => shadowByte s v (pa + i)) with
        | some b => b
        | none => dieByte s die (pa + i)
      let answers (es : List SkimEntry) : Prop := ∃ v u, attempt a.id s = performedAs a v (acquireFor a u) ∧
        (∀ i < size, v / 2 ^ (8 * i) % 2 ^ 8 = (seen i).toNat) ∧ u.skim.entries = es ∧ u.skim.tags = s.skim.tags ∧ u.launches = s.launches ∧
        (s.mem.rsb = [] → ∀ x, homeByte u x = homeByte s x)
      (unitHeld s vt unit = true → waits) ∧
      (unitHeld s vt unit = false →
        (s.skim.entries.find? here = none → answers s.skim.entries) ∧
        (∀ e, s.skim.entries.find? here = some e →
          let own := e.writers.all (fun w => (tagChain s vt).contains w)
          (own = true ∨ vt ∈ e.readers → answers s.skim.entries) ∧
          (own = false → vt ∉ e.readers → e.readers.length < 2 →
            answers (s.skim.entries.map (fun x => if here x then { x with readers := x.readers ++ [vt] } else x))) ∧
          (own = false → vt ∉ e.readers → 2 ≤ e.readers.length → (tabFind s.skim.groups (unit.1 / 4096)).isSome = true → tabWf s.skim.groups = true →
            ∃ v u, attempt a.id s = performedAs a v (acquireFor a u) ∧ (∀ i < size, v / 2 ^ (8 * i) % 2 ^ 8 = (seen i).toNat) ∧
              u.skim.entries = s.skim.entries.map (fun x => if here x then { x with overflow := true } else x) ∧
              vt ∈ (tabFind u.skim.groups (unit.1 / 4096)).getD [] ∧ u.skim.tags = s.skim.tags ∧ u.launches = s.launches)))) ∧
    (∀ g, stores → translate s a.f.core l.space va .write = .ok pa p lvl → tag? s vt = some g → g.st = .active →
      s.mem.rsb = [] → s.kamub.copies = [] → (∀ k ∈ s.skim.lines, tabWf k.bytes = true) →
      let writes (es : List SkimEntry) : Prop := ∃ u, attempt a.id s = performedAs a 0 u ∧ u.skim.entries = es ∧
        (∀ i < size, shadowByte u vt (pa + i) = some (BitVec.ofNat 8 (a.b.toNat / 2 ^ (8 * i)))) ∧
        (∀ v x, (v ≠ vt ∨ x < pa ∨ pa + size ≤ x) → shadowByte u v x = shadowByte s v x) ∧
        (∀ x, homeByte u x = homeByte s x) ∧ u.launches = s.launches
      (unitHeld s vt unit = true → waits) ∧
      (unitHeld s vt unit = false →
        (s.skim.entries.find? here = none → makeEntryRoom vt unit.1 t = (true, t) →
          writes (s.skim.entries ++ [{ unit_ := unit.1, len := unit.2, writers := [vt], readers := [], overflow := false }])) ∧
        (∀ e, s.skim.entries.find? here = some e →
          (vt ∈ e.writers → writes s.skim.entries) ∧
          (vt ∉ e.writers → e.writers.length < 4 →
            writes (s.skim.entries.map (fun x => if here x then { x with writers := x.writers ++ [vt] } else x))) ∧
          (vt ∉ e.writers → 4 ≤ e.writers.length → attempt a.id s = abortVt vt 0x09 false none t)))))

/-- R389, R390: a semaphore node on an aligned word of an open page, at its home or in companion memory: SEMV adds one, SEMP, SEMTRY and SEMDEC take
one, at zero SEMP waits, SEMTRY answers 0 and SEMDEC traps, and SEMV traps at the greatest count. R220, R222: at device and system scope a SEMV sends home
what its die has buffered, and a decrement that succeeds drops its die's clean copies of remote lines, at system scope its cores' companion lines too. R386, R387: BAR.ARRIVE counts an
arrival and sends the phase, BAR.SYNC then waits for it, BAR.WAIT departs from a phase that is over at once and waits for the one that
stands; the arrival that completes a phase releases its waiters; and a node that needs an entry of the barrier unit while all are in use
holds its memory port. R382: FENCE drains and drops what its scope has it. R383: FLUSHR of a range in one page leaves nothing of it above
its home. R384: DISCR of a range in one page drops every cached copy of it without a write, or, where the page is not open, is recorded
for the commit. How caches are kept is the
model's choice (log 5), and translations are kept as log 9 says. -/
def Obligations.SyncAndFlushNodesAct : Prop :=
  (∀ (s : State) (a : Access) (n : Node) (sc : Scope) (l : Launch) (m : Team) (pa p lvl lvl' c : Nat),
    InFlight s a → launch? s a.f.launch = some l → teamOf s a.f = some m → s.skim.lines = [] → s.MemOk → s.kamub.copies = [] →
    let va := a.a.toNat % 2 ^ 64
    let die := dieOf a.f.core
    let r := releaseFor a s
    let t := fillTlb a.f.core l.space va r
    let seen (x : Nat) : Byte := if 2 ^ 51 ≤ pa then tabGet 0 s.mem.comp x else (tabFind s.mem.rsb (die * 2 ^ 52 + x)).getD (homeByte s x)
    va % 4 = 0 → pa % 4 = 0 → pteOpen p = true → (pa + 4 ≤ 2 ^ 51 ∧ badAt r pa 4 = none) ∨ (2 ^ 51 ≤ pa ∧ pa < 2 ^ 52 ∧ linkOk r pa = true) →
    translate r a.f.core l.space va .read = .ok pa p lvl → translate t a.f.core l.space va .write = .ok pa p lvl' →
    ofBytes ((List.range 4).map (fun i => seen (pa + i))) = c →
    let drained (u : State) : Prop := wideScope sc = true → ∀ x < 2 ^ 52, tabFind u.mem.rsb (die * 2 ^ 52 + x) = none
    let dropped (u : State) : Prop := wideScope sc = true → (∀ line < 2 ^ 45, tabFind u.mem.copies (die * 2 ^ 45 + line) = none) ∧
      (sc = .sys → ∀ core line, dieOf core = die → line < 2 ^ 45 → tabFind u.mem.compCopies (core * 2 ^ 45 + line) = none)
    let goes (v d : Nat) (and_ : State → Prop) : Prop := ∃ u, attempt a.id s = performedAs a v u ∧ ofBytes (readHome u pa 4) = d ∧ and_ u
    let traps (cause : Nat) : Prop := ∃ u, attempt a.id s = abortLaunch a.f.launch cause false (some (nodeReport u a.f true va)) u ∧
      (s.mem.rsb = [] → u.mem = s.mem)
    (a.i = .semv n sc → if c = 2 ^ 32 - 1 then traps 0x0B else goes c (c + 1) drained) ∧
    (a.i = .semtry n sc → if c = 0 then goes 0 0 (fun _ => True) else goes 1 (c - 1) dropped) ∧
    (a.i = .semdec n sc → if c = 0 then traps 0x0A else goes c (c - 1) dropped) ∧
    (a.i = .semp n sc → (c ≠ 0 → goes 1 (c - 1) dropped) ∧
      (c = 0 → unitRoom s m.core (m.key, 16 + (immRaw n).toNat % 256) = true →
        ∃ u, attempt a.id s = modAccess a.id (fun x => { x with st := .blocked }) u ∧ (s.mem.rsb = [] → u.mem = s.mem)) ∧
      (c = 0 → unitRoom s m.core (m.key, 16 + (immRaw n).toNat % 256) = false →
        ∃ u, attempt a.id s = modAccess a.id (fun x => { x with st := .held }) u ∧ (s.mem.rsb = [] → u.mem = s.mem)))) ∧
  (∀ (s : State) (a : Access) (n : Node) (sc : Scope) (m : Team), InFlight s a → teamOf s a.f = some m →
    let r := releaseFor a s
    let k := (immRaw n).toNat % 16
    let b := barrierOf m k
    let target := if b.arrived = 0 then (immRaw n).toNat / 16 % 2048 else b.target
    let need := if target = 0 then (s.threads.filter (fun e => e.2.team == m.key && e.2.st != .retired)).length else target
    let p : Word32 := a.a.setWidth 32
    let freed (e : Access) : Bool := e.st == .blocked && barWaits e == some (k, b.phase) && (thread? s e.f.thread).any (·.team == m.key)
    let arrived (u : State) : Prop := u = { r with teams := u.teams, accesses := u.accesses } ∧ ∃ y, team? u m.key = some y ∧
      y = { m with barriers := y.barriers } ∧ (∀ j, j ≠ k → barrierOf y j = barrierOf m j) ∧
      (need ≤ b.arrived + 1 → barrierOf y k = { num := k, phase := b.phase + 1, arrived := 0, target := target } ∧
        u.accesses = s.accesses.map (fun e => if freed e then { e with st := .done } else e)) ∧
      (b.arrived + 1 < need → barrierOf y k = { num := k, phase := b.phase, arrived := b.arrived + 1, target := target } ∧ u.accesses = s.accesses)
    let room := unitRoom s m.core (m.key, k)
    let blocks (q : Word32) (u : State) : State := modAccess a.id (fun x => { x with st := .blocked, result := q.setWidth 256 }) u
    (room = true →
      (a.i = .barArrive n sc → ∃ u, arrived u ∧ attempt a.id s = performedAs a b.phase.toNat u) ∧
      (a.i = .barSync n sc → ∃ u, arrived u ∧
        (need ≤ b.arrived + 1 → attempt a.id s = performedAs a b.phase.toNat (acquireFor a u)) ∧
        (b.arrived + 1 < need → attempt a.id s = blocks b.phase u)) ∧
      (a.i = .barWait n sc → b.phase = p → attempt a.id s = blocks p s)) ∧
    (room = false → a.i ∈ [Instr.barArrive n sc, .barSync n sc] ∨ (a.i = .barWait n sc ∧ b.phase = p) →
      attempt a.id s = modAccess a.id (fun x => { x with st := .held }) s) ∧
    (a.i = .barWait n sc → b.phase ≠ p → attempt a.id s = performedAs a p.toNat (acquireFor a s))) ∧
  (∀ (s : State) (a : Access) (n : Node) (sc : Scope) (l : Launch) (pa p lvl : Nat), InFlight s a → launch? s a.f.launch = some l →
    let die := dieOf a.f.core
    let va := a.a.toNat % 2 ^ 64
    let count := a.b.toNat % 2 ^ 64
    let t := fillTlb a.f.core l.space va s
    let first := pa / 128 * 128
    let last := (pa + count + 127) / 128 * 128
    let onePage : Prop := 0 < count ∧ va + count ≤ va / 4096 * 4096 + 4096 ∧ pa % 4096 = va % 4096 ∧ pa < 2 ^ 51 ∧ va + count ≤ 2 ^ 54
    (a.i = .fence n sc → (wideScope sc = false → attempt a.id s = performedAs a 0 s) ∧
      (wideScope sc = true → ∃ u, attempt a.id s = performedAs a 0 u ∧
        (∀ x < 2 ^ 52, tabFind u.mem.rsb (die * 2 ^ 52 + x) = none) ∧ (∀ line < 2 ^ 45, tabFind u.mem.copies (die * 2 ^ 45 + line) = none) ∧
        (sc = .sys → ∀ core line, dieOf core = die → line < 2 ^ 45 → tabFind u.mem.compCopies (core * 2 ^ 45 + line) = none) ∧
        (s.MemOk → s.skim.lines = [] → s.kamub.copies = [] → ∀ x < 2 ^ 51,
          homeByte u x = (tabFind s.mem.rsb (die * 2 ^ 52 + x)).getD (homeByte s x)))) ∧
    (a.i = .flushr n sc →
      (count = 0 → attempt a.id s = performedAs a 0 s) ∧
      (0 < count → 2 ^ 54 < va + count → attempt a.id s = fatalOf a.f 2 2 (Nat.max va (2 ^ 54)) s) ∧
      (onePage → a.left = [] → translate s a.f.core l.space va .read = .ok pa p lvl →
        (wideScope sc = false → attempt a.id s = performedAs a 0 t) ∧
        (wideScope sc = true → s.MemOk → ∃ u, attempt a.id s = performedAs a 0 u ∧
          (∀ x, first ≤ x → x < last → tabFind u.mem.dirty x = none ∧ ∀ d < 4, tabFind u.mem.rsb (d * 2 ^ 52 + x) = none) ∧
          (s.mem.rsb = [] → ∀ x, homeByte u x = homeByte s x)))) ∧
    (a.i = .discr n →
      (va % 128 ≠ 0 → attempt a.id s = abortLaunch a.f.launch 0x03 false (some (nodeReport s a.f true va)) s) ∧
      (va % 128 = 0 → count % 128 ≠ 0 → attempt a.id s = abortLaunch a.f.launch 0x03 false (some (nodeReport s a.f true count)) s) ∧
      (va % 128 = 0 → count = 0 → attempt a.id s = performedAs a 0 s) ∧
      (va % 128 = 0 → count % 128 = 0 → 0 < count → toCompanion s a.f va = true → attempt a.id s = fatalOf a.f 2 3 va s) ∧
      (va % 128 = 0 → count % 128 = 0 → onePage → toCompanion s a.f va = false → translate s a.f.core l.space va .write = .ok pa p lvl →
        (pteOpen p = true → ∃ u, attempt a.id s = performedAs a 0 u ∧ u.mem.home = s.mem.home ∧
          ∀ x, first ≤ x → x < last → tabFind u.mem.dirty x = none ∧
            ∀ d < 4, tabFind u.mem.rsb (d * 2 ^ 52 + x) = none ∧ tabFind u.mem.copies (d * 2 ^ 45 + x / 128) = none) ∧
        (∀ vt, pteOpen p = false → vtOfFiring s a.f = some vt → (charge vt 256 true t).1 = true →
          ∃ u, attempt a.id s = performedAs a 0 u ∧ u.mem = { s.mem with clean := u.mem.clean } ∧
            u.skim.deferred = s.skim.deferred ++
              [{ vt := vt, space := l.space, send := none, lines := (List.range (count / 128)).map (pa / 128 + ·) }]))))

/-! ## The device: registers, starts, freezes, links (R20 to R66, R395 to R397, R404) -/

/-- R24, R51, R52, R59, R63, R64, R65, R69, R76, R85, R146, R149, R162, R395, R404: a plain write of each register that software writes and that
no row of the table has for its own stores its fields and clears its write-one bits, and changes nothing
else, but that ALERT_N follows the bits of MGMT_ALERT that are enabled; the registers of a space, a queue, the save pool, a ring or a connection table
take nothing while their owner is in use; an offset that is not aligned, one outside every block of registers, and a register that is only read,
take nothing; ENTDAA records the address. That the Kamub path does not answer while no port is up is read from R53 (log 25),
and that LIMIT_W keeps the value to which it clamps is the model's reading (log 48). -/
def Obligations.RegisterWritesStoreTheirFields : Prop :=
  ∀ (s : State) (via : MgmtPath) (d : Word32) (o : Nat) (addr : BitVec 7),
    let w (o : Nat) : Out := exec (.registerWrite via o d) s
    let raised (x y : BitVec 6) : Bool := x &&& y != 0
    let told (x y : BitVec 6) : List Output := if raised x y = raised s.boot.alert s.boot.alertEn then [] else [.alert (raised x y)]
    let alerts (o : Nat) (x y : BitVec 6) : Prop :=
      w o = .next { s with boot := { s.boot with alert := x, alertEn := y }, outputs := s.outputs ++ told x y }
    exec (.i3cEntdaa addr) s = .next { s with boot := { s.boot with i3cAddr := some addr } } ∧
    (s.boot.failed = false →
      exec (.limitW d) s = .next { s with gov := { s.gov with limit := BitVec.ofNat 12 (Nat.max 800 (Nat.min 2400 (d.toNat % 4096))) } }) ∧
    (s.boot.failed = false → via = .kamub → s.kamub.up = 0 → w o = .next s) ∧
    (o % 4 ≠ 0 ∨ 0x4000 ≤ o → w o = .next s) ∧
    (s.boot.failed = false → via ≠ .kamub ∨ s.kamub.up ≠ 0 →
      alerts 0x0C (s.boot.alert &&& ~~~(d.setWidth 6)) s.boot.alertEn ∧
      alerts 0x10 s.boot.alert (d.setWidth 6) ∧
      w 0x14 = .next { s with boot := { s.boot with dbgSel := d } } ∧
      w 0x1C = .next { s with boot := { s.boot with brk := (s.boot.brk &&& 0xFFFFFFFF00000000) ||| d.setWidth 64 } } ∧
      w 0x404 = .next { s with gov := { s.gov with hot := s.gov.hot && !d.getLsbD 10 } } ∧
      w 0x480 = .next { s with merr := { s.merr with ueValid := s.merr.ueValid && !d.getLsbD 24 } } ∧
      w 0x2810 = .next { s with xlat := { s.xlat with fqLo := d &&& 0xFFFFF000#32 } } ∧
      w 0x3400 = .next { s with disp := { s.disp with preempt := d.getLsbD 0, migrate := d.getLsbD 1, hold := d.getLsbD 2 } } ∧
      (d.getLsbD 0 = false → d.getLsbD 1 = false → d.getLsbD 3 = false → d.getLsbD 4 = false →
        w 0x04 = .next { s with boot := { s.boot with preserve := d.getLsbD 2, carve := (d >>> 8).setWidth 4 } }) ∧
      w 0x18 = .next { s with boot := { s.boot with dbgSelHi := d.setWidth 20 } } ∧
      w 0x20 = .next { s with boot := { s.boot with brk := (s.boot.brk &&& 0xFFFFFFFF) ||| (d.setWidth 64 <<< 32) } } ∧
      w 0x800 = .next { s with kamub := { s.kamub with down := s.kamub.down &&& ~~~((d >>> 4).setWidth 4) } } ∧
      w 0x880 = .next { s with mem := { s.mem with dirtySel := d &&& 0x803FFFFF#32 } } ∧
      (∀ k < 8, w (0xC00 + 4 * k) = .next { s with boot := { s.boot with
        attNonce := s.boot.attNonce.take (4 * k) ++ toBytes 4 d.toNat ++ s.boot.attNonce.drop (4 * k + 4) } }) ∧
      (∀ k < 16, w (0xC40 + 4 * k) = .next { s with boot := { s.boot with
        measData := s.boot.measData.take (4 * k) ++ toBytes 4 d.toNat ++ s.boot.measData.drop (4 * k + 4) } }) ∧
      (d.getLsbD 0 = false → d.getLsbD 1 = false →
        w 0xC20 = .next { s with boot := { s.boot with attIndex := (d >>> 2).setWidth 3, attErr := s.boot.attErr && !d.getLsbD 9 } }) ∧
      w 0x2800 = .next { s with xlat := { s.xlat with invLo := d &&& 0xFFFFF000#32 } } ∧
      w 0x2804 = .next { s with xlat := { s.xlat with invHi := d &&& 0x3FFFFF#32 } } ∧
      (d.getLsbD 16 = false → w 0x2808 = .next { s with xlat := { s.xlat with invCtrl := d &&& 0x7FF#32, invErr := s.xlat.invErr && !d.getLsbD 18 } }) ∧
      w 0x2814 = .next { s with xlat := { s.xlat with fqHi := d &&& 0xFFFFF#32 } } ∧
      (d.getLsbD 8 = false → w 0x2818 = .next { s with xlat := { s.xlat with
        fqLog := d.setWidth 4, fqEnable := false, badId := s.xlat.badId && !d.getLsbD 10, lost := s.xlat.lost && !d.getLsbD 11 } }) ∧
      w 0x2824 = .next { s with xlat := { s.xlat with respId := d } } ∧
      (d.getLsbD 16 = false → w 0x3414 = .next { s with disp := { s.disp with killQ := d.setWidth 6, killAll := d.getLsbD 8 } }) ∧
      w 0x3418 = .next { s with disp := { s.disp with killLo := d } } ∧ w 0x341C = .next { s with disp := { s.disp with killHi := d } } ∧
      (savedCount s ≠ 0 → ∀ o ∈ [0x3404, 0x3408, 0x340C], w o = .next s) ∧
      (savedCount s = 0 → w 0x3404 = .next { s with disp := { s.disp with saveLo := d &&& 0xFFFFF000#32 } } ∧
        w 0x3408 = .next { s with disp := { s.disp with saveHi := d &&& 0xFFFFF#32 } } ∧
        w 0x340C = .next { s with disp := { s.disp with saveSize := d.setWidth 16 } }) ∧
      (∀ n < 64,
        let root := 0x2000 + 16 * n
        let ring := 0x2400 + 16 * n
        let map := 0x3800 + 16 * n
        let net := 0x3C00 + 16 * n
        ((space s n).enable = true → w root = .next s ∧ w (root + 4) = .next s) ∧
        ((space s n).enable = false → w root = .next (modSpace n (fun x => { x with rootLo := d &&& 0xFFFFFE00#32 }) s) ∧
          w (root + 4) = .next (modSpace n (fun x => { x with rootHi := d &&& 0xFFFFF#32 }) s)) ∧
        ((queue s n).enable = true → w ring = .next s ∧ w (ring + 4) = .next s) ∧
        ((queue s n).enable = false → w ring = .next (modQueue n (fun x => { x with baseLo := d &&& 0xFFFFFF00#32 }) s) ∧
          w (ring + 4) = .next (modQueue n (fun x => { x with baseHi := d &&& 0x3FFFFF#32 }) s)) ∧
        w map = .next (modSpace n (fun x => { x with hmLo := d &&& 0xFFFFF000#32 }) s) ∧
        w (map + 4) = .next (modSpace n (fun x => { x with hmHi := d &&& 0x3FFFFF#32 }) s) ∧
        w (map + 8) = .next (modSpace n (fun x => { x with hmSize := d }) s) ∧
        (live s n ≠ 0 → w net = .next s ∧ w (net + 4) = .next s ∧ w (net + 8) = .next s) ∧
        (live s n = 0 → w net = .next (modSpace n (fun x => { x with ctLo := d &&& 0xFFFFFFC0#32 }) s) ∧
          w (net + 4) = .next (modSpace n (fun x => { x with ctHi := d &&& 0xFFFFF#32 }) s) ∧
          w (net + 8) = .next (modSpace n (fun x => { x with ctCount := d.setWidth 13 }) s))) ∧
      (∀ n < 4,
        let plc (o : Nat) (g : Placer → Placer) : Prop := w (0x3600 + 0x40 * n + o) = .next { s with placers := listMod s.placers n g }
        let rmbl (o : Nat) (g : Rambler → Rambler) : Prop := w (0xA00 + 0x80 * n + o) = .next { s with ramblers := listMod s.ramblers n g }
        plc 0x00 (fun p => if p.freeOn then p else { p with freeLo := d &&& 0xFFFFF000#32 }) ∧
        plc 0x04 (fun p => if p.freeOn then p else { p with freeHi := d &&& 0xFFFFF#32 }) ∧
        (d.getLsbD 8 = false → plc 0x08 (fun p => { p with freeLog := if p.freeOn then p.freeLog else d.setWidth 4, freeOn := false }) ∧
          plc 0x1C (fun p => { p with logLog := if p.logOn then p.logLog else d.setWidth 4, logOn := false })) ∧
        plc 0x0C (fun p => { p with freeProd := d }) ∧
        plc 0x14 (fun p => if p.logOn then p else { p with logLo := d &&& 0xFFFFF000#32 }) ∧
        plc 0x18 (fun p => if p.logOn then p else { p with logHi := d &&& 0xFFFFF#32 }) ∧ plc 0x24 (fun p => { p with logCons := d }) ∧
        rmbl 0x08 (fun r => { r with space := d.setWidth 6 }) ∧ rmbl 0x0C (fun r => { r with grace := d.setWidth 16 }) ∧
        rmbl 0x10 (fun r => { r with ports := d.setWidth 16 }) ∧ rmbl 0x18 (fun r => { r with logLo := d &&& 0xFFFFFFF8#32 }) ∧
        rmbl 0x1C (fun r => { r with logHi := d &&& 0x3FFFFF#32 }) ∧ rmbl 0x20 (fun r => { r with logSize := d }) ∧
        (∀ k < 4, rmbl (0x28 + 4 * k) (fun r => { r with peerAddr := r.peerAddr.set k d })) ∧
        (∀ k < 8, rmbl (0x40 + 4 * k) (fun r => { r with peerKey := r.peerKey.set k d })))) ∧
    (let blocks : List (Nat × Nat) := [(0, 0x2C), (0x100, 0x300), (0x400, 0x40C), (0x480, 0x48C), (0x800, 0x804), (0x880, 0x88C), (0x900, 0x940),
       (0xA00, 0xC00), (0xC00, 0xC24), (0xC40, 0xC80), (0xD00, 0xF98), (0x1000, 0x2000), (0x2000, 0x282C), (0x3000, 0x3008), (0x3010, 0x3020),
       (0x3400, 0x3424), (0x3600, 0x3700), (0x3800, 0x4000)]
     (∀ b ∈ blocks, o < b.1 ∨ b.2 ≤ o) → w o = .next s) ∧
    (∀ o ∈ [0x00, 0x08, 0x24, 0x28, 0x408, 0x484, 0x488, 0x884, 0x888, 0x3000, 0x3004, 0x3010, 0x3014, 0x3018, 0x301C, 0x3420], w o = .next s)

/-- R24, R30, R35, R37, R41, R52, R63, R137, R146, R149, R395: a read that clears hands over the fields and sets the named
counters to zero; during a freeze it clears nothing. The debug window answers its selected word. R38, R40, R41, R63: a read of
DIRTY_WORD_LO latches and hands over the selected word of the dirty bitmap, and with CLEAR = 1 and no freeze clears its 64
bits in the same step, and no other; a word past the bitmap reads zero and clears nothing. The model's own in it: ALL_DOWN of KL_STATUS is 1 only once the starts have ended and no port is
up (log 22), and USED of a share's register is its charge rounded up to 64 KiB (log 30). -/
def Obligations.ClearingReadsHandOverAndZero : Prop :=
  (∀ (s : State) (p : Fin 16) (d : Fin 4) (n : Fin 64) (w : Fin 1024), s.boot.failed = false →
     let reads (i : Instr) (v : Nat) (zero : State → State) : Prop :=
       exec i s = .next (let t := { s with readData := BitVec.ofNat 32 v }; if s.boot.frozenCmd || s.boot.frozenPin then t else zero t)
     let e := s.eth.getD p.val EthPort.reset
     let q := s.placers.getD d.val Placer.reset
     let bit (b : Bool) : Nat := if b then 1 else 0
     reads .govPowerRead (s.gov.power + s.gov.peak * 2 ^ 16) (fun t => { t with gov := { t.gov with peak := 0 } }) ∧
     reads .merrStatusRead (s.merr.ce + s.merr.ue * 2 ^ 16 + bit s.merr.ueValid * 2 ^ 24 + s.merr.source * 2 ^ 25 + s.merr.die * 2 ^ 28)
       (fun t => { t with merr := { t.merr with ce := 0, ue := 0 } }) ∧
     reads .klStatusRead (s.kamub.up.toNat + s.kamub.down.toNat * 2 ^ 4 + s.kamub.retryCount * 2 ^ 8 + s.kamub.linkAborts * 2 ^ 16 +
         bit (s.boot.stage == 8 && s.kamub.up == 0) * 2 ^ 24)
       (fun t => { t with kamub := { t.kamub with retryCount := 0, linkAborts := 0 } }) ∧
     reads (.ethStatusRead p) (bit e.up + bit e.llr * 2 + e.uudDrop * 2 ^ 8 + e.trimRx * 2 ^ 16 + e.refused * 2 ^ 24)
       (fun t => { t with eth := listMod t.eth p.val (fun x => { x with uudDrop := 0, trimRx := 0, refused := 0 }) }) ∧
     reads .skimStatusRead ((1024 - s.skim.tags.length) + s.skim.commits * 2 ^ 16) (fun t => { t with skim := { t.skim with commits := 0 } }) ∧
     reads .skimAbortsRead (s.skim.conflictN + s.skim.fullN * 2 ^ 16)
       (fun t => { t with skim := { t.skim with conflictN := 0, fullN := 0 } }) ∧
     reads (.skimShareRead d) (Nat.min 2048 ((shareUsed s d.val + 65535) / 65536) + s.skim.spills.getD d.val 0 * 2 ^ 16)
       (fun t => { t with skim := { t.skim with spills := listMod t.skim.spills d.val (fun _ => 0) } }) ∧
     reads .dispStatusRead (Nat.min (savedCount s) 255 + s.disp.preempts * 2 ^ 8 + s.disp.replays * 2 ^ 16 + s.disp.kills * 2 ^ 24)
       (fun t => { t with disp := { t.disp with preempts := 0, replays := 0, kills := 0 } }) ∧
     reads (.plcStatusRead d) (q.migrated + q.abandoned * 2 ^ 16 + q.badFrame * 2 ^ 24)
       (fun t => { t with placers := listMod t.placers d.val (fun x => { x with migrated := 0, abandoned := 0, badFrame := 0 }) }) ∧
     reads (.netStatusRead n) ((space s n.val).sendFail + (space s n.val).deferFail * 2 ^ 16)
       (fun t => modSpace n.val (fun x => { x with sendFail := 0, deferFail := 0 }) t) ∧
     exec (.debugWindowRead w) s = .next { s with readData := debugWord s w.val } ∧
     ((s.boot.frozenCmd || s.boot.frozenPin) = false → debugWord s w.val = 0)) ∧
  (∀ (s : State), s.boot.failed = false → tabWf s.mem.clean = true →
     let w := s.mem.dirtySel.toNat % 2 ^ 22
     let clears := s.mem.dirtySel.getLsbD 31 && !(s.boot.frozenCmd || s.boot.frozenPin)
     w < 2367488 →
     ∃ t, exec .dirtyWordLoRead s = .next t ∧ t = { s with readData := t.readData, mem := { s.mem with latch := t.mem.latch, clean := t.mem.clean } } ∧
       (∀ i < 64, t.mem.latch.getLsbD i = (tabFind s.mem.clean (64 * w + i)).isNone) ∧ t.readData = t.mem.latch.setWidth 32 ∧
       ∀ x, (tabFind t.mem.clean x).isNone = if clears = true ∧ x / 64 = w then false else (tabFind s.mem.clean x).isNone) ∧
  (∀ s : State, s.boot.failed = false → 2367488 ≤ s.mem.dirtySel.toNat % 2 ^ 22 →
     exec .dirtyWordLoRead s = .next { s with readData := 0, mem := { s.mem with latch := 0 } })

/-- R53 to R56, R58, R59: each stage of a start that succeeds leads to the next with its effect; one that fails enters the
failed state with its code and unit and raises the alert; READY releases the cores and starts the clock; a start takes PRESERVE as stage 4 began and CARVE as stage 7 did, and the dies have
10 s to cool. R26, R54, R56, R57, R62: power-on, COLD, WARM and a thermal trip leave no launch, thread, token or transaction; the starts go to their first
stage, and the trip keeps the device out of reset until a start. What a start resets beyond the rules cited is the model's
reading (log 22), and so are its first stage where no launch runs and that the stages from the fourth on wait for a freeze to end
(log 48). -/
def Obligations.StartsRunTheirStagesAndEndLaunches : Prop :=
  (∀ (s : State) (a b : FwImage) (temps : List Nat) (r : Fin 6) (n : Fin 12) (d : Fin 4), s.boot.failed = false → s.boot.tripped = false →
     let fails (i : Instr) (code unit : Nat) : Prop := ∃ t, exec i s = .next t ∧ t.boot.failed = true ∧ t.boot.code = code ∧
       t.boot.unit_ = unit ∧ t.boot.vcore = false ∧ t.boot.alert = s.boot.alert ||| 1 ∧ t.boot.stage = s.boot.stage ∧ t.mem = s.mem
     let leads (i : Instr) (stage : Nat) (more : State → Prop) : Prop := ∃ t, exec i s = .next t ∧ t.boot.stage = stage ∧
       t.boot.failed = false ∧ t.launches = s.launches ∧ t.core = s.core ∧ more t
     (s.boot.stage = 0 → leads .rom 1 (fun t => t.boot.meas = List.replicate 8 0 ∧ t.boot.stageAge = 0 ∧ t.mem = s.mem)) ∧
     (s.boot.stage = 1 →
       (imageCode a = none → leads (.image a b) 2 (fun t => t.boot.imageB = false ∧ t.boot.svn = BitVec.ofNat 32 (field a.header 16 4) ∧ t.mem = s.mem)) ∧
       (imageCode a ≠ none → imageCode b = none → leads (.image a b) 2 (fun t => t.boot.imageB = true ∧ t.boot.svn = BitVec.ofNat 32 (field b.header 16 4))) ∧
       (∀ c, imageCode a ≠ none → imageCode b = some c → fails (.image a b) c 1)) ∧
     (s.boot.stage = 2 → fails (.fuse true none) 0x10 0 ∧ fails (.fuse false (some d)) 0x11 d.val ∧ leads (.fuse false none) 3 (fun t => t.mem = s.mem)) ∧
     (s.boot.stage = 3 → fails (.rails (some r) temps) 0x20 r.val ∧
       (s.boot.warmStart = false ∨ (∀ x ∈ temps, x < 90) → leads (.rails none temps) 4 (fun t => t.boot.vcore = true ∧ t.boot.preserveNow = s.boot.preserve ∧ t.mem = s.mem)) ∧
       (s.boot.warmStart = true → 90 ≤ s.boot.dieTemps.getD d.val 0 → if 7000000000 ≤ s.boot.stageAge then fails (.railsTimeout d) 0x21 d.val
         else exec (.railsTimeout d) s = .next s)) ∧
     (4 ≤ s.boot.stage → s.boot.frozenCmd = true ∨ s.boot.frozenPin = true →
       ∀ i ∈ [Instr.hbm (some n) temps, .hbm none temps, .bist (some d) none, .bist none none, .fill none, .init none, .ready], exec i s = .next s) ∧
     (s.boot.frozenCmd = false → s.boot.frozenPin = false →
     (s.boot.stage = 4 → (s.boot.warmStart = false → fails (.hbm (some n) temps) 0x30 n.val) ∧
       leads (.hbm none temps) 5 (fun t => (s.boot.warmStart = false ∨ s.boot.preserveNow = false → t.boot.kept = 0) ∧ t.boot.selfRefresh = false)) ∧
     (s.boot.stage = 5 → (s.boot.warmStart = false → fails (.bist (some d) none) 0x40 d.val ∧ fails (.bist none (some d)) 0x41 d.val) ∧
       leads (.bist none none) 6 (fun t => t.mem = s.mem)) ∧
     (s.boot.stage = 6 → (s.boot.kept.getLsbD n.val = false → fails (.fill (some n)) 0x31 n.val) ∧
       leads (.fill none) 7 (fun t => t.boot.carveNow = s.boot.carve ∧ ∀ e ∈ t.mem.home, e ∈ s.mem.home ∧ e.1 < 0xC000000000 ∧ s.boot.kept.getLsbD (e.1 / 0x1000000000) = true)) ∧
     (s.boot.stage = 7 → fails (.init (some d)) 0x50 d.val ∧
       leads (.init none) 8 (fun t => t.boot.carved = Nat.min 8 s.boot.carveNow.toNat ∧ t.mem.clean = [] ∧ t.mem.dirty = [] ∧
         ∀ e ∈ t.mem.home, e.1 < 0xC000000000)) ∧
     (s.boot.stage = 8 → s.boot.released = false →
       exec .ready s = .next { s with boot := { s.boot with released := true, statusAtReady := bootStatus s }, clock := 0 }))) ∧
  (∀ (s : State) (d : Word32) (die : Fin 4) (temp : Nat),
     let empty (t : State) : Prop := t.launches = [] ∧ t.teams = [] ∧ t.threads = [] ∧ t.tokens = [] ∧ t.accesses = [] ∧ t.placed = [] ∧
       t.skim = Skim.reset ∧ t.boot.released = false ∧ t.mem.dirty = [] ∧ t.mem.rsb = [] ∧ t.mem.copies = [] ∧ t.spaces.length = 64
     (∃ t, exec .powerOn s = .next t ∧ empty t ∧ t.boot.stage = 0 ∧ t.boot.preserve = false ∧ t.boot.carve = 0) ∧
     let first := if s.launches = [] then 0 else 1
     (∃ t, exec (.cold d) s = .next t ∧ empty t ∧ t.boot.stage = first ∧ t.boot.warmStart = false ∧ t.boot.failed = false) ∧
     (d.getLsbD 0 = false → s.boot.failed = false → ∃ t, exec (.warm d) s = .next t ∧ empty t ∧ t.boot.stage = first ∧ t.boot.warmStart = true ∧
       t.boot.selfRefresh = true ∧ ∀ e ∈ t.mem.home, e.1 < 0xC000000000) ∧
     (110 ≤ temp → s.boot.tripped = false → ∃ t, exec (.thermalTrip die temp) s = .next t ∧ empty t ∧ t.boot.tripped = true ∧
       t.boot.vcore = false ∧ t.boot.selfRefresh = true ∧ t.boot.frozenCmd = false ∧ t.boot.frozenPin = false ∧ t.boot.alert.getLsbD 3 = true))

/-- R59 to R62, R404: FREEZE, THAW and FREEZE_N start and end a freeze, which lasts while either cause does; ATTEST and EXTEND
run to their DONE events. R20, R21, R23, R24: a governor sample lowers the duty by 8 above the limit or at 95 °C, raises it by
1 with room and below 90 °C, is 8 at 105 °C and while power is held, and keeps the power read-outs; during a freeze and after a trip it only takes the
temperatures (log 45); the power hold and the hot alert set their bits, and a sample with room ends the power hold. A report takes the nonce as it
stands when it is made (log 22), and that only the four compute dies count for the temperatures is the model's choice (log 45). -/
def Obligations.FreezeAttestationAndGovernorAct : Prop :=
  (∀ (s : State) (d : Word32), s.boot.failed = false →
     let still := s.boot.tripped || (s.boot.warmStart && !s.boot.released && decide (s.boot.stage < 5))
     (∃ t, exec (.freeze d) s = .next t ∧ t.boot.frozenCmd = true ∧ t.boot.selfRefresh = true ∧ t.mem = s.mem ∧ t.core = s.core) ∧
     (s.boot.frozenCmd = true → s.kamub.held = [] ∨ s.boot.frozenPin = true → ∃ t, exec (.thaw d) s = .next t ∧ t.boot.frozenCmd = false ∧
       t.boot.frozenPin = s.boot.frozenPin ∧ t.boot.brkHit.getLsbD 20 = false ∧
       t.boot.selfRefresh = (if s.boot.frozenPin then s.boot.selfRefresh else still) ∧ t.mem = s.mem) ∧
     exec .freezeNLow s = .next { s with boot := { s.boot with frozenPin := true, selfRefresh := true } } ∧
     (s.boot.frozenPin = true → s.kamub.held = [] ∨ s.boot.frozenCmd = true → ∃ t, exec .freezeNHigh s = .next t ∧ t.boot.frozenPin = false ∧
       t.boot.frozenCmd = s.boot.frozenCmd ∧ t.boot.selfRefresh = (if s.boot.frozenCmd then s.boot.selfRefresh else still) ∧ t.mem = s.mem) ∧
     (s.boot.attBusy = false →
       exec (.attest d) s = .next { s with boot := { s.boot with attBusy := true, attErr := s.boot.attErr && !d.getLsbD 9, attJob := some .attest, attIndex := (d >>> 2).setWidth 3 } } ∧
       (((d >>> 2).setWidth 3 : BitVec 3).toNat < 4 → exec (.extend d) s = .next { s with boot := { s.boot with attErr := true, attIndex := (d >>> 2).setWidth 3 } }) ∧
       (4 ≤ ((d >>> 2).setWidth 3 : BitVec 3).toNat →
         exec (.extend d) s = .next { s with boot := { s.boot with attBusy := true, attErr := s.boot.attErr && !d.getLsbD 9, attJob := some (.extend ((d >>> 2).setWidth 3) s.boot.measData), attIndex := (d >>> 2).setWidth 3 } })) ∧
     (s.boot.attJob = some .attest → s.boot.attNonce.length = 32 → ∃ t, exec .attestDone s = .next t ∧ t.boot.attBusy = false ∧ t.boot.attJob = none ∧ t.boot.meas = s.boot.meas ∧
       t.boot.attReport.take 40 = toBytes 4 1 ++ toBytes 4 0 ++ s.boot.attNonce) ∧
     (∀ (k : BitVec 3) (digest : List Byte), s.boot.attJob = some (.extend k digest) → s.boot.meas.length = 8 →
       ∃ t, exec .extendDone s = .next t ∧ t.boot.attBusy = false ∧ t.boot.attJob = none ∧
         ∀ i < 8, t.boot.meas.getD i 0 = if i = k.toNat then sha512 (toBytes 64 (s.boot.meas.getD i 0).toNat ++ digest) else s.boot.meas.getD i 0)) ∧
  (∀ (s : State) (power : Nat) (temps : List Nat) (die : Fin 4) (temp : Nat),
     let limit := s.gov.limit.toNat
     let up := power + 25 ≤ limit ∧ ∀ t ∈ temps, t < 90
     let down := limit < power ∨ ∃ t ∈ temps, 95 ≤ t
     (s.boot.frozenCmd = true ∨ s.boot.frozenPin = true ∨ s.boot.tripped = true →
       ∃ t, exec (.governorSample power temps) s = .next t ∧ t.boot.dieTemps = temps ∧ t.gov.duty = s.gov.duty ∧ t.gov.power = s.gov.power ∧
         t.gov.peak = s.gov.peak ∧ t.mem = s.mem ∧ t.core = s.core) ∧
     (s.boot.frozenCmd = false → s.boot.frozenPin = false → s.boot.tripped = false →
       ∃ t, exec (.governorSample power temps) s = .next t ∧ t.gov.power = power ∧ t.gov.peak = Nat.max s.gov.peak power ∧
         t.boot.dieTemps = temps ∧ t.mem = s.mem ∧ t.core = s.core ∧
         ((∃ x ∈ temps, 105 ≤ x) → s.gov.duty ≤ 64 → t.gov.duty = 8) ∧
         (s.gov.causePower = true → ¬up → t.gov.duty = 8 ∧ t.gov.causePower = true) ∧
         (s.gov.causePower = true → up → t.gov.causePower = false ∧ (s.gov.duty ≤ 64 → t.gov.duty = Nat.min 64 (s.gov.duty + 1))) ∧
         (s.gov.causePower = false → (∀ x ∈ temps, x < 105) → s.gov.duty ≤ 64 → down → t.gov.duty = Nat.max 8 (s.gov.duty - 8)) ∧
         (s.gov.causePower = false → s.gov.duty ≤ 64 → up → t.gov.duty = Nat.min 64 (s.gov.duty + 1)) ∧
         (s.gov.causePower = false → ¬up → ¬down → t.gov.duty = s.gov.duty)) ∧
     (s.gov.duty = 8 → 100 ≤ s.gov.overFor → s.gov.causePower = false → s.boot.frozenCmd = false → s.boot.frozenPin = false →
       ∃ t, exec .powerHold s = .next t ∧ t.gov = { s.gov with causePower := true } ∧ t.boot = { s.boot with alert := s.boot.alert ||| 2 } ∧
         t.mem = s.mem ∧ t.core = s.core) ∧
     (105 ≤ temp → ∃ t, exec (.hot die temp) s = .next t ∧ t.gov.hot = true ∧ t.boot.alert = s.boot.alert ||| 4 ∧
       t.boot.dieTemps = s.boot.dieTemps.set die.val temp ∧ t.mem = s.mem))

/-- R35, R37, R53: a flit error counts a retry until the eighth; then, or when it is told to, the port goes down, drops every
companion copy and raises its alert; training and link changes set exactly the port's own bits, in a failed start too. R36, R37, R49, R395 to R397: an
inbound packet is counted, answered or written as its kind says, and refused where its space is off; a message meets the oldest posted receive of
its connection and tag, writes what the receive has room for, and completes it; what inbound data writes is what its addresses read after. A UET
read answers the bytes at home; a trimmed message goes out again, and an acknowledgement ends its send, whose failure SEND_FAIL counts, or DEFER_FAIL for a deferred send; during a freeze a
port stays as it is (R61), and a space that drops its packets ignores every kind (R48). The model's own in it: what a port that is down ignores, the
access error that answers an unusable connection or an unmapped target and that REFUSED does not count, and a UET read's answer from below the dirty
lines (log 24), with the stored bytes of a word that holds an uncorrectable error (log 49). -/
def Obligations.LinksAndEthernetActByKind : Prop :=
  (∀ (s : State) (p : Fin 4) (e : Fin 16) (llr : Bool),
     let up := s.kamub.up.getLsbD p.val
     let retries := s.kamub.retries.getD p.val 0
     let eth (f : EthPort → EthPort) : State := { s with eth := listMod s.eth e.val f }
     let down (i : Instr) : Prop := ∃ t, exec i s = .next t ∧ t.kamub.up = s.kamub.up &&& ~~~(1#4 <<< p.val) ∧
       t.kamub.down = s.kamub.down ||| (1#4 <<< p.val) ∧ t.kamub.copies = [] ∧ t.boot.alert = s.boot.alert ||| 0x20 ∧ t.mem = s.mem ∧
       t.spaces = s.spaces ∧ t.queues = s.queues
     let still := s.boot.frozenCmd = true ∨ s.boot.frozenPin = true
     let noHang := ∀ l ∈ s.launches, l.hang < lrHang l.raw
     (still → exec (.flitCrcError p) s = .next s ∧ exec (.portDown p) s = .next s ∧ exec (.ethLinkDown e) s = .next s) ∧
     (¬still → up = true → retries < 8 → exec (.flitCrcError p) s = .next { s with kamub := { s.kamub with
       retries := listMod s.kamub.retries p.val (· + 1), retryCount := Nat.min 255 (s.kamub.retryCount + 1) } }) ∧
     (¬still → noHang → up = true → 8 ≤ retries → down (.flitCrcError p)) ∧ (¬still → noHang → up = true → down (.portDown p)) ∧
     (up = false → exec (.portTrainRetry p) s = .next { s with kamub := { s.kamub with retries := s.kamub.retries.set p.val 0 } }) ∧
     (7 ≤ s.boot.stage → s.boot.tripped = false →
       exec (.portUp p) s = .next { s with kamub := { s.kamub with up := s.kamub.up ||| (1#4 <<< p.val), retries := s.kamub.retries.set p.val 0 } } ∧
       exec (.ethLinkUp e llr) s = .next (eth (fun x => { x with up := true, llr := llr }))) ∧
     (¬still → exec (.ethLinkDown e) s = .next (eth (fun x => { x with up := false, llr := false })))) ∧
  (∀ (s : State) (p : Fin 16) (sp : Fin 64) (conn len op : Nat) (va : Word64) (data : List Byte) (tag : Word32) (ok : Bool)
     (out : Output) (pas : List Nat) (why : NoTarget),
     s.boot.released = true → s.boot.frozenCmd = false → s.boot.frozenPin = false → (s.eth.getD p.val EthPort.reset).up = true →
     let port (f : EthPort → EthPort) : State := { s with eth := listMod s.eth p.val f }
     let answer (x : EthAnswer) (t : State) : Out := .next { t with outputs := t.outputs ++ [.ethResponse p.val x] }
     let usable := (space s sp.val).enable = true ∧ connOk s sp.val conn = true
     let closed (why : NoTarget) : State := if why = .closed then port (fun e => { e with refused := satAdd 255 e.refused 1 }) else s
     let meets (q : Posted) : Prop := q.space = sp.val ∧ q.conn = conn ∧ (q.tag = tag ∨ q.tag = 0xFFFFFFFF)
     let by_ (q : Posted) : Nat := ((access? s q.access).map (·.f.thread)).getD 0
     (match matchReceive s sp.val conn tag with
       | none => ∀ q ∈ s.posted, ¬meets q
       | some r => r ∈ s.posted ∧ meets r ∧ ∀ q ∈ s.posted, meets q → by_ q < 2 ^ 21 → r.cycle ≤ q.cycle ∧ (q.cycle = r.cycle → by_ r ≤ by_ q)) ∧
     (∀ (x : Nat), pas.Nodup → pas.length = data.length → (∀ q ∈ pas, reachable s q = true) → s.skim.lines = [] → s.kamub.copies = [] → s.MemOk →
       let t := inbound sp.val pas data s
       (∀ i < pas.length, readHome t (pas.getD i 0) 1 = [data.getD i 0]) ∧ (x ∉ pas → readHome t x 1 = readHome s x 1)) ∧
     ((space s sp.val).dropEth = true → (∀ k, exec (.ethRx p sp conn k) s = .next s) ∧ exec (.uetReadRequest p sp conn va len) s = .next s) ∧
     ((space s sp.val).dropEth = false →
       exec (.ethRx p sp conn .uud) s = .next (port (fun e => { e with uudDrop := satAdd 255 e.uudDrop 1 })) ∧
       exec (.ethRx p sp conn .secured) s = .next (port (fun e => { e with refused := satAdd 255 e.refused 1 })) ∧
       ((space s sp.val).enable = true → exec (.ethRx p sp conn .trimmed) s = answer .nack (port (fun e => { e with trimRx := satAdd 255 e.trimRx 1 })) ∧
         exec (.ethRx p sp conn .atomic) s = answer .unsupported s) ∧
       ((space s sp.val).enable = false → exec (.ethRx p sp conn .trimmed) s = answer .accessError s ∧
         exec (.ethRx p sp conn .atomic) s = answer .accessError s) ∧
       (¬usable → exec (.ethRx p sp conn (.write va data)) s = answer .accessError s ∧
         exec (.ethRx p sp conn (.send tag data)) s = answer .accessError s ∧
         exec (.uetReadRequest p sp conn va len) s = answer .accessError s) ∧
       (usable → matchReceive s sp.val conn tag = none → exec (.ethRx p sp conn (.send tag data)) s = answer .notReady s) ∧
       (∀ (r : Posted) (a : Access), usable → matchReceive s sp.val conn tag = some r → access? s r.access = some a →
         let n := Nat.min data.length a.b.toNat
         (openRange s r.space a.a.toNat n = .error why → exec (.ethRx p sp conn (.send tag data)) s = answer .accessError (closed why)) ∧
         (openRange s r.space a.a.toNat n = .ok pas → let w := inbound r.space pas data s
           ∃ t, exec (.ethRx p sp conn (.send tag data)) s = .next t ∧ t.outputs = w.outputs ++ [.ethResponse p.val .ok] ∧ t.mem = w.mem ∧
             t.posted = w.posted.filter (fun q => q.access != r.access) ∧ t.launches = w.launches ∧ t.eth = w.eth ∧
             access? t r.access = (access? w r.access).map (fun x => { x with st := .done, result := BitVec.ofNat 256 (n + (if a.b.toNat < data.length then 2 ^ 32 else 0)) }))) ∧
       (usable → openRange s sp.val va.toNat data.length = .ok pas →
         exec (.ethRx p sp conn (.write va data)) s = answer .ok (inbound sp.val pas data s)) ∧
       (usable → openRange s sp.val va.toNat data.length = .error why → exec (.ethRx p sp conn (.write va data)) s = answer .accessError
         (closed why)) ∧
       (usable → pas.length = len → (∀ i < len, ∃ q l, translate s 160 sp.val (va.toNat + i) .device = .ok (pas.getD i 0) q l ∧ reachable s (pas.getD i 0) = true) →
         exec (.uetReadRequest p sp conn va len) s = .next { s with outputs := s.outputs ++
           [.ethRead p.val (pas.map (fun pa => if 2 ^ 51 ≤ pa then tabGet 0 s.mem.comp pa else atHomeByte s pa))] })) ∧
     (sentBy s op = some out → exec (.ethTrimNack op) s = .next { s with outputs := s.outputs ++ [out] }) ∧
     (sentBy s op = some (.ethSend op sp.val conn tag data) → op < 2 ^ 80 → sp.val < s.spaces.length →
       ∃ t, exec (.nsendAck op ok) s = .next t ∧ sentBy t op = none ∧ t.mem = s.mem ∧
         access? t op = (access? s op).map (fun a => { a with st := .done, result := if ok then 0 else 1 }) ∧
         (space t sp.val).sendFail = (if ok = false ∧ op < 2 ^ 79 then satAdd 65535 (space s sp.val).sendFail 1 else (space s sp.val).sendFail) ∧
         (space t sp.val).deferFail = (if ok = false ∧ 2 ^ 79 ≤ op then satAdd 65535 (space s sp.val).deferFail 1 else (space s sp.val).deferFail)))

/-- R31, R32, R33, R35, R62: a companion read of device memory answers the committed bytes and changes no byte; a companion
write of one line, or a request for its ownership, is seen by every later read at its home, and aborts with CONFLICT each transaction that shadows
the line and is ACTIVE or QUEUED, in whatever space; a hole answers an error; during a freeze a request waits, and with no
port up nothing happens. The model's own in it: which companion addresses are backed is the schedule's choice (log 15), a request before READY or
with no port up does nothing (log 24), and a read answers the stored bytes of a word that holds an uncorrectable error (log 49). -/
def Obligations.CompanionAccessesReadAndWriteHome : Prop :=
  ∀ (s : State) (pa len v : Nat) (data : List Byte) (keep own : Bool) (g : VTag) (l : Launch),
    let linked := s.boot.released = true ∧ s.kamub.up ≠ 0
    let acts := linked ∧ s.boot.frozenCmd = false ∧ s.boot.frozenPin = false
    let waits (r : CompReq) : Out := .next { s with kamub := { s.kamub with held := s.kamub.held ++ [r] } }
    let device (n : Nat) : Prop := ∀ i < n, (∃ d, backing s (pa + i) = .hbm d) ∨ (∃ d, backing s (pa + i) = .carve d)
    (acts → device len → ∃ t, exec (.companionRead pa len keep) s = .next t ∧
      t.outputs = s.outputs ++ [.companion (some ((List.range len).map (fun i => if 2 ^ 51 ≤ pa then tabGet 0 s.mem.comp (pa + i) else homeByte s (pa + i))))] ∧
      t.mem = s.mem ∧ t.skim = s.skim ∧ t.launches = s.launches ∧
      (keep = true → ∀ i < len, ∃ c ∈ t.kamub.copies, c.line = (pa + i) / 128)) ∧
    (acts → device data.length → (∀ x ∈ s.skim.lines, tabWf x.bytes = true) → tabWf s.skim.tags = true → s.MemOk → 0 < data.length →
      pa % 128 + data.length ≤ 128 → pa + data.length ≤ 2 ^ 51 →
      ∃ t, exec (.companionWrite pa data own) s = .next t ∧
        (∀ x < 2 ^ 51, homeByte t x = if pa ≤ x ∧ x < pa + data.length then data.getD (x - pa) 0 else homeByte s x) ∧
        ((∃ x ∈ s.skim.lines, x.line = pa / 128 ∧ x.vt = v) → tag? s v = some g → g.st = .active ∨ g.st = .queued → launch? s g.launch = some l →
          l.vt = some v → l.cause = none → (∀ m ∈ s.teams, m.vt ≠ some v) →
          ∃ h k, tag? t v = some h ∧ h.st = .aborting ∧ h.cause = 0x09 ∧ launch? t l.id = some k ∧ k.phase = .aborted ∧ k.cause = some 0x09) ∧
        ((∀ x ∈ s.skim.lines, x.line = pa / 128 → ∀ h, tag? s x.vt = some h → h.st = .committing ∨ h.st = .draining) →
          t.launches = s.launches ∧ t.skim.tags = s.skim.tags)) ∧
    (acts → ¬device len → exec (.companionRead pa len keep) s = .next { s with outputs := s.outputs ++ [.companion none] }) ∧
    (acts → ¬device data.length → exec (.companionWrite pa data own) s = .next { s with outputs := s.outputs ++ [.companion none] }) ∧
    (linked → ¬acts → exec (.companionRead pa len keep) s = waits (.read pa len keep) ∧
      exec (.companionWrite pa data own) s = waits (.write pa data own)) ∧
    (¬linked → exec (.companionRead pa len keep) s = .next s ∧ exec (.companionWrite pa data own) s = .next s)

/-! ## Translation, queues, kills and pages (R69, R76 to R91, R138, R145 to R149) -/

/-- R76, R77, R81 to R83, R69: a shootdown removes exactly the matching translations and is busy until its accesses are done, and the
stores of theirs that stood in remote store buffers, while no cache holds a matching entry;
the fault ring's enable zeroes PROD; RETRY and FATAL retire the fault that they name, and set BAD_ID where they name none; a
space is disabled only while nothing of it lives. -/
def Obligations.TranslationRegistersActAsStated : Prop :=
  ∀ (s : State) (d : Word32) (n : Fin 64) (f : FaultRec), s.boot.failed = false → s.boot.frozenCmd = false → s.boot.frozenPin = false →
    n.val < s.spaces.length →
    let v := d.toNat
    let space_ := v % 64
    let scope := v / 64 % 4
    let size := v / 256 % 8
    let va := s.xlat.invLo.toNat / 4096 * 4096 + s.xlat.invHi.toNat % 2 ^ 22 * 2 ^ 32
    let bytes := [0x1000, 0x4000, 0x10000, 0x200000, 0x2000000, 0x40000000].getD size 0
    let hit (e : TlbEntry) : Bool := scope == 2 || (e.space == space_ && (scope == 1 || 4096 * e.vpn / bytes == va / bytes))
    (s.xlat.invBusy = false → scope ≠ 3 → size < 6 →
      ∃ t, exec (.shootdown d) s = .next t ∧ t.xlat.tlb = s.xlat.tlb.filter (fun e => !hit e) ∧ t.xlat.invBusy = true ∧ t.mem = s.mem ∧
        t.accesses = s.accesses) ∧
    (s.xlat.invBusy = true → ∀ e ∈ s.xlat.tlb, invHits s.xlat e.space e.vpn = true → exec .shootdownDone s = .next s) ∧
    (s.xlat.invBusy = true ∨ scope = 3 ∨ 6 ≤ size →
      ∃ t, exec (.shootdown d) s = .next t ∧ t.xlat.invErr = true ∧ t.xlat.tlb = s.xlat.tlb ∧ t.xlat.invBusy = s.xlat.invBusy) ∧
    (s.xlat.invBusy = true → (∀ i ∈ s.xlat.invHeld, ∀ a, access? s i = some a → a.st ≠ .flight ∧ a.st ≠ .held) →
      (∀ e ∈ s.mem.rsb, ∀ k ∈ s.xlat.invLines, e.1 / 2 ^ 52 * 2 ^ 45 + e.1 % 2 ^ 52 / 128 ≠ k) →
      (∀ e ∈ s.xlat.tlb, invHits s.xlat e.space e.vpn = false) → exec .shootdownDone s = .next { s with xlat := { s.xlat with invBusy := false, invHeld := [], invLines := [] } }) ∧
    (∃ t, exec (.xlatFqEnable d) s = .next t ∧ t.xlat.fqEnable = true ∧ t.xlat.fqLog = d.setWidth 4 ∧
      ((∀ g ∈ s.xlat.faults, g.id.isSome = true) → (s.xlat.fqEnable = false → t.xlat.prod = 0) ∧ t.mem = s.mem)) ∧
    (∃ t, exec (.xlatFqConsWrite d) s = .next t ∧ t.xlat.cons = d ∧ ((∀ g ∈ s.xlat.faults, g.id.isSome = true) → t.mem = s.mem ∧ t.xlat.prod = s.xlat.prod)) ∧
    (s.xlat.faults.find? (fun g => g.id == some s.xlat.respId.toNat) = none →
      exec .retry s = .next { s with xlat := { s.xlat with badId := true } } ∧ exec .fatal s = .next { s with xlat := { s.xlat with badId := true } }) ∧
    (s.xlat.faults.find? (fun g => g.id == some s.xlat.respId.toNat) = some f → (∀ g ∈ s.xlat.faults, g.id.isSome = true) →
      ∃ t, exec .retry s = .next t ∧ t.xlat.faults = s.xlat.faults.filter (fun g => g.key != f.key) ∧ t.mem = s.mem ∧
        (∀ a ∈ t.accesses, ∀ k x, a.st ≠ .parked k x (some f.key)) ∧ (∀ q ∈ t.queues, q.fault ≠ some f.key)) ∧
    (s.xlat.faults.find? (fun g => g.id == some s.xlat.respId.toNat) = some f → ∃ t, exec .fatal s = .next t ∧ (∀ g ∈ t.xlat.faults, g.key = f.key → False)) ∧
    (d.getLsbD 0 = true → exec (.asCtrlWrite n d) s = .next (modSpace n.val (fun p => { p with enable := true }) s)) ∧
    (d.getLsbD 0 = false → live s n.val ≠ 0 → exec (.asCtrlWrite n d) s = .next s) ∧
    (d.getLsbD 0 = false → live s n.val = 0 → exec (.asCtrlWrite n d) s = .next (modSpace n.val (fun p => { p with enable := false, dropEth := false, cutOver := false }) s))

/-- R53, R85, R87, R88: enabling a queue stores its fields and clears its error, and reads HEAD and TAIL where its space is
enabled; before READY it binds nothing; disabling clears ENABLE alone, and reading TAIL
moves it forward, stops the queue with 2 where TAIL moves back, and with 1 where it overruns the ring. R87, R138, R139: taking
a record copies its 256 bytes, advances HEAD by one, and reads the words it depends on; a record with a broken LR_DONE stops
the queue with 4; a dependency word is judged by its mode against the bytes at its address. The model's own in it: when HEAD, TAIL and dependency
words are read (log 27), that ENABLE does nothing during a freeze, as before READY (log 25), and that an access which companion memory answers with an
error changes nothing (log 51). -/
def Obligations.QueuesTakeRecordsAndJudgeDependencies : Prop :=
  (∀ (s : State) (q : Fin 64) (d : Word32) (pa p lvl : Nat), s.boot.failed = false → q.val < s.queues.length →
     let x := queue s q.val
     let base := x.baseLo.toNat / 256 * 256 + x.baseHi.toNat % 2 ^ 22 * 2 ^ 32
     let size := 2 ^ Nat.max 4 x.logSize.toNat
     let tail := ofBytes (readHome s pa 8)
     let stops (e : Nat) : Out := .next (modQueue q.val (fun x => { x with err := e, stopped := true, fault := none }) s)
     let runs := s.boot.released = true ∧ s.boot.frozenCmd = false ∧ s.boot.frozenPin = false
     let bound := modQueue q.val (fun x => { x with
         space := BitVec.ofNat 6 (d.toNat % 64), prio := BitVec.ofNat 2 (d.toNat / 64 % 4), logSize := BitVec.ofNat 4 (d.toNat / 256 % 16),
         enable := true, err := 0, stopped := false, needHead := true, fault := none }) s
     (x.enable = false → ¬runs → exec (.queueEnable q d) s = .next s) ∧
     (x.enable = false → runs → (space s (d.toNat % 64)).enable = false → exec (.queueEnable q d) s = .next bound) ∧
     (x.enable = false → runs → (space s (d.toNat % 64)).enable = true → exec (.queueEnable q d) s = .next (readTail q.val bound)) ∧
     (x.enable = true → exec (.queueEnable q d) s = .next s ∧
       exec (.queueDisable q d) s = .next (modQueue q.val (fun x => { x with enable := false }) s)) ∧
     (queueRuns s q.val = true → x.needHead = false → translate s 160 x.space.toNat base .devWrite = .ok pa p lvl → pteOpen p = true →
       exec (.queueTailRead q) s = if reachable s pa = false then .next s else if tail < x.tail then stops 2 else if size < tail - x.head then stops 1
         else .next (modQueue q.val (fun x => { x with tail := tail }) s)) ∧
     (queueRuns s q.val = false → exec (.queueTailRead q) s = .next s)) ∧
  (∀ (s : State) (q : Fin 64) (k : Fin 4) (index pa p lvl ha hp hl : Nat) (w : Waiting), q.val < s.queues.length →
     let x := queue s q.val
     let base := queueBase s q.val
     let raw := readHome s pa 256
     (queueRuns s q.val = true → x.needHead = false → x.head < x.tail →
       translate s 160 x.space.toNat (base + 256 + 256 * (x.head % queueSize s q.val)) .devWrite = .ok pa p lvl → pteOpen p = true →
       translate s 160 x.space.toNat (base + 128) .devWrite = .ok ha hp hl → pteOpen hp = true →
       (reachable s pa = false → exec (.recordTake q) s = .next s) ∧
       (reachable s pa = true → lrDone raw % 8 ≠ 0 → exec (.recordTake q) s = .next (modQueue q.val (fun x => { x with err := 4, stopped := true, fault := none }) s)) ∧
       (reachable s pa = true → reachable s ha = true → lrDone raw % 8 = 0 → (openTarget s x.space.toNat (lrDone raw) 8).isSome = true → lrLimitsOk raw = true → (∀ i < 4, lrDepMode raw i = 0) →
         exec (.recordTake q) s = .next (modQueue q.val (fun y => { y with head := x.head + 1, waiting := y.waiting ++
           [{ index := x.head, raw := raw, sat := [true, true, true, true], monitored := [none, none, none, none], faults := [none, none, none, none], wasElig := false }] })
           (writeSys ha (toBytes 8 (x.head + 1)) s)))) ∧
     (x.waiting.find? (fun y => y.index == index) = some w → w.wasElig = false → w.faults.getD k.val none = none → lrDepMode w.raw k.val ≠ 0 →
       s.boot.frozenCmd = false → s.boot.frozenPin = false → translate s 160 x.space.toNat (lrDepAddr w.raw k.val) .device = .ok pa p lvl →
       w.sat.length = 4 → reachable s pa = true →
       let v := ofBytes (readHome s pa 8)
       let holds := if lrDepMode w.raw k.val = 1 then decide (v = lrDepVal w.raw k.val) else decide (lrDepVal w.raw k.val ≤ v)
       let judged (i : Instr) : Prop := ∃ t y, exec i s = .next t ∧ (queue t q.val).waiting.find? (fun y => y.index == index) = some y ∧
         y.sat.getD k.val false = holds ∧ (∀ j, j ≠ k.val → y.sat.getD j false = w.sat.getD j false) ∧ y.raw = w.raw ∧ t.mem = s.mem
       ((w.monitored.getD k.val none).isSome = true → judged (.depWordRead q index k)) ∧
       ((w.monitored.getD k.val none).isSome = false → (s.pollAt = s.cycles ∨ s.pollAt + 7000 ≤ s.cycles) → judged (.depPoll q index k))))

/-- R90, R145, R149: a kill of a record that waits removes it and gives its completion word the code 0x17; a kill of a launch that runs or is held
aborts it with that code; what is QUEUED, COMMITTING or finished is not affected; KILL_ALL leaves no record of the queue waiting; a busy kill refuses
the next; the kill is done once no killed launch is left; enabling a placer ring zeroes its counters, and enabling it again changes nothing. R147 to
R149: PAGE_MIGRATE takes a frame from the die's free ring or skips a bad one; then it copies the page into the new frame, with the stores to it that
stood in remote store buffers, swaps its leaf for one that names the new frame and is otherwise equal, writes the log entry and drops the page's
translations, or gives the frame back where the leaf has changed, with the page copied; while a transaction
shadows the page, or the log ring is full, it waits. That a migration takes two events is the model's reading (log 39), and so is that a launch that
hangs in the cycle of a kill hangs first (log 36), what a kill does in a failed start or during a freeze (log 42), and that a free ring in companion
memory that does not answer gives no frame (log 51). -/
def Obligations.KillsPlacersAndPageMigration : Prop :=
  (∀ (s : State) (d : Word32) (die : Fin 4) (log : Bool) (w : Waiting) (v : Nat) (g : VTag) (l : Launch), die.val < s.placers.length →
     let q := (d.setWidth 6 : BitVec 6).toNat
     let index := s.disp.killHi.toNat * 2 ^ 32 + s.disp.killLo.toNat
     let begun : State := { s with disp := { s.disp with killQ := d.setWidth 6, killAll := d.getLsbD 8, killBusy := true, killed := [] } }
     let idle := s.boot.failed = true ∨ s.boot.frozenCmd = true ∨ s.boot.frozenPin = true ∨ s.disp.killBusy = true
     let noHang := ∀ m ∈ s.launches, m.hang < lrHang m.raw
     let named (i : Nat) (x : Launch) : Bool := x.queue == q && x.index == i && x.parent.isNone
     let waits (i : Nat) : Option Waiting := (queue s q).waiting.find? (fun x => x.index == i)
     let running (x : Launch) : Prop := launch? s x.id = some x ∧ x.vt = some v ∧ tag? s v = some g ∧ g.launch = x.id ∧ g.st = .active ∧ x.cause = none ∧
       tabWf s.skim.tags = true ∧ ∀ m ∈ s.teams, m.vt ≠ some v
     let struck (x : Launch) (t : State) : Prop := ∃ k h, launch? t x.id = some k ∧ k.phase = .aborted ∧ k.cause = some 0x17 ∧ k.report = none ∧
       tag? t v = some h ∧ h.st = .aborting ∧ h.cause = 0x17 ∧ x.id ∈ t.disp.killed
     (idle → exec (.kill d) s = .next s ∧ exec (.killAll d) s = .next s) ∧
     (¬idle → ∃ t u, exec (.kill d) s = .next t ∧ exec (.killAll d) s = .next u ∧ t.disp.killBusy = true ∧ u.disp.killBusy = true ∧
       t.disp.killQ.toNat = q ∧ u.disp.killQ.toNat = q ∧ (noHang → t.mem = s.mem ∧ u.mem = s.mem) ∧ (q < s.queues.length → (queue u q).waiting = []) ∧
       (waits index = none → s.launches.find? (named index) = some l → noHang → running l → struck l t ∧ t.disp.kills = Nat.min 255 (s.disp.kills + 1)) ∧
       (s.launches.find? (named l.index) = some l → noHang → running l → struck l u)) ∧
     (¬idle → q < s.queues.length → waits index = some w →
       ∃ t, exec (.kill d) s = .next t ∧ t.disp.kills = Nat.min 255 (s.disp.kills + 1) ∧
         (queue t q).waiting = (queue s q).waiting.filter (fun x => x.index != index) ∧
         ∃ x, t.launches = s.launches ++ [x] ∧ x.raw = w.raw ∧ x.phase = .aborted ∧ x.cause = some 0x17 ∧ x.report = none) ∧
     (¬idle → waits index = none → s.launches.find? (named index) = none → exec (.kill d) s = .next begun) ∧
     (¬idle → waits index = none → s.launches.find? (named index) = some l → noHang → launch? s l.id = some l → l.vt = some v →
       (∀ g, tag? s v = some g → g.st ≠ .active) → (l.cause = none ∨ l.causeAt ≠ s.cycles) → exec (.kill d) s = .next begun) ∧
     (¬idle → (queue s q).waiting = [] → (∀ l ∈ s.launches, l.queue ≠ q) → exec (.killAll d) s = .next begun) ∧
     (let finished := s.disp.killBusy = true ∧ s.boot.frozenCmd = false ∧ s.boot.frozenPin = false ∧ ∀ i ∈ s.disp.killed, launch? s i = none
      (finished → exec .killDone s = .next { s with disp := { s.disp with killBusy := false, killed := [] } }) ∧
      (¬finished → exec .killDone s = .next s)) ∧
     (let p := s.placers.getD die.val Placer.reset
      let rings (i : Instr) (x : Placer) : Prop := exec i s = .next { s with placers := s.placers.set die.val x }
      (s.boot.failed = true → exec (.plcRingEnable die log d) s = .next s) ∧
      (s.boot.failed = false →
        (p.logOn = false → rings (.plcRingEnable die true d) { p with logLog := d.setWidth 4, logOn := true, logProd := 0, logCons := 0 }) ∧
        (p.freeOn = false → rings (.plcRingEnable die false d) { p with freeLog := d.setWidth 4, freeOn := true, freeProd := 0, freeCons := 0 }) ∧
        ((if log then p.logOn else p.freeOn) = true → exec (.plcRingEnable die log d) s = .next s)))) ∧
  (∀ (s : State) (sp : Fin 64) (va : Word64) (die : Fin 4) (level leaf at_ : Nat) (j : Move), die.val < s.placers.length →
     let page := va.toNat % 2 ^ 54 / 2 ^ 21 * 2 ^ 21
     let p := placer s die.val
     let ring := plcBase p.freeLo p.freeHi + 8 * (p.freeCons.toNat % ringSize p.freeLog)
     let e := ofBytes (readHome s ring 8)
     let stays := exec (.pageMigrate sp va die) s = .next s
     let placed (c : State) (x : Placer) : Prop := exec (.pageMigrate sp va die) s = .next { c with placers := listMod s.placers die.val (fun _ => x) }
     let ready := movable s die.val level leaf = true ∧ p.freeOn = true ∧ p.freeProd ≠ p.freeCons ∧ logRoom p = true
     (coresRun s = false ∨ s.disp.migrate = false → stays) ∧
     (coresRun s = true → s.disp.migrate = true → p.job = none →
       ((∀ k x, walk s sp.val page ≠ .leaf k x) → stays) ∧
       (walk s sp.val page = .leaf level leaf →
         (¬ready ∨ reachable s ring = false → stays) ∧
         (ready → reachable s ring = true →
           (frameOk s die.val e = true → placed s
             { p with freeCons := p.freeCons + 1, job := some { space := sp.val, va := page, leaf := leaf, frame := e } }) ∧
           (frameOk s die.val e = false → placed s { p with freeCons := p.freeCons + 1, badFrame := satAdd 255 p.badFrame 1 })))) ∧
     (coresRun s = true → s.disp.migrate = true → p.job = some j →
       let old := pteFrame j.leaf
       let c := copyPage old j.frame s
       let gone := placed c { p with freeCons := p.freeCons - 1, abandoned := satAdd 255 p.abandoned 1, job := none }
       let entry := plcBase p.logLo p.logHi + 32 * (p.logProd.toNat % ringSize p.logLog)
       let buffered (x k : Nat) : Option Byte := tabFind s.mem.rsb (x * 2 ^ 52 + old + k)
       (¬(j.space = sp.val ∧ j.va = page) → stays) ∧
       (j.space = sp.val → j.va = page →
         (pageShadowed s old = true ∨ logRoom p = false → stays) ∧
         (pageShadowed s old = false → logRoom p = true →
           (leafAddr c j.space j.va = none → gone) ∧
           (leafAddr c j.space j.va = some at_ → ofBytes (readHome c at_ 8) ≠ j.leaf → gone) ∧
           (leafAddr c j.space j.va = some at_ → ofBytes (readHome c at_ 8) = j.leaf →
             ∃ t, exec (.pageMigrate sp va die) s = .next t ∧
               placer t die.val = { p with job := none, logProd := p.logProd + 1, migrated := satAdd 65535 p.migrated 1 } ∧
               (∀ x ∈ t.xlat.tlb, ¬(x.space = j.space ∧ x.vpn / 512 = j.va / 2 ^ 21)) ∧ t.launches = s.launches ∧
               (s.MemOk → (∀ x ∈ s.skim.lines, tabWf x.bytes = true) → old % 2 ^ 21 = 0 → old + 2 ^ 21 ≤ 2 ^ 51 → j.frame % 2 ^ 21 = 0 →
                 j.frame + 2 ^ 21 ≤ 2 ^ 51 → old ≠ j.frame → at_ % 8 = 0 → at_ / 2 ^ 21 ≠ j.frame / 2 ^ 21 → entry / 2 ^ 21 ≠ j.frame / 2 ^ 21 →
                 at_ / 32 ≠ entry / 32 →
                 (∀ k < 2 ^ 21, (∀ x, buffered x k = none) → homeByte t (j.frame + k) = homeByte s (old + k)) ∧
                 (∀ k < 2 ^ 21, ∀ x b, buffered x k = some b → (∀ y, y ≠ x → buffered y k = none) → homeByte t (j.frame + k) = b) ∧
                 ofBytes (readHome t at_ 8) = j.leaf - old + j.frame ∧ pteFrame (ofBytes (readHome t at_ 8)) = j.frame ∧
                 (reachable s entry = true →
                   readHome t entry 32 = toBytes 8 j.va ++ toBytes 8 j.space ++ toBytes 8 old ++ toBytes 8 j.frame)))))))

/-! ## The Skim (R91, R109 to R136, R211, R229) -/

/-- R119 to R123, R125, R129: the chain of a commit. A quiet launch's tag queues, and requests of one network cycle stand in
the order of their tags; the unit takes the oldest request; each home walks once, and a launch whose tag wrote or read what the walk finds, or stands in the
reader set of its group, aborts with CONFLICT (R117, R118: in the committing space alone); the flip makes every byte of the tag's shadow the committed value; releases and drains follow, and an aborted tag
returns to FREE with its lines gone once no tag descends from it: a requeued launch's record goes back to its queue, a child's end reaches its
parent's team, and any other launch stays until its completion word. What COMMITS counts, and when an entry loses a tag, are the model's reading (log 30). -/
def Obligations.CommitChainPublishesAtTheFlip : Prop :=
  ∀ (s : State) (die : Fin 4) (id vt line : Nat) (l : Launch) (g : VTag) (c : Commit) (rest : List Nat), coresRun s = true →
    tag? s vt = some g →
    (launch? s id = some l → l.phase = .running → l.vt = some vt → l.nextTeam = lrTeams l.raw → g.st = .active →
      (∀ m ∈ s.teams, m.launch = id → m.retired = true) → (∀ k ∈ s.launches, k.parent ≠ some id) → (∀ a ∈ s.accesses, a.f.launch ≠ id) →
      let at_ (v : Nat) : Nat := tabGet 0 s.skim.reqAt v
      ∃ t, exec (.commitRequest id none) s = .next t ∧ tag? t vt = some { g with st := .queued } ∧ t.mem = s.mem ∧
        (vt ∉ s.skim.requests → t.skim.requests.Perm (vt :: s.skim.requests)) ∧
        ((∀ v ∈ s.skim.requests, at_ v < netCycle s) → t.skim.requests = s.skim.requests ++ [vt]) ∧
        ((∀ v ∈ s.skim.requests, at_ v = netCycle s) → s.skim.requests.Pairwise (· ≤ ·) → t.skim.requests.Pairwise (· ≤ ·))) ∧
    (s.skim.current = none → s.skim.requests = vt :: rest → netCycle s ≤ tabGet 0 s.skim.reqAt vt → exec .commitStart s = .next s) ∧
    (s.skim.current = none → s.skim.requests = vt :: rest → tabGet 0 s.skim.reqAt vt < netCycle s →
      ∃ t, exec .commitStart s = .next t ∧ t.skim.current = some { vt := vt, walked := [] } ∧ t.skim.requests = rest ∧
        tag? t vt = some { g with st := .committing } ∧ t.mem = s.mem) ∧
    (s.skim.current = some c → c.vt = vt → g.parent = none → die.val ∉ c.walked →
      (∀ e ∈ s.skim.entries, vt ∈ e.writers → homeDie e.unit_ ≠ die.val) →
      ∃ t, exec (.commitWalk die) s = .next t ∧ t.skim = { s.skim with current := some { vt := vt, walked := c.walked ++ [die.val] } } ∧
        t.mem = { s.mem with clean := t.mem.clean }) ∧
    (∀ (e : SkimEntry) (v : Nat) (h : VTag) (k : Launch), s.skim.current = some c → c.vt = vt → g.parent = none → die.val ∉ c.walked →
      s.skim.entries.filter (fun x => x.writers.contains vt && homeDie x.unit_ == die.val) = [e] →
      tag? s v = some h → launch? s h.launch = some k → k.vt = some v → k.parent = none → k.cause = none → tabWf s.skim.tags = true →
      let named (w : Nat) : Prop := w ∈ e.writers ∨ w ∈ e.readers ∨ (e.overflow = true ∧ w ∈ (tabFind s.skim.groups (e.unit_ / 4096)).getD [])
      let spaceOf (w : Nat) : Option Nat := ((tag? s w).bind (fun g => launch? s g.launch)).map (·.space)
      let struck : Prop := named v ∧ v ≠ vt ∧ spaceOf v = spaceOf vt ∧ (h.st = .active ∨ h.st = .queued)
      (struck → (∀ w, named w → w = v ∨ w = vt) → ∃ t g' k', exec (.commitWalk die) s = .next t ∧ tag? t v = some g' ∧ g'.st = .aborting ∧
        g'.cause = 0x09 ∧ launch? t k.id = some k' ∧ k'.phase = .aborted ∧ k'.cause = some 0x09) ∧
      (¬struck → (∀ w, named w → w = v ∨ w = vt) → ∃ t, exec (.commitWalk die) s = .next t ∧ t.launches = s.launches ∧ t.skim.tags = s.skim.tags)) ∧
    (s.skim.current = some c → c.vt = vt → g.st = .committing → g.parent = none → c.walked.length = 4 → s.kamub.copies = [] →
      s.skim.lines.Pairwise (fun x y => x.vt ≠ y.vt ∨ x.line ≠ y.line) → (∀ x ∈ s.skim.lines, tabWf x.bytes = true ∧ ∀ e ∈ x.bytes, e.1 < 128) →
      ∃ t, exec .commitFlip s = .next t ∧ t.skim.current = none ∧ t.skim.releasing = s.skim.releasing ++ [vt] ∧
        tag? t vt = some { g with st := .draining } ∧ t.skim.commits = satAdd 65535 s.skim.commits 1 ∧
        (∀ x ∈ s.skim.lines, x.vt = vt → ∀ e ∈ x.bytes, homeByte t (128 * x.line + e.1) = e.2) ∧ t.mem.home = s.mem.home) ∧
    (s.skim.releasing = vt :: rest → (∀ d ∈ s.skim.deferred, d.vt ≠ vt) →
      ∃ t, exec .commitRelease s = .next t ∧ t.skim.releasing = rest ∧ t.mem = s.mem) ∧
    (g.st = .draining → s.MemOk → s.skim.lines.Pairwise (fun x y => x.vt ≠ y.vt ∨ x.line ≠ y.line) →
      (∀ x ∈ s.skim.lines, tabWf x.bytes = true ∧ ∀ e ∈ x.bytes, e.1 < 128) →
      ∃ t, exec (.lineDrain vt line) s = .next t ∧ (∀ x ∈ t.skim.lines, ¬(x.vt = vt ∧ x.line = line)) ∧
        ∀ x ∈ s.skim.lines, x.vt = vt → x.line = line → ∀ e ∈ x.bytes, tabGet 0 t.mem.home (128 * line + e.1) = e.2) ∧
    (g.st = .aborting → (∃ e ∈ s.skim.tags, e.2.parent = some vt) → exec (.abortComplete vt) s = .next s) ∧
    (g.st = .aborting → (∀ e ∈ s.skim.tags, e.2.parent ≠ some vt) → tabWf s.skim.tags = true →
      ∃ t, exec (.abortComplete vt) s = .next t ∧ tag? t vt = none ∧
        ((∀ x, launch? s g.launch = some x → x.parent = none) → ∀ v, v ≠ vt → tag? t v = tag? s v) ∧ (∀ x ∈ t.skim.lines, x.vt ≠ vt) ∧
        (∀ x ∈ t.skim.deferred, x.vt ≠ vt) ∧ (∀ x ∈ t.skim.entries, vt ∉ x.writers ∧ vt ∉ x.readers) ∧ (∀ x ∈ t.skim.groups, vt ∉ x.2) ∧ t.mem = s.mem ∧
        (launch? s g.launch = none → t.launches = s.launches) ∧
        (launch? s g.launch = some l → l.vt = some vt →
          (l.requeue = true → l.teamCommits = 0 → l.queue < s.queues.length →
            launch? t l.id = none ∧ ∃ w ∈ (queue t l.queue).waiting, w.index = l.index ∧ w.raw = l.raw ∧ w.wasElig = true) ∧
          (l.requeue = false → l.parent = none → t.launches = s.launches) ∧
          (∀ p m, l.requeue = false → l.parent = some p → team? s l.parentTeam = some m → m.launch ≠ l.id →
            launch? t l.id = none ∧ ∃ x, team? t l.parentTeam = some x ∧ tabFind x.status l.number = some (l.cause.getD 0))) ∧
        (launch? s g.launch = some l → l.vt = none →
          (∃ m ∈ s.teams, m.launch = l.id ∧ ∃ v, m.vt = some v ∧ v ≠ vt ∧ (tag? s v).isSome = true) → t.launches = s.launches))

/-- R112, R211, R229: an L2 passes a shadow line to its home's share, a remote store buffer line takes its place at home, and
the serialising token moves to the next die once it may. R91, R124, R231: when a committed launch's words and releases are done,
its completion word is written at its LR_DONE address, with the open stores of its dies performed, and the launch is gone. -/
def Obligations.ShadowMovementsAndCompletionWord : Prop :=
  (∀ (s : State) (die : Fin 4) (d vt line : Nat) (x : Shadow), coresRun s = true →
     (s.skim.lines.find? (fun l => l.vt == vt && l.line == line) = some x → x.place = .l2 d → makeRoom (homeDie (128 * line)) 128 s = (true, s) →
       ∃ t, exec (.shadowEvict vt line) s = .next t ∧ t.mem = s.mem ∧
         t.skim.lines.find? (fun l => l.vt == vt && l.line == line) = some { x with place := .llc }) ∧
     (s.MemOk → 128 * line + 128 ≤ 2 ^ 51 → s.skim.lines = [] → s.kamub.copies = [] →
       ∃ t, exec (.rsbWriteback die line) s = .next t ∧ (∀ e ∈ t.mem.rsb, ¬(e.1 / 2 ^ 52 = die.val ∧ e.1 % 2 ^ 52 / 128 = line)) ∧
         ∀ i < 2 ^ 51, homeByte t i = if i / 128 = line then (tabFind s.mem.rsb (die.val * 2 ^ 52 + i)).getD (homeByte s i) else homeByte s i) ∧
     (netCycle s < s.scAt → exec .scTokenHop s = .next s) ∧
     (s.scAt ≤ netCycle s → (∀ w ∈ s.scWaiting, w % 4 ≠ s.scToken) ∨ s.scAt + 16 ≤ netCycle s →
       exec .scTokenHop s = .next { s with scToken := (s.scToken + 1) % 4, scAt := netCycle s + 5 })) ∧
  (∀ (s : State) (id v pa p lvl : Nat) (l : Launch), coresRun s = true → launch? s id = some l → l.parent = none → l.fault = none → l.vt = some v →
     l.phase = .committed → wordsTurn s id = true → (∀ g, tag? s v = some g → g.launch = id → g.st = .draining) → v ∉ s.skim.releasing →
     (∀ x ∈ s.skim.lines, x.vt = v → x.place ≠ .log) → l.requeue = false → l.cause = none →
     translate s 160 l.space (lrDone l.raw) .devWrite = .ok pa p lvl → pteOpen p = true → pteSys p = false → pa + 8 ≤ 2 ^ 51 → s.MemOk → s.skim.lines = [] →
     ∃ t, exec (.completionWord id) s = .next t ∧ launch? t id = none ∧ (∀ e ∈ t.mem.rsb, e.1 / 2 ^ 52 ∉ l.dies) ∧
       ofBytes (readHome t pa 8) = (if l.tern then 2 ^ 8 else 0) + 2 ^ 15 + 2 ^ 32 * (lrCookie l.raw % 2 ^ 32))

/-- R53, R61: while the cores are not released, or a freeze lasts, no event that the list names, of the fabric, the Skim, the queues or the
dispatcher, changes anything; and a freeze holds up the reads of dependency words, deadlines, hangs, a cluster's reset and the renumbering of
ages. -/
def Obligations.NothingOfTheFabricMovesWhileFrozen : Prop :=
  ∀ (s : State) (id vt line a b c core n : Nat) (team : Option Nat) (die : Fin 4) (q sp : Fin 64) (k : Fin 4) (va : Word64) (ecc : Ecc),
    s.boot.released = false ∨ s.boot.frozenCmd = true ∨ s.boot.frozenPin = true →
    (∀ i ∈ [Instr.dispatch, .completionWord id, .commitRequest id team, .commitStart, .commitWalk die, .commitFlip, .commitRelease,
        .lineDrain vt line, .abortComplete vt, .shadowEvict vt line, .rsbWriteback die line, .scTokenHop, .queueTailRead q, .recordTake q],
      exec i s = .next s) ∧
    (∀ i ∈ [Instr.teamReady id, .preempt id, .save id, .saveDone id core, .restore id, .restoreDone id, .pageMigrate sp va die],
      exec i s = .next s) ∧
    (∀ i ∈ [Instr.orderedIssue a, .accessResponse a ecc, .copyWordArrival a b, .strmCopy a b, .semWake core a b c, .parkResume a,
        .tokenArrive n, .tokenReturn n, .schedEval core, .blockResident core a b, .inject core a b c, .evict core a b, .hamperMove core,
        .departureComplete a],
      exec i s = .next s) ∧
    (s.boot.frozenCmd = true ∨ s.boot.frozenPin = true →
      ∀ i ∈ [Instr.clusterReset c, .ageRenumber core, .deadline id, .hang id, .depWordRead q n k, .depPoll q n k], exec i s = .next s)

/-! ## Launches, accesses, tokens and blocks (R97 to R104, R138 to R190, R214 to R217, R296) -/

/-- R138, R140, R141, R150: DISPATCH takes the record that R140 selects, gives it the next number and a tag, and removes it from its
queue; a launch whose reads are done starts with its image and parameters, or is refused with FORMAT. TEAM_READY places the
next team on the core that R142 chooses, whose die drops its copies of other homes' lines (R231), and waits while a launch of a higher priority that pre-empts has a claim on cores (log 37). R143, R144, R159, R160, R165: a top-level launch whose counter has reached its limit aborts
with DEADLINE or HANG, with HANG where both have, and with a fatal PERM where its hang map may not be written (R72); before that, and while something
pauses the hang counter, the events do nothing. The order of the
checks of a dispatch and of equal queues is the model's reading (logs 28 and 37), and so are the pauses of the counters (log 36); which FREE
tag is taken is its choice (log 52). -/
def Obligations.DispatchTeamsAndTimersActOnLaunches : Prop :=
  (∀ (s : State) (q id core v : Nat) (w : Waiting) (l : Launch) (h ps : List Byte) (im : Image), coresRun s = true →
     (resumable s = none → selection (noteHeads (unitsFit s) s) (unitsFit s) = some (q, none) → queueHead (noteHeads (unitsFit s) s) q = some w →
       ∃ t, exec .dispatch s = .next t ∧ t.disp.nextLaunch = s.disp.nextLaunch + 1 ∧ (∀ x ∈ (queue t q).waiting, x.index ≠ w.index) ∧
         ∃ k ∈ t.launches, k.id = s.disp.nextLaunch ∧ k.raw = w.raw ∧ k.queue = q ∧ k.index = w.index ∧ k.parent = none ∧
           k.prio = Nat.min (lrPrio w.raw) (queue s q).prio.toNat ∧ k.vt = if lrTeamGran w.raw then none else pickTag s) ∧
     (resumable s = some l → launch? s l.id = some l → readParams s l.space l.raw = .ok (h, ps) →
       (pbOk h = false → ∃ t k, exec .dispatch s = .next t ∧ launch? t l.id = some k ∧ k.phase = .aborted ∧ k.cause = some 0x06 ∧
         k.ran = false ∧ t.mem = s.mem) ∧
       (pbOk h = true → verdictFor s l.space l.raw = .ok (.image im) → prefOk h im.blocks.length = true → lrReport l.raw = 0 →
         areaPages s l.space (lrTokBase l.raw) (lrTokBytes l.raw / 4096) 0 = .ok () →
         areaPages s l.space (lrShLog l.raw) (lrShBudget l.raw / 4096) 0 = .ok () → hwCrews im.width (lrTeamSz l.raw) ≤ lrWsSlots l.raw →
         ∃ t, exec .dispatch s = .next t ∧ t.mem = s.mem ∧ launch? t l.id = some { l with
           phase := .running, image := im, params := ps, deadline := 0, hang := 0, freeStacks := List.range (lrWsSlots l.raw) })) ∧
     (launch? s id = some l → claimAbove s l.prio = true → exec (.teamReady id) s = .next s) ∧
     (launch? s id = some l → l.stream = none → claimAbove s l.prio = false → readyCore s l = some core → armed s id l.image.entry = true → tabWf s.crews = true →
       tabWf s.threads = true → tabWf s.skim.tags = true →
       let n := hwCrews l.image.width (lrTeamSz l.raw)
       let slots := ((freeSlots s core).take n).map (core * 256 + ·)
       let key := s.disp.nextTeam
       let dies := if topOf s id = id then insertNew (dieOf core) l.dies else l.dies
       let placed (vt : Option Nat) : Prop := ∃ t m, exec (.teamReady id) s = .next t ∧ t.teams = s.teams ++ [m] ∧ m.key = key ∧
         m.launch = id ∧ m.num = l.nextTeam ∧ m.core = core ∧ m.crews = slots ∧ m.size = lrTeamSz l.raw ∧ m.vt = vt ∧ m.retired = false ∧
         launch? t id = some { l with
           nextTeam := l.nextTeam + 1, freeStacks := l.freeStacks.drop n, dies := dies } ∧
         (∀ tid < lrTeamSz l.raw, ∃ th, thread? t (slots.getD (tid / 32) 0 * 32 + tid % 32) = some th ∧ th.launch = id ∧ th.team = key ∧
           th.tid = tid ∧ th.st = .waiting l.image.entry ∧ th.fp = 0) ∧
         (∀ i < 2 ^ 20, tabGet 0 t.core.scratch (key * 2 ^ 20 + i) = 0) ∧ t.mem = (dropDies [dieOf core] s).mem ∧
         (∀ x, vt = some x → ∃ g, tag? t x = some g ∧ g.st = .active ∧ g.launch = id ∧ g.team = some key)
       (l.vt.isSome = true → placed none) ∧
       (l.vt = none → 128 < freeTags s → pickTag s = some v → placed (some v)) ∧
       (l.vt = none → freeTags s ≤ 128 → exec (.teamReady id) s = .next s))) ∧
  (∀ (s : State) (id : Nat) (l : Launch), launch? s id = some l → l.parent = none → l.phase = .running → l.cause = none →
     let ends (i : Instr) (cause : Nat) : Prop := ∃ t k, exec i s = .next t ∧ launch? t id = some k ∧ k.phase = .aborted ∧
       k.cause = some cause ∧ (∀ m ∈ t.teams, m.launch = id → m.retired = true)
     let x := space s l.space
     let late := 0 < lrDeadline l.raw ∧ 700 * lrDeadline l.raw ≤ l.deadline
     let hangs := hangPaused s id = false ∧ lrHang l.raw ≤ l.hang ∧ holdsWork s id = true
     let settled := ∀ a ∈ s.accesses, a.st ≠ .flight ∧ a.st ≠ .held ∧ (a.st = .blocked → a.left = [])
     (topActive s l = true → s.boot.frozenCmd = false → s.boot.frozenPin = false →
       (late → ¬hangs → ends (.deadline id) 0x0D) ∧
       (hangs → settled → x.hmSize = 0 → ends (.hang id) 0x0C ∧ (late → ends (.deadline id) 0x0C)) ∧
       (hangs → settled → 0 < x.hmSize.toNat → l.space < s.spaces.length →
         translate s 160 l.space (bits x.hmLo.toNat 31 12 * 4096 + bits x.hmHi.toNat 21 0 * 2 ^ 32) .sysWrite = .perm →
         ends (.hang id) 0x02 ∧ ∃ t, exec (.hang id) s = .next t ∧ (space t l.space).hmErr = true)) ∧
     (¬late ∨ topActive s l = false → exec (.deadline id) s = .next s) ∧
     (hangPaused s id = true ∨ l.hang < lrHang l.raw → exec (.hang id) s = .next s))

/-- R146, R150 to R156: PREEMPT ends a victim as REPLAY or marks it to be saved; SAVE stops its nodes and counts, gives a stream that has outgrown its space
new space, ends as REPLAY a victim for which the pool has none or that can be saved no more, and lets go on one that has committed a team; SAVE_DONE writes the next unit and frees its core, and holds the launch after the last, unless a page of the
token area has ended it; RESTORE gives it cores and RESTORE_DONE lets it run. What the
model keeps of a held unit, and how victims are reckoned, are its own choice (logs 14, 37 and 38). -/
def Obligations.PreemptionSavesAndRestores : Prop :=
  ∀ (s : State) (id core o q : Nat) (l v : Launch) (us : List (Nat × Nat)) (places : List (SavedUnit × Nat)), coresRun s = true →
    launch? s id = some l →
    (s.disp.preempt = true → stuck s l = true → (∀ k ∈ s.launches, k.stream = none) → victims l (candidates s l) s = [v.id] →
      launch? s v.id = some v → v ∈ candidates s l →
      (lrReplay v.raw = false → unsavable s v.id = false → poolFit s (streamSize s v.id) = some o →
        ∃ t, exec (.preempt id) s = .next t ∧ launch? t v.id = some { v with stream := some (o, streamSize s v.id) } ∧
          t.disp = s.disp ∧ t.mem = s.mem ∧ t.teams = s.teams) ∧
      (lrReplay v.raw = true ∨ unsavable s v.id = true ∨ poolFit s (streamSize s v.id) = none → hangDue s v.id = true →
        exec (.preempt id) s = exec (.hang v.id) s) ∧
      (lrReplay v.raw = true ∨ unsavable s v.id = true ∨ poolFit s (streamSize s v.id) = none → v.cause = none → hangDue s v.id = false →
        ∃ t k, exec (.preempt id) s = .next t ∧ launch? t v.id = some k ∧ k.cause = some 0x19 ∧ k.requeue = true ∧ k.phase = .aborted ∧
          t.disp.replays = satAdd 255 s.disp.replays 1 ∧ t.mem = s.mem)) ∧
    (s.disp.preempt = false ∨ stuck s l = false → exec (.preempt id) s = .next s) ∧
    (l.phase = .running → l.parent = none → l.stream = some (o, q) → topActive s l = true →
      (unsavable s id = false → streamSize s id ≤ q → unitsOf s id ≠ [] →
        ∃ t, exec (.save id) s = .next t ∧ launch? t id = some { l with phase := .saving } ∧ t.mem = s.mem ∧ t.teams = s.teams ∧
          t.tokens = s.tokens ∧ t.threads = s.threads ∧ t.disp.preempts = satAdd 255 s.disp.preempts 1) ∧
      let free := modLaunch id (fun x => { x with stream := none }) s
      (∀ o', unsavable s id = false → q < streamSize s id → poolFit free (streamSize s id) = some o' → unitsOf s id ≠ [] →
        ∃ t, exec (.save id) s = .next t ∧ launch? t id = some { l with phase := .saving, stream := some (o', streamSize s id) } ∧
          t.mem = s.mem ∧ t.teams = s.teams ∧ t.disp.preempts = satAdd 255 s.disp.preempts 1) ∧
      (unsavable s id = true → teamCommitted s l = true → exec (.save id) s = .next free) ∧
      (unsavable s id = true ∨ (q < streamSize s id ∧ poolFit free (streamSize s id) = none) → teamCommitted s l = false → hangDue s id = true →
        exec (.save id) s = exec (.hang id) s) ∧
      (unsavable s id = true ∨ (q < streamSize s id ∧ poolFit free (streamSize s id) = none) → teamCommitted s l = false → l.cause = none →
        hangDue s id = false → ∃ t k, exec (.save id) s = .next t ∧ launch? t id = some k ∧ k.cause = some 0x19 ∧ k.requeue = true ∧ k.phase = .aborted ∧
          t.disp.replays = satAdd 255 s.disp.replays 1 ∧ t.mem = s.mem)) ∧
    (l.phase = .saving → l.parent = none → unitsOf s id = (id, core) :: us →
      (∀ a ∈ s.accesses, a.f.launch = id → a.f.core = core → settledAccess s a = true) →
      (∀ e ∈ s.threads, e.2.launch = id → coreOf e.1 = core → ∀ b c f, e.2.st ≠ .departing b c f) →
      s.teams.Pairwise (fun x y => x.key ≠ y.key) →
      ∃ t k, exec (.saveDone id core) s = .next t ∧ unitTeams t id core = [] ∧ launch? t id = some k ∧
        (k.phase = .aborted ∨ ((us = [] → k.phase = .held) ∧ (us ≠ [] → k.phase = .saving))) ∧
        (areaRoom s id = 0 → k.phase ≠ .aborted)) ∧
    (s.disp.hold = false → selection (noteHeads (unitsFit s) s) (unitsFit (noteHeads (unitsFit s) s)) = some (q, some l) →
      claimAbove (noteHeads (unitsFit s) s) l.prio = false → badAt s (streamAt s id) (unitsBytes l.units + 80) = none →
      l.phase = .held → placeUnits (noteHeads (unitsFit s) s) (heldUnits l) [] = some places →
      let limit := streamAt s id + ((l.stream.map (·.2)).getD 0)
      streamFatal s (streamAt s id) limit ((l.units.map (·.records)).sum + 1) = false →
      ∃ t k, exec (.restore id) s = .next t ∧ launch? t id = some k ∧ k.phase = .restoring ∧ t.mem.home = s.mem.home ∧
        t.mem.dirty = s.mem.dirty ∧ t.mem.rsb = s.mem.rsb ∧ t.mem.comp = s.mem.comp) ∧
    (l.phase = .restoring → l.parent = none →
      ∃ t, exec (.restoreDone id) s = .next t ∧ launch? t id = some { l with phase := .running, stream := none, units := [] } ∧
        t.mem = s.mem ∧ t.teams = s.teams ∧ t.tokens = s.tokens)

/-- R191, R203, R214, R216, R362, R391, R393: the next access of a thread issues; a performed access returns its result as
tokens, one to each destination; a copy between scratchpads moves one word and sets its presence bit; a packet's copy fills a
subscriber's slot; a waiting SEMP, and a parked access whose wait is over, try again. R133, R396, R397: an NSEND in flight whose handle names a
usable connection sends the bytes of its open pages and waits, or from other pages defers them with their charge; an NRECV posts its receive;
other handles, lengths and addresses trap, and a connection table that the companion does not answer for ends the launch with LINK (R31,
R35). R108, R400, R401: a LAUNCH takes the next child number and a free tag, reads its record, and starts the child or refuses it; an LWAIT
answers the child's status once it has one. That the tag is the lowest is the model's choice (log 52), when engine operations move their words
is the schedule's (logs 8 and 32), and the cycle in which a LAUNCH's number is settled is the model's reading (log 37). -/
def Obligations.AccessEventsIssuePerformAndReturn : Prop :=
  (∀ (s : State) (t sub w core team sem k x : Nat) (fl : Option Nat) (a : Access) (m : Form) (tm : Team) (im : Image) (b : Sub)
    (st : Strm) (n : Node) (u ca : Bool),
    access? s a.id = some a → launchRuns s a.f.launch = true →
    (nextIssue s t = some a → copyMustWait s a = false → s.late = true → (∀ n c, a.i ≠ .sink n c) →
      ∃ r, exec (.orderedIssue t) s = .next r ∧ access? r a.id = some { a with st := .flight, order := s.nextId, issued := s.cycles, left := match a.i with
        | .rdsr _ k => [rdsrValue s a.f k.val]
        | _ => a.left } ∧ r.mem = s.mem ∧ r.tokens = s.tokens ∧ r.core.scratch = s.core.scratch) ∧
    (nextIssue s t = some a → copyMustWait s a = true → exec (.orderedIssue t) s = .next s) ∧
    ((∀ e ∈ s.accesses, e.f.thread = t → e.st = .waiting → heldBack s e.f = true) → exec (.orderedIssue t) s = .next s) ∧
    (a.st = .done → a.drop = false → responseRoom s a = false → exec (.accessResponse a.id .ok) s = .next s) ∧
    (a.st = .done → a.drop = false → barWaits a = none → isSync a.i = false → isResident s a.f.core a.f.launch a.f.block = true → form a.i = some m →
      responseRoom s a = true →
      ∃ r, exec (.accessResponse a.id .ok) s = .next r ∧ access? r a.id = none ∧ r.mem = s.mem ∧
        r = fromPort s.nextId (emit m.node a.f (m.net.getD .narrow) a.result.toNat (clearHang a.f.launch (dropAccess a.id s)))) ∧
    (a.st = .parked k x fl → exec (.accessResponse a.id .ok) s = .next s) ∧
    (a.i = .copy n true true u → a.st = .blocked → a.left = [w] → a.got = [] → w < (copyShape a).words → teamOf s a.f = some tm →
      imageOf s a.f.launch = some im → copySrc a w + 8 ≤ im.scratch → copyDst a w + 8 ≤ im.scratch → im.scratch ≤ 2 ^ 20 →
      copyDst a w % 8 = 0 → tabWf s.core.scratch = true → tabWf s.core.absent = true →
      ∃ r, exec (.copyWordArrival a.id w) s = .next r ∧ padBytes r tm.key (copyDst a w) 8 = padBytes s tm.key (copySrc a w) 8 ∧
        present r tm.key (copyDst a w / 8) = true ∧ r.mem = s.mem ∧
        (∀ y < 2 ^ 20, y < copyDst a w ∨ copyDst a w + 8 ≤ y → padByte r tm.key y = padByte s tm.key y) ∧
        access? r a.id = some { a with left := [w + 1], st := if w + 1 = (copyShape a).words then .done else .blocked, result := 0 }) ∧
    (a.i = .strmPub n u ca → a.st = .blocked → a.left.contains sub = true → teamOf s a.f = some tm → imageOf s a.f.launch = some im →
      strm? s (tm.key, a.a.toNat % 2 ^ 64) = some st → st.subs.find? (fun y => y.team == sub) = some b →
      (pubsFor s (tm.key, a.a.toNat % 2 ^ 64) sub).head? = some a → pubAhead s (tm.key, a.a.toNat % 2 ^ 64) a = false → present s sub (ringSlot b / 8) = false →
      ringSlot b + a.got.length ≤ im.scratch → im.scratch ≤ 2 ^ 20 → tabWf s.core.scratch = true →
      ∃ r, exec (.strmCopy a.id sub) s = .next r ∧ padBytes r sub (ringSlot b) a.got.length = a.got ∧ r.mem = s.mem ∧
        ∃ y, access? r a.id = some y ∧ y.left = a.left.filter (· != sub) ∧ (y.left ≠ [] → y.st = .blocked) ∧ (y.left = [] → y.st = .done)) ∧
    ((sempsOf s core a.f.launch team sem).map (·.id) = [] → exec (.semWake core a.f.launch team sem) s = .next s) ∧
    ((sempsOf s core a.f.launch team sem).map (·.id) = [a.id] →
      exec (.semWake core a.f.launch team sem) s = .next (attempt a.id (modAccess a.id (fun y => { y with st := .flight }) s))) ∧
    (a.st = .parked k x fl →
      (parkOver s a k x fl = false → exec (.parkResume a.id) s = .next s) ∧
      (parkOver s a k x fl = true → k = 3 → exec (.parkResume a.id) s = .next { dropAccess a.id s with resumed := s.resumed ++ [a.f] }) ∧
      (parkOver s a k x fl = true → k ≠ 3 → (∀ n x y u, a.i ≠ .copy n x y u ∧ a.i ≠ .copys n x y u) →
        exec (.parkResume a.id) s = .next (attempt a.id (modAccess a.id (fun y => { y with st := .flight }) s))))) ∧
  (∀ (s : State) (a : Access) (conn : Nat) (tag : Word32), InFlight s a →
    let va := a.a.toNat % 2 ^ 64
    let count := a.b.toNat % 2 ^ 64
    let handle := a.c.toNat % 2 ^ 64
    let sp := spaceOf s a.f
    let stays (t : State) (st : AccSt) : State := modAccess a.id (fun x => { x with st := st }) t
    let refused : Prop := (entryCut s sp handle = true → attempt a.id s = abortLaunch a.f.launch 0x15 false none s) ∧
      (entryCut s sp handle = false → entryUe s sp handle = none →
      (handleOf s sp handle = none ∨ 16777216 < count → attempt a.id s = abortLaunch a.f.launch 0x06 false none s) ∧
      (handleOf s sp handle = some (conn, tag) → count ≤ 16777216 → va % 8 ≠ 0 →
        attempt a.id s = abortLaunch a.f.launch 0x03 false (some (nodeReport s a.f true va)) s))
    let usable := entryCut s sp handle = false ∧ entryUe s sp handle = none ∧ handleOf s sp handle = some (conn, tag) ∧ count ≤ 16777216 ∧ va % 8 = 0
    (∀ n u, a.i = .nsend n u → refused ∧ (usable → rodWaits s a conn = true → attempt a.id s = stays s .flight) ∧
      (usable → rodWaits s a conn = false →
        let sent (t : State) (data : List Byte) : State := { t with outputs := t.outputs ++ [.ethSend a.id (spaceOf t a.f) conn tag data] }
        (count = 0 → attempt a.id s = stays (sent s []) .blocked) ∧
        (∀ t w data, 0 < count → pagesOpen a.f va count (count / 4096 + 2) va true s = (.ok true, t) →
          loadRange a.f 2 true va count t = (.ok data, w) → attempt a.id s = stays (sent w data) .blocked) ∧
        (∀ t w c data vt, 0 < count → pagesOpen a.f va count (count / 4096 + 2) va true s = (.ok false, t) →
          loadRange a.f 2 false va count t = (.ok data, w) → vtOfFiring w a.f = some vt → charge vt (256 + roundUp count 256) true w = (true, c) →
          attempt a.id s = performedAs a 0 { c with skim := { c.skim with deferred := c.skim.deferred ++
            [{ vt := vt, space := spaceOf c a.f, send := some (conn, tag, data), lines := [] }] } }))) ∧
    (∀ n u, a.i = .nrecv n u → refused ∧ (usable → ∀ t, (count = 0 ∧ t = s) ∨ (0 < count ∧ recvPages a.f va count (count / 4096 + 2) va s = (.ok (), t)) →
      let mine := (t.posted.filter (fun p => match access? t p.access with | some x => x.f.core == a.f.core | none => false)).length
      (256 ≤ mine → attempt a.id s = stays t .flight) ∧
      (mine < 256 → attempt a.id s = stays { t with posted := t.posted ++
        [{ access := a.id, space := spaceOf t a.f, conn := conn, tag := tag, cycle := t.cycles }] } .blocked)))) ∧
  (∀ (s : State) (a : Access) (n : Node) (l top : Launch) (m : Team), InFlight s a → launch? s a.f.launch = some l → teamOf s a.f = some m →
    let va := a.a.toNat % 2 ^ 64
    let next := m.children.length
    (a.i = .launch n → l.phase = .running → releaseFor a s = s →
      (l.depth = 10 → attempt a.id s = abortLaunch l.id 0x11 false (some (nodeReport s a.f false 0)) s) ∧
      (l.depth ≠ 10 → va % 256 ≠ 0 → attempt a.id s = abortLaunch l.id 0x03 false (some (nodeReport s a.f true va)) s) ∧
      (l.depth ≠ 10 → va % 256 = 0 → a.left = [] →
        (4096 ≤ next → attempt a.id s = abortLaunch l.id 0x06 false none s) ∧
        (next < 4096 → (pickTag s).isSome = true → portTurn s a m = false → attempt a.id s = modAccess a.id (fun x => { x with st := .flight }) s) ∧
        (next < 4096 → pickTag s = none → parkedOn s a.f.core < 512 →
          attempt a.id s = modAccess a.id (fun x => { x with st := .parked 2 va none }) s) ∧
        (∀ vt c, next < 4096 → portTurn s a m = true → pickTag s = some vt → launch? s (topOf s l.id) = some top → tabWf s.skim.tags = true →
          launch? s s.disp.nextLaunch = none → topOf s l.id ≠ s.disp.nextLaunch →
          let b := beginChild a l top m next vt (portNumber a m s).2
          launch? b s.disp.nextLaunch = some c →
          (c.parent = some l.id ∧ c.parentTeam = m.key ∧ c.number = next ∧ c.depth = l.depth + 1 ∧ c.vt = some vt ∧ c.space = l.space ∧ c.phase = .dispatching ∧
            ∃ g, tag? b vt = some g ∧ g.st = .active ∧ g.launch = c.id ∧ g.parent = vtOf s l.id m.key) ∧
          (∀ raw u y, loadRange a.f 0 false va 256 b = (.ok raw, u) → lrChildOk raw = false → team? u m.key = some y → y.launch ≠ c.id →
            y.key = m.key → tabWf y.status = true → tabWf u.skim.tags = true →
            ∃ t y', attempt a.id s = performedAs a next t ∧ launch? t c.id = none ∧ tag? t vt = none ∧ team? t m.key = some y' ∧
              tabFind y'.status next = some 0x06) ∧
          (∀ raw u w h ps im d, loadRange a.f 0 false va 256 b = (.ok raw, u) → lrChildOk raw = true →
            childParams a raw (modLaunch c.id (fun _ => { c with raw := childRaw raw (((launch? u (topOf u l.id)).map (·.raw)).getD []) }) u) =
              (.ok (some (h, ps)), w) →
            verdictFor w l.space raw = .ok (.image im) → prefOk h im.blocks.length = true → hwCrews im.width (lrTeamSz raw) ≤ lrWsSlots raw →
            launch? w c.id = some d →
            ∃ t, attempt a.id s = performedAs a next t ∧ t.mem = w.mem ∧ launch? t c.id = some { d with
              phase := .running, image := im, params := ps, freeStacks := List.range (lrWsSlots d.raw) })))) ∧
    (a.i = .lwait n → (next ≤ va → attempt a.id s = abortLaunch a.f.launch 0x06 false none s) ∧
      (∀ v, va < next → tabFind m.status va = some v → ∃ t, attempt a.id s = performedAs a v t ∧ t.launches = s.launches ∧ t.teams = s.teams) ∧
      (va < next → tabFind m.status va = none → attempt a.id s = modAccess a.id (fun x => { x with st := .flight }) s)))

/-- R168, R170, R173 to R175, R199: the first token of its buffer, link and arc arrives: it crosses a seam where the link has
allowance left, of which it spends a unit, and waits where not; a token that its collective still holds comes into
its buffer where a place is free; in the fabric of its node it takes a completion entry where it
completes a match, else a general entry; one that returns from the overflow area keeps its age; renumbering replaces every live age by its rank. R192, R339: the first token of a key at a crew-join node reads the mask; it is
consumed where its lane is not in it, and one whose mask names a lane that does not exist traps with CREW_MISSING. R260: neither reads a k register
in the cycle in which a firing made it. R381: the first token
of a key at a CMB node reads the count and starts an accumulator, or aborts with FORMAT where the count is out of range; each later token combines into
it and leaves. Which tokens count as
completing, and that a node of one port does, is the model's reading (log 34); the way of a token across the seams is the model's
choice (log 40). -/
def Obligations.TokensEnterAndReturnByAge : Prop :=
  ∀ (s : State) (ix core : Nat) (k : Token) (i : Instr) (pe : Nat),
    let others := s.tokens.filter (fun j => inStore j && j.seq != k.seq)
    let put (p : Place) (age : Nat) : Out := .next { s with tokens := s.tokens.map (fun j =>
      if j.seq == k.seq then { j with place := p, age := age, count := k.count, val := k.val } else j) }
    let simple := matchingOf i = .entry ∨ matchingOf i = .merge ∨ ∃ n, matchingOf i = .ports n
    (s.tokens[ix]? = some k → blockRuns s k = true → nodeAt s k.launch k.block k.node = some i → simple → peOf s k = pe →
      (k.place = .due →
        (4 ≤ (s.tokens.filter (fun j => j.place == .out && j.net == k.net && j.src / 8 == k.src / 8)).length ∨
          (∃ j ∈ s.tokens, j.place = .due ∧ j.net = k.net ∧ j.src / 8 = k.src / 8 ∧ j.seq < k.seq) → exec (.tokenArrive ix) s = .next s) ∧
        ((s.tokens.filter (fun j => j.place == .out && j.net == k.net && j.src / 8 == k.src / 8)).length < 4 →
          (∀ j ∈ s.tokens, j.place = .due → j.net = k.net → j.src / 8 = k.src / 8 → k.seq ≤ j.seq) →
          exec (.tokenArrive ix) s = .next { s with tokens := s.tokens.map (fun j => if j.seq == k.seq then { j with place := .out } else j) })) ∧
      (onArc k = true → k.place ≠ .due → firstThere s k = false → exec (.tokenArrive ix) s = .next s) ∧
      (k.place = .out ∨ k.place = .port ∨ k.place = .net → firstThere s k = true →
        (fabricOf k = pe / 256 → completes s i k others = true → entriesOf s pe .completion < 8 →
          exec (.tokenArrive ix) s = put .completion (ageNow s (coreOf k.thread))) ∧
        (fabricOf k = pe / 256 → completes s i k others = false → entriesOf s pe .general < 120 →
          exec (.tokenArrive ix) s = put .general (ageNow s (coreOf k.thread))) ∧
        (fabricOf k ≠ pe / 256 → 4 ≤ tabGet 0 s.seams (seamLink s k) → exec (.tokenArrive ix) s = .next s) ∧
        (fabricOf k ≠ pe / 256 → tabGet 0 s.seams (seamLink s k) < 4 → exec (.tokenArrive ix) s = .next { s with
          tokens := s.tokens.filter (fun j => j.seq != k.seq) ++ [{ k with place := .seam (seamLink s k) }]
          seams := tabSet 0 s.seams (seamLink s k) (tabGet 0 s.seams (seamLink s k) + 1) })) ∧
      (∀ link, k.place = .seam link → firstThere s k = true → fabricOf k = pe / 256 → 0 < tabGet 0 s.seams link → completes s i k others = true →
        entriesOf s pe .completion < 8 → ∃ t, exec (.tokenArrive ix) s = .next t ∧ t.seams = tabSet 0 s.seams link (tabGet 0 s.seams link - 1) ∧
          put .completion (ageNow s (coreOf k.thread)) = .next { t with seams := s.seams }) ∧
      (k.place = .overflow →
        (completes s i k others = true → entriesOf s pe .completion < 8 → exec (.tokenReturn ix) s = .next { s with tokens := s.tokens.map (fun j =>
          if j.seq == k.seq then { j with place := .completion, count := k.count, val := k.val } else j) }) ∧
        (completes s i k others = false → entriesOf s pe .general < 120 → (∀ j ∈ s.tokens, j.place = .overflow → k.age * 2 ^ 64 + k.seq ≤ j.age * 2 ^ 64 + j.seq) →
          exec (.tokenReturn ix) s = .next { s with tokens := s.tokens.map (fun j =>
            if j.seq == k.seq then { j with place := .general, count := k.count, val := k.val } else j) }))) ∧
    (∀ n op, s.tokens[ix]? = some k → blockRuns s k = true → nodeAt s k.launch k.block k.node = some i → i = .cmb n op → peOf s k = pe →
      k.place = .out ∨ k.place = .port ∨ k.place = .net → firstThere s k = true → fabricOf k = pe / 256 → k.count = 0 →
      (s.dawn ≤ k.seq → exec (.tokenArrive ix) s = .next s) ∧ (k.seq < s.dawn →
      let w := tyBits n.ty
      let bits (x : Nat) : Nat := x % 2 ^ w
      let count := match n.b with | .kreg r => kWord s k.launch k.thread r.val | _ => (immRaw n).toNat
      let started := BitVec.ofNat 256 (bits (combineOp n.ty op [bits k.val.toNat]) + 2 ^ 64)
      let standing := s.tokens.find? (fun j => j.seq != k.seq && sameKey k j && decide (combined j < j.count))
      let starts (p : Place) : Out := .next { s with tokens := s.tokens.map (fun j =>
        if j.seq == k.seq then { j with place := p, age := ageNow s (coreOf k.thread), count := count, val := started } else j) }
      (standing = none → count = 0 ∨ 65535 < count → exec (.tokenArrive ix) s = .next (abortLaunch k.launch 0x06 false none s)) ∧
      (standing = none → count = 1 → entriesOf s pe .completion < 8 → exec (.tokenArrive ix) s = starts .completion) ∧
      (standing = none → 1 < count → count ≤ 65535 → entriesOf s pe .general < 120 → exec (.tokenArrive ix) s = starts .general) ∧
      (∀ acc, standing = some acc →
        let both := bits (combineOp n.ty op [bits acc.val.toNat, bits k.val.toNat])
        let joined := (s.tokens.filter (fun j => j.seq != k.seq)).map (fun j =>
          if j.seq == acc.seq then { j with seq := k.seq, val := BitVec.ofNat 256 (both + 2 ^ 64 * (combined j + 1)) } else j)
        exec (.tokenArrive ix) s = .next { s with tokens := joined }))) ∧
    (∀ n : Node, s.tokens[ix]? = some k → blockRuns s k = true → nodeAt s k.launch k.block k.node = some i → matchingOf i = .join →
      (form i).map (·.node) = some n → peOf s k = pe → k.place = .out ∨ k.place = .port ∨ k.place = .net → firstThere s k = true →
      fabricOf k = pe / 256 → k.count = 0 →
      (s.dawn ≤ k.seq → exec (.tokenArrive ix) s = .next s) ∧ (k.seq < s.dawn → maskOf s k = none →
      let mask := joinMask s n k.launch k.thread
      let read : State := { s with masks := s.masks ++ [keyMask s k mask] }
      (mask.testBit (logicalLane s k.launch k.thread) = false →
        exec (.tokenArrive ix) s = .next { read with tokens := s.tokens.filter (fun j => j.seq != k.seq) }) ∧
      (mask.testBit (logicalLane s k.launch k.thread) = true → mask &&& laneBits s k.launch k.thread ≠ mask →
        exec (.tokenArrive ix) s = .next (abortLaunch k.launch 0x12 false (some (nodeReport read (firingOf k [k]) false 0)) read)) ∧
      (mask.testBit (logicalLane s k.launch k.thread) = true → mask &&& laneBits s k.launch k.thread = mask →
        completes read i { k with count := mask } others = false → entriesOf s pe .general < 120 →
        exec (.tokenArrive ix) s = .next { read with tokens := s.tokens.map (fun j =>
          if j.seq == k.seq then { j with place := .general, age := ageNow s (coreOf k.thread), count := mask } else j) }))) ∧
    (s.tokens[ix]? = some k → onArc k = false → exec (.tokenArrive ix) s = .next s) ∧
    (s.tokens[ix]? = some k → k.place ≠ .overflow → exec (.tokenReturn ix) s = .next s) ∧
    (s.boot.frozenCmd = true ∨ s.boot.frozenPin = true → exec (.ageRenumber core) s = .next s) ∧
    (∀ first rest, s.boot.frozenCmd = false → s.boot.frozenPin = false → liveAges s core = first :: rest → first + 2 ^ 31 ≤ ageNow s core + 1 →
      ∃ t, exec (.ageRenumber core) s = .next t ∧ t.mem = s.mem ∧ t.threads = s.threads ∧
        t.tokens = s.tokens.map (fun j => if coreOf j.thread = core ∧ onArc j = false
          then { j with age := (liveAges s core).countP (fun x => x < j.age) } else j))

/-- R180 to R184: SCHED_EVAL begins to load the block of the highest rank into free pages; BLOCK_RESIDENT makes it run, or
fetches it again where a line of it was written, and parks it with a fault where a page of it is not there (R80); INJECT gives the next waiting thread a token for every entry node; EVICT
writes a block's tokens out and frees its pages, where the pages of the overflow area take them (R72; log 40). -/
def Obligations.BlocksAreLoadedEnteredAndEvicted : Prop :=
  ∀ (s : State) (core l b r t : Nat) (p : Placed) (k : Block) (th : Thread) (x : Launch), coresRun s = true →
    (core < 160 → (∀ q ∈ s.placed, q.core = core → unhoused q = false) → firstRanked s core = some (l, b) → blockAt s l b = some k → k.pages ≤ (pagesFor s core l b).length →
      ∃ u, ∃ q ∈ u.placed, exec (.schedEval core) s = .next u ∧ q.launch = l ∧ q.block = b ∧
        q.replicas = [(pagesFor s core l b).take k.pages] ∧ q.resident = false ∧ q.loading = s.cycles + 8 * k.pages + 1 ∧
        u.threads = s.threads ∧ u.tokens = s.tokens ∧ u.mem = s.mem) ∧
    (placed? s l b core = some p → p.resident = false → p.fault = none → unhoused p = false → p.loading ≤ s.cycles →
      (∀ va r, fetchBar s p = some (.park r va) → launch? s p.launch = some x → s.xlat.fqEnable = true → p.launch = l → p.block = b → p.core = core →
        ∃ u q, exec (.blockResident core l b) s = .next u ∧ placed? u l b core = some q ∧ q.resident = false ∧ q.fault.isSome = true ∧ q.faultVa = va ∧
          u.threads = s.threads ∧ u.tokens = s.tokens) ∧
      (p.stale = false → fetchBar s p = none → ∃ u, exec (.blockResident core l b) s = .next u ∧ u.mem = s.mem ∧
        placed? u l b core = some { p with resident := true, since := s.cycles, fired := s.cycles } ∧
        ∀ key y, thread? s key = some y → thread? u key = some (if coreOf key ∈ servedCores s p ∧ y.launch = l ∧ y.st = .waiting b ∧ y.saved = true
          then { y with st := .inBlock b, saved := false, replica := 0 } else y)) ∧
      (p.stale = true → fetchBar s p = none → ∃ u, exec (.blockResident core l b) s = .next u ∧ u.threads = s.threads ∧
        placed? u l b core = some { p with stale := false, loading := s.cycles + 8 * p.replicas.flatten.length + 1 })) ∧
    (placedOf s core l b = some p → blockAt s l b = some k → p.resident = true → p.stopped = false → r < p.replicas.length → mayInject s p r = true →
      launch? s l = some x → x.phase = .running → tabWf s.threads = true →
      leastBy (fun (e : Nat × Thread) => (e.1 % 8192 + 8192 - p.pointer) % 8192) (s.threads.filter (fun e =>
        coreOf e.1 == core && e.2.launch == l && e.2.st == .waiting b && !e.2.saved && replicaOk s p k.coll e.1 r)) = some (t, th) →
      ∃ u y, exec (.inject core l b r) s = .next u ∧ thread? u t = some y ∧ y.st = .inBlock b ∧ y.replica = r ∧ y.fp = th.fp ∧
        u.mem = s.mem ∧ u.core = s.core ∧ u.tokens.length = s.tokens.length + k.entries.length ∧ s.tokens <+: u.tokens ∧
        ∀ e ∈ k.entries, ∃ j ∈ u.tokens, j.thread = t ∧ j.launch = l ∧ j.block = b ∧ j.replica = r ∧ j.node = e ∧ j.wave = 0) ∧
    (placed? s l b core = some p → p.stopped = true → tokensToWrite s p ≤ areaRoom s l →
      (areaWrite l (tokensToWrite s p) s).1 = true →
      (∀ e ∈ s.threads, inBlockOf s p e = true → ∀ c g h, e.2.st ≠ .departing c g h) →
      (∀ a ∈ s.accesses, accessOf s p a = true → a.drop = true ∨ a.st = .waiting ∨ ∃ c y fl, a.st = .parked c y fl) →
      ∃ u, exec (.evict core l b) s = .next u ∧ placed? u l b core = none ∧
        u.mem = { s.mem with clean := u.mem.clean } ∧
        (∀ j ∈ u.tokens, boundFor s p j = true → j.place = .overflow) ∧
        ∀ key y, thread? s key = some y → inBlockOf s p (key, y) = true →
          thread? u key = some { y with st := .waiting b, saved := true, since := s.cycles })

/-- R188 to R190, R200, R296: a core's Hamper moves the range of the crew of the oldest match parked on its window, to the window of its thread; row by
row, upwards and downwards, the position that leaves goes to the stack, and the one that takes its place reads what the stack holds of it, or zero
above the high-water; with the last row the range has moved; a stack page that does not translate parks it, and a Hamper that
a fault parks does nothing; a departure
leaves no token behind and the thread waits for its target; a cluster's reset aborts the launch stitched on it. The model's own in it: the order of
the rows of a move and what of it one event does (log 43), and that the steps of a cluster's reset are one (log 34). -/
def Obligations.WindowsDeparturesAndClusterResets : Prop :=
  ∀ (s : State) (core key pos pa p lvl t b target fp c v : Nat) (w : Crew) (l : Launch) (th : Thread) (g : VTag), coresRun s = true →
    ((s.crews.filter (fun e => e.1 / 256 == core)).find? (fun e => e.2.target != e.2.lo) = some (key, w) → tabWf s.crews = true →
      tabWf s.core.lvs = true → s.MemOk → s.skim.lines = [] → hamperParked s core = false → launchOfCrew s w = some l →
      (leaving w).drop w.done = [pos] → w.target = w.lo + 32 → w.lo ≤ pos → pos < w.lo + 32 → w.high ≤ pos + 64 →
      translate s 160 l.space (stackAddr l w pos) .sysWrite = .ok pa p lvl → pa + 128 ≤ 2 ^ 51 →
      ∃ u, exec (.hamperMove core) s = .next u ∧ readHome u pa 128 = ringRow s key pos ∧
        (∀ lane < 32, lvsWord u key (pos + 64) lane = 0) ∧
        tabFind u.crews key = some { w with lo := w.target, done := 0, high := Nat.max w.high (pos + 1) }) ∧
    (hamperParked s core = true → exec (.hamperMove core) s = .next s) ∧
    ((s.crews.filter (fun e => e.1 / 256 == core)).find? (fun e => e.2.target != e.2.lo) = some (key, w) → tabWf s.crews = true →
      tabWf s.core.lvs = true → hamperParked s core = false → launchOfCrew s w = some l →
      ((leaving w).drop w.done = [] → ∃ u, exec (.hamperMove core) s = .next u ∧ tabFind u.crews key = some { w with lo := w.target, done := 0 } ∧
        u.mem = s.mem ∧ u.core = s.core) ∧
      (∀ rest enter high, (leaving w).drop w.done = pos :: rest → high = Nat.max w.high (pos + 1) →
        enter = (if w.target < w.lo then pos - 64 else pos + 64) → w.target ≤ enter → enter < w.target + 64 →
        (∀ r, translate s 160 l.space (stackAddr l w pos) .sysWrite = .park r → s.xlat.fqEnable = true →
          ∃ u f, exec (.hamperMove core) s = .next u ∧ tabFind u.crews key = some { w with moving := some f, movingVa := stackAddr l w pos } ∧
            u.core = s.core ∧ u.launches = s.launches) ∧
        (∀ pb q, translate s 160 l.space (stackAddr l w pos) .sysWrite = .ok pa p lvl → pa + 128 ≤ 2 ^ 51 → s.MemOk → s.skim.lines = [] →
          high ≤ enter ∨ (translate s 160 l.space (stackAddr l w enter) .sysWrite = .ok pb q lvl ∧ pb + 128 ≤ 2 ^ 51 ∧ badAt s pb 128 = none ∧
            (pa + 128 ≤ pb ∨ pb + 128 ≤ pa)) →
          ∃ u, exec (.hamperMove core) s = exec (.hamperMove core) u ∧ readHome u pa 128 = ringRow s key pos ∧
            (∀ lane < 32, lvsWord u key enter lane = if high ≤ enter then 0 else field (readHome s pb 128) (4 * lane) 4) ∧
            tabFind u.crews key = some { w with done := w.done + 1, high := high } ∧ u.launches = s.launches ∧ u.accesses = s.accesses))) ∧
    (∀ a, (∀ e ∈ s.crews, e.1 / 256 = core → e.2.target = e.2.lo) → hamperParked s core = false → oldestWindow s core = some a →
      crewOf a.f.thread = key → key / 256 = core → tabFind s.crews key = some w → tabWf s.crews = true →
      let need := neededFp s a
      let aim := if need < w.lo then need else need + 32 - 64
      aim ≠ w.lo → exec (.hamperMove core) s = exec (.hamperMove core) { s with crews := tabMod s.crews key (fun c => { c with target := aim, done := 0 }) }) ∧
    (thread? s t = some th → th.st = .departing b target fp → departReady s t b = true → launch? s th.launch = some l → l.phase = .running →
      target ≠ 65535 → armed s th.launch target = true → tabWf s.threads = true →
      ∃ u y, exec (.departureComplete t) s = .next u ∧ thread? u t = some y ∧ y.st = .waiting target ∧ y.fp = fp ∧ u.mem = s.mem ∧
        (∀ j ∈ u.tokens, ¬(j.thread = t ∧ j.launch = th.launch ∧ j.block = b)) ∧
        (∀ x, x ≠ t → thread? u x = thread? s x)) ∧
    (c < 40 → ((s.placed.filter (fun q => q.core / 4 == c && isStitched s q.launch q.block)).map (·.launch)).eraseDups = [l.id] →
      launch? s l.id = some l → l.cause = none → l.vt = some v → tag? s v = some g → g.st = .active → g.launch = l.id →
      hangDue s (topOf s l.id) = false →
      ∃ u k, exec (.clusterReset c) s = .next u ∧ launch? u l.id = some k ∧ k.cause = some 0x18 ∧ k.phase = .aborted ∧
        (∀ q ∈ u.placed, q.launch ≠ l.id) ∧ u.mem = s.mem) ∧
    (40 ≤ c → exec (.clusterReset c) s = .next s)

/-! ## The Rambler (R42 to R51) -/

/-- R42, R48, R49, R51: what the commands of a slot and the ends of its waits do. A start is taken at STATE 0 and is BUSY
where another slot holds the space; CUT, the end of the grace period, RESUME, CANCEL and a lost network lead where R51 has
them. R42: the destination answers HELLO with a signed REPLY, the source answers REPLY with FINISH and begins round 1, and
both derive the session keys; a peer with another key is refused with 2, a signature that does not verify or an all-zero shared secret with 1. The
model's own in it: what RESUME clears and which messages it sends (log 18), and that RECV and SEND do nothing before READY (log 25). -/
def Obligations.RamblerCommandsMoveTheSession : Prop :=
  (∀ (s : State) (n : Fin 4) (f : Fresh) (at_ : Nat), n.val < s.ramblers.length → s.boot.failed = false →
     s.boot.frozenCmd = false → s.boot.frozenPin = false →
     let r := rambler s n.val
     let now (x : Rambler) : State := { s with ramblers := listMod s.ramblers n.val (fun _ => x) }
     let started (src : Bool) : Rambler := { r with
       src := src, session := f.session, secret := f.secret, nonce := f.nonce, state := 1, round := 0, err := 0 }
     let mine (g : Space → Space) (t : State) : State := { t with spaces := listMod t.spaces r.space.toNat g }
     let runs := s.boot.released = true
     let holds (x : Rambler) : Prop := x.state ≠ 0 ∧ ¬(x.state = 6 ∧ x.err = 6)
     let busy := ∃ k < 4, k ≠ n.val ∧ holds (rambler s k) ∧ (rambler s k).space = r.space
     (¬runs → exec (.recv n f) s = .next s ∧ exec (.send n f) s = .next s) ∧
     (runs → r.state = 0 →
       (¬busy → exec (.recv n f) s = .next (now (started false)) ∧
         ∃ h t, exec (.send n f) s = .next t ∧ t = { now { started true with hello := some h } with outputs := s.outputs ++ [.hello n.val h] } ∧
           h.session = f.session ∧ h.nonce = f.nonce ∧ h.ident = ownIdentity s ∧ h.sig = []) ∧
       (busy → exec (.recv n f) s = .next (now { started false with state := 6, err := 6 }) ∧
         exec (.send n f) s = .next (now { started true with state := 6, err := 6 }))) ∧
     (r.state ≠ 0 → exec (.recv n f) s = .next s ∧ exec (.send n f) s = .next s) ∧
     (r.src = true → r.state = 2 →
       exec (.cut n) s = .next (mine (fun p => { p with cutOver := true }) (now { r with state := 3, cutAt := some s.cycles }))) ∧
     (r.src = false ∨ r.state ≠ 2 → exec (.cut n) s = .next s) ∧
     (runs → r.state = 3 → r.cutAt = some at_ → (∀ l ∈ s.launches, l.space ≠ r.space.toNat) →
       (at_ + 700 * r.grace.toNat ≤ s.cycles →
         exec (.rmblGraceExpiry n) s = .next (mine (fun p => { p with dropEth := true }) (now { r with state := 4 }))) ∧
       (s.cycles < at_ + 700 * r.grace.toNat → exec (.rmblGraceExpiry n) s = .next s)) ∧
     (r.state = 5 ∨ r.state = 6 → ∃ t, exec (.resume n) s = .next t ∧ (rambler t n.val).state = 0 ∧ (rambler t n.val).space = r.space ∧
       t.spaces = (if r.state = 6 ∧ r.err = 6 then s.spaces else listMod s.spaces r.space.toNat (fun p => { p with cutOver := false, dropEth := false })) ∧
       t.mem = s.mem) ∧
     (1 ≤ r.state → r.state ≤ 4 → exec (.cancel n) s = .next (now { r with state := 6, err := 7 }) ∧
       (runs → exec (.rmblNetFail n) s = .next (now { r with state := 6, err := 5 })))) ∧
  (∀ (s : State) (n : Fin 4) (m h p : Hello) (sig : List Byte), n.val < s.ramblers.length →
     s.boot.released = true → s.boot.frozenCmd = false → s.boot.frozenPin = false →
     let r := rambler s n.val
     let fails (i : Instr) (err : Nat) : Prop :=
       exec i s = .next { s with ramblers := listMod s.ramblers n.val (fun x => { x with state := 6, err := err }) }
     let keys (hello reply : Hello) (peerPub : List Byte) : List Byte :=
       hkdf (x25519 r.secret peerPub) (hello.nonce ++ reply.nonce)
         ("HF7160-RMBL-1".toList.map (fun c => BitVec.ofNat 8 c.toNat) ++ toBytes 4 hello.session.toNat) 36
     let ready (t : State) (out : List Byte) : Prop := (rambler t n.val).state = 2 ∧ (rambler t n.val).round = 1 ∧
       (rambler t n.val).begun = true ∧ (rambler t n.val).key = out.take 32 ∧ (rambler t n.val).salt = (out.drop 32).take 4
     r.state = 1 →
     (r.src = false → r.hello = none →
       (m.ident ≠ peerIdentity r → fails (.rmblHello n m) 2) ∧
       (m.ident = peerIdentity r → ∃ t y, exec (.rmblHello n m) s = .next t ∧ t.outputs = s.outputs ++ [.reply n.val y] ∧
         y.session = m.session ∧ y.nonce = r.nonce ∧ y.pub = padTo 32 (x25519Public r.secret) ∧ y.ident = ownIdentity s ∧
         y.sig = padTo 64 (ed25519Sign s.boot.identity (handshakeDigest 1 m { y with sig := [] })) ∧
         (rambler t n.val).hello = some m ∧ (rambler t n.val).reply = some y ∧ (rambler t n.val).state = 1 ∧ t.mem = s.mem)) ∧
     (r.src = false → r.hello = some h → r.reply = some p →
       (ed25519Verify (peerIdentity r) (handshakeDigest 2 h p) sig = false → fails (.rmblFinish n sig) 1) ∧
       (ed25519Verify (peerIdentity r) (handshakeDigest 2 h p) sig = true →
         (allZero (x25519 r.secret h.pub) = true → fails (.rmblFinish n sig) 1) ∧
         (allZero (x25519 r.secret h.pub) = false →
           ∃ t, exec (.rmblFinish n sig) s = .next t ∧ ready t (keys h p h.pub) ∧ t.outputs = s.outputs ∧ t.mem = s.mem))) ∧
     (r.src = true → r.hello = some h → m.session = h.session →
       (m.ident ≠ peerIdentity r → fails (.rmblReply n m) 2) ∧
       (m.ident = peerIdentity r →
         let ok := ed25519Verify (peerIdentity r) (handshakeDigest 1 h { m with sig := [] }) m.sig
         (ok = false → fails (.rmblReply n m) 1) ∧
         (ok = true → allZero (x25519 r.secret m.pub) = true → exec (.rmblReply n m) s = .next { s with
           ramblers := listMod s.ramblers n.val (fun x => { x with reply := some m, state := 6, err := 1 })
           outputs := s.outputs ++ [.finish n.val (padTo 64 (ed25519Sign s.boot.identity (handshakeDigest 2 h m)))] }) ∧
         (ok = true → allZero (x25519 r.secret m.pub) = false →
           ∃ t rest, exec (.rmblReply n m) s = .next t ∧ ready t (keys h m m.pub) ∧ t.outputs = s.outputs ++
             .finish n.val (padTo 64 (ed25519Sign s.boot.identity (handshakeDigest 2 h m))) :: rest))))

/-- R43 to R47, R50: a frame that opens and is new is accepted once, one whose tag does not verify fails the session with 1, and the
record of an accepted one is applied: a page's bytes,
or zeros, at its address; the control records in the log; ROUND_END sets the round; END ends the session; a record that must
be understood and is not fails it with 8. R46 to R49: the source's rounds. The last acknowledgement of a round is answered by
ROUND_END; with ROUND_END acknowledged the next round may begin; the last acknowledgement after END ends the session. The
layout of HELLO and REPLY, the value of ROUND, the use of the record log and the order of rounds are the model's reading (log
18). -/
def Obligations.RamblerFramesAndRoundsAreAppliedOnce : Prop :=
  (∀ (s : State) (n : Fin 4) (f plain : List Byte) (pa p lvl : Nat), n.val < s.ramblers.length →
     s.boot.released = true → s.boot.frozenCmd = false → s.boot.frozenPin = false →
     let r := rambler s n.val
     let seq := field f 8 8
     let x := parseRecord plain
     let rows : List (Instr × Nat) := [(.rmblBegin n f, 1), (.rmblPage n f, 2), (.rmblZero n f, 3), (.rmblRoundEnd n f, 4),
       (.rmblQueue n f, 0x10), (.rmblLaunch n f, 0x11), (.rmblEnd n f, 0xFF)]
     let all : List Instr := rows.map (·.1) ++ [.rmblUnknownTag n f]
     let session (g : Rambler → Rambler) : State := { s with ramblers := listMod s.ramblers n.val g }
     let accept (y : Rambler) : Rambler := { y with accepted := y.accepted ++ [seq], transcript := tabPut y.transcript seq plain }
     (r.src = true ∨ r.begun = false ∨ r.state = 0 ∨ 5 ≤ r.state ∨ r.accepted.contains seq = true →
       ∀ i ∈ all, exec i s = .next s) ∧
     (r.src = false → r.begun = true → 1 ≤ r.state → r.state ≤ 4 → r.accepted.contains seq = false →
       let opened := gcmOpen r.key (r.salt ++ toBytes 8 seq) (f.take 16) (f.drop 16)
       (opened = none → ∀ i ∈ all, exec i s = .next (session (fun y => { y with state := 6, err := 1 }))) ∧
       (opened = some plain →
         (∀ e ∈ rows, x.tag ≠ e.2 → exec e.1 s = .next s) ∧
         (x.req = true → 1 < x.ver → ∀ e ∈ rows, x.tag = e.2 → exec e.1 s = .next (session (fun y => { accept y with state := 6, err := 8 }))) ∧
         (x.tag ∉ rows.map (·.2) → x.tag ≠ 0 →
           exec (.rmblUnknownTag n f) s = .next (session (fun y => if x.req then { accept y with state := 6, err := 8 } else accept y))) ∧
         (x.req = false ∨ x.ver ≤ 1 →
           (∀ data, (x.tag = 2 ∧ data = padTo 4096 x.payload) ∨ (x.tag = 3 ∧ data = List.replicate 4096 0) →
             translate s 160 r.space.toNat (x.key / 4096 * 4096) .device = .ok pa p lvl → pa + 4096 ≤ 2 ^ 51 → s.MemOk → s.skim.lines = [] →
             s.skim.entries = [] →
             ∃ t, exec (if x.tag = 2 then .rmblPage n f else .rmblZero n f) s = .next t ∧ rambler t n.val = accept r ∧
               ∀ i < 4096, homeByte t (pa + i) = data.getD i 0) ∧
           (r.logUsed + plain.length ≤ r.logSize.toNat → (∀ i < plain.length, ∃ a b c, translate s 160 r.space.toNat
               (r.logLo.toNat + r.logHi.toNat * 2 ^ 32 + r.logUsed + i) .device = .ok a b c ∧ reachable s a = true) →
             let logged := { accept r with logUsed := r.logUsed + plain.length }
             let takes (i : Instr) (y : Rambler) : Prop := ∃ t, exec i s = .next t ∧ rambler t n.val = y
             (x.tag = 1 → takes (.rmblBegin n f) logged) ∧ (x.tag = 0x10 → takes (.rmblQueue n f) logged) ∧
             (x.tag = 0x11 → takes (.rmblLaunch n f) logged) ∧ (x.tag = 4 → takes (.rmblRoundEnd n f) { logged with round := x.key + 1 }) ∧
             (x.tag = 0xFF →
               let before := (logged.transcript.filter (fun e => e.1 != seq)).flatMap (·.2)
               takes (.rmblEnd n f) (if x.key = logged.accepted.length ∧ padTo 64 x.payload = toBytes 64 (sha512 before).toNat
                 then { logged with state := 5 } else { logged with state := 6, err := 8 }))))))) ∧
  (∀ (s : State) (n : Fin 4) (seq : Nat), n.val < s.ramblers.length →
     s.boot.released = true → s.boot.frozenCmd = false → s.boot.frozenPin = false →
     let r := rambler s n.val
     let session (g : Rambler → Rambler) : State := { s with ramblers := listMod s.ramblers n.val g }
     r.src = true → r.begun = true → 1 ≤ r.state → r.state ≤ 4 →
     (r.unacked.contains seq = false → exec (.rmblAck n seq) s = .next s) ∧
     (r.unacked.contains seq = true → r.unacked.length ≠ 1 →
       exec (.rmblAck n seq) s = .next (session (fun x => { x with unacked := x.unacked.erase seq }))) ∧
     (r.unacked = [seq] →
       (r.ended = true → exec (.rmblAck n seq) s = .next (session (fun x => { x with unacked := [], state := 5, sent := x.roundSent }))) ∧
       (r.ended = false → r.state ≠ 4 → r.roundEnd = true →
         exec (.rmblAck n seq) s = .next (session (fun x => { x with unacked := [], sent := x.roundSent }))) ∧
       (r.ended = false → r.state ≠ 4 → r.roundEnd = false →
         let rec_ := recordBytes 4 true r.round (toBytes 8 r.roundSent)
         let frame := sealFrame r (r.seqOut + 1) rec_
         exec (.rmblAck n seq) s = .next { session (fun x => { x with
           unacked := [r.seqOut + 1], seqOut := r.seqOut + 1, transcript := tabPut x.transcript (r.seqOut + 1) rec_, roundEnd := true })
           with outputs := s.outputs ++ [.frame n.val (r.seqOut + 1) frame] })) ∧
     (r.unacked ≠ [] ∨ r.ended = true → exec (.rmblRound n) s = .next s) ∧
     (r.unacked = [] → r.ended = false → r.roundEnd = true → r.state = 2 ∨ (r.state = 4 ∧ r.cutAt.isSome = true) →
       ∃ t, exec (.rmblRound n) s = .next t ∧ (rambler t n.val).round = r.round + 1 ∧ (r.state = 4 → (rambler t n.val).cutAt = none) ∧
         (rambler t n.val).state = r.state ∧ s.outputs <+: t.outputs ∧ t.launches = s.launches))
end

