-- ==== Sys2Proof/Laws/Tab.lean ====
section
/-! SUPPORT. Sparse tables: what reads after writes give, and that every operation keeps the canonical form. -/

namespace Sys2Proof.Machine

variable {α : Type}

/-! ## Reads after writes -/

@[simp] theorem tabFind_put_same (t : Tab α) (x : Nat) (v : α) : tabFind (tabPut t x v) x = some v := by
  induction t with
  | nil => simp [tabPut, tabFind]
  | cons e t ih =>
    obtain ⟨k, w⟩ := e
    unfold tabPut
    split
    · simp [tabFind]
    · split
      · simp [tabFind]
      · next h1 h2 => simp [tabFind, h1, h2, ih]

theorem tabFind_put_other (t : Tab α) {x y : Nat} (v : α) (h : y ≠ x) : tabFind (tabPut t x v) y = tabFind t y := by
  induction t with
  | nil =>
    have : ¬ x = y := fun e => h e.symm
    simp [tabPut, tabFind, this]
  | cons e t ih =>
    obtain ⟨k, w⟩ := e
    have hxy : ¬ x = y := fun e => h e.symm
    unfold tabPut
    split
    · next hk => subst hk; simp [tabFind, hxy]
    · split
      · next h1 h2 =>
        simp only [tabFind, if_neg hxy]
        by_cases hy : y < x
        · have : ¬ k = y := by omega
          have : y < k := by omega
          simp [*]
        · simp [hy]
      · next h1 h2 => simp only [tabFind]; rw [ih]

/-- A key that lies below every key of a table is not listed. -/
theorem tabFind_below {b x : Nat} {t : Tab α} (h : tabAbove b t = true) (hx : x ≤ b) : tabFind t x = none := by
  cases t with
  | nil => rfl
  | cons e t =>
    obtain ⟨k, w⟩ := e
    simp only [tabAbove, Bool.and_eq_true, decide_eq_true_eq] at h
    have h1 : ¬ k = x := by omega
    have h2 : x < k := by omega
    simp [tabFind, h1, h2]

theorem tabAbove_mono {b c : Nat} {t : Tab α} (h : tabAbove c t = true) (hb : b ≤ c) : tabAbove b t = true := by
  cases t with
  | nil => rfl
  | cons e t =>
    obtain ⟨k, w⟩ := e
    simp only [tabAbove, Bool.and_eq_true, decide_eq_true_eq] at h ⊢
    exact ⟨by omega, h.2⟩

theorem tabWf_of_above {b : Nat} {t : Tab α} (h : tabAbove b t = true) : tabWf t = true := by
  cases t with
  | nil => rfl
  | cons e t => simp only [tabAbove, Bool.and_eq_true] at h; exact h.2

theorem tabFind_del_other_above {b : Nat} (t : Tab α) {x y : Nat} (ht : tabAbove b t = true) (h : y ≠ x) :
    tabFind (tabDel t x) y = tabFind t y := by
  induction t generalizing b with
  | nil => rfl
  | cons e t ih =>
    obtain ⟨k, w⟩ := e
    have ht' := ht
    simp only [tabAbove, Bool.and_eq_true, decide_eq_true_eq] at ht
    unfold tabDel
    split
    · next hk =>
      subst hk
      have hky : ¬ k = y := fun e => h e.symm
      simp only [tabFind, if_neg hky]
      split
      · next hy => exact tabFind_below ht.2 (by omega)
      · rfl
    · split
      · rfl
      · simp only [tabFind]; rw [ih ht.2]

theorem tabFind_del_same_above {b : Nat} (t : Tab α) {x : Nat} (ht : tabAbove b t = true) : tabFind (tabDel t x) x = none := by
  induction t generalizing b with
  | nil => rfl
  | cons e t ih =>
    obtain ⟨k, w⟩ := e
    simp only [tabAbove, Bool.and_eq_true, decide_eq_true_eq] at ht
    unfold tabDel
    split
    · next hk => subst hk; exact tabFind_below ht.2 (Nat.le_refl _)
    · split
      · next h1 h2 => simp [tabFind, h1, h2]
      · next h1 h2 => simp [tabFind, h1, h2, ih ht.2]

theorem tabFind_del_other {t : Tab α} {x y : Nat} (ht : tabWf t = true) (h : y ≠ x) : tabFind (tabDel t x) y = tabFind t y := by
  cases t with
  | nil => rfl
  | cons e t =>
    obtain ⟨k, w⟩ := e
    simp only [tabWf] at ht
    unfold tabDel
    split
    · next hk =>
      subst hk
      have hky : ¬ k = y := fun e => h e.symm
      simp only [tabFind, if_neg hky]
      split
      · next hy => exact tabFind_below ht (by omega)
      · rfl
    · split
      · rfl
      · simp only [tabFind]; rw [tabFind_del_other_above t ht h]

theorem tabFind_del_same {t : Tab α} {x : Nat} (ht : tabWf t = true) : tabFind (tabDel t x) x = none := by
  cases t with
  | nil => rfl
  | cons e t =>
    obtain ⟨k, w⟩ := e
    simp only [tabWf] at ht
    unfold tabDel
    split
    · next hk => subst hk; exact tabFind_below ht (Nat.le_refl _)
    · split
      · next h1 h2 => simp [tabFind, h1, h2]
      · next h1 h2 => simp [tabFind, h1, h2, tabFind_del_same_above t ht]

/-! ## The canonical form -/

theorem tabAbove_put {b x : Nat} {t : Tab α} (v : α) (hb : b < x) (ht : tabAbove b t = true) : tabAbove b (tabPut t x v) = true := by
  induction t generalizing b with
  | nil => simp [tabPut, tabAbove, hb]
  | cons e t ih =>
    obtain ⟨k, w⟩ := e
    simp only [tabAbove, Bool.and_eq_true, decide_eq_true_eq] at ht
    unfold tabPut
    split
    · next hk => subst hk; simp [tabAbove, hb, ht.2]
    · split
      · next h1 h2 => simp [tabAbove, hb, h2, ht.2]
      · next h1 h2 =>
        have : k < x := by omega
        simp [tabAbove, ht.1, ih this ht.2]

theorem tabWf_put {t : Tab α} (x : Nat) (v : α) (ht : tabWf t = true) : tabWf (tabPut t x v) = true := by
  cases t with
  | nil => simp [tabPut, tabWf, tabAbove]
  | cons e t =>
    obtain ⟨k, w⟩ := e
    simp only [tabWf] at ht
    unfold tabPut
    split
    · next hk => subst hk; simpa [tabWf] using ht
    · split
      · next h1 h2 => simp [tabWf, tabAbove, h2, ht]
      · next h1 h2 =>
        have : k < x := by omega
        simpa [tabWf] using tabAbove_put v this ht

theorem tabAbove_del {b : Nat} {t : Tab α} (x : Nat) (ht : tabAbove b t = true) : tabAbove b (tabDel t x) = true := by
  induction t generalizing b with
  | nil => rfl
  | cons e t ih =>
    obtain ⟨k, w⟩ := e
    simp only [tabAbove, Bool.and_eq_true, decide_eq_true_eq] at ht
    unfold tabDel
    split
    · exact tabAbove_mono ht.2 (by omega)
    · split
      · simp [tabAbove, ht.1, ht.2]
      · simp [tabAbove, ht.1, ih ht.2]

theorem tabWf_del {t : Tab α} (x : Nat) (ht : tabWf t = true) : tabWf (tabDel t x) = true := by
  cases t with
  | nil => rfl
  | cons e t =>
    obtain ⟨k, w⟩ := e
    simp only [tabWf] at ht
    unfold tabDel
    split
    · exact tabWf_of_above ht
    · split
      · simpa [tabWf] using ht
      · simpa [tabWf] using tabAbove_del x ht

theorem tabAbove_filter {b : Nat} {t : Tab α} (p : Nat × α → Bool) (ht : tabAbove b t = true) : tabAbove b (t.filter p) = true := by
  induction t generalizing b with
  | nil => rfl
  | cons e t ih =>
    obtain ⟨k, w⟩ := e
    simp only [tabAbove, Bool.and_eq_true, decide_eq_true_eq] at ht
    simp only [List.filter_cons]
    split
    · simp [tabAbove, ht.1, ih ht.2]
    · exact ih (tabAbove_mono ht.2 (by omega))

theorem tabWf_filter {t : Tab α} (p : Nat × α → Bool) (ht : tabWf t = true) : tabWf (t.filter p) = true := by
  cases t with
  | nil => rfl
  | cons e t =>
    obtain ⟨k, w⟩ := e
    simp only [tabWf] at ht
    simp only [List.filter_cons]
    split
    · simpa [tabWf] using tabAbove_filter p ht
    · exact tabWf_of_above (tabAbove_filter p ht)

/-- A table whose entries are kept under their keys, or left out, stays in its form. -/
theorem tabAbove_filterMap {g : Nat × α → Option (Nat × α)} (hg : ∀ e r, g e = some r → r.1 = e.1) {b : Nat} {t : Tab α}
    (ht : tabAbove b t = true) : tabAbove b (t.filterMap g) = true := by
  induction t generalizing b with
  | nil => rfl
  | cons e t ih =>
    obtain ⟨k, w⟩ := e
    simp only [tabAbove, Bool.and_eq_true, decide_eq_true_eq] at ht
    cases h : g (k, w) with
    | none => rw [List.filterMap_cons_none h]; exact ih (tabAbove_mono ht.2 (by omega))
    | some r =>
      rw [List.filterMap_cons_some h]
      have hr : r.1 = k := hg _ _ h
      simp only [tabAbove, Bool.and_eq_true, decide_eq_true_eq, hr]
      exact ⟨ht.1, ih ht.2⟩

theorem tabWf_filterMap {g : Nat × α → Option (Nat × α)} (hg : ∀ e r, g e = some r → r.1 = e.1) {t : Tab α} (ht : tabWf t = true) :
    tabWf (t.filterMap g) = true := by
  cases t with
  | nil => rfl
  | cons e t =>
    obtain ⟨k, w⟩ := e
    cases h : g (k, w) with
    | none => rw [List.filterMap_cons_none h]; exact tabWf_of_above (tabAbove_filterMap hg ht)
    | some r =>
      rw [List.filterMap_cons_some h]
      have hr : r.1 = k := hg _ _ h
      simp only [tabWf, hr]
      exact tabAbove_filterMap hg ht

theorem tabWf_map {g : Nat × α → Nat × α} (hg : ∀ e, (g e).1 = e.1) {t : Tab α} (ht : tabWf t = true) : tabWf (t.map g) = true := by
  rw [← List.filterMap_eq_map]
  exact tabWf_filterMap (fun e r h => by cases h; exact hg e) ht

theorem tabWf_mod {t : Tab α} (x : Nat) (f : α → α) (ht : tabWf t = true) : tabWf (tabMod t x f) = true := by
  unfold tabMod
  split
  · exact tabWf_put _ _ ht
  · exact ht

theorem tabWf_clear {t : Tab α} (lo n : Nat) (ht : tabWf t = true) : tabWf (tabClear t lo n) = true := tabWf_filter _ ht

/-! ## Entries -/

theorem all_put {p : Nat × α → Bool} {t : Tab α} {x : Nat} {v : α} (ht : t.all p = true) (hv : p (x, v) = true) :
    (tabPut t x v).all p = true := by
  induction t with
  | nil => simpa [tabPut] using hv
  | cons e t ih =>
    obtain ⟨k, w⟩ := e
    simp only [List.all_cons, Bool.and_eq_true] at ht
    unfold tabPut
    split
    · simp [hv, ht.2]
    · split
      · simp [hv, ht.1, ht.2]
      · simp [ht.1, ih ht.2]

theorem all_del {p : Nat × α → Bool} {t : Tab α} (x : Nat) (ht : t.all p = true) : (tabDel t x).all p = true := by
  induction t with
  | nil => rfl
  | cons e t ih =>
    obtain ⟨k, w⟩ := e
    simp only [List.all_cons, Bool.and_eq_true] at ht
    unfold tabDel
    split
    · exact ht.2
    · split
      · simp [ht.1, ht.2]
      · simp [ht.1, ih ht.2]

theorem all_filter {p q : Nat × α → Bool} {t : Tab α} (ht : t.all p = true) : (t.filter q).all p = true := by
  simp only [List.all_eq_true] at ht ⊢
  exact fun e he => ht e (List.mem_filter.mp he).1

/-! ## Memory -/

theorem memWf_set {m : List (Nat × Byte)} (x : Nat) (v : Byte) (h : memWf m = true) : memWf (tabSet 0 m x v) = true := by
  simp only [memWf, Bool.and_eq_true] at h ⊢
  unfold tabSet
  split
  · exact ⟨tabWf_del x h.1, all_del x h.2⟩
  · next hv => exact ⟨tabWf_put x v h.1, all_put h.2 (by simpa using hv)⟩

theorem memWf_filter {m : List (Nat × Byte)} (p : Nat × Byte → Bool) (h : memWf m = true) : memWf (m.filter p) = true := by
  simp only [memWf, Bool.and_eq_true] at h ⊢
  exact ⟨tabWf_filter p h.1, all_filter h.2⟩

theorem tabGet_set_same {m : List (Nat × Byte)} (x : Nat) (v : Byte) (h : memWf m = true) : tabGet 0 (tabSet 0 m x v) x = v := by
  simp only [memWf, Bool.and_eq_true] at h
  unfold tabSet tabGet
  split
  · next hv => simp [tabFind_del_same h.1, hv]
  · simp

theorem tabGet_set_other {m : List (Nat × Byte)} {x y : Nat} (v : Byte) (h : memWf m = true) (hy : y ≠ x) :
    tabGet 0 (tabSet 0 m x v) y = tabGet 0 m y := by
  simp only [memWf, Bool.and_eq_true] at h
  unfold tabSet tabGet
  split
  · rw [tabFind_del_other h.1 hy]
  · rw [tabFind_put_other _ _ hy]

/-! ## Folds -/

/-- What every step of a fold keeps, the fold keeps. -/
theorem foldl_keeps {β σ : Type} {P : σ → Prop} {g : σ → β → σ} (hg : ∀ s x, P s → P (g s x)) (l : List β) {s : σ} (hs : P s) :
    P (l.foldl g s) := by
  induction l generalizing s with
  | nil => exact hs
  | cons x l ih => exact ih (hg s x hs)

/-- A part of the state that no step of a fold changes. -/
theorem foldl_same {β σ τ : Type} (p : σ → τ) {g : σ → β → σ} (hg : ∀ s x, p (g s x) = p s) (l : List β) (s : σ) :
    p (l.foldl g s) = p s := by
  induction l generalizing s with
  | nil => rfl
  | cons x l ih => exact (ih (g s x)).trans (hg s x)

end Sys2Proof.Machine
end

