-- ==== Sys2Proof/Laws/Crypto.lean ====
section
/-! SUPPORT. What Galois counter mode seals it opens again. -/

namespace Sys2Proof.Machine

theorem length_xorBytes (a b : List Byte) : (xorBytes a b).length = Nat.min a.length b.length := by
  simp [xorBytes]

theorem xorBytes_xorBytes {a b : List Byte} (h : a.length ≤ b.length) : xorBytes (xorBytes a b) b = a := by
  induction a generalizing b with
  | nil => rfl
  | cons x a ih =>
    cases b with
    | nil => simp at h
    | cons y b =>
      simp only [xorBytes, List.zip_cons_cons, List.map_cons, List.cons.injEq] at ih ⊢
      exact ⟨by rw [BitVec.xor_assoc, BitVec.xor_self, BitVec.xor_zero], ih (by simpa using h)⟩

theorem length_padTo (n : Nat) (l : List Byte) : (padTo n l).length = n := by
  simp [padTo]
  omega

/-- The key schedule is at least 60 words of four bytes each. -/
theorem aesKeys_words (key : List Byte) : (aesKeys key).length = 60 ∧ ∀ w ∈ aesKeys key, w.length = 4 := by
  let step := fun (w : List (List Byte)) (j : Nat) =>
    let i := j + 8
    let t := w.getD 0 []
    let t := if i % 8 = 0 then xorBytes ((t.drop 1 ++ t.take 1).map aesSub) [BitVec.ofNat 8 (2 ^ (i / 8 - 1)), 0, 0, 0]
      else if i % 8 = 4 then t.map aesSub else t
    xorBytes (w.getD 7 []) t :: w
  have hs : ∀ (n : Nat) (w : List (List Byte)), 8 ≤ w.length → (∀ x ∈ w, x.length = 4) →
      ((List.range n).foldl step w).length = w.length + n ∧ ∀ x ∈ (List.range n).foldl step w, x.length = 4 := by
    intro n w hw h4
    induction n with
    | zero => exact ⟨rfl, h4⟩
    | succ n ih =>
      rw [List.range_succ, List.foldl_append]
      generalize (List.range n).foldl step w = v at ih
      have hv (k : Nat) (hk : k < 8) : (v.getD k []).length = 4 := by
        rw [List.getD_eq_getElem _ _ (by omega)]
        exact ih.2 _ (List.getElem_mem _)
      refine ⟨by simp [step, ih.1]; omega, ?_⟩
      intro x hx
      simp only [List.foldl_cons, List.foldl_nil, step, List.mem_cons] at hx
      rcases hx with rfl | hx
      · rw [length_xorBytes, hv 7 (by omega)]
        have h0 := hv 0 (by omega)
        generalize v.getD 0 [] = t at h0
        split
        · simp [length_xorBytes, h0]
        · split <;> simp [h0]
      · exact ih.2 _ hx
  have hf : ∀ x ∈ ((List.range 8).map (fun i => ((padTo 32 key).drop (4 * i)).take 4)).reverse, x.length = 4 := by
    intro x hx
    simp only [List.mem_reverse, List.mem_map, List.mem_range] at hx
    obtain ⟨i, hi, rfl⟩ := hx
    simp [length_padTo]
    omega
  obtain ⟨h1, h2⟩ := hs 52 _ (by simp) hf
  refine ⟨?_, ?_⟩
  · show (((List.range 52).foldl step _).reverse).length = 60
    rw [List.length_reverse, h1]
    simp
  · intro w hw
    exact h2 w (List.mem_reverse.mp hw)

theorem length_roundKey (key : List Byte) {n : Nat} (hn : n ≤ 14) : (((aesKeys key).drop (4 * n)).take 4).flatten.length = 16 := by
  obtain ⟨h1, h2⟩ := aesKeys_words key
  have h3 : ∀ w ∈ ((aesKeys key).drop (4 * n)).take 4, w.length = 4 := fun w hw => h2 w (List.mem_of_mem_drop (List.mem_of_mem_take hw))
  have h4 : (((aesKeys key).drop (4 * n)).take 4).length = 4 := by simp [h1]; omega
  generalize ((aesKeys key).drop (4 * n)).take 4 = l at h3 h4
  rw [List.length_flatten, List.map_congr_left h3]
  simp [h4]

/-- A block of AES has sixteen bytes. -/
theorem length_aes256 (key b : List Byte) : (aes256 (aesKeys key) b).length = 16 := by
  simp only [aes256]
  rw [length_xorBytes, length_roundKey key (Nat.le_refl 14)]
  simp [aesShift]

theorem length_flatMap_aes (key : List Byte) (g : Nat → List Byte) (n : Nat) :
    ((List.range n).flatMap (fun i => aes256 (aesKeys key) (g i))).length = 16 * n := by
  simp [List.length_flatMap, length_aes256, Nat.mul_comm]

theorem length_gcmCrypt (key nonce text : List Byte) : (gcmCrypt (aesKeys key) nonce text).length = text.length := by
  unfold gcmCrypt
  rw [length_xorBytes, length_flatMap_aes]
  have : text.length ≤ 16 * ((text.length + 15) / 16) := by omega
  exact Nat.min_eq_left this

theorem gcmCrypt_gcmCrypt (key nonce text : List Byte) :
    gcmCrypt (aesKeys key) nonce (gcmCrypt (aesKeys key) nonce text) = text := by
  rw [gcmCrypt, length_gcmCrypt]
  unfold gcmCrypt
  exact xorBytes_xorBytes (by rw [length_flatMap_aes]; omega)

theorem length_gcmTag (key nonce aad ct : List Byte) : (gcmTag (aesKeys key) nonce aad ct).length = 16 := by
  unfold gcmTag
  rw [length_xorBytes, length_aes256]
  simp [toBytesBE, toBytes]

theorem gcmOpen_append {key nonce aad ct tag : List Byte} (hl : tag.length = 16) (ht : gcmTag (aesKeys key) nonce aad ct = tag) :
    gcmOpen key nonce aad (ct ++ tag) = some (gcmCrypt (aesKeys key) nonce ct) := by
  have h1 : (ct ++ tag).length - 16 = ct.length := by rw [List.length_append, hl]; omega
  unfold gcmOpen
  dsimp only
  rw [h1, List.take_left, List.drop_left, if_neg]
  rw [ht]
  simp [hl]

/-- What is sealed opens under the same key, nonce and additional data (R43). -/
theorem gcmOpen_gcmSeal (key nonce aad text : List Byte) : gcmOpen key nonce aad (gcmSeal key nonce aad text) = some text := by
  have h := gcmOpen_append (length_gcmTag key nonce aad (gcmCrypt (aesKeys key) nonce text)) rfl
  rwa [gcmCrypt_gcmCrypt] at h

end Sys2Proof.Machine
end

