-- ==== Sys2Proof/Laws/State.lean ====
section
/-! SUPPORT. What each named update does to each field of the state: one lemma for each. -/

namespace Sys2Proof.Machine

/-! ## fired -/

@[simp] theorem fired_boot (s : State) : (fired s).boot = s.boot := rfl
@[simp] theorem fired_gov (s : State) : (fired s).gov = s.gov := rfl
@[simp] theorem fired_merr (s : State) : (fired s).merr = s.merr := rfl
@[simp] theorem fired_kamub (s : State) : (fired s).kamub = s.kamub := rfl
@[simp] theorem fired_eth (s : State) : (fired s).eth = s.eth := rfl
@[simp] theorem fired_ramblers (s : State) : (fired s).ramblers = s.ramblers := rfl
@[simp] theorem fired_spaces (s : State) : (fired s).spaces = s.spaces := rfl
@[simp] theorem fired_queues (s : State) : (fired s).queues = s.queues := rfl
@[simp] theorem fired_xlat (s : State) : (fired s).xlat = s.xlat := rfl
@[simp] theorem fired_skim (s : State) : (fired s).skim = s.skim := rfl
@[simp] theorem fired_disp (s : State) : (fired s).disp = s.disp := rfl
@[simp] theorem fired_placers (s : State) : (fired s).placers = s.placers := rfl
@[simp] theorem fired_mem (s : State) : (fired s).mem = s.mem := rfl
@[simp] theorem fired_core (s : State) : (fired s).core = s.core := rfl
@[simp] theorem fired_launches (s : State) : (fired s).launches = s.launches := rfl
@[simp] theorem fired_teams (s : State) : (fired s).teams = s.teams := rfl
@[simp] theorem fired_threads (s : State) : (fired s).threads = s.threads := rfl
@[simp] theorem fired_crews (s : State) : (fired s).crews = s.crews := rfl
@[simp] theorem fired_tokens (s : State) : (fired s).tokens = s.tokens := rfl
@[simp] theorem fired_accesses (s : State) : (fired s).accesses = s.accesses := rfl
@[simp] theorem fired_resumed (s : State) : (fired s).resumed = s.resumed := rfl
@[simp] theorem fired_placed (s : State) : (fired s).placed = s.placed := rfl
@[simp] theorem fired_regions (s : State) : (fired s).regions = s.regions := rfl
@[simp] theorem fired_strms (s : State) : (fired s).strms = s.strms := rfl
@[simp] theorem fired_posted (s : State) : (fired s).posted = s.posted := rfl
@[simp] theorem fired_images (s : State) : (fired s).images = s.images := rfl
@[simp] theorem fired_scToken (s : State) : (fired s).scToken = s.scToken := rfl
@[simp] theorem fired_scWaiting (s : State) : (fired s).scWaiting = s.scWaiting := rfl
@[simp] theorem fired_scAt (s : State) : (fired s).scAt = s.scAt := rfl
@[simp] theorem fired_scLast (s : State) : (fired s).scLast = s.scLast := rfl
@[simp] theorem fired_seams (s : State) : (fired s).seams = s.seams := rfl
@[simp] theorem fired_cycles (s : State) : (fired s).cycles = s.cycles := rfl
@[simp] theorem fired_half (s : State) : (fired s).half = s.half := rfl
@[simp] theorem fired_clock (s : State) : (fired s).clock = s.clock := rfl
@[simp] theorem fired_pollAt (s : State) : (fired s).pollAt = s.pollAt := rfl
@[simp] theorem fired_nextId (s : State) : (fired s).nextId = s.nextId := rfl
@[simp] theorem fired_dawn (s : State) : (fired s).dawn = s.dawn := rfl
@[simp] theorem fired_masks (s : State) : (fired s).masks = s.masks := rfl
@[simp] theorem fired_brks (s : State) : (fired s).brks = s.brks := rfl
@[simp] theorem fired_freeCtr (s : State) : (fired s).freeCtr = s.freeCtr := rfl
@[simp] theorem fired_turns (s : State) : (fired s).turns = s.turns := rfl
@[simp] theorem fired_late (s : State) : (fired s).late = s.late := rfl
@[simp] theorem fired_cur (s : State) : (fired s).cur = none := rfl
@[simp] theorem fired_readData (s : State) : (fired s).readData = s.readData := rfl
@[simp] theorem fired_outputs (s : State) : (fired s).outputs = s.outputs := rfl

/-! ## modLaunch -/

@[simp] theorem modLaunch_boot (id : Nat) (f : Launch → Launch) (s : State) : (modLaunch id f s).boot = s.boot := rfl
@[simp] theorem modLaunch_gov (id : Nat) (f : Launch → Launch) (s : State) : (modLaunch id f s).gov = s.gov := rfl
@[simp] theorem modLaunch_merr (id : Nat) (f : Launch → Launch) (s : State) : (modLaunch id f s).merr = s.merr := rfl
@[simp] theorem modLaunch_kamub (id : Nat) (f : Launch → Launch) (s : State) : (modLaunch id f s).kamub = s.kamub := rfl
@[simp] theorem modLaunch_eth (id : Nat) (f : Launch → Launch) (s : State) : (modLaunch id f s).eth = s.eth := rfl
@[simp] theorem modLaunch_ramblers (id : Nat) (f : Launch → Launch) (s : State) : (modLaunch id f s).ramblers = s.ramblers := rfl
@[simp] theorem modLaunch_spaces (id : Nat) (f : Launch → Launch) (s : State) : (modLaunch id f s).spaces = s.spaces := rfl
@[simp] theorem modLaunch_queues (id : Nat) (f : Launch → Launch) (s : State) : (modLaunch id f s).queues = s.queues := rfl
@[simp] theorem modLaunch_xlat (id : Nat) (f : Launch → Launch) (s : State) : (modLaunch id f s).xlat = s.xlat := rfl
@[simp] theorem modLaunch_skim (id : Nat) (f : Launch → Launch) (s : State) : (modLaunch id f s).skim = s.skim := rfl
@[simp] theorem modLaunch_disp (id : Nat) (f : Launch → Launch) (s : State) : (modLaunch id f s).disp = s.disp := rfl
@[simp] theorem modLaunch_placers (id : Nat) (f : Launch → Launch) (s : State) : (modLaunch id f s).placers = s.placers := rfl
@[simp] theorem modLaunch_mem (id : Nat) (f : Launch → Launch) (s : State) : (modLaunch id f s).mem = s.mem := rfl
@[simp] theorem modLaunch_core (id : Nat) (f : Launch → Launch) (s : State) : (modLaunch id f s).core = s.core := rfl
@[simp] theorem modLaunch_launches (id : Nat) (f : Launch → Launch) (s : State) : (modLaunch id f s).launches = modWhere (·.id == id) f s.launches := rfl
@[simp] theorem modLaunch_teams (id : Nat) (f : Launch → Launch) (s : State) : (modLaunch id f s).teams = s.teams := rfl
@[simp] theorem modLaunch_threads (id : Nat) (f : Launch → Launch) (s : State) : (modLaunch id f s).threads = s.threads := rfl
@[simp] theorem modLaunch_crews (id : Nat) (f : Launch → Launch) (s : State) : (modLaunch id f s).crews = s.crews := rfl
@[simp] theorem modLaunch_tokens (id : Nat) (f : Launch → Launch) (s : State) : (modLaunch id f s).tokens = s.tokens := rfl
@[simp] theorem modLaunch_accesses (id : Nat) (f : Launch → Launch) (s : State) : (modLaunch id f s).accesses = s.accesses := rfl
@[simp] theorem modLaunch_resumed (id : Nat) (f : Launch → Launch) (s : State) : (modLaunch id f s).resumed = s.resumed := rfl
@[simp] theorem modLaunch_placed (id : Nat) (f : Launch → Launch) (s : State) : (modLaunch id f s).placed = s.placed := rfl
@[simp] theorem modLaunch_regions (id : Nat) (f : Launch → Launch) (s : State) : (modLaunch id f s).regions = s.regions := rfl
@[simp] theorem modLaunch_strms (id : Nat) (f : Launch → Launch) (s : State) : (modLaunch id f s).strms = s.strms := rfl
@[simp] theorem modLaunch_posted (id : Nat) (f : Launch → Launch) (s : State) : (modLaunch id f s).posted = s.posted := rfl
@[simp] theorem modLaunch_images (id : Nat) (f : Launch → Launch) (s : State) : (modLaunch id f s).images = s.images := rfl
@[simp] theorem modLaunch_scToken (id : Nat) (f : Launch → Launch) (s : State) : (modLaunch id f s).scToken = s.scToken := rfl
@[simp] theorem modLaunch_scWaiting (id : Nat) (f : Launch → Launch) (s : State) : (modLaunch id f s).scWaiting = s.scWaiting := rfl
@[simp] theorem modLaunch_scAt (id : Nat) (f : Launch → Launch) (s : State) : (modLaunch id f s).scAt = s.scAt := rfl
@[simp] theorem modLaunch_scLast (id : Nat) (f : Launch → Launch) (s : State) : (modLaunch id f s).scLast = s.scLast := rfl
@[simp] theorem modLaunch_seams (id : Nat) (f : Launch → Launch) (s : State) : (modLaunch id f s).seams = s.seams := rfl
@[simp] theorem modLaunch_cycles (id : Nat) (f : Launch → Launch) (s : State) : (modLaunch id f s).cycles = s.cycles := rfl
@[simp] theorem modLaunch_half (id : Nat) (f : Launch → Launch) (s : State) : (modLaunch id f s).half = s.half := rfl
@[simp] theorem modLaunch_clock (id : Nat) (f : Launch → Launch) (s : State) : (modLaunch id f s).clock = s.clock := rfl
@[simp] theorem modLaunch_pollAt (id : Nat) (f : Launch → Launch) (s : State) : (modLaunch id f s).pollAt = s.pollAt := rfl
@[simp] theorem modLaunch_nextId (id : Nat) (f : Launch → Launch) (s : State) : (modLaunch id f s).nextId = s.nextId := rfl
@[simp] theorem modLaunch_dawn (id : Nat) (f : Launch → Launch) (s : State) : (modLaunch id f s).dawn = s.dawn := rfl
@[simp] theorem modLaunch_masks (id : Nat) (f : Launch → Launch) (s : State) : (modLaunch id f s).masks = s.masks := rfl
@[simp] theorem modLaunch_brks (id : Nat) (f : Launch → Launch) (s : State) : (modLaunch id f s).brks = s.brks := rfl
@[simp] theorem modLaunch_freeCtr (id : Nat) (f : Launch → Launch) (s : State) : (modLaunch id f s).freeCtr = s.freeCtr := rfl
@[simp] theorem modLaunch_turns (id : Nat) (f : Launch → Launch) (s : State) : (modLaunch id f s).turns = s.turns := rfl
@[simp] theorem modLaunch_late (id : Nat) (f : Launch → Launch) (s : State) : (modLaunch id f s).late = s.late := rfl
@[simp] theorem modLaunch_cur (id : Nat) (f : Launch → Launch) (s : State) : (modLaunch id f s).cur = s.cur := rfl
@[simp] theorem modLaunch_readData (id : Nat) (f : Launch → Launch) (s : State) : (modLaunch id f s).readData = s.readData := rfl
@[simp] theorem modLaunch_outputs (id : Nat) (f : Launch → Launch) (s : State) : (modLaunch id f s).outputs = s.outputs := rfl

/-! ## modTeam -/

@[simp] theorem modTeam_boot (key : Nat) (f : Team → Team) (s : State) : (modTeam key f s).boot = s.boot := rfl
@[simp] theorem modTeam_gov (key : Nat) (f : Team → Team) (s : State) : (modTeam key f s).gov = s.gov := rfl
@[simp] theorem modTeam_merr (key : Nat) (f : Team → Team) (s : State) : (modTeam key f s).merr = s.merr := rfl
@[simp] theorem modTeam_kamub (key : Nat) (f : Team → Team) (s : State) : (modTeam key f s).kamub = s.kamub := rfl
@[simp] theorem modTeam_eth (key : Nat) (f : Team → Team) (s : State) : (modTeam key f s).eth = s.eth := rfl
@[simp] theorem modTeam_ramblers (key : Nat) (f : Team → Team) (s : State) : (modTeam key f s).ramblers = s.ramblers := rfl
@[simp] theorem modTeam_spaces (key : Nat) (f : Team → Team) (s : State) : (modTeam key f s).spaces = s.spaces := rfl
@[simp] theorem modTeam_queues (key : Nat) (f : Team → Team) (s : State) : (modTeam key f s).queues = s.queues := rfl
@[simp] theorem modTeam_xlat (key : Nat) (f : Team → Team) (s : State) : (modTeam key f s).xlat = s.xlat := rfl
@[simp] theorem modTeam_skim (key : Nat) (f : Team → Team) (s : State) : (modTeam key f s).skim = s.skim := rfl
@[simp] theorem modTeam_disp (key : Nat) (f : Team → Team) (s : State) : (modTeam key f s).disp = s.disp := rfl
@[simp] theorem modTeam_placers (key : Nat) (f : Team → Team) (s : State) : (modTeam key f s).placers = s.placers := rfl
@[simp] theorem modTeam_mem (key : Nat) (f : Team → Team) (s : State) : (modTeam key f s).mem = s.mem := rfl
@[simp] theorem modTeam_core (key : Nat) (f : Team → Team) (s : State) : (modTeam key f s).core = s.core := rfl
@[simp] theorem modTeam_launches (key : Nat) (f : Team → Team) (s : State) : (modTeam key f s).launches = s.launches := rfl
@[simp] theorem modTeam_teams (key : Nat) (f : Team → Team) (s : State) : (modTeam key f s).teams = modWhere (·.key == key) f s.teams := rfl
@[simp] theorem modTeam_threads (key : Nat) (f : Team → Team) (s : State) : (modTeam key f s).threads = s.threads := rfl
@[simp] theorem modTeam_crews (key : Nat) (f : Team → Team) (s : State) : (modTeam key f s).crews = s.crews := rfl
@[simp] theorem modTeam_tokens (key : Nat) (f : Team → Team) (s : State) : (modTeam key f s).tokens = s.tokens := rfl
@[simp] theorem modTeam_accesses (key : Nat) (f : Team → Team) (s : State) : (modTeam key f s).accesses = s.accesses := rfl
@[simp] theorem modTeam_resumed (key : Nat) (f : Team → Team) (s : State) : (modTeam key f s).resumed = s.resumed := rfl
@[simp] theorem modTeam_placed (key : Nat) (f : Team → Team) (s : State) : (modTeam key f s).placed = s.placed := rfl
@[simp] theorem modTeam_regions (key : Nat) (f : Team → Team) (s : State) : (modTeam key f s).regions = s.regions := rfl
@[simp] theorem modTeam_strms (key : Nat) (f : Team → Team) (s : State) : (modTeam key f s).strms = s.strms := rfl
@[simp] theorem modTeam_posted (key : Nat) (f : Team → Team) (s : State) : (modTeam key f s).posted = s.posted := rfl
@[simp] theorem modTeam_images (key : Nat) (f : Team → Team) (s : State) : (modTeam key f s).images = s.images := rfl
@[simp] theorem modTeam_scToken (key : Nat) (f : Team → Team) (s : State) : (modTeam key f s).scToken = s.scToken := rfl
@[simp] theorem modTeam_scWaiting (key : Nat) (f : Team → Team) (s : State) : (modTeam key f s).scWaiting = s.scWaiting := rfl
@[simp] theorem modTeam_scAt (key : Nat) (f : Team → Team) (s : State) : (modTeam key f s).scAt = s.scAt := rfl
@[simp] theorem modTeam_scLast (key : Nat) (f : Team → Team) (s : State) : (modTeam key f s).scLast = s.scLast := rfl
@[simp] theorem modTeam_seams (key : Nat) (f : Team → Team) (s : State) : (modTeam key f s).seams = s.seams := rfl
@[simp] theorem modTeam_cycles (key : Nat) (f : Team → Team) (s : State) : (modTeam key f s).cycles = s.cycles := rfl
@[simp] theorem modTeam_half (key : Nat) (f : Team → Team) (s : State) : (modTeam key f s).half = s.half := rfl
@[simp] theorem modTeam_clock (key : Nat) (f : Team → Team) (s : State) : (modTeam key f s).clock = s.clock := rfl
@[simp] theorem modTeam_pollAt (key : Nat) (f : Team → Team) (s : State) : (modTeam key f s).pollAt = s.pollAt := rfl
@[simp] theorem modTeam_nextId (key : Nat) (f : Team → Team) (s : State) : (modTeam key f s).nextId = s.nextId := rfl
@[simp] theorem modTeam_dawn (key : Nat) (f : Team → Team) (s : State) : (modTeam key f s).dawn = s.dawn := rfl
@[simp] theorem modTeam_masks (key : Nat) (f : Team → Team) (s : State) : (modTeam key f s).masks = s.masks := rfl
@[simp] theorem modTeam_brks (key : Nat) (f : Team → Team) (s : State) : (modTeam key f s).brks = s.brks := rfl
@[simp] theorem modTeam_freeCtr (key : Nat) (f : Team → Team) (s : State) : (modTeam key f s).freeCtr = s.freeCtr := rfl
@[simp] theorem modTeam_turns (key : Nat) (f : Team → Team) (s : State) : (modTeam key f s).turns = s.turns := rfl
@[simp] theorem modTeam_late (key : Nat) (f : Team → Team) (s : State) : (modTeam key f s).late = s.late := rfl
@[simp] theorem modTeam_cur (key : Nat) (f : Team → Team) (s : State) : (modTeam key f s).cur = s.cur := rfl
@[simp] theorem modTeam_readData (key : Nat) (f : Team → Team) (s : State) : (modTeam key f s).readData = s.readData := rfl
@[simp] theorem modTeam_outputs (key : Nat) (f : Team → Team) (s : State) : (modTeam key f s).outputs = s.outputs := rfl

/-! ## modThread -/

@[simp] theorem modThread_boot (t : Nat) (f : Thread → Thread) (s : State) : (modThread t f s).boot = s.boot := rfl
@[simp] theorem modThread_gov (t : Nat) (f : Thread → Thread) (s : State) : (modThread t f s).gov = s.gov := rfl
@[simp] theorem modThread_merr (t : Nat) (f : Thread → Thread) (s : State) : (modThread t f s).merr = s.merr := rfl
@[simp] theorem modThread_kamub (t : Nat) (f : Thread → Thread) (s : State) : (modThread t f s).kamub = s.kamub := rfl
@[simp] theorem modThread_eth (t : Nat) (f : Thread → Thread) (s : State) : (modThread t f s).eth = s.eth := rfl
@[simp] theorem modThread_ramblers (t : Nat) (f : Thread → Thread) (s : State) : (modThread t f s).ramblers = s.ramblers := rfl
@[simp] theorem modThread_spaces (t : Nat) (f : Thread → Thread) (s : State) : (modThread t f s).spaces = s.spaces := rfl
@[simp] theorem modThread_queues (t : Nat) (f : Thread → Thread) (s : State) : (modThread t f s).queues = s.queues := rfl
@[simp] theorem modThread_xlat (t : Nat) (f : Thread → Thread) (s : State) : (modThread t f s).xlat = s.xlat := rfl
@[simp] theorem modThread_skim (t : Nat) (f : Thread → Thread) (s : State) : (modThread t f s).skim = s.skim := rfl
@[simp] theorem modThread_disp (t : Nat) (f : Thread → Thread) (s : State) : (modThread t f s).disp = s.disp := rfl
@[simp] theorem modThread_placers (t : Nat) (f : Thread → Thread) (s : State) : (modThread t f s).placers = s.placers := rfl
@[simp] theorem modThread_mem (t : Nat) (f : Thread → Thread) (s : State) : (modThread t f s).mem = s.mem := rfl
@[simp] theorem modThread_core (t : Nat) (f : Thread → Thread) (s : State) : (modThread t f s).core = s.core := rfl
@[simp] theorem modThread_launches (t : Nat) (f : Thread → Thread) (s : State) : (modThread t f s).launches = s.launches := rfl
@[simp] theorem modThread_teams (t : Nat) (f : Thread → Thread) (s : State) : (modThread t f s).teams = s.teams := rfl
@[simp] theorem modThread_threads (t : Nat) (f : Thread → Thread) (s : State) : (modThread t f s).threads = tabMod s.threads t f := rfl
@[simp] theorem modThread_crews (t : Nat) (f : Thread → Thread) (s : State) : (modThread t f s).crews = s.crews := rfl
@[simp] theorem modThread_tokens (t : Nat) (f : Thread → Thread) (s : State) : (modThread t f s).tokens = s.tokens := rfl
@[simp] theorem modThread_accesses (t : Nat) (f : Thread → Thread) (s : State) : (modThread t f s).accesses = s.accesses := rfl
@[simp] theorem modThread_resumed (t : Nat) (f : Thread → Thread) (s : State) : (modThread t f s).resumed = s.resumed := rfl
@[simp] theorem modThread_placed (t : Nat) (f : Thread → Thread) (s : State) : (modThread t f s).placed = s.placed := rfl
@[simp] theorem modThread_regions (t : Nat) (f : Thread → Thread) (s : State) : (modThread t f s).regions = s.regions := rfl
@[simp] theorem modThread_strms (t : Nat) (f : Thread → Thread) (s : State) : (modThread t f s).strms = s.strms := rfl
@[simp] theorem modThread_posted (t : Nat) (f : Thread → Thread) (s : State) : (modThread t f s).posted = s.posted := rfl
@[simp] theorem modThread_images (t : Nat) (f : Thread → Thread) (s : State) : (modThread t f s).images = s.images := rfl
@[simp] theorem modThread_scToken (t : Nat) (f : Thread → Thread) (s : State) : (modThread t f s).scToken = s.scToken := rfl
@[simp] theorem modThread_scWaiting (t : Nat) (f : Thread → Thread) (s : State) : (modThread t f s).scWaiting = s.scWaiting := rfl
@[simp] theorem modThread_scAt (t : Nat) (f : Thread → Thread) (s : State) : (modThread t f s).scAt = s.scAt := rfl
@[simp] theorem modThread_scLast (t : Nat) (f : Thread → Thread) (s : State) : (modThread t f s).scLast = s.scLast := rfl
@[simp] theorem modThread_seams (t : Nat) (f : Thread → Thread) (s : State) : (modThread t f s).seams = s.seams := rfl
@[simp] theorem modThread_cycles (t : Nat) (f : Thread → Thread) (s : State) : (modThread t f s).cycles = s.cycles := rfl
@[simp] theorem modThread_half (t : Nat) (f : Thread → Thread) (s : State) : (modThread t f s).half = s.half := rfl
@[simp] theorem modThread_clock (t : Nat) (f : Thread → Thread) (s : State) : (modThread t f s).clock = s.clock := rfl
@[simp] theorem modThread_pollAt (t : Nat) (f : Thread → Thread) (s : State) : (modThread t f s).pollAt = s.pollAt := rfl
@[simp] theorem modThread_nextId (t : Nat) (f : Thread → Thread) (s : State) : (modThread t f s).nextId = s.nextId := rfl
@[simp] theorem modThread_dawn (t : Nat) (f : Thread → Thread) (s : State) : (modThread t f s).dawn = s.dawn := rfl
@[simp] theorem modThread_masks (t : Nat) (f : Thread → Thread) (s : State) : (modThread t f s).masks = s.masks := rfl
@[simp] theorem modThread_brks (t : Nat) (f : Thread → Thread) (s : State) : (modThread t f s).brks = s.brks := rfl
@[simp] theorem modThread_freeCtr (t : Nat) (f : Thread → Thread) (s : State) : (modThread t f s).freeCtr = s.freeCtr := rfl
@[simp] theorem modThread_turns (t : Nat) (f : Thread → Thread) (s : State) : (modThread t f s).turns = s.turns := rfl
@[simp] theorem modThread_late (t : Nat) (f : Thread → Thread) (s : State) : (modThread t f s).late = s.late := rfl
@[simp] theorem modThread_cur (t : Nat) (f : Thread → Thread) (s : State) : (modThread t f s).cur = s.cur := rfl
@[simp] theorem modThread_readData (t : Nat) (f : Thread → Thread) (s : State) : (modThread t f s).readData = s.readData := rfl
@[simp] theorem modThread_outputs (t : Nat) (f : Thread → Thread) (s : State) : (modThread t f s).outputs = s.outputs := rfl

/-! ## modSpace -/

@[simp] theorem modSpace_boot (n : Nat) (f : Space → Space) (s : State) : (modSpace n f s).boot = s.boot := rfl
@[simp] theorem modSpace_gov (n : Nat) (f : Space → Space) (s : State) : (modSpace n f s).gov = s.gov := rfl
@[simp] theorem modSpace_merr (n : Nat) (f : Space → Space) (s : State) : (modSpace n f s).merr = s.merr := rfl
@[simp] theorem modSpace_kamub (n : Nat) (f : Space → Space) (s : State) : (modSpace n f s).kamub = s.kamub := rfl
@[simp] theorem modSpace_eth (n : Nat) (f : Space → Space) (s : State) : (modSpace n f s).eth = s.eth := rfl
@[simp] theorem modSpace_ramblers (n : Nat) (f : Space → Space) (s : State) : (modSpace n f s).ramblers = s.ramblers := rfl
@[simp] theorem modSpace_spaces (n : Nat) (f : Space → Space) (s : State) : (modSpace n f s).spaces = listMod s.spaces n f := rfl
@[simp] theorem modSpace_queues (n : Nat) (f : Space → Space) (s : State) : (modSpace n f s).queues = s.queues := rfl
@[simp] theorem modSpace_xlat (n : Nat) (f : Space → Space) (s : State) : (modSpace n f s).xlat = s.xlat := rfl
@[simp] theorem modSpace_skim (n : Nat) (f : Space → Space) (s : State) : (modSpace n f s).skim = s.skim := rfl
@[simp] theorem modSpace_disp (n : Nat) (f : Space → Space) (s : State) : (modSpace n f s).disp = s.disp := rfl
@[simp] theorem modSpace_placers (n : Nat) (f : Space → Space) (s : State) : (modSpace n f s).placers = s.placers := rfl
@[simp] theorem modSpace_mem (n : Nat) (f : Space → Space) (s : State) : (modSpace n f s).mem = s.mem := rfl
@[simp] theorem modSpace_core (n : Nat) (f : Space → Space) (s : State) : (modSpace n f s).core = s.core := rfl
@[simp] theorem modSpace_launches (n : Nat) (f : Space → Space) (s : State) : (modSpace n f s).launches = s.launches := rfl
@[simp] theorem modSpace_teams (n : Nat) (f : Space → Space) (s : State) : (modSpace n f s).teams = s.teams := rfl
@[simp] theorem modSpace_threads (n : Nat) (f : Space → Space) (s : State) : (modSpace n f s).threads = s.threads := rfl
@[simp] theorem modSpace_crews (n : Nat) (f : Space → Space) (s : State) : (modSpace n f s).crews = s.crews := rfl
@[simp] theorem modSpace_tokens (n : Nat) (f : Space → Space) (s : State) : (modSpace n f s).tokens = s.tokens := rfl
@[simp] theorem modSpace_accesses (n : Nat) (f : Space → Space) (s : State) : (modSpace n f s).accesses = s.accesses := rfl
@[simp] theorem modSpace_resumed (n : Nat) (f : Space → Space) (s : State) : (modSpace n f s).resumed = s.resumed := rfl
@[simp] theorem modSpace_placed (n : Nat) (f : Space → Space) (s : State) : (modSpace n f s).placed = s.placed := rfl
@[simp] theorem modSpace_regions (n : Nat) (f : Space → Space) (s : State) : (modSpace n f s).regions = s.regions := rfl
@[simp] theorem modSpace_strms (n : Nat) (f : Space → Space) (s : State) : (modSpace n f s).strms = s.strms := rfl
@[simp] theorem modSpace_posted (n : Nat) (f : Space → Space) (s : State) : (modSpace n f s).posted = s.posted := rfl
@[simp] theorem modSpace_images (n : Nat) (f : Space → Space) (s : State) : (modSpace n f s).images = s.images := rfl
@[simp] theorem modSpace_scToken (n : Nat) (f : Space → Space) (s : State) : (modSpace n f s).scToken = s.scToken := rfl
@[simp] theorem modSpace_scWaiting (n : Nat) (f : Space → Space) (s : State) : (modSpace n f s).scWaiting = s.scWaiting := rfl
@[simp] theorem modSpace_scAt (n : Nat) (f : Space → Space) (s : State) : (modSpace n f s).scAt = s.scAt := rfl
@[simp] theorem modSpace_scLast (n : Nat) (f : Space → Space) (s : State) : (modSpace n f s).scLast = s.scLast := rfl
@[simp] theorem modSpace_seams (n : Nat) (f : Space → Space) (s : State) : (modSpace n f s).seams = s.seams := rfl
@[simp] theorem modSpace_cycles (n : Nat) (f : Space → Space) (s : State) : (modSpace n f s).cycles = s.cycles := rfl
@[simp] theorem modSpace_half (n : Nat) (f : Space → Space) (s : State) : (modSpace n f s).half = s.half := rfl
@[simp] theorem modSpace_clock (n : Nat) (f : Space → Space) (s : State) : (modSpace n f s).clock = s.clock := rfl
@[simp] theorem modSpace_pollAt (n : Nat) (f : Space → Space) (s : State) : (modSpace n f s).pollAt = s.pollAt := rfl
@[simp] theorem modSpace_nextId (n : Nat) (f : Space → Space) (s : State) : (modSpace n f s).nextId = s.nextId := rfl
@[simp] theorem modSpace_dawn (n : Nat) (f : Space → Space) (s : State) : (modSpace n f s).dawn = s.dawn := rfl
@[simp] theorem modSpace_masks (n : Nat) (f : Space → Space) (s : State) : (modSpace n f s).masks = s.masks := rfl
@[simp] theorem modSpace_brks (n : Nat) (f : Space → Space) (s : State) : (modSpace n f s).brks = s.brks := rfl
@[simp] theorem modSpace_freeCtr (n : Nat) (f : Space → Space) (s : State) : (modSpace n f s).freeCtr = s.freeCtr := rfl
@[simp] theorem modSpace_turns (n : Nat) (f : Space → Space) (s : State) : (modSpace n f s).turns = s.turns := rfl
@[simp] theorem modSpace_late (n : Nat) (f : Space → Space) (s : State) : (modSpace n f s).late = s.late := rfl
@[simp] theorem modSpace_cur (n : Nat) (f : Space → Space) (s : State) : (modSpace n f s).cur = s.cur := rfl
@[simp] theorem modSpace_readData (n : Nat) (f : Space → Space) (s : State) : (modSpace n f s).readData = s.readData := rfl
@[simp] theorem modSpace_outputs (n : Nat) (f : Space → Space) (s : State) : (modSpace n f s).outputs = s.outputs := rfl

/-! ## modQueue -/

@[simp] theorem modQueue_boot (n : Nat) (f : Queue → Queue) (s : State) : (modQueue n f s).boot = s.boot := rfl
@[simp] theorem modQueue_gov (n : Nat) (f : Queue → Queue) (s : State) : (modQueue n f s).gov = s.gov := rfl
@[simp] theorem modQueue_merr (n : Nat) (f : Queue → Queue) (s : State) : (modQueue n f s).merr = s.merr := rfl
@[simp] theorem modQueue_kamub (n : Nat) (f : Queue → Queue) (s : State) : (modQueue n f s).kamub = s.kamub := rfl
@[simp] theorem modQueue_eth (n : Nat) (f : Queue → Queue) (s : State) : (modQueue n f s).eth = s.eth := rfl
@[simp] theorem modQueue_ramblers (n : Nat) (f : Queue → Queue) (s : State) : (modQueue n f s).ramblers = s.ramblers := rfl
@[simp] theorem modQueue_spaces (n : Nat) (f : Queue → Queue) (s : State) : (modQueue n f s).spaces = s.spaces := rfl
@[simp] theorem modQueue_queues (n : Nat) (f : Queue → Queue) (s : State) : (modQueue n f s).queues = listMod s.queues n f := rfl
@[simp] theorem modQueue_xlat (n : Nat) (f : Queue → Queue) (s : State) : (modQueue n f s).xlat = s.xlat := rfl
@[simp] theorem modQueue_skim (n : Nat) (f : Queue → Queue) (s : State) : (modQueue n f s).skim = s.skim := rfl
@[simp] theorem modQueue_disp (n : Nat) (f : Queue → Queue) (s : State) : (modQueue n f s).disp = s.disp := rfl
@[simp] theorem modQueue_placers (n : Nat) (f : Queue → Queue) (s : State) : (modQueue n f s).placers = s.placers := rfl
@[simp] theorem modQueue_mem (n : Nat) (f : Queue → Queue) (s : State) : (modQueue n f s).mem = s.mem := rfl
@[simp] theorem modQueue_core (n : Nat) (f : Queue → Queue) (s : State) : (modQueue n f s).core = s.core := rfl
@[simp] theorem modQueue_launches (n : Nat) (f : Queue → Queue) (s : State) : (modQueue n f s).launches = s.launches := rfl
@[simp] theorem modQueue_teams (n : Nat) (f : Queue → Queue) (s : State) : (modQueue n f s).teams = s.teams := rfl
@[simp] theorem modQueue_threads (n : Nat) (f : Queue → Queue) (s : State) : (modQueue n f s).threads = s.threads := rfl
@[simp] theorem modQueue_crews (n : Nat) (f : Queue → Queue) (s : State) : (modQueue n f s).crews = s.crews := rfl
@[simp] theorem modQueue_tokens (n : Nat) (f : Queue → Queue) (s : State) : (modQueue n f s).tokens = s.tokens := rfl
@[simp] theorem modQueue_accesses (n : Nat) (f : Queue → Queue) (s : State) : (modQueue n f s).accesses = s.accesses := rfl
@[simp] theorem modQueue_resumed (n : Nat) (f : Queue → Queue) (s : State) : (modQueue n f s).resumed = s.resumed := rfl
@[simp] theorem modQueue_placed (n : Nat) (f : Queue → Queue) (s : State) : (modQueue n f s).placed = s.placed := rfl
@[simp] theorem modQueue_regions (n : Nat) (f : Queue → Queue) (s : State) : (modQueue n f s).regions = s.regions := rfl
@[simp] theorem modQueue_strms (n : Nat) (f : Queue → Queue) (s : State) : (modQueue n f s).strms = s.strms := rfl
@[simp] theorem modQueue_posted (n : Nat) (f : Queue → Queue) (s : State) : (modQueue n f s).posted = s.posted := rfl
@[simp] theorem modQueue_images (n : Nat) (f : Queue → Queue) (s : State) : (modQueue n f s).images = s.images := rfl
@[simp] theorem modQueue_scToken (n : Nat) (f : Queue → Queue) (s : State) : (modQueue n f s).scToken = s.scToken := rfl
@[simp] theorem modQueue_scWaiting (n : Nat) (f : Queue → Queue) (s : State) : (modQueue n f s).scWaiting = s.scWaiting := rfl
@[simp] theorem modQueue_scAt (n : Nat) (f : Queue → Queue) (s : State) : (modQueue n f s).scAt = s.scAt := rfl
@[simp] theorem modQueue_scLast (n : Nat) (f : Queue → Queue) (s : State) : (modQueue n f s).scLast = s.scLast := rfl
@[simp] theorem modQueue_seams (n : Nat) (f : Queue → Queue) (s : State) : (modQueue n f s).seams = s.seams := rfl
@[simp] theorem modQueue_cycles (n : Nat) (f : Queue → Queue) (s : State) : (modQueue n f s).cycles = s.cycles := rfl
@[simp] theorem modQueue_half (n : Nat) (f : Queue → Queue) (s : State) : (modQueue n f s).half = s.half := rfl
@[simp] theorem modQueue_clock (n : Nat) (f : Queue → Queue) (s : State) : (modQueue n f s).clock = s.clock := rfl
@[simp] theorem modQueue_pollAt (n : Nat) (f : Queue → Queue) (s : State) : (modQueue n f s).pollAt = s.pollAt := rfl
@[simp] theorem modQueue_nextId (n : Nat) (f : Queue → Queue) (s : State) : (modQueue n f s).nextId = s.nextId := rfl
@[simp] theorem modQueue_dawn (n : Nat) (f : Queue → Queue) (s : State) : (modQueue n f s).dawn = s.dawn := rfl
@[simp] theorem modQueue_masks (n : Nat) (f : Queue → Queue) (s : State) : (modQueue n f s).masks = s.masks := rfl
@[simp] theorem modQueue_brks (n : Nat) (f : Queue → Queue) (s : State) : (modQueue n f s).brks = s.brks := rfl
@[simp] theorem modQueue_freeCtr (n : Nat) (f : Queue → Queue) (s : State) : (modQueue n f s).freeCtr = s.freeCtr := rfl
@[simp] theorem modQueue_turns (n : Nat) (f : Queue → Queue) (s : State) : (modQueue n f s).turns = s.turns := rfl
@[simp] theorem modQueue_late (n : Nat) (f : Queue → Queue) (s : State) : (modQueue n f s).late = s.late := rfl
@[simp] theorem modQueue_cur (n : Nat) (f : Queue → Queue) (s : State) : (modQueue n f s).cur = s.cur := rfl
@[simp] theorem modQueue_readData (n : Nat) (f : Queue → Queue) (s : State) : (modQueue n f s).readData = s.readData := rfl
@[simp] theorem modQueue_outputs (n : Nat) (f : Queue → Queue) (s : State) : (modQueue n f s).outputs = s.outputs := rfl

/-! ## modAccess -/

@[simp] theorem modAccess_boot (id : Nat) (f : Access → Access) (s : State) : (modAccess id f s).boot = s.boot := rfl
@[simp] theorem modAccess_gov (id : Nat) (f : Access → Access) (s : State) : (modAccess id f s).gov = s.gov := rfl
@[simp] theorem modAccess_merr (id : Nat) (f : Access → Access) (s : State) : (modAccess id f s).merr = s.merr := rfl
@[simp] theorem modAccess_kamub (id : Nat) (f : Access → Access) (s : State) : (modAccess id f s).kamub = s.kamub := rfl
@[simp] theorem modAccess_eth (id : Nat) (f : Access → Access) (s : State) : (modAccess id f s).eth = s.eth := rfl
@[simp] theorem modAccess_ramblers (id : Nat) (f : Access → Access) (s : State) : (modAccess id f s).ramblers = s.ramblers := rfl
@[simp] theorem modAccess_spaces (id : Nat) (f : Access → Access) (s : State) : (modAccess id f s).spaces = s.spaces := rfl
@[simp] theorem modAccess_queues (id : Nat) (f : Access → Access) (s : State) : (modAccess id f s).queues = s.queues := rfl
@[simp] theorem modAccess_xlat (id : Nat) (f : Access → Access) (s : State) : (modAccess id f s).xlat = s.xlat := rfl
@[simp] theorem modAccess_skim (id : Nat) (f : Access → Access) (s : State) : (modAccess id f s).skim = s.skim := rfl
@[simp] theorem modAccess_disp (id : Nat) (f : Access → Access) (s : State) : (modAccess id f s).disp = s.disp := rfl
@[simp] theorem modAccess_placers (id : Nat) (f : Access → Access) (s : State) : (modAccess id f s).placers = s.placers := rfl
@[simp] theorem modAccess_mem (id : Nat) (f : Access → Access) (s : State) : (modAccess id f s).mem = s.mem := rfl
@[simp] theorem modAccess_core (id : Nat) (f : Access → Access) (s : State) : (modAccess id f s).core = s.core := rfl
@[simp] theorem modAccess_launches (id : Nat) (f : Access → Access) (s : State) : (modAccess id f s).launches = s.launches := rfl
@[simp] theorem modAccess_teams (id : Nat) (f : Access → Access) (s : State) : (modAccess id f s).teams = s.teams := rfl
@[simp] theorem modAccess_threads (id : Nat) (f : Access → Access) (s : State) : (modAccess id f s).threads = s.threads := rfl
@[simp] theorem modAccess_crews (id : Nat) (f : Access → Access) (s : State) : (modAccess id f s).crews = s.crews := rfl
@[simp] theorem modAccess_tokens (id : Nat) (f : Access → Access) (s : State) : (modAccess id f s).tokens = s.tokens := rfl
@[simp] theorem modAccess_accesses (id : Nat) (f : Access → Access) (s : State) : (modAccess id f s).accesses = modWhere (·.id == id) f s.accesses := rfl
@[simp] theorem modAccess_resumed (id : Nat) (f : Access → Access) (s : State) : (modAccess id f s).resumed = s.resumed := rfl
@[simp] theorem modAccess_placed (id : Nat) (f : Access → Access) (s : State) : (modAccess id f s).placed = s.placed := rfl
@[simp] theorem modAccess_regions (id : Nat) (f : Access → Access) (s : State) : (modAccess id f s).regions = s.regions := rfl
@[simp] theorem modAccess_strms (id : Nat) (f : Access → Access) (s : State) : (modAccess id f s).strms = s.strms := rfl
@[simp] theorem modAccess_posted (id : Nat) (f : Access → Access) (s : State) : (modAccess id f s).posted = s.posted := rfl
@[simp] theorem modAccess_images (id : Nat) (f : Access → Access) (s : State) : (modAccess id f s).images = s.images := rfl
@[simp] theorem modAccess_scToken (id : Nat) (f : Access → Access) (s : State) : (modAccess id f s).scToken = s.scToken := rfl
@[simp] theorem modAccess_scWaiting (id : Nat) (f : Access → Access) (s : State) : (modAccess id f s).scWaiting = s.scWaiting := rfl
@[simp] theorem modAccess_scAt (id : Nat) (f : Access → Access) (s : State) : (modAccess id f s).scAt = s.scAt := rfl
@[simp] theorem modAccess_scLast (id : Nat) (f : Access → Access) (s : State) : (modAccess id f s).scLast = s.scLast := rfl
@[simp] theorem modAccess_seams (id : Nat) (f : Access → Access) (s : State) : (modAccess id f s).seams = s.seams := rfl
@[simp] theorem modAccess_cycles (id : Nat) (f : Access → Access) (s : State) : (modAccess id f s).cycles = s.cycles := rfl
@[simp] theorem modAccess_half (id : Nat) (f : Access → Access) (s : State) : (modAccess id f s).half = s.half := rfl
@[simp] theorem modAccess_clock (id : Nat) (f : Access → Access) (s : State) : (modAccess id f s).clock = s.clock := rfl
@[simp] theorem modAccess_pollAt (id : Nat) (f : Access → Access) (s : State) : (modAccess id f s).pollAt = s.pollAt := rfl
@[simp] theorem modAccess_nextId (id : Nat) (f : Access → Access) (s : State) : (modAccess id f s).nextId = s.nextId := rfl
@[simp] theorem modAccess_dawn (id : Nat) (f : Access → Access) (s : State) : (modAccess id f s).dawn = s.dawn := rfl
@[simp] theorem modAccess_masks (id : Nat) (f : Access → Access) (s : State) : (modAccess id f s).masks = s.masks := rfl
@[simp] theorem modAccess_brks (id : Nat) (f : Access → Access) (s : State) : (modAccess id f s).brks = s.brks := rfl
@[simp] theorem modAccess_freeCtr (id : Nat) (f : Access → Access) (s : State) : (modAccess id f s).freeCtr = s.freeCtr := rfl
@[simp] theorem modAccess_turns (id : Nat) (f : Access → Access) (s : State) : (modAccess id f s).turns = s.turns := rfl
@[simp] theorem modAccess_late (id : Nat) (f : Access → Access) (s : State) : (modAccess id f s).late = s.late := rfl
@[simp] theorem modAccess_cur (id : Nat) (f : Access → Access) (s : State) : (modAccess id f s).cur = s.cur := rfl
@[simp] theorem modAccess_readData (id : Nat) (f : Access → Access) (s : State) : (modAccess id f s).readData = s.readData := rfl
@[simp] theorem modAccess_outputs (id : Nat) (f : Access → Access) (s : State) : (modAccess id f s).outputs = s.outputs := rfl

/-! ## dropAccess -/

@[simp] theorem dropAccess_boot (id : Nat) (s : State) : (dropAccess id s).boot = s.boot := rfl
@[simp] theorem dropAccess_gov (id : Nat) (s : State) : (dropAccess id s).gov = s.gov := rfl
@[simp] theorem dropAccess_merr (id : Nat) (s : State) : (dropAccess id s).merr = s.merr := rfl
@[simp] theorem dropAccess_kamub (id : Nat) (s : State) : (dropAccess id s).kamub = s.kamub := rfl
@[simp] theorem dropAccess_eth (id : Nat) (s : State) : (dropAccess id s).eth = s.eth := rfl
@[simp] theorem dropAccess_ramblers (id : Nat) (s : State) : (dropAccess id s).ramblers = s.ramblers := rfl
@[simp] theorem dropAccess_spaces (id : Nat) (s : State) : (dropAccess id s).spaces = s.spaces := rfl
@[simp] theorem dropAccess_queues (id : Nat) (s : State) : (dropAccess id s).queues = s.queues := rfl
@[simp] theorem dropAccess_xlat (id : Nat) (s : State) : (dropAccess id s).xlat = s.xlat := rfl
@[simp] theorem dropAccess_skim (id : Nat) (s : State) : (dropAccess id s).skim = s.skim := rfl
@[simp] theorem dropAccess_disp (id : Nat) (s : State) : (dropAccess id s).disp = s.disp := rfl
@[simp] theorem dropAccess_placers (id : Nat) (s : State) : (dropAccess id s).placers = s.placers := rfl
@[simp] theorem dropAccess_mem (id : Nat) (s : State) : (dropAccess id s).mem = s.mem := rfl
@[simp] theorem dropAccess_core (id : Nat) (s : State) : (dropAccess id s).core = s.core := rfl
@[simp] theorem dropAccess_launches (id : Nat) (s : State) : (dropAccess id s).launches = s.launches := rfl
@[simp] theorem dropAccess_teams (id : Nat) (s : State) : (dropAccess id s).teams = s.teams := rfl
@[simp] theorem dropAccess_threads (id : Nat) (s : State) : (dropAccess id s).threads = s.threads := rfl
@[simp] theorem dropAccess_crews (id : Nat) (s : State) : (dropAccess id s).crews = s.crews := rfl
@[simp] theorem dropAccess_tokens (id : Nat) (s : State) : (dropAccess id s).tokens = s.tokens := rfl
@[simp] theorem dropAccess_accesses (id : Nat) (s : State) : (dropAccess id s).accesses = s.accesses.filter (·.id != id) := rfl
@[simp] theorem dropAccess_resumed (id : Nat) (s : State) : (dropAccess id s).resumed = s.resumed := rfl
@[simp] theorem dropAccess_placed (id : Nat) (s : State) : (dropAccess id s).placed = s.placed := rfl
@[simp] theorem dropAccess_regions (id : Nat) (s : State) : (dropAccess id s).regions = s.regions := rfl
@[simp] theorem dropAccess_strms (id : Nat) (s : State) : (dropAccess id s).strms = s.strms := rfl
@[simp] theorem dropAccess_posted (id : Nat) (s : State) : (dropAccess id s).posted = s.posted := rfl
@[simp] theorem dropAccess_images (id : Nat) (s : State) : (dropAccess id s).images = s.images := rfl
@[simp] theorem dropAccess_scToken (id : Nat) (s : State) : (dropAccess id s).scToken = s.scToken := rfl
@[simp] theorem dropAccess_scWaiting (id : Nat) (s : State) : (dropAccess id s).scWaiting = s.scWaiting := rfl
@[simp] theorem dropAccess_scAt (id : Nat) (s : State) : (dropAccess id s).scAt = s.scAt := rfl
@[simp] theorem dropAccess_scLast (id : Nat) (s : State) : (dropAccess id s).scLast = s.scLast := rfl
@[simp] theorem dropAccess_seams (id : Nat) (s : State) : (dropAccess id s).seams = s.seams := rfl
@[simp] theorem dropAccess_cycles (id : Nat) (s : State) : (dropAccess id s).cycles = s.cycles := rfl
@[simp] theorem dropAccess_half (id : Nat) (s : State) : (dropAccess id s).half = s.half := rfl
@[simp] theorem dropAccess_clock (id : Nat) (s : State) : (dropAccess id s).clock = s.clock := rfl
@[simp] theorem dropAccess_pollAt (id : Nat) (s : State) : (dropAccess id s).pollAt = s.pollAt := rfl
@[simp] theorem dropAccess_nextId (id : Nat) (s : State) : (dropAccess id s).nextId = s.nextId := rfl
@[simp] theorem dropAccess_dawn (id : Nat) (s : State) : (dropAccess id s).dawn = s.dawn := rfl
@[simp] theorem dropAccess_masks (id : Nat) (s : State) : (dropAccess id s).masks = s.masks := rfl
@[simp] theorem dropAccess_brks (id : Nat) (s : State) : (dropAccess id s).brks = s.brks := rfl
@[simp] theorem dropAccess_freeCtr (id : Nat) (s : State) : (dropAccess id s).freeCtr = s.freeCtr := rfl
@[simp] theorem dropAccess_turns (id : Nat) (s : State) : (dropAccess id s).turns = s.turns := rfl
@[simp] theorem dropAccess_late (id : Nat) (s : State) : (dropAccess id s).late = s.late := rfl
@[simp] theorem dropAccess_cur (id : Nat) (s : State) : (dropAccess id s).cur = s.cur := rfl
@[simp] theorem dropAccess_readData (id : Nat) (s : State) : (dropAccess id s).readData = s.readData := rfl
@[simp] theorem dropAccess_outputs (id : Nat) (s : State) : (dropAccess id s).outputs = s.outputs := rfl

/-! ## addAccess -/

@[simp] theorem addAccess_boot (i : Instr) (f : Firing) (a b c : Nat) (st : AccSt) (s : State) : (addAccess i f a b c st s).boot = s.boot := rfl
@[simp] theorem addAccess_gov (i : Instr) (f : Firing) (a b c : Nat) (st : AccSt) (s : State) : (addAccess i f a b c st s).gov = s.gov := rfl
@[simp] theorem addAccess_merr (i : Instr) (f : Firing) (a b c : Nat) (st : AccSt) (s : State) : (addAccess i f a b c st s).merr = s.merr := rfl
@[simp] theorem addAccess_kamub (i : Instr) (f : Firing) (a b c : Nat) (st : AccSt) (s : State) : (addAccess i f a b c st s).kamub = s.kamub := rfl
@[simp] theorem addAccess_eth (i : Instr) (f : Firing) (a b c : Nat) (st : AccSt) (s : State) : (addAccess i f a b c st s).eth = s.eth := rfl
@[simp] theorem addAccess_ramblers (i : Instr) (f : Firing) (a b c : Nat) (st : AccSt) (s : State) : (addAccess i f a b c st s).ramblers = s.ramblers := rfl
@[simp] theorem addAccess_spaces (i : Instr) (f : Firing) (a b c : Nat) (st : AccSt) (s : State) : (addAccess i f a b c st s).spaces = s.spaces := rfl
@[simp] theorem addAccess_queues (i : Instr) (f : Firing) (a b c : Nat) (st : AccSt) (s : State) : (addAccess i f a b c st s).queues = s.queues := rfl
@[simp] theorem addAccess_xlat (i : Instr) (f : Firing) (a b c : Nat) (st : AccSt) (s : State) : (addAccess i f a b c st s).xlat = s.xlat := rfl
@[simp] theorem addAccess_skim (i : Instr) (f : Firing) (a b c : Nat) (st : AccSt) (s : State) : (addAccess i f a b c st s).skim = s.skim := rfl
@[simp] theorem addAccess_disp (i : Instr) (f : Firing) (a b c : Nat) (st : AccSt) (s : State) : (addAccess i f a b c st s).disp = s.disp := rfl
@[simp] theorem addAccess_placers (i : Instr) (f : Firing) (a b c : Nat) (st : AccSt) (s : State) : (addAccess i f a b c st s).placers = s.placers := rfl
@[simp] theorem addAccess_mem (i : Instr) (f : Firing) (a b c : Nat) (st : AccSt) (s : State) : (addAccess i f a b c st s).mem = s.mem := rfl
@[simp] theorem addAccess_core (i : Instr) (f : Firing) (a b c : Nat) (st : AccSt) (s : State) : (addAccess i f a b c st s).core = s.core := rfl
@[simp] theorem addAccess_launches (i : Instr) (f : Firing) (a b c : Nat) (st : AccSt) (s : State) : (addAccess i f a b c st s).launches = s.launches := rfl
@[simp] theorem addAccess_teams (i : Instr) (f : Firing) (a b c : Nat) (st : AccSt) (s : State) : (addAccess i f a b c st s).teams = s.teams := rfl
@[simp] theorem addAccess_threads (i : Instr) (f : Firing) (a b c : Nat) (st : AccSt) (s : State) : (addAccess i f a b c st s).threads = s.threads := rfl
@[simp] theorem addAccess_crews (i : Instr) (f : Firing) (a b c : Nat) (st : AccSt) (s : State) : (addAccess i f a b c st s).crews = s.crews := rfl
@[simp] theorem addAccess_tokens (i : Instr) (f : Firing) (a b c : Nat) (st : AccSt) (s : State) : (addAccess i f a b c st s).tokens = s.tokens := rfl
@[simp] theorem addAccess_accesses (i : Instr) (f : Firing) (a b c : Nat) (st : AccSt) (s : State) : (addAccess i f a b c st s).accesses = s.accesses ++ [handedOver i f a b c st s] := rfl
@[simp] theorem addAccess_resumed (i : Instr) (f : Firing) (a b c : Nat) (st : AccSt) (s : State) : (addAccess i f a b c st s).resumed = s.resumed := rfl
@[simp] theorem addAccess_placed (i : Instr) (f : Firing) (a b c : Nat) (st : AccSt) (s : State) : (addAccess i f a b c st s).placed = s.placed := rfl
@[simp] theorem addAccess_regions (i : Instr) (f : Firing) (a b c : Nat) (st : AccSt) (s : State) : (addAccess i f a b c st s).regions = s.regions := rfl
@[simp] theorem addAccess_strms (i : Instr) (f : Firing) (a b c : Nat) (st : AccSt) (s : State) : (addAccess i f a b c st s).strms = s.strms := rfl
@[simp] theorem addAccess_posted (i : Instr) (f : Firing) (a b c : Nat) (st : AccSt) (s : State) : (addAccess i f a b c st s).posted = s.posted := rfl
@[simp] theorem addAccess_images (i : Instr) (f : Firing) (a b c : Nat) (st : AccSt) (s : State) : (addAccess i f a b c st s).images = s.images := rfl
@[simp] theorem addAccess_scToken (i : Instr) (f : Firing) (a b c : Nat) (st : AccSt) (s : State) : (addAccess i f a b c st s).scToken = s.scToken := rfl
@[simp] theorem addAccess_scWaiting (i : Instr) (f : Firing) (a b c : Nat) (st : AccSt) (s : State) : (addAccess i f a b c st s).scWaiting = s.scWaiting := rfl
@[simp] theorem addAccess_scAt (i : Instr) (f : Firing) (a b c : Nat) (st : AccSt) (s : State) : (addAccess i f a b c st s).scAt = s.scAt := rfl
@[simp] theorem addAccess_scLast (i : Instr) (f : Firing) (a b c : Nat) (st : AccSt) (s : State) : (addAccess i f a b c st s).scLast = s.scLast := rfl
@[simp] theorem addAccess_seams (i : Instr) (f : Firing) (a b c : Nat) (st : AccSt) (s : State) : (addAccess i f a b c st s).seams = s.seams := rfl
@[simp] theorem addAccess_cycles (i : Instr) (f : Firing) (a b c : Nat) (st : AccSt) (s : State) : (addAccess i f a b c st s).cycles = s.cycles := rfl
@[simp] theorem addAccess_half (i : Instr) (f : Firing) (a b c : Nat) (st : AccSt) (s : State) : (addAccess i f a b c st s).half = s.half := rfl
@[simp] theorem addAccess_clock (i : Instr) (f : Firing) (a b c : Nat) (st : AccSt) (s : State) : (addAccess i f a b c st s).clock = s.clock := rfl
@[simp] theorem addAccess_pollAt (i : Instr) (f : Firing) (a b c : Nat) (st : AccSt) (s : State) : (addAccess i f a b c st s).pollAt = s.pollAt := rfl
@[simp] theorem addAccess_nextId (i : Instr) (f : Firing) (a b c : Nat) (st : AccSt) (s : State) : (addAccess i f a b c st s).nextId = s.nextId + 1 := rfl
@[simp] theorem addAccess_dawn (i : Instr) (f : Firing) (a b c : Nat) (st : AccSt) (s : State) : (addAccess i f a b c st s).dawn = s.dawn := rfl
@[simp] theorem addAccess_masks (i : Instr) (f : Firing) (a b c : Nat) (st : AccSt) (s : State) : (addAccess i f a b c st s).masks = s.masks := rfl
@[simp] theorem addAccess_brks (i : Instr) (f : Firing) (a b c : Nat) (st : AccSt) (s : State) : (addAccess i f a b c st s).brks = s.brks := rfl
@[simp] theorem addAccess_freeCtr (i : Instr) (f : Firing) (a b c : Nat) (st : AccSt) (s : State) : (addAccess i f a b c st s).freeCtr = s.freeCtr := rfl
@[simp] theorem addAccess_turns (i : Instr) (f : Firing) (a b c : Nat) (st : AccSt) (s : State) : (addAccess i f a b c st s).turns = s.turns := rfl
@[simp] theorem addAccess_late (i : Instr) (f : Firing) (a b c : Nat) (st : AccSt) (s : State) : (addAccess i f a b c st s).late = s.late := rfl
@[simp] theorem addAccess_cur (i : Instr) (f : Firing) (a b c : Nat) (st : AccSt) (s : State) : (addAccess i f a b c st s).cur = s.cur := rfl
@[simp] theorem addAccess_readData (i : Instr) (f : Firing) (a b c : Nat) (st : AccSt) (s : State) : (addAccess i f a b c st s).readData = s.readData := rfl
@[simp] theorem addAccess_outputs (i : Instr) (f : Firing) (a b c : Nat) (st : AccSt) (s : State) : (addAccess i f a b c st s).outputs = s.outputs := rfl

/-! ## modTag -/

@[simp] theorem modTag_boot (vt : Nat) (f : VTag → VTag) (s : State) : (modTag vt f s).boot = s.boot := rfl
@[simp] theorem modTag_gov (vt : Nat) (f : VTag → VTag) (s : State) : (modTag vt f s).gov = s.gov := rfl
@[simp] theorem modTag_merr (vt : Nat) (f : VTag → VTag) (s : State) : (modTag vt f s).merr = s.merr := rfl
@[simp] theorem modTag_kamub (vt : Nat) (f : VTag → VTag) (s : State) : (modTag vt f s).kamub = s.kamub := rfl
@[simp] theorem modTag_eth (vt : Nat) (f : VTag → VTag) (s : State) : (modTag vt f s).eth = s.eth := rfl
@[simp] theorem modTag_ramblers (vt : Nat) (f : VTag → VTag) (s : State) : (modTag vt f s).ramblers = s.ramblers := rfl
@[simp] theorem modTag_spaces (vt : Nat) (f : VTag → VTag) (s : State) : (modTag vt f s).spaces = s.spaces := rfl
@[simp] theorem modTag_queues (vt : Nat) (f : VTag → VTag) (s : State) : (modTag vt f s).queues = s.queues := rfl
@[simp] theorem modTag_xlat (vt : Nat) (f : VTag → VTag) (s : State) : (modTag vt f s).xlat = s.xlat := rfl
@[simp] theorem modTag_skim (vt : Nat) (f : VTag → VTag) (s : State) : (modTag vt f s).skim = { s.skim with tags := tabMod s.skim.tags vt f } := rfl
@[simp] theorem modTag_disp (vt : Nat) (f : VTag → VTag) (s : State) : (modTag vt f s).disp = s.disp := rfl
@[simp] theorem modTag_placers (vt : Nat) (f : VTag → VTag) (s : State) : (modTag vt f s).placers = s.placers := rfl
@[simp] theorem modTag_mem (vt : Nat) (f : VTag → VTag) (s : State) : (modTag vt f s).mem = s.mem := rfl
@[simp] theorem modTag_core (vt : Nat) (f : VTag → VTag) (s : State) : (modTag vt f s).core = s.core := rfl
@[simp] theorem modTag_launches (vt : Nat) (f : VTag → VTag) (s : State) : (modTag vt f s).launches = s.launches := rfl
@[simp] theorem modTag_teams (vt : Nat) (f : VTag → VTag) (s : State) : (modTag vt f s).teams = s.teams := rfl
@[simp] theorem modTag_threads (vt : Nat) (f : VTag → VTag) (s : State) : (modTag vt f s).threads = s.threads := rfl
@[simp] theorem modTag_crews (vt : Nat) (f : VTag → VTag) (s : State) : (modTag vt f s).crews = s.crews := rfl
@[simp] theorem modTag_tokens (vt : Nat) (f : VTag → VTag) (s : State) : (modTag vt f s).tokens = s.tokens := rfl
@[simp] theorem modTag_accesses (vt : Nat) (f : VTag → VTag) (s : State) : (modTag vt f s).accesses = s.accesses := rfl
@[simp] theorem modTag_resumed (vt : Nat) (f : VTag → VTag) (s : State) : (modTag vt f s).resumed = s.resumed := rfl
@[simp] theorem modTag_placed (vt : Nat) (f : VTag → VTag) (s : State) : (modTag vt f s).placed = s.placed := rfl
@[simp] theorem modTag_regions (vt : Nat) (f : VTag → VTag) (s : State) : (modTag vt f s).regions = s.regions := rfl
@[simp] theorem modTag_strms (vt : Nat) (f : VTag → VTag) (s : State) : (modTag vt f s).strms = s.strms := rfl
@[simp] theorem modTag_posted (vt : Nat) (f : VTag → VTag) (s : State) : (modTag vt f s).posted = s.posted := rfl
@[simp] theorem modTag_images (vt : Nat) (f : VTag → VTag) (s : State) : (modTag vt f s).images = s.images := rfl
@[simp] theorem modTag_scToken (vt : Nat) (f : VTag → VTag) (s : State) : (modTag vt f s).scToken = s.scToken := rfl
@[simp] theorem modTag_scWaiting (vt : Nat) (f : VTag → VTag) (s : State) : (modTag vt f s).scWaiting = s.scWaiting := rfl
@[simp] theorem modTag_scAt (vt : Nat) (f : VTag → VTag) (s : State) : (modTag vt f s).scAt = s.scAt := rfl
@[simp] theorem modTag_scLast (vt : Nat) (f : VTag → VTag) (s : State) : (modTag vt f s).scLast = s.scLast := rfl
@[simp] theorem modTag_seams (vt : Nat) (f : VTag → VTag) (s : State) : (modTag vt f s).seams = s.seams := rfl
@[simp] theorem modTag_cycles (vt : Nat) (f : VTag → VTag) (s : State) : (modTag vt f s).cycles = s.cycles := rfl
@[simp] theorem modTag_half (vt : Nat) (f : VTag → VTag) (s : State) : (modTag vt f s).half = s.half := rfl
@[simp] theorem modTag_clock (vt : Nat) (f : VTag → VTag) (s : State) : (modTag vt f s).clock = s.clock := rfl
@[simp] theorem modTag_pollAt (vt : Nat) (f : VTag → VTag) (s : State) : (modTag vt f s).pollAt = s.pollAt := rfl
@[simp] theorem modTag_nextId (vt : Nat) (f : VTag → VTag) (s : State) : (modTag vt f s).nextId = s.nextId := rfl
@[simp] theorem modTag_dawn (vt : Nat) (f : VTag → VTag) (s : State) : (modTag vt f s).dawn = s.dawn := rfl
@[simp] theorem modTag_masks (vt : Nat) (f : VTag → VTag) (s : State) : (modTag vt f s).masks = s.masks := rfl
@[simp] theorem modTag_brks (vt : Nat) (f : VTag → VTag) (s : State) : (modTag vt f s).brks = s.brks := rfl
@[simp] theorem modTag_freeCtr (vt : Nat) (f : VTag → VTag) (s : State) : (modTag vt f s).freeCtr = s.freeCtr := rfl
@[simp] theorem modTag_turns (vt : Nat) (f : VTag → VTag) (s : State) : (modTag vt f s).turns = s.turns := rfl
@[simp] theorem modTag_late (vt : Nat) (f : VTag → VTag) (s : State) : (modTag vt f s).late = s.late := rfl
@[simp] theorem modTag_cur (vt : Nat) (f : VTag → VTag) (s : State) : (modTag vt f s).cur = s.cur := rfl
@[simp] theorem modTag_readData (vt : Nat) (f : VTag → VTag) (s : State) : (modTag vt f s).readData = s.readData := rfl
@[simp] theorem modTag_outputs (vt : Nat) (f : VTag → VTag) (s : State) : (modTag vt f s).outputs = s.outputs := rfl

/-! ## setDirty -/

@[simp] theorem setDirty_boot (pa : Nat) (s : State) : (setDirty pa s).boot = s.boot := rfl
@[simp] theorem setDirty_gov (pa : Nat) (s : State) : (setDirty pa s).gov = s.gov := rfl
@[simp] theorem setDirty_merr (pa : Nat) (s : State) : (setDirty pa s).merr = s.merr := rfl
@[simp] theorem setDirty_kamub (pa : Nat) (s : State) : (setDirty pa s).kamub = s.kamub := rfl
@[simp] theorem setDirty_eth (pa : Nat) (s : State) : (setDirty pa s).eth = s.eth := rfl
@[simp] theorem setDirty_ramblers (pa : Nat) (s : State) : (setDirty pa s).ramblers = s.ramblers := rfl
@[simp] theorem setDirty_spaces (pa : Nat) (s : State) : (setDirty pa s).spaces = s.spaces := rfl
@[simp] theorem setDirty_queues (pa : Nat) (s : State) : (setDirty pa s).queues = s.queues := rfl
@[simp] theorem setDirty_xlat (pa : Nat) (s : State) : (setDirty pa s).xlat = s.xlat := rfl
@[simp] theorem setDirty_skim (pa : Nat) (s : State) : (setDirty pa s).skim = s.skim := rfl
@[simp] theorem setDirty_disp (pa : Nat) (s : State) : (setDirty pa s).disp = s.disp := rfl
@[simp] theorem setDirty_placers (pa : Nat) (s : State) : (setDirty pa s).placers = s.placers := rfl
@[simp] theorem setDirty_mem (pa : Nat) (s : State) : (setDirty pa s).mem = { s.mem with clean := tabDel s.mem.clean (dirtyIndex pa) } := rfl
@[simp] theorem setDirty_core (pa : Nat) (s : State) : (setDirty pa s).core = s.core := rfl
@[simp] theorem setDirty_launches (pa : Nat) (s : State) : (setDirty pa s).launches = s.launches := rfl
@[simp] theorem setDirty_teams (pa : Nat) (s : State) : (setDirty pa s).teams = s.teams := rfl
@[simp] theorem setDirty_threads (pa : Nat) (s : State) : (setDirty pa s).threads = s.threads := rfl
@[simp] theorem setDirty_crews (pa : Nat) (s : State) : (setDirty pa s).crews = s.crews := rfl
@[simp] theorem setDirty_tokens (pa : Nat) (s : State) : (setDirty pa s).tokens = s.tokens := rfl
@[simp] theorem setDirty_accesses (pa : Nat) (s : State) : (setDirty pa s).accesses = s.accesses := rfl
@[simp] theorem setDirty_resumed (pa : Nat) (s : State) : (setDirty pa s).resumed = s.resumed := rfl
@[simp] theorem setDirty_placed (pa : Nat) (s : State) : (setDirty pa s).placed = s.placed := rfl
@[simp] theorem setDirty_regions (pa : Nat) (s : State) : (setDirty pa s).regions = s.regions := rfl
@[simp] theorem setDirty_strms (pa : Nat) (s : State) : (setDirty pa s).strms = s.strms := rfl
@[simp] theorem setDirty_posted (pa : Nat) (s : State) : (setDirty pa s).posted = s.posted := rfl
@[simp] theorem setDirty_images (pa : Nat) (s : State) : (setDirty pa s).images = s.images := rfl
@[simp] theorem setDirty_scToken (pa : Nat) (s : State) : (setDirty pa s).scToken = s.scToken := rfl
@[simp] theorem setDirty_scWaiting (pa : Nat) (s : State) : (setDirty pa s).scWaiting = s.scWaiting := rfl
@[simp] theorem setDirty_scAt (pa : Nat) (s : State) : (setDirty pa s).scAt = s.scAt := rfl
@[simp] theorem setDirty_scLast (pa : Nat) (s : State) : (setDirty pa s).scLast = s.scLast := rfl
@[simp] theorem setDirty_seams (pa : Nat) (s : State) : (setDirty pa s).seams = s.seams := rfl
@[simp] theorem setDirty_cycles (pa : Nat) (s : State) : (setDirty pa s).cycles = s.cycles := rfl
@[simp] theorem setDirty_half (pa : Nat) (s : State) : (setDirty pa s).half = s.half := rfl
@[simp] theorem setDirty_clock (pa : Nat) (s : State) : (setDirty pa s).clock = s.clock := rfl
@[simp] theorem setDirty_pollAt (pa : Nat) (s : State) : (setDirty pa s).pollAt = s.pollAt := rfl
@[simp] theorem setDirty_nextId (pa : Nat) (s : State) : (setDirty pa s).nextId = s.nextId := rfl
@[simp] theorem setDirty_dawn (pa : Nat) (s : State) : (setDirty pa s).dawn = s.dawn := rfl
@[simp] theorem setDirty_masks (pa : Nat) (s : State) : (setDirty pa s).masks = s.masks := rfl
@[simp] theorem setDirty_brks (pa : Nat) (s : State) : (setDirty pa s).brks = s.brks := rfl
@[simp] theorem setDirty_freeCtr (pa : Nat) (s : State) : (setDirty pa s).freeCtr = s.freeCtr := rfl
@[simp] theorem setDirty_turns (pa : Nat) (s : State) : (setDirty pa s).turns = s.turns := rfl
@[simp] theorem setDirty_late (pa : Nat) (s : State) : (setDirty pa s).late = s.late := rfl
@[simp] theorem setDirty_cur (pa : Nat) (s : State) : (setDirty pa s).cur = s.cur := rfl
@[simp] theorem setDirty_readData (pa : Nat) (s : State) : (setDirty pa s).readData = s.readData := rfl
@[simp] theorem setDirty_outputs (pa : Nat) (s : State) : (setDirty pa s).outputs = s.outputs := rfl

/-! ## setLvs -/

@[simp] theorem setLvs_boot (crew pos lane v : Nat) (s : State) : (setLvs crew pos lane v s).boot = s.boot := rfl
@[simp] theorem setLvs_gov (crew pos lane v : Nat) (s : State) : (setLvs crew pos lane v s).gov = s.gov := rfl
@[simp] theorem setLvs_merr (crew pos lane v : Nat) (s : State) : (setLvs crew pos lane v s).merr = s.merr := rfl
@[simp] theorem setLvs_kamub (crew pos lane v : Nat) (s : State) : (setLvs crew pos lane v s).kamub = s.kamub := rfl
@[simp] theorem setLvs_eth (crew pos lane v : Nat) (s : State) : (setLvs crew pos lane v s).eth = s.eth := rfl
@[simp] theorem setLvs_ramblers (crew pos lane v : Nat) (s : State) : (setLvs crew pos lane v s).ramblers = s.ramblers := rfl
@[simp] theorem setLvs_spaces (crew pos lane v : Nat) (s : State) : (setLvs crew pos lane v s).spaces = s.spaces := rfl
@[simp] theorem setLvs_queues (crew pos lane v : Nat) (s : State) : (setLvs crew pos lane v s).queues = s.queues := rfl
@[simp] theorem setLvs_xlat (crew pos lane v : Nat) (s : State) : (setLvs crew pos lane v s).xlat = s.xlat := rfl
@[simp] theorem setLvs_skim (crew pos lane v : Nat) (s : State) : (setLvs crew pos lane v s).skim = s.skim := rfl
@[simp] theorem setLvs_disp (crew pos lane v : Nat) (s : State) : (setLvs crew pos lane v s).disp = s.disp := rfl
@[simp] theorem setLvs_placers (crew pos lane v : Nat) (s : State) : (setLvs crew pos lane v s).placers = s.placers := rfl
@[simp] theorem setLvs_mem (crew pos lane v : Nat) (s : State) : (setLvs crew pos lane v s).mem = s.mem := rfl
@[simp] theorem setLvs_core (crew pos lane v : Nat) (s : State) : (setLvs crew pos lane v s).core = { s.core with lvs := tabSet 0 s.core.lvs (lvsKey crew pos lane) (BitVec.ofNat 32 v) } := rfl
@[simp] theorem setLvs_launches (crew pos lane v : Nat) (s : State) : (setLvs crew pos lane v s).launches = s.launches := rfl
@[simp] theorem setLvs_teams (crew pos lane v : Nat) (s : State) : (setLvs crew pos lane v s).teams = s.teams := rfl
@[simp] theorem setLvs_threads (crew pos lane v : Nat) (s : State) : (setLvs crew pos lane v s).threads = s.threads := rfl
@[simp] theorem setLvs_crews (crew pos lane v : Nat) (s : State) : (setLvs crew pos lane v s).crews = s.crews := rfl
@[simp] theorem setLvs_tokens (crew pos lane v : Nat) (s : State) : (setLvs crew pos lane v s).tokens = s.tokens := rfl
@[simp] theorem setLvs_accesses (crew pos lane v : Nat) (s : State) : (setLvs crew pos lane v s).accesses = s.accesses := rfl
@[simp] theorem setLvs_resumed (crew pos lane v : Nat) (s : State) : (setLvs crew pos lane v s).resumed = s.resumed := rfl
@[simp] theorem setLvs_placed (crew pos lane v : Nat) (s : State) : (setLvs crew pos lane v s).placed = s.placed := rfl
@[simp] theorem setLvs_regions (crew pos lane v : Nat) (s : State) : (setLvs crew pos lane v s).regions = s.regions := rfl
@[simp] theorem setLvs_strms (crew pos lane v : Nat) (s : State) : (setLvs crew pos lane v s).strms = s.strms := rfl
@[simp] theorem setLvs_posted (crew pos lane v : Nat) (s : State) : (setLvs crew pos lane v s).posted = s.posted := rfl
@[simp] theorem setLvs_images (crew pos lane v : Nat) (s : State) : (setLvs crew pos lane v s).images = s.images := rfl
@[simp] theorem setLvs_scToken (crew pos lane v : Nat) (s : State) : (setLvs crew pos lane v s).scToken = s.scToken := rfl
@[simp] theorem setLvs_scWaiting (crew pos lane v : Nat) (s : State) : (setLvs crew pos lane v s).scWaiting = s.scWaiting := rfl
@[simp] theorem setLvs_scAt (crew pos lane v : Nat) (s : State) : (setLvs crew pos lane v s).scAt = s.scAt := rfl
@[simp] theorem setLvs_scLast (crew pos lane v : Nat) (s : State) : (setLvs crew pos lane v s).scLast = s.scLast := rfl
@[simp] theorem setLvs_seams (crew pos lane v : Nat) (s : State) : (setLvs crew pos lane v s).seams = s.seams := rfl
@[simp] theorem setLvs_cycles (crew pos lane v : Nat) (s : State) : (setLvs crew pos lane v s).cycles = s.cycles := rfl
@[simp] theorem setLvs_half (crew pos lane v : Nat) (s : State) : (setLvs crew pos lane v s).half = s.half := rfl
@[simp] theorem setLvs_clock (crew pos lane v : Nat) (s : State) : (setLvs crew pos lane v s).clock = s.clock := rfl
@[simp] theorem setLvs_pollAt (crew pos lane v : Nat) (s : State) : (setLvs crew pos lane v s).pollAt = s.pollAt := rfl
@[simp] theorem setLvs_nextId (crew pos lane v : Nat) (s : State) : (setLvs crew pos lane v s).nextId = s.nextId := rfl
@[simp] theorem setLvs_dawn (crew pos lane v : Nat) (s : State) : (setLvs crew pos lane v s).dawn = s.dawn := rfl
@[simp] theorem setLvs_masks (crew pos lane v : Nat) (s : State) : (setLvs crew pos lane v s).masks = s.masks := rfl
@[simp] theorem setLvs_brks (crew pos lane v : Nat) (s : State) : (setLvs crew pos lane v s).brks = s.brks := rfl
@[simp] theorem setLvs_freeCtr (crew pos lane v : Nat) (s : State) : (setLvs crew pos lane v s).freeCtr = s.freeCtr := rfl
@[simp] theorem setLvs_turns (crew pos lane v : Nat) (s : State) : (setLvs crew pos lane v s).turns = s.turns := rfl
@[simp] theorem setLvs_late (crew pos lane v : Nat) (s : State) : (setLvs crew pos lane v s).late = s.late := rfl
@[simp] theorem setLvs_cur (crew pos lane v : Nat) (s : State) : (setLvs crew pos lane v s).cur = s.cur := rfl
@[simp] theorem setLvs_readData (crew pos lane v : Nat) (s : State) : (setLvs crew pos lane v s).readData = s.readData := rfl
@[simp] theorem setLvs_outputs (crew pos lane v : Nat) (s : State) : (setLvs crew pos lane v s).outputs = s.outputs := rfl

/-! ## modToken -/

@[simp] theorem modToken_boot (seq : Nat) (g : Token → Token) (s : State) : (modToken seq g s).boot = s.boot := rfl
@[simp] theorem modToken_gov (seq : Nat) (g : Token → Token) (s : State) : (modToken seq g s).gov = s.gov := rfl
@[simp] theorem modToken_merr (seq : Nat) (g : Token → Token) (s : State) : (modToken seq g s).merr = s.merr := rfl
@[simp] theorem modToken_kamub (seq : Nat) (g : Token → Token) (s : State) : (modToken seq g s).kamub = s.kamub := rfl
@[simp] theorem modToken_eth (seq : Nat) (g : Token → Token) (s : State) : (modToken seq g s).eth = s.eth := rfl
@[simp] theorem modToken_ramblers (seq : Nat) (g : Token → Token) (s : State) : (modToken seq g s).ramblers = s.ramblers := rfl
@[simp] theorem modToken_spaces (seq : Nat) (g : Token → Token) (s : State) : (modToken seq g s).spaces = s.spaces := rfl
@[simp] theorem modToken_queues (seq : Nat) (g : Token → Token) (s : State) : (modToken seq g s).queues = s.queues := rfl
@[simp] theorem modToken_xlat (seq : Nat) (g : Token → Token) (s : State) : (modToken seq g s).xlat = s.xlat := rfl
@[simp] theorem modToken_skim (seq : Nat) (g : Token → Token) (s : State) : (modToken seq g s).skim = s.skim := rfl
@[simp] theorem modToken_disp (seq : Nat) (g : Token → Token) (s : State) : (modToken seq g s).disp = s.disp := rfl
@[simp] theorem modToken_placers (seq : Nat) (g : Token → Token) (s : State) : (modToken seq g s).placers = s.placers := rfl
@[simp] theorem modToken_mem (seq : Nat) (g : Token → Token) (s : State) : (modToken seq g s).mem = s.mem := rfl
@[simp] theorem modToken_core (seq : Nat) (g : Token → Token) (s : State) : (modToken seq g s).core = s.core := rfl
@[simp] theorem modToken_launches (seq : Nat) (g : Token → Token) (s : State) : (modToken seq g s).launches = s.launches := rfl
@[simp] theorem modToken_teams (seq : Nat) (g : Token → Token) (s : State) : (modToken seq g s).teams = s.teams := rfl
@[simp] theorem modToken_threads (seq : Nat) (g : Token → Token) (s : State) : (modToken seq g s).threads = s.threads := rfl
@[simp] theorem modToken_crews (seq : Nat) (g : Token → Token) (s : State) : (modToken seq g s).crews = s.crews := rfl
@[simp] theorem modToken_tokens (seq : Nat) (g : Token → Token) (s : State) : (modToken seq g s).tokens = modWhere (·.seq == seq) g s.tokens := rfl
@[simp] theorem modToken_accesses (seq : Nat) (g : Token → Token) (s : State) : (modToken seq g s).accesses = s.accesses := rfl
@[simp] theorem modToken_resumed (seq : Nat) (g : Token → Token) (s : State) : (modToken seq g s).resumed = s.resumed := rfl
@[simp] theorem modToken_placed (seq : Nat) (g : Token → Token) (s : State) : (modToken seq g s).placed = s.placed := rfl
@[simp] theorem modToken_regions (seq : Nat) (g : Token → Token) (s : State) : (modToken seq g s).regions = s.regions := rfl
@[simp] theorem modToken_strms (seq : Nat) (g : Token → Token) (s : State) : (modToken seq g s).strms = s.strms := rfl
@[simp] theorem modToken_posted (seq : Nat) (g : Token → Token) (s : State) : (modToken seq g s).posted = s.posted := rfl
@[simp] theorem modToken_images (seq : Nat) (g : Token → Token) (s : State) : (modToken seq g s).images = s.images := rfl
@[simp] theorem modToken_scToken (seq : Nat) (g : Token → Token) (s : State) : (modToken seq g s).scToken = s.scToken := rfl
@[simp] theorem modToken_scWaiting (seq : Nat) (g : Token → Token) (s : State) : (modToken seq g s).scWaiting = s.scWaiting := rfl
@[simp] theorem modToken_scAt (seq : Nat) (g : Token → Token) (s : State) : (modToken seq g s).scAt = s.scAt := rfl
@[simp] theorem modToken_scLast (seq : Nat) (g : Token → Token) (s : State) : (modToken seq g s).scLast = s.scLast := rfl
@[simp] theorem modToken_seams (seq : Nat) (g : Token → Token) (s : State) : (modToken seq g s).seams = s.seams := rfl
@[simp] theorem modToken_cycles (seq : Nat) (g : Token → Token) (s : State) : (modToken seq g s).cycles = s.cycles := rfl
@[simp] theorem modToken_half (seq : Nat) (g : Token → Token) (s : State) : (modToken seq g s).half = s.half := rfl
@[simp] theorem modToken_clock (seq : Nat) (g : Token → Token) (s : State) : (modToken seq g s).clock = s.clock := rfl
@[simp] theorem modToken_pollAt (seq : Nat) (g : Token → Token) (s : State) : (modToken seq g s).pollAt = s.pollAt := rfl
@[simp] theorem modToken_nextId (seq : Nat) (g : Token → Token) (s : State) : (modToken seq g s).nextId = s.nextId := rfl
@[simp] theorem modToken_dawn (seq : Nat) (g : Token → Token) (s : State) : (modToken seq g s).dawn = s.dawn := rfl
@[simp] theorem modToken_masks (seq : Nat) (g : Token → Token) (s : State) : (modToken seq g s).masks = s.masks := rfl
@[simp] theorem modToken_brks (seq : Nat) (g : Token → Token) (s : State) : (modToken seq g s).brks = s.brks := rfl
@[simp] theorem modToken_freeCtr (seq : Nat) (g : Token → Token) (s : State) : (modToken seq g s).freeCtr = s.freeCtr := rfl
@[simp] theorem modToken_turns (seq : Nat) (g : Token → Token) (s : State) : (modToken seq g s).turns = s.turns := rfl
@[simp] theorem modToken_late (seq : Nat) (g : Token → Token) (s : State) : (modToken seq g s).late = s.late := rfl
@[simp] theorem modToken_cur (seq : Nat) (g : Token → Token) (s : State) : (modToken seq g s).cur = s.cur := rfl
@[simp] theorem modToken_readData (seq : Nat) (g : Token → Token) (s : State) : (modToken seq g s).readData = s.readData := rfl
@[simp] theorem modToken_outputs (seq : Nat) (g : Token → Token) (s : State) : (modToken seq g s).outputs = s.outputs := rfl

/-! ## dropToken -/

@[simp] theorem dropToken_boot (seq : Nat) (s : State) : (dropToken seq s).boot = s.boot := rfl
@[simp] theorem dropToken_gov (seq : Nat) (s : State) : (dropToken seq s).gov = s.gov := rfl
@[simp] theorem dropToken_merr (seq : Nat) (s : State) : (dropToken seq s).merr = s.merr := rfl
@[simp] theorem dropToken_kamub (seq : Nat) (s : State) : (dropToken seq s).kamub = s.kamub := rfl
@[simp] theorem dropToken_eth (seq : Nat) (s : State) : (dropToken seq s).eth = s.eth := rfl
@[simp] theorem dropToken_ramblers (seq : Nat) (s : State) : (dropToken seq s).ramblers = s.ramblers := rfl
@[simp] theorem dropToken_spaces (seq : Nat) (s : State) : (dropToken seq s).spaces = s.spaces := rfl
@[simp] theorem dropToken_queues (seq : Nat) (s : State) : (dropToken seq s).queues = s.queues := rfl
@[simp] theorem dropToken_xlat (seq : Nat) (s : State) : (dropToken seq s).xlat = s.xlat := rfl
@[simp] theorem dropToken_skim (seq : Nat) (s : State) : (dropToken seq s).skim = s.skim := rfl
@[simp] theorem dropToken_disp (seq : Nat) (s : State) : (dropToken seq s).disp = s.disp := rfl
@[simp] theorem dropToken_placers (seq : Nat) (s : State) : (dropToken seq s).placers = s.placers := rfl
@[simp] theorem dropToken_mem (seq : Nat) (s : State) : (dropToken seq s).mem = s.mem := rfl
@[simp] theorem dropToken_core (seq : Nat) (s : State) : (dropToken seq s).core = s.core := rfl
@[simp] theorem dropToken_launches (seq : Nat) (s : State) : (dropToken seq s).launches = s.launches := rfl
@[simp] theorem dropToken_teams (seq : Nat) (s : State) : (dropToken seq s).teams = s.teams := rfl
@[simp] theorem dropToken_threads (seq : Nat) (s : State) : (dropToken seq s).threads = s.threads := rfl
@[simp] theorem dropToken_crews (seq : Nat) (s : State) : (dropToken seq s).crews = s.crews := rfl
@[simp] theorem dropToken_tokens (seq : Nat) (s : State) : (dropToken seq s).tokens = s.tokens.filter (·.seq != seq) := rfl
@[simp] theorem dropToken_accesses (seq : Nat) (s : State) : (dropToken seq s).accesses = s.accesses := rfl
@[simp] theorem dropToken_resumed (seq : Nat) (s : State) : (dropToken seq s).resumed = s.resumed := rfl
@[simp] theorem dropToken_placed (seq : Nat) (s : State) : (dropToken seq s).placed = s.placed := rfl
@[simp] theorem dropToken_regions (seq : Nat) (s : State) : (dropToken seq s).regions = s.regions := rfl
@[simp] theorem dropToken_strms (seq : Nat) (s : State) : (dropToken seq s).strms = s.strms := rfl
@[simp] theorem dropToken_posted (seq : Nat) (s : State) : (dropToken seq s).posted = s.posted := rfl
@[simp] theorem dropToken_images (seq : Nat) (s : State) : (dropToken seq s).images = s.images := rfl
@[simp] theorem dropToken_scToken (seq : Nat) (s : State) : (dropToken seq s).scToken = s.scToken := rfl
@[simp] theorem dropToken_scWaiting (seq : Nat) (s : State) : (dropToken seq s).scWaiting = s.scWaiting := rfl
@[simp] theorem dropToken_scAt (seq : Nat) (s : State) : (dropToken seq s).scAt = s.scAt := rfl
@[simp] theorem dropToken_scLast (seq : Nat) (s : State) : (dropToken seq s).scLast = s.scLast := rfl
@[simp] theorem dropToken_seams (seq : Nat) (s : State) : (dropToken seq s).seams = s.seams := rfl
@[simp] theorem dropToken_cycles (seq : Nat) (s : State) : (dropToken seq s).cycles = s.cycles := rfl
@[simp] theorem dropToken_half (seq : Nat) (s : State) : (dropToken seq s).half = s.half := rfl
@[simp] theorem dropToken_clock (seq : Nat) (s : State) : (dropToken seq s).clock = s.clock := rfl
@[simp] theorem dropToken_pollAt (seq : Nat) (s : State) : (dropToken seq s).pollAt = s.pollAt := rfl
@[simp] theorem dropToken_nextId (seq : Nat) (s : State) : (dropToken seq s).nextId = s.nextId := rfl
@[simp] theorem dropToken_dawn (seq : Nat) (s : State) : (dropToken seq s).dawn = s.dawn := rfl
@[simp] theorem dropToken_masks (seq : Nat) (s : State) : (dropToken seq s).masks = s.masks := rfl
@[simp] theorem dropToken_brks (seq : Nat) (s : State) : (dropToken seq s).brks = s.brks := rfl
@[simp] theorem dropToken_freeCtr (seq : Nat) (s : State) : (dropToken seq s).freeCtr = s.freeCtr := rfl
@[simp] theorem dropToken_turns (seq : Nat) (s : State) : (dropToken seq s).turns = s.turns := rfl
@[simp] theorem dropToken_late (seq : Nat) (s : State) : (dropToken seq s).late = s.late := rfl
@[simp] theorem dropToken_cur (seq : Nat) (s : State) : (dropToken seq s).cur = s.cur := rfl
@[simp] theorem dropToken_readData (seq : Nat) (s : State) : (dropToken seq s).readData = s.readData := rfl
@[simp] theorem dropToken_outputs (seq : Nat) (s : State) : (dropToken seq s).outputs = s.outputs := rfl

/-! ## modEth -/

@[simp] theorem modEth_boot (p : Nat) (f : EthPort → EthPort) (s : State) : (modEth p f s).boot = s.boot := rfl
@[simp] theorem modEth_gov (p : Nat) (f : EthPort → EthPort) (s : State) : (modEth p f s).gov = s.gov := rfl
@[simp] theorem modEth_merr (p : Nat) (f : EthPort → EthPort) (s : State) : (modEth p f s).merr = s.merr := rfl
@[simp] theorem modEth_kamub (p : Nat) (f : EthPort → EthPort) (s : State) : (modEth p f s).kamub = s.kamub := rfl
@[simp] theorem modEth_eth (p : Nat) (f : EthPort → EthPort) (s : State) : (modEth p f s).eth = listMod s.eth p f := rfl
@[simp] theorem modEth_ramblers (p : Nat) (f : EthPort → EthPort) (s : State) : (modEth p f s).ramblers = s.ramblers := rfl
@[simp] theorem modEth_spaces (p : Nat) (f : EthPort → EthPort) (s : State) : (modEth p f s).spaces = s.spaces := rfl
@[simp] theorem modEth_queues (p : Nat) (f : EthPort → EthPort) (s : State) : (modEth p f s).queues = s.queues := rfl
@[simp] theorem modEth_xlat (p : Nat) (f : EthPort → EthPort) (s : State) : (modEth p f s).xlat = s.xlat := rfl
@[simp] theorem modEth_skim (p : Nat) (f : EthPort → EthPort) (s : State) : (modEth p f s).skim = s.skim := rfl
@[simp] theorem modEth_disp (p : Nat) (f : EthPort → EthPort) (s : State) : (modEth p f s).disp = s.disp := rfl
@[simp] theorem modEth_placers (p : Nat) (f : EthPort → EthPort) (s : State) : (modEth p f s).placers = s.placers := rfl
@[simp] theorem modEth_mem (p : Nat) (f : EthPort → EthPort) (s : State) : (modEth p f s).mem = s.mem := rfl
@[simp] theorem modEth_core (p : Nat) (f : EthPort → EthPort) (s : State) : (modEth p f s).core = s.core := rfl
@[simp] theorem modEth_launches (p : Nat) (f : EthPort → EthPort) (s : State) : (modEth p f s).launches = s.launches := rfl
@[simp] theorem modEth_teams (p : Nat) (f : EthPort → EthPort) (s : State) : (modEth p f s).teams = s.teams := rfl
@[simp] theorem modEth_threads (p : Nat) (f : EthPort → EthPort) (s : State) : (modEth p f s).threads = s.threads := rfl
@[simp] theorem modEth_crews (p : Nat) (f : EthPort → EthPort) (s : State) : (modEth p f s).crews = s.crews := rfl
@[simp] theorem modEth_tokens (p : Nat) (f : EthPort → EthPort) (s : State) : (modEth p f s).tokens = s.tokens := rfl
@[simp] theorem modEth_accesses (p : Nat) (f : EthPort → EthPort) (s : State) : (modEth p f s).accesses = s.accesses := rfl
@[simp] theorem modEth_resumed (p : Nat) (f : EthPort → EthPort) (s : State) : (modEth p f s).resumed = s.resumed := rfl
@[simp] theorem modEth_placed (p : Nat) (f : EthPort → EthPort) (s : State) : (modEth p f s).placed = s.placed := rfl
@[simp] theorem modEth_regions (p : Nat) (f : EthPort → EthPort) (s : State) : (modEth p f s).regions = s.regions := rfl
@[simp] theorem modEth_strms (p : Nat) (f : EthPort → EthPort) (s : State) : (modEth p f s).strms = s.strms := rfl
@[simp] theorem modEth_posted (p : Nat) (f : EthPort → EthPort) (s : State) : (modEth p f s).posted = s.posted := rfl
@[simp] theorem modEth_images (p : Nat) (f : EthPort → EthPort) (s : State) : (modEth p f s).images = s.images := rfl
@[simp] theorem modEth_scToken (p : Nat) (f : EthPort → EthPort) (s : State) : (modEth p f s).scToken = s.scToken := rfl
@[simp] theorem modEth_scWaiting (p : Nat) (f : EthPort → EthPort) (s : State) : (modEth p f s).scWaiting = s.scWaiting := rfl
@[simp] theorem modEth_scAt (p : Nat) (f : EthPort → EthPort) (s : State) : (modEth p f s).scAt = s.scAt := rfl
@[simp] theorem modEth_scLast (p : Nat) (f : EthPort → EthPort) (s : State) : (modEth p f s).scLast = s.scLast := rfl
@[simp] theorem modEth_seams (p : Nat) (f : EthPort → EthPort) (s : State) : (modEth p f s).seams = s.seams := rfl
@[simp] theorem modEth_cycles (p : Nat) (f : EthPort → EthPort) (s : State) : (modEth p f s).cycles = s.cycles := rfl
@[simp] theorem modEth_half (p : Nat) (f : EthPort → EthPort) (s : State) : (modEth p f s).half = s.half := rfl
@[simp] theorem modEth_clock (p : Nat) (f : EthPort → EthPort) (s : State) : (modEth p f s).clock = s.clock := rfl
@[simp] theorem modEth_pollAt (p : Nat) (f : EthPort → EthPort) (s : State) : (modEth p f s).pollAt = s.pollAt := rfl
@[simp] theorem modEth_nextId (p : Nat) (f : EthPort → EthPort) (s : State) : (modEth p f s).nextId = s.nextId := rfl
@[simp] theorem modEth_dawn (p : Nat) (f : EthPort → EthPort) (s : State) : (modEth p f s).dawn = s.dawn := rfl
@[simp] theorem modEth_masks (p : Nat) (f : EthPort → EthPort) (s : State) : (modEth p f s).masks = s.masks := rfl
@[simp] theorem modEth_brks (p : Nat) (f : EthPort → EthPort) (s : State) : (modEth p f s).brks = s.brks := rfl
@[simp] theorem modEth_freeCtr (p : Nat) (f : EthPort → EthPort) (s : State) : (modEth p f s).freeCtr = s.freeCtr := rfl
@[simp] theorem modEth_turns (p : Nat) (f : EthPort → EthPort) (s : State) : (modEth p f s).turns = s.turns := rfl
@[simp] theorem modEth_late (p : Nat) (f : EthPort → EthPort) (s : State) : (modEth p f s).late = s.late := rfl
@[simp] theorem modEth_cur (p : Nat) (f : EthPort → EthPort) (s : State) : (modEth p f s).cur = s.cur := rfl
@[simp] theorem modEth_readData (p : Nat) (f : EthPort → EthPort) (s : State) : (modEth p f s).readData = s.readData := rfl
@[simp] theorem modEth_outputs (p : Nat) (f : EthPort → EthPort) (s : State) : (modEth p f s).outputs = s.outputs := rfl

/-! ## modRambler -/

@[simp] theorem modRambler_boot (n : Nat) (f : Rambler → Rambler) (s : State) : (modRambler n f s).boot = s.boot := rfl
@[simp] theorem modRambler_gov (n : Nat) (f : Rambler → Rambler) (s : State) : (modRambler n f s).gov = s.gov := rfl
@[simp] theorem modRambler_merr (n : Nat) (f : Rambler → Rambler) (s : State) : (modRambler n f s).merr = s.merr := rfl
@[simp] theorem modRambler_kamub (n : Nat) (f : Rambler → Rambler) (s : State) : (modRambler n f s).kamub = s.kamub := rfl
@[simp] theorem modRambler_eth (n : Nat) (f : Rambler → Rambler) (s : State) : (modRambler n f s).eth = s.eth := rfl
@[simp] theorem modRambler_ramblers (n : Nat) (f : Rambler → Rambler) (s : State) : (modRambler n f s).ramblers = listMod s.ramblers n f := rfl
@[simp] theorem modRambler_spaces (n : Nat) (f : Rambler → Rambler) (s : State) : (modRambler n f s).spaces = s.spaces := rfl
@[simp] theorem modRambler_queues (n : Nat) (f : Rambler → Rambler) (s : State) : (modRambler n f s).queues = s.queues := rfl
@[simp] theorem modRambler_xlat (n : Nat) (f : Rambler → Rambler) (s : State) : (modRambler n f s).xlat = s.xlat := rfl
@[simp] theorem modRambler_skim (n : Nat) (f : Rambler → Rambler) (s : State) : (modRambler n f s).skim = s.skim := rfl
@[simp] theorem modRambler_disp (n : Nat) (f : Rambler → Rambler) (s : State) : (modRambler n f s).disp = s.disp := rfl
@[simp] theorem modRambler_placers (n : Nat) (f : Rambler → Rambler) (s : State) : (modRambler n f s).placers = s.placers := rfl
@[simp] theorem modRambler_mem (n : Nat) (f : Rambler → Rambler) (s : State) : (modRambler n f s).mem = s.mem := rfl
@[simp] theorem modRambler_core (n : Nat) (f : Rambler → Rambler) (s : State) : (modRambler n f s).core = s.core := rfl
@[simp] theorem modRambler_launches (n : Nat) (f : Rambler → Rambler) (s : State) : (modRambler n f s).launches = s.launches := rfl
@[simp] theorem modRambler_teams (n : Nat) (f : Rambler → Rambler) (s : State) : (modRambler n f s).teams = s.teams := rfl
@[simp] theorem modRambler_threads (n : Nat) (f : Rambler → Rambler) (s : State) : (modRambler n f s).threads = s.threads := rfl
@[simp] theorem modRambler_crews (n : Nat) (f : Rambler → Rambler) (s : State) : (modRambler n f s).crews = s.crews := rfl
@[simp] theorem modRambler_tokens (n : Nat) (f : Rambler → Rambler) (s : State) : (modRambler n f s).tokens = s.tokens := rfl
@[simp] theorem modRambler_accesses (n : Nat) (f : Rambler → Rambler) (s : State) : (modRambler n f s).accesses = s.accesses := rfl
@[simp] theorem modRambler_resumed (n : Nat) (f : Rambler → Rambler) (s : State) : (modRambler n f s).resumed = s.resumed := rfl
@[simp] theorem modRambler_placed (n : Nat) (f : Rambler → Rambler) (s : State) : (modRambler n f s).placed = s.placed := rfl
@[simp] theorem modRambler_regions (n : Nat) (f : Rambler → Rambler) (s : State) : (modRambler n f s).regions = s.regions := rfl
@[simp] theorem modRambler_strms (n : Nat) (f : Rambler → Rambler) (s : State) : (modRambler n f s).strms = s.strms := rfl
@[simp] theorem modRambler_posted (n : Nat) (f : Rambler → Rambler) (s : State) : (modRambler n f s).posted = s.posted := rfl
@[simp] theorem modRambler_images (n : Nat) (f : Rambler → Rambler) (s : State) : (modRambler n f s).images = s.images := rfl
@[simp] theorem modRambler_scToken (n : Nat) (f : Rambler → Rambler) (s : State) : (modRambler n f s).scToken = s.scToken := rfl
@[simp] theorem modRambler_scWaiting (n : Nat) (f : Rambler → Rambler) (s : State) : (modRambler n f s).scWaiting = s.scWaiting := rfl
@[simp] theorem modRambler_scAt (n : Nat) (f : Rambler → Rambler) (s : State) : (modRambler n f s).scAt = s.scAt := rfl
@[simp] theorem modRambler_scLast (n : Nat) (f : Rambler → Rambler) (s : State) : (modRambler n f s).scLast = s.scLast := rfl
@[simp] theorem modRambler_seams (n : Nat) (f : Rambler → Rambler) (s : State) : (modRambler n f s).seams = s.seams := rfl
@[simp] theorem modRambler_cycles (n : Nat) (f : Rambler → Rambler) (s : State) : (modRambler n f s).cycles = s.cycles := rfl
@[simp] theorem modRambler_half (n : Nat) (f : Rambler → Rambler) (s : State) : (modRambler n f s).half = s.half := rfl
@[simp] theorem modRambler_clock (n : Nat) (f : Rambler → Rambler) (s : State) : (modRambler n f s).clock = s.clock := rfl
@[simp] theorem modRambler_pollAt (n : Nat) (f : Rambler → Rambler) (s : State) : (modRambler n f s).pollAt = s.pollAt := rfl
@[simp] theorem modRambler_nextId (n : Nat) (f : Rambler → Rambler) (s : State) : (modRambler n f s).nextId = s.nextId := rfl
@[simp] theorem modRambler_dawn (n : Nat) (f : Rambler → Rambler) (s : State) : (modRambler n f s).dawn = s.dawn := rfl
@[simp] theorem modRambler_masks (n : Nat) (f : Rambler → Rambler) (s : State) : (modRambler n f s).masks = s.masks := rfl
@[simp] theorem modRambler_brks (n : Nat) (f : Rambler → Rambler) (s : State) : (modRambler n f s).brks = s.brks := rfl
@[simp] theorem modRambler_freeCtr (n : Nat) (f : Rambler → Rambler) (s : State) : (modRambler n f s).freeCtr = s.freeCtr := rfl
@[simp] theorem modRambler_turns (n : Nat) (f : Rambler → Rambler) (s : State) : (modRambler n f s).turns = s.turns := rfl
@[simp] theorem modRambler_late (n : Nat) (f : Rambler → Rambler) (s : State) : (modRambler n f s).late = s.late := rfl
@[simp] theorem modRambler_cur (n : Nat) (f : Rambler → Rambler) (s : State) : (modRambler n f s).cur = s.cur := rfl
@[simp] theorem modRambler_readData (n : Nat) (f : Rambler → Rambler) (s : State) : (modRambler n f s).readData = s.readData := rfl
@[simp] theorem modRambler_outputs (n : Nat) (f : Rambler → Rambler) (s : State) : (modRambler n f s).outputs = s.outputs := rfl

/-! ## modPlacer -/

@[simp] theorem modPlacer_boot (die : Nat) (f : Placer → Placer) (s : State) : (modPlacer die f s).boot = s.boot := rfl
@[simp] theorem modPlacer_gov (die : Nat) (f : Placer → Placer) (s : State) : (modPlacer die f s).gov = s.gov := rfl
@[simp] theorem modPlacer_merr (die : Nat) (f : Placer → Placer) (s : State) : (modPlacer die f s).merr = s.merr := rfl
@[simp] theorem modPlacer_kamub (die : Nat) (f : Placer → Placer) (s : State) : (modPlacer die f s).kamub = s.kamub := rfl
@[simp] theorem modPlacer_eth (die : Nat) (f : Placer → Placer) (s : State) : (modPlacer die f s).eth = s.eth := rfl
@[simp] theorem modPlacer_ramblers (die : Nat) (f : Placer → Placer) (s : State) : (modPlacer die f s).ramblers = s.ramblers := rfl
@[simp] theorem modPlacer_spaces (die : Nat) (f : Placer → Placer) (s : State) : (modPlacer die f s).spaces = s.spaces := rfl
@[simp] theorem modPlacer_queues (die : Nat) (f : Placer → Placer) (s : State) : (modPlacer die f s).queues = s.queues := rfl
@[simp] theorem modPlacer_xlat (die : Nat) (f : Placer → Placer) (s : State) : (modPlacer die f s).xlat = s.xlat := rfl
@[simp] theorem modPlacer_skim (die : Nat) (f : Placer → Placer) (s : State) : (modPlacer die f s).skim = s.skim := rfl
@[simp] theorem modPlacer_disp (die : Nat) (f : Placer → Placer) (s : State) : (modPlacer die f s).disp = s.disp := rfl
@[simp] theorem modPlacer_placers (die : Nat) (f : Placer → Placer) (s : State) : (modPlacer die f s).placers = listMod s.placers die f := rfl
@[simp] theorem modPlacer_mem (die : Nat) (f : Placer → Placer) (s : State) : (modPlacer die f s).mem = s.mem := rfl
@[simp] theorem modPlacer_core (die : Nat) (f : Placer → Placer) (s : State) : (modPlacer die f s).core = s.core := rfl
@[simp] theorem modPlacer_launches (die : Nat) (f : Placer → Placer) (s : State) : (modPlacer die f s).launches = s.launches := rfl
@[simp] theorem modPlacer_teams (die : Nat) (f : Placer → Placer) (s : State) : (modPlacer die f s).teams = s.teams := rfl
@[simp] theorem modPlacer_threads (die : Nat) (f : Placer → Placer) (s : State) : (modPlacer die f s).threads = s.threads := rfl
@[simp] theorem modPlacer_crews (die : Nat) (f : Placer → Placer) (s : State) : (modPlacer die f s).crews = s.crews := rfl
@[simp] theorem modPlacer_tokens (die : Nat) (f : Placer → Placer) (s : State) : (modPlacer die f s).tokens = s.tokens := rfl
@[simp] theorem modPlacer_accesses (die : Nat) (f : Placer → Placer) (s : State) : (modPlacer die f s).accesses = s.accesses := rfl
@[simp] theorem modPlacer_resumed (die : Nat) (f : Placer → Placer) (s : State) : (modPlacer die f s).resumed = s.resumed := rfl
@[simp] theorem modPlacer_placed (die : Nat) (f : Placer → Placer) (s : State) : (modPlacer die f s).placed = s.placed := rfl
@[simp] theorem modPlacer_regions (die : Nat) (f : Placer → Placer) (s : State) : (modPlacer die f s).regions = s.regions := rfl
@[simp] theorem modPlacer_strms (die : Nat) (f : Placer → Placer) (s : State) : (modPlacer die f s).strms = s.strms := rfl
@[simp] theorem modPlacer_posted (die : Nat) (f : Placer → Placer) (s : State) : (modPlacer die f s).posted = s.posted := rfl
@[simp] theorem modPlacer_images (die : Nat) (f : Placer → Placer) (s : State) : (modPlacer die f s).images = s.images := rfl
@[simp] theorem modPlacer_scToken (die : Nat) (f : Placer → Placer) (s : State) : (modPlacer die f s).scToken = s.scToken := rfl
@[simp] theorem modPlacer_scWaiting (die : Nat) (f : Placer → Placer) (s : State) : (modPlacer die f s).scWaiting = s.scWaiting := rfl
@[simp] theorem modPlacer_scAt (die : Nat) (f : Placer → Placer) (s : State) : (modPlacer die f s).scAt = s.scAt := rfl
@[simp] theorem modPlacer_scLast (die : Nat) (f : Placer → Placer) (s : State) : (modPlacer die f s).scLast = s.scLast := rfl
@[simp] theorem modPlacer_seams (die : Nat) (f : Placer → Placer) (s : State) : (modPlacer die f s).seams = s.seams := rfl
@[simp] theorem modPlacer_cycles (die : Nat) (f : Placer → Placer) (s : State) : (modPlacer die f s).cycles = s.cycles := rfl
@[simp] theorem modPlacer_half (die : Nat) (f : Placer → Placer) (s : State) : (modPlacer die f s).half = s.half := rfl
@[simp] theorem modPlacer_clock (die : Nat) (f : Placer → Placer) (s : State) : (modPlacer die f s).clock = s.clock := rfl
@[simp] theorem modPlacer_pollAt (die : Nat) (f : Placer → Placer) (s : State) : (modPlacer die f s).pollAt = s.pollAt := rfl
@[simp] theorem modPlacer_nextId (die : Nat) (f : Placer → Placer) (s : State) : (modPlacer die f s).nextId = s.nextId := rfl
@[simp] theorem modPlacer_dawn (die : Nat) (f : Placer → Placer) (s : State) : (modPlacer die f s).dawn = s.dawn := rfl
@[simp] theorem modPlacer_masks (die : Nat) (f : Placer → Placer) (s : State) : (modPlacer die f s).masks = s.masks := rfl
@[simp] theorem modPlacer_brks (die : Nat) (f : Placer → Placer) (s : State) : (modPlacer die f s).brks = s.brks := rfl
@[simp] theorem modPlacer_freeCtr (die : Nat) (f : Placer → Placer) (s : State) : (modPlacer die f s).freeCtr = s.freeCtr := rfl
@[simp] theorem modPlacer_turns (die : Nat) (f : Placer → Placer) (s : State) : (modPlacer die f s).turns = s.turns := rfl
@[simp] theorem modPlacer_late (die : Nat) (f : Placer → Placer) (s : State) : (modPlacer die f s).late = s.late := rfl
@[simp] theorem modPlacer_cur (die : Nat) (f : Placer → Placer) (s : State) : (modPlacer die f s).cur = s.cur := rfl
@[simp] theorem modPlacer_readData (die : Nat) (f : Placer → Placer) (s : State) : (modPlacer die f s).readData = s.readData := rfl
@[simp] theorem modPlacer_outputs (die : Nat) (f : Placer → Placer) (s : State) : (modPlacer die f s).outputs = s.outputs := rfl

/-! ## tell -/

@[simp] theorem tell_boot (o : Output) (s : State) : (tell o s).boot = s.boot := rfl
@[simp] theorem tell_gov (o : Output) (s : State) : (tell o s).gov = s.gov := rfl
@[simp] theorem tell_merr (o : Output) (s : State) : (tell o s).merr = s.merr := rfl
@[simp] theorem tell_kamub (o : Output) (s : State) : (tell o s).kamub = s.kamub := rfl
@[simp] theorem tell_eth (o : Output) (s : State) : (tell o s).eth = s.eth := rfl
@[simp] theorem tell_ramblers (o : Output) (s : State) : (tell o s).ramblers = s.ramblers := rfl
@[simp] theorem tell_spaces (o : Output) (s : State) : (tell o s).spaces = s.spaces := rfl
@[simp] theorem tell_queues (o : Output) (s : State) : (tell o s).queues = s.queues := rfl
@[simp] theorem tell_xlat (o : Output) (s : State) : (tell o s).xlat = s.xlat := rfl
@[simp] theorem tell_skim (o : Output) (s : State) : (tell o s).skim = s.skim := rfl
@[simp] theorem tell_disp (o : Output) (s : State) : (tell o s).disp = s.disp := rfl
@[simp] theorem tell_placers (o : Output) (s : State) : (tell o s).placers = s.placers := rfl
@[simp] theorem tell_mem (o : Output) (s : State) : (tell o s).mem = s.mem := rfl
@[simp] theorem tell_core (o : Output) (s : State) : (tell o s).core = s.core := rfl
@[simp] theorem tell_launches (o : Output) (s : State) : (tell o s).launches = s.launches := rfl
@[simp] theorem tell_teams (o : Output) (s : State) : (tell o s).teams = s.teams := rfl
@[simp] theorem tell_threads (o : Output) (s : State) : (tell o s).threads = s.threads := rfl
@[simp] theorem tell_crews (o : Output) (s : State) : (tell o s).crews = s.crews := rfl
@[simp] theorem tell_tokens (o : Output) (s : State) : (tell o s).tokens = s.tokens := rfl
@[simp] theorem tell_accesses (o : Output) (s : State) : (tell o s).accesses = s.accesses := rfl
@[simp] theorem tell_resumed (o : Output) (s : State) : (tell o s).resumed = s.resumed := rfl
@[simp] theorem tell_placed (o : Output) (s : State) : (tell o s).placed = s.placed := rfl
@[simp] theorem tell_regions (o : Output) (s : State) : (tell o s).regions = s.regions := rfl
@[simp] theorem tell_strms (o : Output) (s : State) : (tell o s).strms = s.strms := rfl
@[simp] theorem tell_posted (o : Output) (s : State) : (tell o s).posted = s.posted := rfl
@[simp] theorem tell_images (o : Output) (s : State) : (tell o s).images = s.images := rfl
@[simp] theorem tell_scToken (o : Output) (s : State) : (tell o s).scToken = s.scToken := rfl
@[simp] theorem tell_scWaiting (o : Output) (s : State) : (tell o s).scWaiting = s.scWaiting := rfl
@[simp] theorem tell_scAt (o : Output) (s : State) : (tell o s).scAt = s.scAt := rfl
@[simp] theorem tell_scLast (o : Output) (s : State) : (tell o s).scLast = s.scLast := rfl
@[simp] theorem tell_seams (o : Output) (s : State) : (tell o s).seams = s.seams := rfl
@[simp] theorem tell_cycles (o : Output) (s : State) : (tell o s).cycles = s.cycles := rfl
@[simp] theorem tell_half (o : Output) (s : State) : (tell o s).half = s.half := rfl
@[simp] theorem tell_clock (o : Output) (s : State) : (tell o s).clock = s.clock := rfl
@[simp] theorem tell_pollAt (o : Output) (s : State) : (tell o s).pollAt = s.pollAt := rfl
@[simp] theorem tell_nextId (o : Output) (s : State) : (tell o s).nextId = s.nextId := rfl
@[simp] theorem tell_dawn (o : Output) (s : State) : (tell o s).dawn = s.dawn := rfl
@[simp] theorem tell_masks (o : Output) (s : State) : (tell o s).masks = s.masks := rfl
@[simp] theorem tell_brks (o : Output) (s : State) : (tell o s).brks = s.brks := rfl
@[simp] theorem tell_freeCtr (o : Output) (s : State) : (tell o s).freeCtr = s.freeCtr := rfl
@[simp] theorem tell_turns (o : Output) (s : State) : (tell o s).turns = s.turns := rfl
@[simp] theorem tell_late (o : Output) (s : State) : (tell o s).late = s.late := rfl
@[simp] theorem tell_cur (o : Output) (s : State) : (tell o s).cur = s.cur := rfl
@[simp] theorem tell_readData (o : Output) (s : State) : (tell o s).readData = s.readData := rfl
@[simp] theorem tell_outputs (o : Output) (s : State) : (tell o s).outputs = s.outputs ++ [o] := rfl

/-! ## toStage -/

@[simp] theorem toStage_boot (n : Nat) (s : State) : (toStage n s).boot = { s.boot with stage := n, stageAge := 0, preserveNow := if n = 4 then s.boot.preserve else s.boot.preserveNow, carveNow := if n = 7 then s.boot.carve else s.boot.carveNow } := rfl
@[simp] theorem toStage_gov (n : Nat) (s : State) : (toStage n s).gov = s.gov := rfl
@[simp] theorem toStage_merr (n : Nat) (s : State) : (toStage n s).merr = s.merr := rfl
@[simp] theorem toStage_kamub (n : Nat) (s : State) : (toStage n s).kamub = s.kamub := rfl
@[simp] theorem toStage_eth (n : Nat) (s : State) : (toStage n s).eth = s.eth := rfl
@[simp] theorem toStage_ramblers (n : Nat) (s : State) : (toStage n s).ramblers = s.ramblers := rfl
@[simp] theorem toStage_spaces (n : Nat) (s : State) : (toStage n s).spaces = s.spaces := rfl
@[simp] theorem toStage_queues (n : Nat) (s : State) : (toStage n s).queues = s.queues := rfl
@[simp] theorem toStage_xlat (n : Nat) (s : State) : (toStage n s).xlat = s.xlat := rfl
@[simp] theorem toStage_skim (n : Nat) (s : State) : (toStage n s).skim = s.skim := rfl
@[simp] theorem toStage_disp (n : Nat) (s : State) : (toStage n s).disp = s.disp := rfl
@[simp] theorem toStage_placers (n : Nat) (s : State) : (toStage n s).placers = s.placers := rfl
@[simp] theorem toStage_mem (n : Nat) (s : State) : (toStage n s).mem = s.mem := rfl
@[simp] theorem toStage_core (n : Nat) (s : State) : (toStage n s).core = s.core := rfl
@[simp] theorem toStage_launches (n : Nat) (s : State) : (toStage n s).launches = s.launches := rfl
@[simp] theorem toStage_teams (n : Nat) (s : State) : (toStage n s).teams = s.teams := rfl
@[simp] theorem toStage_threads (n : Nat) (s : State) : (toStage n s).threads = s.threads := rfl
@[simp] theorem toStage_crews (n : Nat) (s : State) : (toStage n s).crews = s.crews := rfl
@[simp] theorem toStage_tokens (n : Nat) (s : State) : (toStage n s).tokens = s.tokens := rfl
@[simp] theorem toStage_accesses (n : Nat) (s : State) : (toStage n s).accesses = s.accesses := rfl
@[simp] theorem toStage_resumed (n : Nat) (s : State) : (toStage n s).resumed = s.resumed := rfl
@[simp] theorem toStage_placed (n : Nat) (s : State) : (toStage n s).placed = s.placed := rfl
@[simp] theorem toStage_regions (n : Nat) (s : State) : (toStage n s).regions = s.regions := rfl
@[simp] theorem toStage_strms (n : Nat) (s : State) : (toStage n s).strms = s.strms := rfl
@[simp] theorem toStage_posted (n : Nat) (s : State) : (toStage n s).posted = s.posted := rfl
@[simp] theorem toStage_images (n : Nat) (s : State) : (toStage n s).images = s.images := rfl
@[simp] theorem toStage_scToken (n : Nat) (s : State) : (toStage n s).scToken = s.scToken := rfl
@[simp] theorem toStage_scWaiting (n : Nat) (s : State) : (toStage n s).scWaiting = s.scWaiting := rfl
@[simp] theorem toStage_scAt (n : Nat) (s : State) : (toStage n s).scAt = s.scAt := rfl
@[simp] theorem toStage_scLast (n : Nat) (s : State) : (toStage n s).scLast = s.scLast := rfl
@[simp] theorem toStage_seams (n : Nat) (s : State) : (toStage n s).seams = s.seams := rfl
@[simp] theorem toStage_cycles (n : Nat) (s : State) : (toStage n s).cycles = s.cycles := rfl
@[simp] theorem toStage_half (n : Nat) (s : State) : (toStage n s).half = s.half := rfl
@[simp] theorem toStage_clock (n : Nat) (s : State) : (toStage n s).clock = s.clock := rfl
@[simp] theorem toStage_pollAt (n : Nat) (s : State) : (toStage n s).pollAt = s.pollAt := rfl
@[simp] theorem toStage_nextId (n : Nat) (s : State) : (toStage n s).nextId = s.nextId := rfl
@[simp] theorem toStage_dawn (n : Nat) (s : State) : (toStage n s).dawn = s.dawn := rfl
@[simp] theorem toStage_masks (n : Nat) (s : State) : (toStage n s).masks = s.masks := rfl
@[simp] theorem toStage_brks (n : Nat) (s : State) : (toStage n s).brks = s.brks := rfl
@[simp] theorem toStage_freeCtr (n : Nat) (s : State) : (toStage n s).freeCtr = s.freeCtr := rfl
@[simp] theorem toStage_turns (n : Nat) (s : State) : (toStage n s).turns = s.turns := rfl
@[simp] theorem toStage_late (n : Nat) (s : State) : (toStage n s).late = s.late := rfl
@[simp] theorem toStage_cur (n : Nat) (s : State) : (toStage n s).cur = s.cur := rfl
@[simp] theorem toStage_readData (n : Nat) (s : State) : (toStage n s).readData = s.readData := rfl
@[simp] theorem toStage_outputs (n : Nat) (s : State) : (toStage n s).outputs = s.outputs := rfl

/-! ## readInto -/

@[simp] theorem readInto_boot (o : Nat) (s : State) : (readInto o s).boot = s.boot := rfl
@[simp] theorem readInto_gov (o : Nat) (s : State) : (readInto o s).gov = s.gov := rfl
@[simp] theorem readInto_merr (o : Nat) (s : State) : (readInto o s).merr = s.merr := rfl
@[simp] theorem readInto_kamub (o : Nat) (s : State) : (readInto o s).kamub = s.kamub := rfl
@[simp] theorem readInto_eth (o : Nat) (s : State) : (readInto o s).eth = s.eth := rfl
@[simp] theorem readInto_ramblers (o : Nat) (s : State) : (readInto o s).ramblers = s.ramblers := rfl
@[simp] theorem readInto_spaces (o : Nat) (s : State) : (readInto o s).spaces = s.spaces := rfl
@[simp] theorem readInto_queues (o : Nat) (s : State) : (readInto o s).queues = s.queues := rfl
@[simp] theorem readInto_xlat (o : Nat) (s : State) : (readInto o s).xlat = s.xlat := rfl
@[simp] theorem readInto_skim (o : Nat) (s : State) : (readInto o s).skim = s.skim := rfl
@[simp] theorem readInto_disp (o : Nat) (s : State) : (readInto o s).disp = s.disp := rfl
@[simp] theorem readInto_placers (o : Nat) (s : State) : (readInto o s).placers = s.placers := rfl
@[simp] theorem readInto_mem (o : Nat) (s : State) : (readInto o s).mem = s.mem := rfl
@[simp] theorem readInto_core (o : Nat) (s : State) : (readInto o s).core = s.core := rfl
@[simp] theorem readInto_launches (o : Nat) (s : State) : (readInto o s).launches = s.launches := rfl
@[simp] theorem readInto_teams (o : Nat) (s : State) : (readInto o s).teams = s.teams := rfl
@[simp] theorem readInto_threads (o : Nat) (s : State) : (readInto o s).threads = s.threads := rfl
@[simp] theorem readInto_crews (o : Nat) (s : State) : (readInto o s).crews = s.crews := rfl
@[simp] theorem readInto_tokens (o : Nat) (s : State) : (readInto o s).tokens = s.tokens := rfl
@[simp] theorem readInto_accesses (o : Nat) (s : State) : (readInto o s).accesses = s.accesses := rfl
@[simp] theorem readInto_resumed (o : Nat) (s : State) : (readInto o s).resumed = s.resumed := rfl
@[simp] theorem readInto_placed (o : Nat) (s : State) : (readInto o s).placed = s.placed := rfl
@[simp] theorem readInto_regions (o : Nat) (s : State) : (readInto o s).regions = s.regions := rfl
@[simp] theorem readInto_strms (o : Nat) (s : State) : (readInto o s).strms = s.strms := rfl
@[simp] theorem readInto_posted (o : Nat) (s : State) : (readInto o s).posted = s.posted := rfl
@[simp] theorem readInto_images (o : Nat) (s : State) : (readInto o s).images = s.images := rfl
@[simp] theorem readInto_scToken (o : Nat) (s : State) : (readInto o s).scToken = s.scToken := rfl
@[simp] theorem readInto_scWaiting (o : Nat) (s : State) : (readInto o s).scWaiting = s.scWaiting := rfl
@[simp] theorem readInto_scAt (o : Nat) (s : State) : (readInto o s).scAt = s.scAt := rfl
@[simp] theorem readInto_scLast (o : Nat) (s : State) : (readInto o s).scLast = s.scLast := rfl
@[simp] theorem readInto_seams (o : Nat) (s : State) : (readInto o s).seams = s.seams := rfl
@[simp] theorem readInto_cycles (o : Nat) (s : State) : (readInto o s).cycles = s.cycles := rfl
@[simp] theorem readInto_half (o : Nat) (s : State) : (readInto o s).half = s.half := rfl
@[simp] theorem readInto_clock (o : Nat) (s : State) : (readInto o s).clock = s.clock := rfl
@[simp] theorem readInto_pollAt (o : Nat) (s : State) : (readInto o s).pollAt = s.pollAt := rfl
@[simp] theorem readInto_nextId (o : Nat) (s : State) : (readInto o s).nextId = s.nextId := rfl
@[simp] theorem readInto_dawn (o : Nat) (s : State) : (readInto o s).dawn = s.dawn := rfl
@[simp] theorem readInto_masks (o : Nat) (s : State) : (readInto o s).masks = s.masks := rfl
@[simp] theorem readInto_brks (o : Nat) (s : State) : (readInto o s).brks = s.brks := rfl
@[simp] theorem readInto_freeCtr (o : Nat) (s : State) : (readInto o s).freeCtr = s.freeCtr := rfl
@[simp] theorem readInto_turns (o : Nat) (s : State) : (readInto o s).turns = s.turns := rfl
@[simp] theorem readInto_late (o : Nat) (s : State) : (readInto o s).late = s.late := rfl
@[simp] theorem readInto_cur (o : Nat) (s : State) : (readInto o s).cur = s.cur := rfl
@[simp] theorem readInto_readData (o : Nat) (s : State) : (readInto o s).readData = regRead s o := rfl
@[simp] theorem readInto_outputs (o : Nat) (s : State) : (readInto o s).outputs = s.outputs := rfl

end Sys2Proof.Machine
end

