-- ==== Sys2Proof/Laws/Memory.lean ====
section
/-! SUPPORT. Memory: every operation keeps its canonical form, and what a read after a write gives. -/

namespace Sys2Proof.Machine

/-! ## The form, part by part -/

/-- The form as one condition for each part. -/
theorem memory_wf_iff (m : Mem) : Memory.wf m = true ↔
    memWf m.home = true ∧ memWf m.comp = true ∧ tabWf m.dirty = true ∧ tabWf m.rsb = true ∧ tabWf m.copies = true ∧
    tabWf m.compCopies = true ∧ tabWf m.l1 = true ∧ tabWf m.uses = true ∧ tabWf m.clean = true ∧ tabWf m.bad = true := by
  simp only [Memory.wf, Bool.and_eq_true, and_assoc]

/-- A state whose memory is another's has its form. -/
theorem memOk_of_mem {s t : State} (h : s.MemOk) (e : t.mem = s.mem) : t.MemOk := by
  unfold State.MemOk at h ⊢; rw [e]; exact h

/-- The machine right after reset has its memory in canonical form. -/
theorem memOk_reset : State.reset.MemOk := rfl

theorem memOk_home {s : State} (h : s.MemOk) {m : List Host.Cell} (hm : memWf m = true) :
    ({ s with mem := { s.mem with home := m } } : State).MemOk := by
  unfold State.MemOk at h ⊢
  rw [memory_wf_iff] at h ⊢
  exact ⟨hm, h.2⟩

/-! ## The operations -/

theorem memOk_setDirty {s : State} (pa : Nat) (h : s.MemOk) : (setDirty pa s).MemOk := by
  unfold State.MemOk at h ⊢
  rw [memory_wf_iff] at h ⊢
  simp only [setDirty]
  obtain ⟨h1, h2, h3, h4, h5, h6, h7, h8, h9, h10⟩ := h
  exact ⟨h1, h2, h3, h4, h5, h6, h7, h8, tabWf_del _ h9, h10⟩

theorem memOk_supersede {s : State} (pa : Nat) (h : s.MemOk) : (supersede pa s).MemOk := h

theorem memOk_recallLine {s : State} (line : Nat) (h : s.MemOk) : (recallLine line s).MemOk := by
  unfold recallLine
  split
  · exact h
  · next c hc =>
    dsimp only
    split
    · exact h
    · refine foldl_keeps (P := State.MemOk) ?_ _ h
      intro t i ht
      apply memOk_setDirty
      have ht' : (supersede (128 * line + i) t).MemOk := ht
      unfold State.MemOk at ht' ⊢
      rw [memory_wf_iff] at ht' ⊢
      exact ⟨memWf_set _ _ ht'.1, ht'.2.1, tabWf_del _ ht'.2.2.1, ht'.2.2.2⟩

theorem memOk_dropVerdicts {s : State} (pa : Nat) (h : s.MemOk) : (dropVerdicts pa s).MemOk := by
  unfold dropVerdicts
  dsimp only
  split
  · exact memOk_of_mem h rfl
  · exact h

theorem memOk_writeHomeByte {s : State} (pa : Nat) (b : Byte) (h : s.MemOk) : (writeHomeByte pa b s).MemOk := by
  unfold writeHomeByte
  apply memOk_setDirty
  have ht := memOk_recallLine (pa / 128) (memOk_dropVerdicts pa (memOk_supersede pa h))
  unfold State.MemOk at ht ⊢
  rw [memory_wf_iff] at ht ⊢
  exact ⟨memWf_set _ _ ht.1, ht.2.1, tabWf_del _ ht.2.2.1, ht.2.2.2⟩

theorem memOk_writeL2Byte {s : State} (pa : Nat) (b : Byte) (h : s.MemOk) : (writeL2Byte pa b s).MemOk := by
  unfold writeL2Byte
  apply memOk_setDirty
  have ht := memOk_recallLine (pa / 128) (memOk_dropVerdicts pa (memOk_supersede pa h))
  unfold State.MemOk at ht ⊢
  rw [memory_wf_iff] at ht ⊢
  exact ⟨ht.1, ht.2.1, tabWf_put _ _ ht.2.2.1, ht.2.2.2⟩

theorem memOk_writeRsbByte {s : State} (die pa : Nat) (b : Byte) (h : s.MemOk) : (writeRsbByte die pa b s).MemOk := by
  unfold State.MemOk at h ⊢
  rw [memory_wf_iff] at h ⊢
  obtain ⟨h1, h2, h3, h4, h5, h6⟩ := h
  exact ⟨h1, h2, h3, tabWf_put _ _ h4, tabWf_del _ h5, h6⟩

theorem memOk_writeCompByte {s : State} (pa : Nat) (b : Byte) (h : s.MemOk) : (writeCompByte pa b s).MemOk := by
  unfold writeCompByte
  have ht := memOk_dropVerdicts pa h
  unfold State.MemOk at ht ⊢
  rw [memory_wf_iff] at ht ⊢
  obtain ⟨h1, h2, h3, h4, h5, h6, h7⟩ := ht
  exact ⟨h1, memWf_set _ _ h2, h3, h4, h5, tabWf_filter _ h6, h7⟩

theorem memOk_healWords {s : State} (pa n : Nat) (h : s.MemOk) : (healWords pa n s).MemOk := by
  unfold State.MemOk at h ⊢
  rw [memory_wf_iff] at h ⊢
  obtain ⟨h1, h2, h3, h4, h5, h6, h7, h8, h9, h10⟩ := h
  exact ⟨h1, h2, h3, h4, h5, h6, h7, h8, h9, tabWf_filter _ h10⟩

theorem memOk_healCovered {s : State} (line : Nat) (covered : Nat → Bool) (h : s.MemOk) : (healCovered line covered s).MemOk :=
  foldl_keeps (P := State.MemOk) (fun _ _ => memOk_healWords _ _) _ h

/-- What changes the L1s alone, and keeps their form, keeps memory's. -/
theorem memOk_l1 {s : State} (h : s.MemOk) {t : Tab L1Line} (ht : tabWf s.mem.l1 = true → tabWf t = true) :
    ({ s with mem := { s.mem with l1 := t } } : State).MemOk := by
  unfold State.MemOk at h ⊢
  rw [memory_wf_iff] at h ⊢
  obtain ⟨h1, h2, h3, h4, h5, h6, h7, h8⟩ := h
  exact ⟨h1, h2, h3, h4, h5, h6, ht h7, h8⟩

theorem memOk_l1Invalidate {s : State} (cores : Nat → Bool) (pa n : Nat) (h : s.MemOk) : (l1Invalidate cores pa n s).MemOk := by
  refine memOk_l1 h (tabWf_filterMap fun e r hr => ?_)
  split at hr
  · obtain ⟨l, -, rfl⟩ := Option.map_eq_some_iff.mp hr; rfl
  · cases hr; rfl

theorem memOk_l1Recall {s : State} (core pa : Nat) (h : s.MemOk) : (l1Recall core pa s).MemOk := by
  refine memOk_l1 h (tabWf_map fun e => ?_)
  dsimp only
  split <;> rfl

theorem memOk_l1Room {s : State} (core : Nat) (h : s.MemOk) : (l1Room core s).MemOk := by
  unfold l1Room
  split
  · exact h
  · split
    · exact memOk_l1 h (tabWf_del _)
    · unfold State.MemOk at h ⊢
      rw [memory_wf_iff] at h ⊢
      obtain ⟨h1, h2, h3, h4, h5, h6, h7⟩ := h
      exact ⟨h1, h2, h3, h4, h5, tabWf_del _ h6, h7⟩
    · exact h

theorem memOk_l1Take {s : State} (core pa pte : Nat) (sectors : BitVec 4) (h : s.MemOk) : (l1Take core pa pte sectors s).MemOk := by
  have hr := memOk_l1Recall core pa h
  unfold l1Take
  dsimp only
  split
  · exact memOk_l1 hr (tabWf_put _ _)
  · exact memOk_l1 (memOk_l1Room core hr) (tabWf_put _ _)

theorem memOk_l1Fill {s : State} (core pa pte : Nat) (h : s.MemOk) : (l1Fill core pa pte s).MemOk := memOk_l1Take core pa pte _ h

theorem tabWf_l1Owned (core pa : Nat) {t : Tab L1Line} (h : tabWf t = true) : tabWf (l1Owned core pa t) = true := by
  unfold l1Owned
  split
  · exact h
  · split
    · exact tabWf_put _ _ h
    · exact foldl_keeps (P := fun t : Tab L1Line => tabWf t = true) (fun _ _ => tabWf_put _ _) _ h

theorem memOk_l1Own {s : State} (core pa pte : Nat) (h : s.MemOk) : (l1Own core pa pte s).MemOk := by
  unfold l1Own
  split
  · exact h
  · exact memOk_l1 (memOk_l1Fill core pa pte (memOk_l1Invalidate _ _ _ h)) (tabWf_l1Owned _ _)

theorem memOk_countUse {s : State} (core pa : Nat) (h : s.MemOk) : (countUse core pa s).MemOk := by
  unfold countUse
  split
  · exact h
  · unfold State.MemOk at h ⊢
    rw [memory_wf_iff] at h ⊢
    obtain ⟨h1, h2, h3, h4, h5, h6, h7, h8, h9⟩ := h
    exact ⟨h1, h2, h3, h4, h5, h6, h7, tabWf_put _ _ h8, h9⟩

theorem memOk_writeRun {w : Nat → Byte → State → State} (hw : ∀ pa b s, State.MemOk s → (w pa b s).MemOk) (pa : Nat) (data : List Byte)
    {s : State} (h : s.MemOk) : (writeRun w pa data s).MemOk := by
  induction data generalizing pa s with
  | nil => exact h
  | cons b t ih => exact ih _ (hw _ _ _ h)

theorem memOk_writeSys {s : State} (pa : Nat) (data : List Byte) (h : s.MemOk) : (writeSys pa data s).MemOk := by
  unfold writeSys
  split
  · exact h
  apply memOk_healWords
  split
  · exact memOk_writeRun (fun _ _ _ => memOk_writeCompByte _ _) _ _ h
  · exact memOk_l1Invalidate _ _ _ (memOk_writeRun (fun _ _ _ => memOk_writeHomeByte _ _) _ _ h)

theorem memOk_rsbDrain {s : State} (die line : Nat) (h : s.MemOk) : (rsbDrain die line s).MemOk := by
  unfold rsbDrain
  dsimp only
  split
  · exact h
  · apply memOk_healCovered
    refine foldl_keeps (P := State.MemOk) (fun _ _ => memOk_writeHomeByte _ _) _ (memOk_l1Invalidate _ _ _ ?_)
    unfold State.MemOk at h ⊢
    rw [memory_wf_iff] at h ⊢
    obtain ⟨h1, h2, h3, h4, h5, h6⟩ := h
    exact ⟨h1, h2, h3, tabWf_clear _ _ h4, tabWf_del _ h5, h6⟩

theorem memWf_foldl_set (es : List (Nat × Byte)) {m : List (Nat × Byte)} (h : memWf m = true) :
    memWf (es.foldl (fun m e => tabSet 0 m e.1 e.2) m) = true :=
  foldl_keeps (P := fun m => memWf m = true) (fun _ _ => memWf_set _ _) es h

theorem memOk_writeBack {s : State} (line : Nat) (h : s.MemOk) : (writeBack line s).MemOk := by
  unfold State.MemOk at h ⊢
  rw [memory_wf_iff] at h ⊢
  obtain ⟨h1, h2, h3, h4⟩ := h
  exact ⟨memWf_foldl_set _ h1, h2, tabWf_clear _ _ h3, h4⟩

theorem memOk_l2Room {s : State} (die : Nat) (h : s.MemOk) : (l2Room die s).MemOk := by
  unfold l2Room
  split
  · exact h
  · split
    · unfold State.MemOk at h ⊢
      rw [memory_wf_iff] at h ⊢
      obtain ⟨h1, h2, h3, h4, h5, h6⟩ := h
      exact ⟨h1, h2, h3, h4, tabWf_del _ h5, h6⟩
    · exact memOk_writeBack _ h
    · exact memOk_rsbDrain _ _ h
    · exact h

theorem memOk_writeCore {s : State} (core pa : Nat) (data : List Byte) (h : s.MemOk) : (writeCore core pa data s).MemOk := by
  have hi := memOk_l1Invalidate (fun c => c != core && dieOf c == dieOf core) pa data.length h
  have hr := memOk_l2Room (dieOf core) hi
  by_cases hp : 2 ^ 51 ≤ pa
  · simp only [writeCore, if_pos hp]
    exact memOk_healWords _ _ (memOk_writeRun (fun _ _ _ => memOk_writeCompByte _ _) _ _ hi)
  · simp only [writeCore, if_neg hp]
    split
    · exact memOk_healWords _ _ (memOk_writeRun (fun _ _ _ => memOk_writeL2Byte _ _) _ _ hr)
    · exact memOk_writeRun (fun _ _ _ => memOk_writeRsbByte _ _ _) _ _ hr

theorem memOk_keepCopy {s : State} (die pa : Nat) (h : s.MemOk) : (keepCopy die pa s).MemOk := by
  unfold keepCopy
  split
  · exact h
  · split
    · exact h
    · have hr := memOk_l2Room die h
      unfold State.MemOk at hr ⊢
      rw [memory_wf_iff] at hr ⊢
      obtain ⟨h1, h2, h3, h4, h5, h6⟩ := hr
      exact ⟨h1, h2, h3, h4, tabWf_put _ _ h5, h6⟩

theorem memOk_keepCompCopy {s : State} (core pa : Nat) (h : s.MemOk) : (keepCompCopy core pa s).MemOk := by
  unfold keepCompCopy
  split
  · exact h
  · have hr := memOk_l1Room core h
    unfold State.MemOk at hr ⊢
    rw [memory_wf_iff] at hr ⊢
    obtain ⟨h1, h2, h3, h4, h5, h6, h7, h8, h9, h10⟩ := hr
    exact ⟨h1, h2, h3, h4, h5, tabWf_put _ _ h6, h7, h8, h9, tabWf_filter _ h10⟩

theorem memOk_dropCopies {s : State} (line : Nat) (h : s.MemOk) : (dropCopies line s).MemOk := by
  unfold State.MemOk at h ⊢
  rw [memory_wf_iff] at h ⊢
  obtain ⟨h1, h2, h3, h4, h5, h6, h7, h8⟩ := h
  exact ⟨h1, h2, h3, h4, tabWf_filter _ h5, h6, tabWf_filter _ h7, h8⟩

/-! ## What a write by the system leaves as it was -/

/-- Canonical memory without shadow lines and without copies of the companion, where the committed bytes are those of memory and of
the home dies' caches alone. -/
def Calm (s : State) : Prop := s.MemOk ∧ s.skim.lines = [] ∧ s.kamub.copies = []

/-- Of two states the second is calm, has the first one's spaces, and every committed byte but those that `w` names. -/
def OthersKept (w : Nat → Prop) (s t : State) : Prop :=
  Calm t ∧ t.spaces = s.spaces ∧ ∀ x, ¬w x → homeByte t x = homeByte s x

theorem OthersKept.trans {w : Nat → Prop} {s t u : State} (h : OthersKept w s t) (k : OthersKept w t u) : OthersKept w s u :=
  ⟨k.1, k.2.1.trans h.2.1, fun x hx => (k.2.2 x hx).trans (h.2.2 x hx)⟩

theorem homeByte_calm {s : State} (h : Calm s) (x : Nat) :
    homeByte s x = (tabFind s.mem.dirty x).getD (tabGet 0 s.mem.home x) := by
  simp only [homeByte, compDirtyByte, drainingByte, h.2.1, h.2.2, List.find?_nil, Option.bind_none]
  cases tabFind s.mem.dirty x <;> rfl

/-- What changes nothing of the bytes, the lines, the copies and the spaces keeps them. -/
theorem othersKept_of_same {w : Nat → Prop} {s t : State} (h : Calm s) (hm : t.MemOk) (h1 : t.skim.lines = s.skim.lines)
    (h2 : t.kamub.copies = s.kamub.copies) (h3 : t.spaces = s.spaces) (h4 : t.mem.dirty = s.mem.dirty) (h5 : t.mem.home = s.mem.home) :
    OthersKept w s t := by
  have ht : Calm t := ⟨hm, h1.trans h.2.1, h2.trans h.2.2⟩
  exact ⟨ht, h3, fun x _ => by rw [homeByte_calm ht, homeByte_calm h, h4, h5]⟩

theorem othersKept_writeHomeByte {w : Nat → Prop} {s : State} (h : Calm s) (pa : Nat) (b : Byte) (hw : w pa) :
    OthersKept w s (writeHomeByte pa b s) := by
  have hs : OthersKept w s (dropVerdicts pa (supersede pa s)) := by
    refine othersKept_of_same h (memOk_dropVerdicts _ (memOk_supersede _ h.1)) ?_ ?_ ?_ ?_ ?_ <;>
      (unfold dropVerdicts; dsimp only; split <;> simp [supersede, h.2.1])
  have hr : recallLine (pa / 128) (dropVerdicts pa (supersede pa s)) = dropVerdicts pa (supersede pa s) := by
    simp [recallLine, hs.1.2.2]
  have hc : Calm (writeHomeByte pa b s) := by
    refine ⟨memOk_writeHomeByte _ _ h.1, ?_, ?_⟩ <;> simp [writeHomeByte, hr, setDirty, hs.1.2.1, hs.1.2.2]
  refine hs.trans ⟨hc, by simp [writeHomeByte, hr, setDirty], fun x hx => ?_⟩
  have hne : x ≠ pa := fun e => hx (e ▸ hw)
  have hm := (memory_wf_iff _).mp hs.1.1
  rw [homeByte_calm hc, homeByte_calm hs.1]
  simp only [writeHomeByte, hr, setDirty]
  rw [tabFind_del_other hm.2.2.1 hne, tabGet_set_other _ hm.1 hne]

theorem othersKept_writeRun {w : Nat → Prop} (pa : Nat) (data : List Byte) {s : State} (h : Calm s)
    (hw : ∀ x, pa ≤ x → x < pa + data.length → w x) : OthersKept w s (writeRun writeHomeByte pa data s) := by
  induction data generalizing pa s with
  | nil => exact ⟨h, rfl, fun _ _ => rfl⟩
  | cons b t ih =>
    have h1 := othersKept_writeHomeByte (w := w) h pa b (hw pa (Nat.le_refl _) (by simp))
    exact h1.trans (ih _ h1.1 fun x hx hy => hw x (by omega) (by simp only [List.length_cons]; omega))

/-- A write by the system changes no committed byte outside its range. -/
theorem othersKept_writeSys {s : State} (h : Calm s) (pa : Nat) (data : List Byte) :
    OthersKept (fun x => pa ≤ x ∧ x < pa + data.length) s (writeSys pa data s) := by
  unfold writeSys
  split
  · exact ⟨h, rfl, fun _ _ => rfl⟩
  split
  · have : ∀ (l : List Byte) (p : Nat) (u : State), Calm u → Calm (writeRun writeCompByte p l u) ∧
        (writeRun writeCompByte p l u).spaces = u.spaces ∧ (writeRun writeCompByte p l u).mem.dirty = u.mem.dirty ∧
        (writeRun writeCompByte p l u).mem.home = u.mem.home := by
      intro l
      induction l with
      | nil => exact fun _ _ h => ⟨h, rfl, rfl, rfl⟩
      | cons b t ih =>
        intro p u hu
        have hb : Calm (writeCompByte p b u) ∧ (writeCompByte p b u).spaces = u.spaces ∧
            (writeCompByte p b u).mem.dirty = u.mem.dirty ∧ (writeCompByte p b u).mem.home = u.mem.home := by
          refine ⟨⟨memOk_writeCompByte _ _ hu.1, ?_, ?_⟩, ?_, ?_, ?_⟩ <;>
            (unfold writeCompByte dropVerdicts; dsimp only; split <;> simp [hu.2.1, hu.2.2])
        obtain ⟨h1, h2, h3, h4⟩ := ih (p + 1) _ hb.1
        exact ⟨h1, h2.trans hb.2.1, h3.trans hb.2.2.1, h4.trans hb.2.2.2⟩
    obtain ⟨h1, h2, h3, h4⟩ := this data pa s h
    have hk : OthersKept (fun x => pa ≤ x ∧ x < pa + data.length) s (writeRun writeCompByte pa data s) :=
      othersKept_of_same h h1.1 (h1.2.1.trans h.2.1.symm) (h1.2.2.trans h.2.2.symm) h2 h3 h4
    exact hk.trans (othersKept_of_same h1 (memOk_healWords _ _ h1.1) rfl rfl rfl rfl rfl)
  · have hk := othersKept_writeRun (w := fun x => pa ≤ x ∧ x < pa + data.length) pa data h (fun x h1 h2 => ⟨h1, h2⟩)
    exact hk.trans (othersKept_of_same hk.1 (memOk_healWords _ _ (memOk_l1Invalidate _ _ _ hk.1.1)) rfl rfl rfl rfl rfl)

theorem othersKept_dropCopies {w : Nat → Prop} {s : State} (h : Calm s) (line : Nat) : OthersKept w s (dropCopies line s) :=
  othersKept_of_same h (memOk_dropCopies _ h.1) rfl rfl rfl rfl rfl

end Sys2Proof.Machine
end

