-- ==== Sys2Proof/Laws/Nodes.lean ====
section
/-! SUPPORT. What a firing does: it runs on its operands, parks on its window, or is not there; and everything that sending a
result changes. -/

namespace Sys2Proof.Machine

/-! ## Running a node -/

theorem runNode_fires {n : Node} {i : Instr} {ops : List Opd} {more : List Nat} {go : Firing → List Nat → State → State} {s : State}
    {f : Firing} (h : Fires s f ops more) : runNode n i ops more go s = .next (go f (ops.map (opVal s f n)) (fired s)) := by
  obtain ⟨h1, h2⟩ := h
  unfold fired at h2
  simp only [runNode, h1, h2, fired]
  rfl

theorem runNode_parks {n : Node} {i : Instr} {ops : List Opd} {more : List Nat} {go : Firing → List Nat → State → State} {s : State}
    {f : Firing} {pos : Nat} (h1 : s.cur = some f) (h2 : absent (fired s) f ((ops.map slotsOf).flatten ++ more) = some pos) :
    runNode n i ops more go s = .next (parkWindow i f pos (fired s)) := by
  unfold fired at h2
  simp only [runNode, h1, h2, fired]

theorem runNode_idle {n : Node} {i : Instr} {ops : List Opd} {more : List Nat} {go : Firing → List Nat → State → State} {s : State}
    (h : s.cur = none) : runNode n i ops more go s = .next s := by simp only [runNode, h]

theorem calc1_fires {n : Node} {i : Instr} {a : Opd} {net : Net} {g : Nat → Nat} {s : State} {f : Firing} (h : Fires s f [a] []) :
    calc1 n i a net g s = sends n f net (g (opVal s f n a)) s := runNode_fires h

theorem calc2_fires {n : Node} {i : Instr} {a b : Opd} {net : Net} {g : Nat → Nat → Nat} {s : State} {f : Firing}
    (h : Fires s f [a, b] []) : calc2 n i a b net g s = sends n f net (g (opVal s f n a) (opVal s f n b)) s := runNode_fires h

theorem calc3_fires {n : Node} {i : Instr} {a b c : Opd} {net : Net} {g : Nat → Nat → Nat → Nat} {s : State} {f : Firing}
    (h : Fires s f [a, b, c] []) :
    calc3 n i a b c net g s = sends n f net (g (opVal s f n a) (opVal s f n b) (opVal s f n c)) s := runNode_fires h

theorem mem0_fires {n : Node} {i : Instr} {s : State} {f : Firing} (h : Fires s f [] []) :
    mem0 n i s = .next (submit i f 0 0 0 (fired s)) := runNode_fires h

theorem mem1_fires {n : Node} {i : Instr} {a : Opd} {s : State} {f : Firing} (h : Fires s f [a] []) :
    mem1 n i a s = .next (submit i f (opVal s f n a) 0 0 (fired s)) := runNode_fires h

theorem mem2_fires {n : Node} {i : Instr} {a b : Opd} {s : State} {f : Firing} (h : Fires s f [a, b] []) :
    mem2 n i a b s = .next (submit i f (opVal s f n a) (opVal s f n b) 0 (fired s)) := runNode_fires h

theorem mem3_fires {n : Node} {i : Instr} {a b c : Opd} {s : State} {f : Firing} (h : Fires s f [a, b, c] []) :
    mem3 n i a b c s = .next (submit i f (opVal s f n a) (opVal s f n b) (opVal s f n c) (fired s)) := runNode_fires h

/-- Outside the handler block the node acts as itself. -/
theorem unlessHandler_out {s : State} {f : Firing} {k : Out} (h1 : s.cur = some f) (h2 : isHandler s f.launch f.block = false) :
    unlessHandler s k = k := by simp [unlessHandler, h1, h2]

/-! ## Sending a result -/

theorem newKeys_same (t l b w : Nat) (s : State) :
    (newKeys t l b w s).tokens = s.tokens ∧ (newKeys t l b w s).nextId = s.nextId ∧ (newKeys t l b w s).placed = s.placed ∧
    (newKeys t l b w s).launches = s.launches ∧ (newKeys t l b w s).accesses = s.accesses ∧ visible (newKeys t l b w s) = visible s := by
  unfold newKeys
  dsimp only
  split <;> exact ⟨rfl, rfl, rfl, rfl, rfl, rfl⟩

@[simp] theorem isHandler_openWave (f : Firing) (w : Nat) (s : State) (l b : Nat) : isHandler (openWave f w s) l b = isHandler s l b := by
  unfold openWave
  split
  · rfl
  · unfold isHandler imageOf launch?
    rw [(newKeys_same _ _ _ _ _).2.2.2.1]
    rfl

theorem openWave_same (f : Firing) (w : Nat) (s : State) :
    (openWave f w s).tokens = s.tokens ∧ (openWave f w s).nextId = s.nextId ∧ (openWave f w s).placed = s.placed ∧
    (openWave f w s).launches = s.launches ∧ (openWave f w s).accesses = s.accesses ∧ visible (openWave f w s) = visible s := by
  unfold openWave
  split
  · exact ⟨rfl, rfl, rfl, rfl, rfl, rfl⟩
  · exact newKeys_same _ _ _ _ _

theorem physPe_congr {s t : State} (hp : t.placed = s.placed) (hl : t.launches = s.launches) (c l b r n : Nat) :
    physPe t c l b r n = physPe s c l b r n := by
  unfold physPe placedOf blockAt imageOf launch?
  rw [hp, hl]

theorem sendTok_same (f : Firing) (w : Nat) (net : Net) (v : Word256) (d : Dst) (s : State) :
    (sendTok f w net v d s).placed = s.placed ∧ (sendTok f w net v d s).launches = s.launches ∧
    (sendTok f w net v d s).accesses = s.accesses ∧ visible (sendTok f w net v d s) = visible s := ⟨rfl, rfl, rfl, rfl⟩

/-- Sending to some destinations in turn appends one token for each, numbered from the next number on. -/
theorem sendAll_tokens (f : Firing) (w : Nat) (net : Net) (v : Word256) (ds : List Dst) (s : State) :
    (ds.foldl (fun s d => sendTok f w net v d s) s).tokens = s.tokens ++ ds.mapIdx (fun k d =>
      { thread := f.thread, wave := w, net := net, val := v, launch := f.launch, block := f.block, replica := f.replica,
        node := d.page.val * 128 + d.pe.val * 8 + d.slot.val, port := d.port.val, age := 0, place := .out,
        src := physPe s f.core f.launch f.block f.replica f.node * 8 + f.node % 8, seq := s.nextId + k, count := 0, inv := invOf f }) := by
  induction ds generalizing s with
  | nil => simp
  | cons d ds ih =>
    rw [List.foldl_cons, ih, List.mapIdx_cons]
    rw [physPe_congr (sendTok_same f w net v d s).1 (sendTok_same f w net v d s).2.1]
    simp only [sendTok, List.append_assoc, List.singleton_append, Nat.add_zero]
    congr 3
    funext k e
    simp [Nat.add_comm, Nat.add_left_comm]

theorem sendAll_visible (f : Firing) (w : Nat) (net : Net) (v : Word256) (ds : List Dst) (s : State) :
    visible (ds.foldl (fun s d => sendTok f w net v d s) s) = visible s :=
  foldl_same visible (g := fun s d => sendTok f w net v d s) (fun _ _ => rfl) ds s

theorem sendAll_accesses (f : Firing) (w : Nat) (net : Net) (v : Word256) (ds : List Dst) (s : State) :
    (ds.foldl (fun s d => sendTok f w net v d s) s).accesses = s.accesses :=
  foldl_same (·.accesses) (g := fun s d => sendTok f w net v d s) (fun _ _ => rfl) ds s

/-- A result is sent to its destinations in turn, after the wave that it may open. -/
theorem emitBit_eq {n : Node} {f : Firing} {net : Net} {v : Nat} {bit : Bool} {s : State} {d : Dst} {ds : List Dst}
    (h : destsOf n bit = d :: ds) : emitBit n f net v bit s =
      (d :: ds).foldl (fun t e => sendTok f (waveOut s f n) (if n.tag = .repl then Net.wide else net)
        (BitVec.ofNat 256 (if n.tag = .repl then spread v else v)) e t) (openWave f (waveOut s f n) s) := by
  unfold emitBit; rw [h]

/-- Everything that sending a result adds to the tokens. -/
theorem emitBit_tokens (n : Node) (f : Firing) (net : Net) (v : Nat) (bit : Bool) (s : State) :
    (emitBit n f net v bit s).tokens = s.tokens ++ (destsOf n bit).mapIdx (fun k d => resultToken n f net v d (s.nextId + k) s) := by
  obtain ⟨h1, h2, h3, h4, -, -⟩ := openWave_same f (waveOut s f n) s
  cases h : destsOf n bit with
  | nil => simp [emitBit, h]
  | cons d ds =>
    rw [emitBit_eq h, sendAll_tokens, h1, h2]
    simp only [physPe_congr h3 h4]
    rfl

/-- Sending a result touches nothing that software sees but through its tokens. -/
theorem emitBit_visible (n : Node) (f : Firing) (net : Net) (v : Nat) (bit : Bool) (s : State) :
    visible (emitBit n f net v bit s) = visible s := by
  cases h : destsOf n bit with
  | nil => simp [emitBit, h]
  | cons d ds =>
    rw [emitBit_eq h, sendAll_visible]
    exact (openWave_same _ _ _).2.2.2.2.2

theorem emitBit_accesses (n : Node) (f : Firing) (net : Net) (v : Nat) (bit : Bool) (s : State) :
    (emitBit n f net v bit s).accesses = s.accesses := by
  cases h : destsOf n bit with
  | nil => simp [emitBit, h]
  | cons d ds =>
    rw [emitBit_eq h, sendAll_accesses]
    exact (openWave_same _ _ _).2.2.2.2.1

theorem emit_visible (n : Node) (f : Firing) (net : Net) (v : Nat) (s : State) : visible (emit n f net v s) = visible s :=
  emitBit_visible n f net v _ s

end Sys2Proof.Machine
end

