-- ==== Sys2Proof/Tests/Slice0.lean ====
section
/-! SUPPORT. Tests of the model: ill-formed terms that the check refuses, words written out from the encoding, the worked examples of the
spec, and for each statement a state and operands that meet its hypotheses. -/

open Sys2Proof Sys2Proof.Machine

namespace Sys2Proof.Tests

-- Each proof is checked before the next begins: the checks side by side would take more memory than they save time.
set_option Elab.async false

/-! ## Small states -/

def dstA : Option Dst := some { net := .narrow, page := 0, pe := 1, slot := 0, port := 0, steer := .always }

/-- A node of three ports with one narrow destination. -/
def node3 (ty : Ty) : Node :=
  { ty := ty, ari := 3, tag := .keep, a := .port 0, b := .port 1, low := .src (.port 2), d0 := dstA, d1 := none }

/-- A firing of node 0 with values at its ports. -/
def firing (vals : List Nat) : Firing :=
  { thread := 0, core := 0, launch := 0, block := 0, replica := 0, node := 0, wave := 0,
    toks := ((List.range vals.length).zip vals).map (fun e => fetchToken 0 e.1 e.2) }

/-- That firing at hand after reset. -/
def ready (vals : List Nat) : State := { State.reset with cur := some (firing vals) }

/-- The values that an outcome has sent. -/
def sent (o : Out) : List Nat := match o with | .next s => s.tokens.map (fun k => k.val.toNat) | _ => []

def after (o : Out) : State := match o with | .next s => s | _ => State.reset

/-- Page tables that map the first GiB open and writable onto itself, and the second for the device's own writes. -/
def tables : List (Nat × Byte) :=
  [(0, 0x01), (1, 0x10), (0x1000, 0x01), (0x1001, 0x20), (0x2000, 0x17), (0x2008, 0x07), (0x2009, 0x08), (0x200B, 0x40)]

/-- One launch of one team of one thread that runs, in a space with those tables. -/
def world : State := { fetchState State.reset 0 with turns := [], mem := { Mem.reset with home := tables } }

/-- A firing at hand in that state. -/
def worldAt (vals : List Nat) : State := { world with cur := some (firing vals) }

/-- An access of its thread. -/
def acc (i : Instr) (a b c : Nat) : Access := { handedOver i (firing []) a b c .flight world with id := 5, order := 5 }

/-- That access in flight. -/
def doing (i : Instr) (a b c : Nat) : State := { world with accesses := [acc i a b c] }

/-- A record of fields: offset, bytes, value. -/
def raw (fs : List (Nat × Nat × Nat)) : List Byte :=
  fs.foldl (fun r e => r.take e.1 ++ toBytes e.2.1 e.2.2 ++ r.drop (e.1 + e.2.1)) (List.replicate 256 0)

def plainMem : MemFlags := { unord := false, scope := .crew, acq := false, rel := false, sc := false }
def rn : Round := { rnd := .rn, sat := false }

/-! ## Ill-formed terms (R97, R251, R255 to R265) -/

theorem test_wf_good : (Instr.add (node3 .s32) false).wf = false ∧
    (Instr.add { node3 .s32 with ari := 2, low := .src .none } false).wf = true := by decide
theorem test_wf_type : (Instr.add { node3 .f32 with ari := 2, low := .src .none } false).wf = false := by decide
theorem test_wf_ports : (Instr.add { node3 .s32 with ari := 2, b := .port 2, low := .src .none } false).wf = false := by decide
theorem test_wf_ari : (Instr.livein { node3 .b32 with a := .win 0, b := .none, low := .src .none } false).wf = false := by decide
theorem test_wf_tag : (Instr.add { node3 .s32 with ari := 2, low := .src .none, tag := .join } false).wf = false := by decide
theorem test_wf_network : (Instr.cmp { node3 .s32 with ari := 2, low := .src .none } .eq).wf = false := by decide
theorem test_wf_destinations :
    (Instr.add { node3 .s32 with ari := 2, low := .src .none, d1 := dstA } false).wf = false := by decide
theorem test_wf_immediate :
    (Instr.add { node3 .n32 with ari := 1, b := .imm, low := .src .none } false).wf = false := by decide
theorem test_wf_sequence : (Instr.ld { node3 .b64 with ari := 1, b := .none, low := .src .none } .g plainMem).wf = false ∧
    (Instr.ld { node3 .b64 with ari := 1, b := .none, low := .seq 0 0 0 } .g plainMem).wf = true := by decide
theorem test_wf_edge : (Instr.add
    { node3 .s32 with ari := 2, low := .src .none, d0 := dstA.map (fun d => { d with net := .edge, pe := 0 }) } false).wf = false := by decide
theorem test_wf_event_register : (Instr.registerWrite .jtag 3 0).wf = false ∧ (Instr.registerWrite .jtag 4 0).wf = true := by decide
theorem test_wf_event_temperatures : (Instr.governorSample 500 [40, 40, 40]).wf = false ∧ (Instr.hot 0 256).wf = false ∧
    (Instr.thermalTrip 0 256).wf = false ∧ (Instr.rails none [40]).wf = false ∧ (Instr.hbm none [40]).wf = false := by decide
theorem test_wf_event_lengths : (Instr.companionRead 0 0 true).wf = false ∧ (Instr.companionWrite 0 [] true).wf = false ∧
    (Instr.rmblFinish 0 [1]).wf = false ∧ (Instr.send 0 { session := 0, secret := [], nonce := [] }).wf = false ∧
    (Instr.recv 0 { session := 0, secret := [], nonce := [] }).wf = false := by decide
theorem test_wf_event_handshake : (Instr.rmblHello 0 { session := 0, pub := [], nonce := [], ident := [], sig := [] }).wf = false ∧
    (Instr.rmblReply 0 { session := 0, pub := [], nonce := [], ident := [], sig := [] }).wf = false := by decide
theorem test_wf_event_image : (Instr.image { header := [], body := [] } { header := [], body := [] }).wf = false := by decide

/-! ## Words (R255 to R273) -/

/-- The spec's thirteen worked words, as `WrittenWordsDecodeToTheirNodes` lists them. -/
theorem test_words : Obligations.WrittenWordsDecodeToTheirNodes := by
  unfold Obligations.WrittenWordsDecodeToTheirNodes
  decide +kernel

/-- One more word of each family, from the encoding tables: opcode, VAR, TY, ARI, TAG, FLG, the sources and the low field. -/
def word (opc var ty ari tag flg a b low : Nat) : NodeWord :=
  BitVec.ofNat 128 (opc * 2 ^ 120 + var * 2 ^ 114 + ty * 2 ^ 109 + ari * 2 ^ 107 + tag * 2 ^ 104 + flg * 2 ^ 96 + a * 2 ^ 80 + b * 2 ^ 64 +
    low * 2 ^ 48)
def bare (ty : Ty) (ari : Fin 4) (a b : Src) (low : Low) : Node :=
  { ty := ty, ari := ari, tag := .keep, a := a, b := b, low := low, d0 := none, d1 := none }

theorem test_word_integer : decode (word 0x42 3 2 2 0 0 0x2000 0x2001 0) = .ok (.cmp (bare .s32 2 (.port 0) (.port 1) (.src .none)) .le) := by decide
theorem test_word_predicate : decode (word 0x18 2 1 2 0 0 0x2000 0x2001 0) = .ok (.ptest (bare .b64 2 (.port 0) (.port 1) (.src .none)) .bit) := by decide
theorem test_word_float : decode (word 0x63 0 0x10 3 0 9 0x2000 0x2001 0x2002) =
    .ok (.ffma (bare .f32 3 (.port 0) (.port 1) (.src (.port 2))) { rnd := .rz, sat := true }) := by decide
theorem test_word_packed : decode (word 0x90 0 0x11 2 0 0 0x2000 0x2001 0) = .ok (.vadd (bare .bf16 2 (.port 0) (.port 1) (.src .none)) rn) := by decide
theorem test_word_join : decode (word 0xF1 0 1 1 3 0 0x2000 0 0) =
    .ok (.cbar { bare .b64 1 (.port 0) .none (.src .none) with tag := .join }) := by decide
theorem test_word_sparse : decode (word 0xC2 0 4 2 0 0 0x2000 0x2001 0) = .ok (.isect (bare .n32 2 (.port 0) (.port 1) (.src .none))) := by decide
theorem test_word_gather : decode (word 0xD0 8 0 2 0 0 0x2000 0x2001 0x0100) =
    .ok (.gather (bare .b32 2 (.port 0) (.port 1) (.seq 1 0 0)) .g true false) := by decide
theorem test_word_store : decode (word 0xE2 2 0 2 0 0 0x2000 0x2001 0x0210) =
    .ok (.st (bare .b32 2 (.port 0) (.port 1) (.seq 2 1 0)) .s { plainMem with scope := .crew }) := by decide
theorem test_word_system : decode (word 0xFD 1 1 1 0 0 0x2000 0 0) = .ok (.halt (bare .b64 1 (.port 0) .none (.src .none))) := by decide
theorem test_word_refused : decode (word 0x19 0 0 1 0 0 0x2000 0 0) = .error .unassigned ∧
    decode (word 0x42 6 2 2 0 0 0x2000 0x2001 0) = .error .unassigned ∧ decode (word 0x42 2 0 2 0 0 0x2000 0x2001 0) = .error .reserved ∧
    decode (word 0x20 0 10 2 0 0 0x2000 0x2001 0) = .error .reserved := by decide

/-! ## Results that the spec works out -/

/-- R313's example. -/
theorem test_xtr : sent (exec (.xtr (node3 .b32)) (ready [0x89ABCDEF, 0x01234567, 8])) = [0x6789ABCD] := by decide
/-- R315's examples. -/
theorem test_bfx : sent (exec (.bfx (node3 .s32)) (ready [0x0F70, 0x0404])) = [7] ∧
    sent (exec (.bfx (node3 .s32)) (ready [0x0F70, 0x0804])) = [0xFFFFFFF7] := by decide
/-- R317's examples. -/
theorem test_dotb : sent (exec (.dotb (node3 .s32) true true false false) (ready [0xFF020301, 0x02040506, 10])) = [37] ∧
    sent (exec (.dotb (node3 .s32) false false false false) (ready [0xFF020301, 0x02040506, 10])) = [549] := by decide
theorem test_dotb_halves :
    sent (exec (.dotb (node3 .s32) true true true false) (ready [0xFF020301, 0x02040506, 10])) = [857880] := by decide
/-- R312's corner. -/
theorem test_div : sent (exec (.div (node3 .s32) false) (ready [0x80000000, 0xFFFFFFFF])) = [0x80000000] ∧
    sent (exec (.div (node3 .s32) true) (ready [0x80000000, 0xFFFFFFFF])) = [0x7FFFFFFF] ∧
    sent (exec (.rem (node3 .s32)) (ready [0x80000000, 0xFFFFFFFF])) = [0] := by decide
theorem test_add_wraps : sent (exec (.add (node3 .n32) false) (ready [0xFFFFFFFF, 1])) = [0] ∧
    sent (exec (.add (node3 .n32) true) (ready [0xFFFFFFFF, 1])) = [0xFFFFFFFF] := by decide
theorem test_shift_full : sent (exec (.shl (node3 .b32)) (ready [1, 32])) = [0] ∧
    sent (exec (.sar (node3 .s32)) (ready [0x80000000, 32])) = [0xFFFFFFFF] := by decide
theorem test_ptest_bit : sent (exec (.ptest (node3 .b32) .bit) (ready [0xFFFFFFFF, 32])) = [0] := by decide
/-- 1.5 + 0.25 = 1.75 in F32; 65504 + 65504 is +∞ in F16, or the largest finite with SAT (R245). -/
theorem test_fadd : sent (exec (.fadd (node3 .f32) rn) (ready [0x3FC00000, 0x3E800000])) = [0x3FE00000] := by decide +kernel
theorem test_fadd_overflow : sent (exec (.fadd (node3 .f16) rn) (ready [0x7BFF, 0x7BFF])) = [0x7C00] ∧
    sent (exec (.fadd (node3 .f16) { rn with sat := true }) (ready [0x7BFF, 0x7BFF])) = [0x7BFF] := by decide +kernel
/-- R327: −0.3 gives −0. -/
theorem test_frint : sent (exec (.frint (node3 .f32) .rn) (ready [0xBE99999A])) = [0x80000000] := by decide +kernel
/-- R326: +0 sets bit 4. -/
theorem test_fclass : sent (exec (.fclass (node3 .f32)) (ready [0])) = [16] := by decide +kernel
theorem test_steer : sent (exec (.steer { node3 .b64 with d0 := dstA.map (fun d => { d with steer := .onOne }) } .narrow) (ready [7, 0])) = [] ∧
    sent (exec (.steer { node3 .b64 with d0 := dstA.map (fun d => { d with steer := .onZero }) } .narrow) (ready [7, 0])) = [7] := by decide
theorem test_popc : sent (exec (.popc (node3 .b64)) (ready [0xF0F0])) = [8] ∧ sent (exec (.clz (node3 .b32)) (ready [0])) = [32] := by decide
/-- A 32-bit store to the scratchpad and a load of it. -/
theorem test_scratchpad : padBytes (attempt 5 (doing (.st (node3 .b32) .s plainMem) 64 0x11223344 0)) 0 64 4 = [0x44, 0x33, 0x22, 0x11] := by
  decide +kernel
theorem test_misaligned : (launch? (attempt 5 (doing (.ld (node3 .b32) .s plainMem) 66 0 0)) 0).bind (·.cause) = some 3 := by decide +kernel
theorem test_fetch_step :
    sent (step (State.reset.withFetchWord 128 0x20004800200080000005801000000000)) = [5] := by decide +kernel
theorem test_exit_step :
    ((after (step (State.reset.withFetchWord 128 0x0B00880020008000FFFF000000000000))).threads.map (fun e => e.2.st)) = [.departing 0 65535 0] := by
  decide +kernel

/-- The vectors of FIPS 180-4 ("abc"), RFC 7748 (the first of the iterated ones) and RFC 8032 (the first). -/
theorem test_sha512 : shaBytes [0x61, 0x62, 0x63] = toBytesBE 64
    0xDDAF35A193617ABACC417349AE20413112E6FA4E89A97EA20A9EEEE64B55D39A2192992A274FC1A836BA3C23A3FEEBBD454D4423643CE80E2A9AC94FA54CA49F := by
  decide +kernel
theorem test_x25519 : x25519 (toBytes 32 9) (toBytes 32 9) =
    toBytesBE 32 0x422C8E7A6227D7BCA1350B3E2BB7279F7897B87BB6854B783C60E80311AE3079 := by decide +kernel
theorem test_ed25519 : ed25519Public (toBytesBE 32 0x9D61B19DEFFD5A60BA844AF492EC2CC44449C5697B326919703BAC031CAE7F60) =
    toBytesBE 32 0xD75A980182B10AB7D54BFED3C964073A0EE172F3DAA62325AF021A68F707511A := by decide +kernel

/-! ## Witnesses: nodes -/

/-- A firing at hand with values at three ports reads any operands that are ports. -/
theorem witness_fires (o p q : Opd) (vals : List Nat) (ho : slotsOf o = []) (hp : slotsOf p = []) (hq : slotsOf q = []) :
    Fires (ready vals) (firing vals) [o, p, q] [] ∧ Fires (ready vals) (firing vals) [o, p] [] ∧ Fires (ready vals) (firing vals) [o] [] ∧
      Fires (ready vals) (firing vals) [] [] := by
  simp [Fires, ready, ho, hp, hq, absent]

theorem witness_IntegerArithmeticSendsFittedResult :
    Fires (ready [7, 3, 2]) (firing [7, 3, 2]) [opdT .s32 (.port 0), opdT .s32 (.port 1), opdT .s32 (.port 2)] [] ∧
    Fires (ready [7, 3]) (firing [7, 3]) [opdT .s32 (.port 0), opdT .s32 (.port 1)] [] ∧
    Fires (ready [7]) (firing [7]) [opdT .s32 (.port 0)] [] := by unfold Fires; decide

theorem witness_DivisionSendsQuotientAndRemainder :
    (Fires (ready [7, 0]) (firing [7, 0]) [opdT .s32 (.port 0), opdT .s32 (.port 1)] [] ∧
      asInt .s32 (opVal (ready [7, 0]) (firing [7, 0]) (node3 .s32) (opdT .s32 (.port 1))) = 0) ∧
    Fires (ready [7, 2]) (firing [7, 2]) [opdT .s32 (.port 0), opdT .s32 (.port 1)] [] ∧
      asInt .s32 (opVal (ready [7, 2]) (firing [7, 2]) (node3 .s32) (opdT .s32 (.port 1))) ≠ 0 := by unfold Fires; decide

/-- Below, inside and above the range of an 8-bit signed result. -/
theorem witness_IntegerResultWrapsOrSaturates :
    (0 : Nat) < 8 ∧ (-(2 ^ 7) ≤ (-128 : Int) ∧ (-128 : Int) ≤ 2 ^ 7 - 1) ∧ (-129 : Int) < -(2 ^ 7) ∧ (2 ^ 7 - 1 : Int) < 128 := by decide

theorem witness_OrderLogicAndShiftNodesMoveBits :
    Fires (ready [7, 33, 5]) (firing [7, 33, 5]) [opdT .b32 (.port 0), opdT .b32 (.port 1), opdT .b32 (.port 2)] [] ∧
    Fires (ready [7, 33]) (firing [7, 33]) [opdT .b32 (.port 0), opdT .b32 (.port 1)] [] ∧
    Fires (ready [7]) (firing [7]) [opdT .b32 (.port 0)] [] := by unfold Fires; decide

theorem witness_BitFieldAndAddressNodesSendResult :
    Fires (ready [7, 0x0804, 5]) (firing [7, 0x0804, 5])
      [opdT .s32 (.port 0), { src := .port 1, wd := .bits 32, ty := .s32 }, opdT .s32 (.port 2)] [] ∧
    Fires (ready [7, 0x0804]) (firing [7, 0x0804]) [opdT .s32 (.port 0), { src := .port 1, wd := .bits 32, ty := .s32 }] [] ∧
    Fires (ready [7, 1, 2]) (firing [7, 1, 2]) [opd64 (.port 0), { src := .port 1, wd := .bits 32, ty := .b32 }, opd64 (.port 2)] [] ∧
    Fires (ready [7, 1, 2]) (firing [7, 1, 2]) [opd64 (.port 0), opd64 (.port 1), opd64 (.port 2)] [] ∧
    Fires (ready [7, 1]) (firing [7, 1]) [opdT .s32 (.port 0), opdT .s32 (.port 1)] [] ∧ 8 ∣ tyBits .b32 := by
  unfold Fires
  decide

theorem witness_PredicateNodesSendOneBit :
    Fires (ready [1, 0]) (firing [1, 0]) [opdP (.port 0), opdP (.port 1)] [] ∧ Fires (ready [1]) (firing [1]) [opdP (.port 0)] [] ∧
    Fires (ready [1, 31]) (firing [1, 31]) [opdT .b32 (.port 0), opdT .b32 (.port 1)] [] ∧
    (word 0x18 3 0 1 0 0 0x2000 0 0).toNat / 2 ^ 120 = 0x18 ∧ 3 ≤ (word 0x18 3 0 1 0 0 0x2000 0 0).toNat / 2 ^ 114 % 64 ∧
    (word 0x18 0 2 1 0 0 0x2000 0 0).toNat / 2 ^ 114 % 64 < 3 ∧ 2 ≤ (word 0x18 0 2 1 0 0 0x2000 0 0).toNat / 2 ^ 109 % 32 ∧
    decode (word 0x18 0 1 1 0 0 0x2000 0 0) = .ok (.ptest (bare .b64 1 (.port 0) .none (.src .none)) .nz) := by unfold Fires; decide

theorem witness_FloatArithmeticRoundsExactValueOnce :
    Fires (ready [0x3F800000, 0x40000000, 0]) (firing [0x3F800000, 0x40000000, 0])
      [opdT .f32 (.port 0), opdT .f32 (.port 1), opdT .f32 (.port 2)] [] ∧
    Fires (ready [0x3F800000, 0]) (firing [0x3F800000, 0]) [opdT .f32 (.port 0), opdT .f32 (.port 1)] [] ∧
    Fires (ready [0x3F800000]) (firing [0x3F800000]) [opdT .f32 (.port 0)] [] ∧
    (1 : Rat) + 1 ≠ 0 ∧ (1 : Rat) ≠ 0 ∧ (-1 : Rat) < 0 ∧ (0 : Rat) < 2 ∧ (0 : Rat) ≤ 2 ∧ (2 : Rat) < pow2 400 ∧
    (∀ t ∈ [Ty.f32, .e2m1], t ∈ [Ty.f32, .bf16, .f16, .e4m3, .e5m2, .e2m1]) ∧ floatValue (fmtOf .e2m1) (fmtOf .e2m1).top = .fin false 6 ∧
    srndLane.gridOf (fmtOf .e2m1) .rn 0 6 = 6 ∧ srndLane.gridOf (fmtOf .e2m1) .rn 0 8 = 8 := by
  unfold Fires
  decide +kernel

theorem witness_ApproximateFunctionsSendExactValues :
    Fires (ready [0x3F800000]) (firing [0x3F800000]) [opdT .f32 (.port 0)] [] ∧
    opVal (ready [0x3F800000]) (firing [0x3F800000]) (node3 .f32) (opdT .f32 (.port 0)) = 127 * 2 ^ 23 ∧
    floatValue (fmtOf .f32) 0x7FC00000 = .nan ∧ floatValue (fmtOf .f32) 0x80000000 = .fin true 0 ∧
    floatValue (fmtOf .f32) 0xFF800000 = .inf true ∧ floatValue (fmtOf .f32) 0x7F800000 = .inf false ∧
    floatValue (fmtOf .f32) 0xBF800000 = .fin true (-1) ∧ floatValue (fmtOf .f32) 0x42FE0000 = .fin false ((127 : Int) : Rat) ∧
    floatValue (fmtOf .f32) 0xC3150000 = .fin true ((-149 : Int) : Rat) ∧ floatValue (fmtOf .f32) 0x41100000 = .fin false 9 ∧
    floatValue (fmtOf .f32) 0xC1100000 = .fin true (-9) := by
  unfold Fires
  decide +kernel

theorem witness_FloatOrderClassAndRoundingNodes :
    Fires (ready [0x7E00, 0x3C00]) (firing [0x7E00, 0x3C00]) [opdT .f16 (.port 0), opdT .f16 (.port 1)] [] ∧
    Fires (ready [0x3E00]) (firing [0x3E00]) [opdT .f16 (.port 0)] [] := by unfold Fires; decide

theorem witness_ConversionsSendConvertedLanes :
    thread? (worldAt [1, 2]) 0 = some fetchThread ∧ Fires (worldAt [1]) (firing [1]) [opdT .f32 (.port 0)] [] ∧
    Fires (worldAt [1]) (firing [1]) [opdV .f32 (.port 0)] [] ∧
    Fires (worldAt [1, 2]) (firing [1, 2]) [opdV .f32 (.port 0), opdV .bf16 (.port 1)] [] ∧
    rn.rnd ≠ .rs ∧ ({ rn with rnd := .rs } : Round).rnd = .rs ∧
    isB .b32 = true ∧ isB .f32 = false ∧ isB .s8 = false ∧ isFloat .f32 = true ∧ isFloat .e4m3 = true ∧ isInt .s8 = true ∧ isInt .n64 = true ∧
    Ty.e2m1 ∈ [Ty.bf16, .f16, .e4m3, .e5m2, .e2m1] ∧ floatValue (fmtOf .f32) 0x7FC00000 = .nan ∧ rn.sat = false := by unfold Fires; decide +kernel

theorem witness_PackedNodesComputeEveryLane :
    Fires (ready [1, 2, 3]) (firing [1, 2, 3]) [opdV .s8 (.port 0), opdV .s8 (.port 1), opdV .s8 (.port 2)] [] ∧
    Fires (ready [1, 2]) (firing [1, 2]) [opdV .s8 (.port 0), opdV .s8 (.port 1)] [] ∧ Fires (ready [1]) (firing [1]) [opdV .s8 (.port 0)] [] ∧
    Fires (ready [1, 2]) (firing [1, 2]) [opdV .s8 (.port 0), { src := .port 1, wd := .bits 64, ty := .s8 }] [] ∧
    Fires (ready [1]) (firing [1]) [{ src := .port 0, wd := .bits 64, ty := .s8 }] [] ∧
    Fires (ready [1, 2]) (firing [1, 2]) [opdV .s8 (.port 0), opdW (.port 1)] [] := by unfold Fires; decide

theorem witness_JoiningNodesRoundExactSumOnce :
    Fires (ready [1]) (firing [1]) [opdV .s8 (.port 0)] [] ∧
    Fires (ready [1, 2, 3]) (firing [1, 2, 3]) [opdV .s8 (.port 0), opdV .s8 (.port 1), { src := .port 2, wd := .bits 64, ty := .s8 }] [] ∧
    isFloat .s8 = false ∧ isFloat .f16 = true := by unfold Fires; decide

theorem witness_ResultTokensAndFrame :
    waveOut (worldAt []) (firing []) (node3 .b32) = (firing []).wave ∧ tabFind (worldAt []).threads 0 = some fetchThread := by decide

/-- A block whose slot 1 holds a payload. -/
def payload : Block := { fetchBlock 1 with words := [(0, 1), (1, 5)] }
def payloadWorld : State :=
  { worldAt [] with launches := [{ fetchLaunch 0 with image := { fetchImage 0 with blocks := [payload] } }] }

/-- Node 5 has written a slot in this cycle. -/
def written : State :=
  { worldAt [1] with core := { world.core with wrote := [{ node := 5, kreg := false, key := 0, old := 0, mask := 1, val := 1 }], wroteAt := world.cycles } }

theorem witness_LiveinsConstantsAndLiveoutsActOnSlots :
    FiresOut (worldAt []) (firing []) [opdT .b32 (.win 31)] [] ∧ FiresOut (worldAt []) (firing []) [opdT .b64 (.win 30)] [] ∧
    FiresOut (worldAt []) (firing []) [opdW (.win 24)] [] ∧ FiresOut (worldAt []) (firing []) [opdP (.win 47)] [] ∧
    Fires (worldAt [9]) (firing [9]) [opdT .b32 (.port 0)] [] ∧ Fires payloadWorld (firing []) [] [] ∧
    blockAt payloadWorld 0 0 = some payload ∧ tabFind payload.words 1 = some 5 ∧
    FiresOut (worldAt [9]) (firing [9]) [{ opdT .b64 (.win 30) with src := .port 0 }] (slotsOf (opdT .b64 (.win 30))) ∧
    FiresOut (worldAt [9]) (firing [9]) [{ opdW (.win 24) with src := .port 0 }] (slotsOf (opdW (.win 24))) ∧
    FiresOut (worldAt [1]) (firing [1]) [{ opdP (.win 32) with src := .port 0 }] (slotsOf (opdP (.win 32))) ∧
    tabWf (worldAt [1]).core.lvs = true ∧ wroteNow (worldAt [1]) = [] ∧ (wroteNow written).map (·.node) = [5] ∧
    ∀ w ∈ wroteNow written, (firing [1]).node < w.node ∧ (firing [1]).node < 2 ^ 20 := by
  unfold FiresOut Fires
  decide

theorem witness_CarryingNodesSendTheValueUnchanged :
    Fires (ready [7, 1]) (firing [7, 1]) [opdC .wide (.port 0), opdP (.port 1)] [] ∧ Fires (ready [7]) (firing [7]) [opdC .wide (.port 0)] [] ∧
    Fires (ready [1, 7, 8]) (firing [1, 7, 8]) [opdP (.port 0), opdC .narrow (.port 1), opdC .narrow (.port 2)] [] ∧
    (firing [7]).toks = [fetchToken 0 0 7] ∧ Fires (ready [7]) (firing [7]) [] [] ∧
    FiresOut (worldAt [7]) (firing [7]) [opdC .narrow (.port 0)] [] ∧ tabFind (worldAt [7]).threads 0 = some fetchThread ∧
    Fires (worldAt [7]) (firing [7]) [opd64 (.port 0)] [] ∧ placedOf (worldAt [7]) 0 0 0 = some fetchPlaced := by
  unfold FiresOut Fires
  decide

/-- The thread at a frame position, with a link word just below it. -/
def called (fp link lo : Nat) : State :=
  { worldAt [] with threads := [(0, { fetchThread with fp := fp })], crews := [(0, { fetchCrew with lo := lo, target := lo, high := 200 })],
                    core := { world.core with lvs := tabPut [] (lvsKey 0 (fp - 1) 0) (BitVec.ofNat 32 link) } }

theorem witness_ExitNodesAndReturnDepart :
    imageOf (worldAt [0, 65535]) 0 = some (fetchImage 0) ∧ thread? (worldAt [0]) 0 = some fetchThread ∧
    FiresOut (worldAt [0]) (firing [0]) [opd32 (.port 0)] [] ∧ FiresOut (worldAt [1, 65535]) (firing [1, 65535]) [opdP (.port 0), opd32 (.port 1)] [] ∧
    (0 < (fetchImage 0).blocks.length ∧ ¬((fetchImage 0).emulate = true ∧ (fetchImage 0).emuh = 0)) ∧
    ¬((1 : Nat) = 65535 ∨ (1 < (fetchImage 0).blocks.length ∧ ¬((fetchImage 0).emulate = true ∧ (fetchImage 0).emuh = 1))) ∧
    (FiresOut (called 0 0 0) (firing []) [] [] ∧ thread? (called 32 0xFFFF 0) 0 = some { fetchThread with fp := 32 }) ∧
    (residentFor (called 32 0x1FFFFF 0) 0 31 = true ∧ lvsSeen (called 32 0x1FFFFF 0) (crewOf 0) 31 (laneOf 0) = 0x1FFFFF) ∧
    (residentFor (called 32 0x200000 0) 0 31 = true ∧ lvsSeen (called 32 0x200000 0) (crewOf 0) 31 (laneOf 0) = 2 ^ 21) ∧
    residentFor (called 32 0 32) 0 31 = false := by
  unfold FiresOut Fires
  decide +kernel

theorem witness_CallNodesWriteLinkAndDepart :
    launch? (worldAt [0xFFFF0000]) 0 = some (fetchLaunch 0) ∧ FiresOut (worldAt [0xFFFF0000]) (firing [0xFFFF0000]) [opd32 (.port 0)] [] ∧
    opVal (worldAt [0xFFFF0000]) (firing [0xFFFF0000]) (node3 .b32) (opd32 (.port 0)) = 0xFFFF0000 ∧
    (¬(Nat.max 64 (lrWsRows (fetchLaunch 0).raw) < 0 + 32 + 32) ∧ residentFor (worldAt [0xFFFF0000]) 0 31 = true ∧
      tabWf (worldAt [0xFFFF0000]).core.lvs = true ∧ wroteNow (worldAt [0xFFFF0000]) = []) ∧
    Nat.max 64 (lrWsRows (fetchLaunch 0).raw) < 1 + 32 + 32 ∧
    opVal (worldAt [0x0000FFFF]) (firing [0x0000FFFF]) (node3 .b32) (opd32 (.port 0)) % 65536 = 65535 := by
  unfold FiresOut Fires
  decide +kernel

/-- The launch with the image's block 0 as its handler. -/
def handlerBlock : Block := { fetchBlock 0 with handler := true, entries := [0, 8, 16, 24, 32, 40] }
def handlerImage : Image := { fetchImage 0 with emulate := true, emuh := 0, blocks := [handlerBlock] }
def emulating : State := { worldAt [3] with launches := [{ fetchLaunch 0 with raw := raw [(44, 4, 4096), (48, 8, 0x40000000)], image := handlerImage }] }

theorem witness_EmulationItemsReachHandlerAndReturn :
    (emulating.cur = some (firing [3]) ∧ isHandler emulating 0 0 = true) ∧
    ({ emulating with cur := some { firing [3] with block := 1 } }.cur = some { firing [3] with block := 1 } ∧ isHandler emulating 0 1 = false ∧
      imageOf emulating 0 = some handlerImage ∧ handlerImage.blocks[handlerImage.emuh]? = some handlerBlock ∧
      Nat.min handlerBlock.entries.length 6 ≤ areaRoom emulating 0 ∧
      (areaWrite 0 (Nat.min handlerBlock.entries.length 6) (fired { emulating with cur := some { firing [3] with block := 1 } })).1 = true) ∧
    (Fires (worldAt [9, 0]) (firing [9, 0]) [opd64 (.port 0), opd64 (.port 1)] [] ∧
      thread? (worldAt [9, 0]) 0 = some fetchThread ∧ isResident (worldAt [9, 0]) 0 0 (opVal (worldAt [9, 0]) (firing [9, 0]) (node3 .b64) (opd64 (.port 1)) / 2 ^ 48 % 4096) = true) := by
  unfold Fires
  decide +kernel

theorem witness_SparseNodesSendTheirLanes :
    Fires (ready [1, 2]) (firing [1, 2]) [opdW (.port 0), opdT .n32 (.port 1)] [] ∧ tyBits .n32 = 32 ∧
    Fires (ready [1, 2]) (firing [1, 2]) [opdW (.port 0), opdW (.port 1)] [] ∧
    Fires (ready [1, 2]) (firing [1, 2]) [opdW (.port 0), opd32 (.port 1)] [] ∧
    (∀ t ∈ [Ty.s32, .n32, .f32], t = .s32 ∨ t = .n32 ∨ t = .f32) ∧ (∀ y ∈ (0xFFC00001 : Nat) :: [0x3F800000], y < 2 ^ 32) ∧
    (∀ y ∈ (0xFFC00001 : Nat) :: [], floatValue (fmtOf .f32) y = .nan) ∧
    (∃ y ∈ (0xFFC00001 : Nat) :: [0x3F800000], floatValue (fmtOf .f32) y ≠ .nan) := by unfold Fires; decide +kernel

theorem witness_PollsMasksAndElectionsOverParticipants :
    (worldAt [1]).cur = some (firing [1]) ∧ (membersOf (fired (worldAt [1])) (firing [1])).Pairwise (fun x y => x.lane < y.lane) ∧
    (∀ m ∈ membersOf (fired (worldAt [1])) (firing [1]), m.lane < 64) ∧
    laneSources (fired (worldAt [1])) (firing [1]) 5 .b32 (List.range (widthOf (worldAt [1]) 0)) = .ok (List.replicate 32 0) := by decide

theorem witness_PullsAndReductionsOverParticipants :
    (worldAt [1]).cur = some (firing [1]) ∧ (membersOf (fired (worldAt [1])) (firing [1])).Pairwise (fun x y => x.lane < y.lane) ∧
    laneSources (fired (worldAt [1])) (firing [1]) 31 .s32 (List.range (widthOf (worldAt [1]) 0)) = .ok (List.replicate 32 0) ∧
    (∀ t ∈ [Ty.s32, .n32, .s64, .n64, .f32], ∀ y ∈ (0x7F800000 : Nat) :: [5], y < 2 ^ tyBits t) ∧
    teamOf (worldAt [1]) (firing [1]) = some fetchTeam ∧ fetchTeam.size ≤ logicalCrew (worldAt [1]) 0 0 * widthOf (worldAt [1]) 0 + 1 ∧
    logicalCrew (worldAt [1]) 0 0 * widthOf (worldAt [1]) 0 + 0 < fetchTeam.size ∧ threadKey fetchTeam 0 = 0 ∧
    (∀ i ≤ 32, residentFor (worldAt [1]) 0 (fpOf (worldAt [1]) 0 + i) = true) := by decide

/-- An earlier store of the thread that is not performed. -/
def behind : State := { worldAt [1] with accesses := [{ acc (.st { node3 .b32 with low := .seq 0 0 0 } .g plainMem) 0 0 0 with id := 1, order := 0 }], nextId := 9 }

theorem witness_CrewJoinsAndKwrComplete :
    (worldAt [1]).cur = some (firing [1]) ∧
    membersOf (fired (worldAt [1])) (firing [1]) = [{ lane := 0, thread := 0, arg := 1 }] ∧
    tabWf (worldAt [1]).core.kregs = true ∧ wroteNow (worldAt [1]) = [] ∧ widthOf (worldAt [1]) 0 ≠ 16 ∧
    inOrder (fired (worldAt [1])) (syncPart (node3 .b64) .team (firing [1]) { lane := 0, thread := 0, arg := 1 } (worldAt [1]).nextId) = true ∧
    inOrder (fired behind) (syncPart (node3 .b64) .team (firing [1]) { lane := 0, thread := 0, arg := 1 } behind.nextId) = false := by decide +kernel

/-- Thread 0 breaks in a space that is armed, after a thread of a higher slot, or of the same one. -/
def armedSpace (bs : List Broken) : State := { worldAt [7] with boot := { world.boot with brk := 1 }, brks := bs }
def brokenAt (thread : Nat) (stopped : Bool) : Broken := { f := { firing [7] with thread := thread }, n := node3 .b64, val := 7, stopped := stopped }

theorem witness_SystemNodesTrapBreakAndReadRegisters :
    Fires (worldAt [7]) (firing [7]) [opd64 (.port 0)] [] ∧ (worldAt [7]).boot.brk.getLsbD (spaceOf (worldAt [7]) (firing [7])) = false ∧
    Fires (worldAt [1, 7]) (firing [1, 7]) [opd64 (.port 0), opd64 (.port 1)] [] ∧ Fires (worldAt [1]) (firing [1]) [] [] ∧
    (∀ bs ∈ [[brokenAt 1 false], [brokenAt 0 false]], Fires (armedSpace bs) (firing [7]) [opd64 (.port 0)] [] ∧
      (armedSpace bs).boot.brk.getLsbD (spaceOf (armedSpace bs) (firing [7])) = true ∧
      bs.any (fun b => !b.stopped && decide (b.f.thread < (firing [7]).thread)) = false) ∧
    ([brokenAt 0 false].any (fun b => !b.stopped && decide (b.f.thread < 1)) = true) ∧
    ((armedSpace [brokenAt 0 false]).boot.frozenCmd = false ∧ (armedSpace [brokenAt 0 false]).boot.frozenPin = false ∧
      ∃ b ∈ (armedSpace [brokenAt 0 false]).brks, b.stopped = false) ∧
    ((armedSpace [brokenAt 0 true]).brks = [brokenAt 0 true] ∧ (brokenAt 0 true).stopped = true ∧
      thread? (armedSpace [brokenAt 0 true]) 0 = some fetchThread ∧ fetchThread.st = .inBlock 0 ∧ isResident (armedSpace [brokenAt 0 true]) 0 0 0 = true ∧
      { (armedSpace [brokenAt 0 true]).boot with frozenPin := true }.frozenPin = true ∧ thread? { armedSpace [brokenAt 0 true] with threads := [] } 0 = none) ∧
    (thread? world 0 = some fetchThread ∧ team? world fetchThread.team = some fetchTeam ∧ launch? world 0 = some (fetchLaunch 0) ∧
      launch? world (topOf world 0) = some (fetchLaunch 0)) ∧
    (let a := { acc (.rdsr (node3 .n64) 14) 0 0 0 with left := [64] }
     InFlight { world with accesses := [a] } a ∧ a.left = [64]) := by
  unfold Fires InFlight
  decide +kernel

/-- Companion memory that the device maps, with the Kamub Link up and the memory there. -/
def companionTables : List (Nat × Byte) := tables ++ [(0x2010, 0x17), (0x2016, 0x08)]
def linked (s : State) : State := { s with mem := { s.mem with home := companionTables }, kamub := { s.kamub with up := 1, backed := [(0, 4096)] } }
def otherLine : Shadow := { vt := 5, line := 0x60, place := .llc, bytes := [], used := 0 }

/-- A line of the near die, of another die's memory and of companion memory, one whose bytes another transaction holds, and an address
with no translation. -/
theorem witness_SystemNodesTrapBreakAndReadRegisters_prefetch :
    (∀ e ∈ [(0, 0x3000, 0x3000, 0x17), (40, 0x3000, 0x3000, 0x17), (0, 0x80000000, 2 ^ 51, 2 ^ 51 + 0x17)], ∀ other ∈ [false, true],
      let f := { firing [e.2.1] with core := e.1 }
      let s := { linked { world with skim := { world.skim with lines := if other then [{ otherLine with line := e.2.2.1 / 128 }] else [] } } with cur := some f }
      Fires s f [opd64 (.port 0)] [] ∧ opVal s f (node3 .b64) (opd64 (.port 0)) = e.2.1 ∧
      translate s e.1 (spaceOf s f) e.2.1 .read = .ok e.2.2.1 e.2.2.2 3 ∧ s.MemOk ∧ l2Lines s (dieOf e.1) < 1048576 ∧ l1Lines s e.1 < 12288 ∧
      ((vtOfFiring s f).map (tagChain s)).getD [] = [0] ∧ reachable s e.2.2.1 = true ∧ badSeen s (dieOf e.1) (e.2.2.1 / 128 * 128) 128 = none ∧
      (∀ x ∈ s.skim.lines, other = true ∧ x.line = e.2.2.1 / 128 ∧ x.vt = 5) ∧ (other = true → s.skim.lines ≠ []) ∧
      (other = false → heldOtherwise s (dieOf e.1) (e.2.2.1 / 128) = false)) ∧
    homeDie 0x3000 ≠ dieOf 40 ∧
    Fires (worldAt [0x100000000]) (firing [0x100000000]) [opd64 (.port 0)] [] ∧
    (∀ pa p lvl, translate (worldAt [0x100000000]) 0 0 0x100000000 .read ≠ .ok pa p lvl) := by
  have h : translate (worldAt [0x100000000]) 0 0 0x100000000 .read = .park 0 := by decide +kernel
  refine ⟨?_, by decide +kernel, ?_, fun pa p lvl hx => ?_⟩
  · unfold Fires State.MemOk
    decide +kernel
  · unfold Fires
    decide +kernel
  · exact nomatch hx.symm.trans h

theorem witness_HaltRetiresAndAbortStops :
    (Fires (worldAt [1]) (firing [1]) [] [] ∧ thread? (worldAt [1]) 0 = some fetchThread) ∧
    launch? world 0 = some (fetchLaunch 0) ∧ (fetchLaunch 0).vt = some 0 ∧ ((tag? world 0).map (fun g => (g.st, g.launch))) = some (.active, 0) ∧
    (fetchLaunch 0).cause = none ∧ descendants world 0 = [] := by
  unfold Fires
  decide +kernel

/-! ## Witnesses: accesses -/

def three : List Nat := [0x40, 7, 9]

theorem witness_LoadStoreAtomicNodesHandOver :
    Fires (ready three) (firing three) [opd64 (.port 0)] [] ∧ Fires (ready three) (firing three) [opd64 (.port 0), opdT .b32 (.port 1)] [] ∧
    Fires (ready three) (firing three) [opd64 (.port 0), opdW (.port 1)] [] ∧
    Fires (ready three) (firing three) [opd64 (.port 0), opd64 (.port 1)] [] ∧
    Fires (ready three) (firing three) [opd64 (.port 0), opdT .b32 (.port 1), opdT .b32 (.port 2)] [] := by unfold Fires; decide

theorem witness_EngineAndTileNodesHandOverAndAct :
    Fires (ready three) (firing three) [] [] ∧ Fires (ready three) (firing three) [opd64 (.port 0)] [] ∧
    Fires (ready three) (firing three) [opd64 (.port 0), opd64 (.port 1)] [] ∧
    Fires (ready three) (firing three) [opd64 (.port 0), opd64 (.port 1), opd64 (.port 2)] [] ∧
    Fires (ready three) (firing three) [opd64 (.port 0), opdT .s32 (.port 1), opd64 (.port 2)] [] ∧
    Fires (ready three) (firing three) [opd64 (.port 0), opdW (.port 1)] [] ∧
    Fires (ready three) (firing three) [opd64 (.port 0), opdW (.port 1), opd64 (.port 2)] [] ∧
    Fires (ready three) (firing three) [opd64 (.port 0), opdW (.port 1), opdW (.port 2)] [] := by unfold Fires; decide

/-- A tile of one row in the scratchpad at 0x100 or 0x200 of a thread, and the descriptor of one at 0x300; the packet at 0x300 is taken where
the list of absent words names it. -/
def tile (t : Ty) (cols : Nat) : Packet := { head := { elem := t, scale := .none, rows := 1, cols := cols }, elems := [List.replicate cols 1], scales := [[]] }
def tiled (i : Instr) (a b c : Nat) (ps : List (Nat × Packet)) (gone : List Nat) (regs : List Region) : State :=
  ps.foldl (fun s e => putPacket 0 e.1 e.2 s) { doing i a b c with core := { world.core with absent := gone.map (fun w => (w, ())) }, regions := regs }
def standsAt (s : State) (toff : Nat) (p : Packet) : Prop :=
  toff % 256 = 0 ∧ toff + spanOf p.head ≤ (fetchImage 0).scratch ∧ present s 0 (toff / 8) = true ∧
  headOf (ofBytes (padBytes s 0 toff 8)) = some p.head ∧ packetOf p.head (padBytes s 0 toff (spanOf p.head)) = p ∧
  ∀ src ∈ [Src.port 0, .port 1, .port 2], declared s (firing []) src = none
def flies (s : State) (i : Instr) (a b c : Nat) : Prop :=
  InFlight s (acc i a b c) ∧ teamOf s (firing []) = some fetchTeam ∧ imageOf s 0 = some (fetchImage 0) ∧ parkedOn s 0 < 512

theorem witness_EngineAndTileNodesHandOverAndAct_packets :
    (tabWf world.core.scratch = true ∧ tabWf world.core.absent = true ∧ 0xFFF00 % 8 = 0 ∧ 0xFFF00 + spanOf (tile .f16 8).head ≤ 2 ^ 20 ∧
      (tile .f16 8).elems.length = 1 ∧ (tile .f16 8).scales.length = 1 ∧ (∀ r ∈ (tile .f16 8).elems, r.length = 8 ∧ ∀ x ∈ r, x < 2 ^ tyBits .f16) ∧
      ∀ r ∈ (tile .f16 8).scales, r.length = scaleCount (tile .f16 8).head ∧ ∀ x ∈ r, x < 2 ^ scaleWidth (tile .f16 8).head) ∧
    (flies (tiled (.tfill (node3 .f16)) 0x300 0 0 [] [0x60] []) (.tfill (node3 .f16)) 0x300 0 0 ∧
      present (tiled (.tfill (node3 .f16)) 0x300 0 0 [] [0x60] []) 0 0x60 = false ∧ 0x300 + 256 ≤ (fetchImage 0).scratch ∧
      present (tiled (.tfill (node3 .f16)) 0x300 0 0 [] [] []) 0 0x60 = true ∧ 0x10000 / 2 ^ 16 % 2 ^ 16 ≠ 0 ∧ 0x301 % 256 ≠ 0 ∧
      spanOf { elem := .f16, scale := .none, rows := 1, cols := 1 } = 256) ∧
    (let i := Instr.tload (node3 .f16) .none false
     let s := tiled i 0x3000 0x300 0 [] [0x60] []
     flies s i 0x3000 0x300 0 ∧ present s 0 0x60 = false ∧ (acc i 0x3000 0x300 0).got = [] ∧ 0x3000 % 32 = 0 ∧
     (tloadRows (acc i 0x3000 0x300 0) (tileDesc 0x300) { elem := .f16, scale := .none, rows := 1, cols := 1 } false s).1.isOk = true) ∧
    (let i := Instr.tstore (node3 .f16) .none false true
     let s := tiled i 0x3000 0x100 0 [(0x100, tile .f16 1)] [] []
     flies s i 0x3000 0x100 0 ∧ standsAt s 0x100 (tile .f16 1) ∧ (tileDesc 0x100).rows = 1 ∧ (tileDesc 0x100).cols = 1 ∧ (tileDesc 0x10000100).cols ≠ 1 ∧
     (tstoreFrom (acc i 0x3000 0x100 0) false (tstorePieces 0x3000 0 (tile .f16 1)) 0
        (modAccess 5 (fun x => { x with got := packetBytes (tile .f16 1) }) (clearPresent 0 0x20 s))).1.isOk = true) ∧
    (∀ i ∈ [Instr.ttrans (node3 .f16) true, .tcvt (node3 .f16) .f16 rn true, .tscale (node3 .f16) .none rn true],
      let s := tiled i 0x100 0x300 0x300 [(0x100, tile .f16 2)] [0x60] []
      flies s i 0x100 0x300 0x300 ∧ standsAt s 0x100 (tile .f16 2) ∧ present s 0 0x60 = false ∧ isMx .f16 = false) ∧
    (∀ e ∈ [(Instr.tmma (node3 .s8) .s8 true false, Ty.s8, 1), (.ttern (node3 .s8) true false, .t2, 2)],
      let s := tiled e.1 0x100 0x200 0x300 [(0x100, tile .s8 2), (0x200, tile e.2.1 2), (0x300, tile .s32 e.2.2)] [] []
      flies s e.1 0x100 0x200 0x300 ∧ standsAt s 0x100 (tile .s8 2) ∧ standsAt s 0x200 (tile e.2.1 2) ∧ standsAt s 0x300 (tile .s32 e.2.2) ∧
      (tile .s8 2).head.cols ≠ (tile e.2.1 1).head.cols ∧ (tile .s32 1).head.cols = (tile e.2.1 2).head.rows ∧ (tile .s32 2).head.cols ≠ (tile e.2.1 2).head.rows) := by
  refine ⟨?_, ?_, ?_, ?_, ?_, ?_⟩ <;> (try unfold standsAt) <;> (try unfold flies InFlight) <;> decide +kernel

/-- A packet of one row with scale codes, and its conversion to every kind of element: also under RS, and of a block that is not finite. -/
def scaled (t : Ty) (k : ScaleKind) (code : Nat) : Packet :=
  { head := { elem := t, scale := k, rows := 1, cols := 33 }, elems := [List.replicate 33 code],
    scales := [[127, 127].take (match k with | .none => 0 | .e8m0 => 2 | _ => 1)] }

theorem witness_EngineAndTileNodesHandOverAndAct_scaled :
    (∀ t ∈ [Ty.f32, .s8, .mxe4m3, .mxs8], ∀ r ∈ [rn, { rnd := .rs, sat := false }], ∀ p ∈ [scaled .mxe4m3 .e8m0 0x38, scaled .f16 .f32 0x7C00, scaled .f16 .bf16 0, scaled .f16 .none 1],
      let i := Instr.tcvt (node3 t) p.head.elem r true
      let s := tiled i 0x100 0x400 0 [(0x100, p)] [0x80] []
      flies s i 0x100 0x400 0 ∧ standsAt s 0x100 p ∧ present s 0 0x80 = false ∧ (thread? s 0).isSome = true ∧
      0x400 + spanOf { p.head with elem := t, scale := .e8m0 } ≤ (fetchImage 0).scratch ∧ 0x400 + spanOf { p.head with elem := t, scale := .none } ≤ (fetchImage 0).scratch) ∧
    (isMx .f32 = false ∧ isMx .mxs8 = true ∧ isFloat .f32 = true ∧ isFloat .s8 = false) ∧
    (codeExact .f16 0x7C00 = .inf false ∧ ratAbs (exFin (codeExact .f16 0x3C00)) = 1 ∧ exFin (codeExact .f16 0) = 0) := by
  refine ⟨?_, by decide, by decide +kernel⟩
  unfold standsAt flies InFlight
  decide +kernel

/-- A group table at 0x200 of one used group, whose tile stands at 0x300, and of a group with no row. -/
def groupTable (high rows toff : Nat) : List Byte := toBytes 8 (2 + 128 * high) ++ toBytes 8 (rows + toff * 2 ^ 32) ++ toBytes 8 0
def grouped (i : Instr) (table : List Byte) (pc : Packet) : State :=
  padWrite 0 0x200 table (tiled i 0x100 0x200 0x400 [(0x100, tile .s8 2), (0x300, tile .t2 2), (0x400, pc)] [] [])
def twoRows : Packet := { head := { elem := .s32, scale := .none, rows := 2, cols := 1 }, elems := [[1], [1]], scales := [[], []] }

theorem witness_EngineAndTileNodesHandOverAndAct_groups :
    (let i := Instr.tgrp (node3 .s8) .t2 true false
     (∀ e ∈ [(1, 1, 0x300), (0, 2, 0x300), (0, 1, 0x300)], let s := grouped i (groupTable e.1 e.2.1 e.2.2) (tile .s32 1)
       flies s i 0x100 0x200 0x400 ∧ standsAt s 0x100 (tile .s8 2) ∧ standsAt s 0x300 (tile .t2 2) ∧ standsAt s 0x400 (tile .s32 1) ∧
       ofBytes (padBytes s 0 0x200 8) = 2 + 128 * e.1 ∧ ofBytes (padBytes s 0 0x208 8) = e.2.1 + 0x300 * 2 ^ 32 ∧ ofBytes (padBytes s 0 0x210 8) = 0 ∧
       ∀ k ∈ [0x40, 0x41, 0x42], present s 0 k = true) ∧
     (let s := grouped i (groupTable 0 1 0x300) twoRows
      flies s i 0x100 0x200 0x400 ∧ standsAt s 0x400 twoRows ∧ twoRows.head.rows ≠ (tile .s8 2).head.rows) ∧
     (let s := grouped i (groupTable 0 1 0x300) (tile .s32 2)
      flies s i 0x100 0x200 0x400 ∧ standsAt s 0x400 (tile .s32 2) ∧ (tile .t2 2).head.rows ≠ (tile .s32 2).head.cols) ∧
     0x200 % 256 = 0 ∧ 0x200 + 8 + 8 * 2 ≤ (fetchImage 0).scratch ∧ (tile .t2 2).head.cols = (tile .s8 2).head.cols ∧
     (tile .t2 2).head.rows = (tile .s32 1).head.cols ∧ (tile .s32 1).head.rows = (tile .s8 2).head.rows) := by
  refine ⟨?_, ?_, ?_, ?_⟩ <;> (try unfold standsAt flies InFlight) <;> decide +kernel

/-- The systolic region of the firing's block: not configured, configured, with weights, and with tiles that wait. -/
def configured (w tiles : List (List Byte)) : Region := { emptyRegion 0 0 0 with kr := 1, nc := 1, w := w, tiles := tiles }
def weights : List Byte := packetBytes (tile .s8 2)

theorem witness_EngineAndTileNodesHandOverAndAct_regions :
    (let i := Instr.syscfg (node3 .s8) .s8
     let s := tiled i 0x0101 0 0 [] [] []
     flies s i 0x0101 0 0 ∧ regionAt s (firing []) = some (emptyRegion 0 0 0) ∧ (emptyRegion 0 0 0).tiles = [] ∧ (emptyRegion 0 0 0).kr = 0 ∧
     regionPages s (firing []) = 0 ∧ (0x0101 % 256 ≠ 0 ∧ 16 * regionPages s (firing []) < 0x0101 % 256 * (0x0101 / 256 % 256)) ∧
     regionPages { s with launches := [{ fetchLaunch 0 with image := { fetchImage 0 with blocks := [{ fetchBlock 0 with sysMask := 1 }] } }] } (firing []) = 1 ∧
     ¬(0x0101 / 2 ^ 16 ≠ 0 ∨ 0x0101 % 256 = 0 ∨ 0x0101 / 256 % 256 = 0 ∨ 16 * 1 < 0x0101 % 256 * (0x0101 / 256 % 256))) ∧
    (∀ i ∈ [Instr.sysw (node3 .s8) true, .sysa (node3 .s8) true], ∀ ts ∈ [[], [weights], [weights, weights]],
      let s := tiled i 0x100 0 0 [(0x100, tile .s8 2)] [] [configured [] ts]
      flies s i 0x100 0 0 ∧ regionAt s (firing []) = some (configured [] ts) ∧ standsAt s 0x100 (tile .s8 2) ∧ (configured [] ts).kr ≠ 0) ∧
    (∀ ts ∈ [[], [weights]],
      let i := Instr.sysd (node3 .s8)
      let s := tiled i 0x100 0 0 [(0x100, tile .s32 1)] [] [configured [weights] ts]
      flies s i 0x100 0 0 ∧ regionAt s (firing []) = some (configured [weights] ts) ∧ standsAt s 0x100 (tile .s32 1) ∧
      (heldPacket weights).head.elem ≠ .t2 ∧ isInt .s8 = true ∧ (tile .s32 1).head.rows = (heldPacket weights).head.rows) := by
  refine ⟨?_, ?_, ?_⟩ <;> (try unfold standsAt) <;> unfold flies InFlight <;> decide +kernel

theorem witness_MisalignedAccessTraps :
    (InFlight (doing (.ld (node3 .b32) .s plainMem) 66 0 0) (acc (.ld (node3 .b32) .s plainMem) 66 0 0) ∧ 66 % (tyBits .b32 / 8) ≠ 0) ∧
    InFlight (doing (.ldw (node3 .b32) .s plainMem) 48 0 0) (acc (.ldw (node3 .b32) .s plainMem) 48 0 0) ∧ 48 % 32 ≠ 0 := by
  unfold InFlight
  decide +kernel

/-- An access to the scratchpad of its team. -/
theorem on_pad (s : State) (a : Access) (n : Nat) (h : InFlight s a) (ht : teamOf s a.f = some fetchTeam)
    (hi : imageOf s a.f.launch = some (fetchImage 0)) (hn : a.a.toNat % 2 ^ 64 + n ≤ 1048576) : OnPad s a fetchTeam n :=
  ⟨h, ht, _, hi, hn⟩

/-- The last words of the scratchpad, all present. -/
theorem witness_ScratchpadLoadsReadOrPark :
    OnPad (doing (.ld (node3 .b64) .s plainMem) 0xFFFF8 0 0) (acc (.ld (node3 .b64) .s plainMem) 0xFFFF8 0 0) fetchTeam 8 ∧
    OnPad (doing (.ldw (node3 .b64) .s plainMem) 0xFFFE0 0 0) (acc (.ldw (node3 .b64) .s plainMem) 0xFFFE0 0 0) fetchTeam 32 ∧
    (∀ w, present (doing (.ld (node3 .b64) .s plainMem) 0xFFFF8 0 0) fetchTeam.key w = true) :=
  ⟨on_pad _ _ _ (by unfold InFlight; decide +kernel) (by decide +kernel) (by decide +kernel) (by decide +kernel),
   on_pad _ _ _ (by unfold InFlight; decide +kernel) (by decide +kernel) (by decide +kernel) (by decide +kernel), fun _ => rfl⟩

/-- Word 6 of the scratchpad is absent, and word 4 is present. -/
def gap (i : Instr) (a b c : Nat) : State :=
  { doing i a b c with core := { world.core with absent := [(6, ())] } }

theorem witness_EngineAndTileNodesHandOverAndAct_lanes : ∀ i ∈ [Instr.gather (node3 .b32) .s true false, .scatter (node3 .b32) .s true false,
      .scatadd { node3 .s32 with low := .seq 0 0 0 } .s true plainMem],
    ((gap i 64 0 3).accesses.map (·.i) = [i] ∧ flies (gap i 64 0 3) i 64 0 3 ∧ (acc i 64 0 3).left = [] ∧ (acc i 64 0 3).result = 0 ∧ 64 % 4 = 0 ∧ 66 % 4 ≠ 0 ∧
      (∀ k < 8, laneAt 32 (acc i 64 0 3).b.toNat k = 0) ∧ present (gap i 64 0 3) 0 8 = true ∧
      tabWf (gap i 64 0 3).core.scratch = true ∧ tabWf (gap i 64 0 3).core.absent = true) ∧
    (flies (gap i 64 (2 ^ 32 - 4) 3) i 64 (2 ^ 32 - 4) 3 ∧ intOperand (laneAt 32 (2 ^ 32 - 4) 0) 32 true = -4 ∧ present (gap i 64 (2 ^ 32 - 4) 3) 0 6 = false ∧
      (∀ th, thread? (gap i 64 (2 ^ 32 - 4) 3) 0 = some th → th.st = .inBlock 0) ∧ isInt .s32 = true) := by
  unfold flies InFlight
  decide +kernel

/-- The states between the lanes: each lane in its turn; whether every lane so far has had its value. -/
def lanesFrom (turn : Nat → State → Option State) (s : State) : Nat → Option State
  | 0 => some s
  | i + 1 => (lanesFrom turn s i).bind (turn i)
def laneGet (home : Bool) (x : Nat) (i : Nat) (s : State) : Option State :=
  match loadRange (firing []) 2 home x 4 s with | (.ok l, v) => some (deliver 5 i (ofBytes l) 32 v) | _ => none
def lanePut (home : Bool) (x : Nat) (i : Nat) (s : State) : Option State :=
  match storeG (firing []) 2 home x (toBytes 4 3) s with | (.ok (), v) => some (deliver 5 i 0 0 v) | _ => none
def laneAdd (i0 : Instr) (sp : Sp) (x : Nat) (i : Nat) (s : State) : Option State :=
  match doAtomic { acc i0 x 0 3 with a := BitVec.ofNat 256 x } sp plainMem 4 (fun o => (o + 3) % 2 ^ 32) s with
  | (.done _, t) => some (deliver 5 i 0 0 t) | _ => none
def rowGet (x len : Nat) (i : Nat) (s : State) : Option State :=
  match loadRange (firing []) 2 false x len s with
  | (.ok l, v) => some (deliver 5 i 0 0 (modAccess 5 (fun e => { e with got := padTo (i * len) e.got ++ l ++ e.got.drop ((i + 1) * len) }) v))
  | _ => none

/-- Every lane names one word; of .P, a word of the thread's own team or of a team of the cluster that runs. -/
theorem witness_EngineAndTileNodesHandOverAndAct_lanes_global :
    (∀ sp ∈ [Sp.g, .l], ∀ e ∈ [(Instr.gather (node3 .b32) sp true false, laneGet (sp == .l) 0x3000), (.scatter (node3 .b32) sp true false, lanePut (sp == .l) 0x3000),
        (.scatadd (node3 .s32) sp true plainMem, laneAdd (.scatadd (node3 .s32) sp true plainMem) sp 0x3000)],
      flies (doing e.1 0x3000 0 3) e.1 0x3000 0 3 ∧ 0x3000 % 4 = 0 ∧ (acc e.1 0x3000 0 3).left = [] ∧ (acc e.1 0x3000 0 3).result = 0 ∧
      ((lanesFrom e.2 (doing e.1 0x3000 0 3) 8).bind (fun t => access? t 5)).isSome = true) ∧
    (∀ e ∈ [(64, 0), (2 ^ 20 + 64, 1)],
      let i := Instr.gather (node3 .b32) .p true false
      let s := { doing i e.1 0 3 with teams := world.teams ++ [{ fetchTeam with key := 1, num := 1 }] }
      flies s i e.1 0 3 ∧ e.1 < 2 ^ 52 ∧ e.1 % 2 ^ 20 + 4 ≤ (fetchImage 0).scratch ∧
      (e.2 = 1 → s.teams.find? (fun t => t.launch == 0 && t.num == 1) = some { fetchTeam with key := 1, num := 1 }) ∧ fetchTeam.retired = false ∧
      fetchTeam.num = 0 ∧ fetchTeam.key = 0 ∧ present s e.2 8 = true) ∧
    (let i := Instr.gathert (node3 .f16) .g true .none false
     let s := doing i 0x3000 0 (0x300 + 7 * 2 ^ 20)
     let d := tileDesc (0x300 + 7 * 2 ^ 20)
     let gone := { s with core := { s.core with absent := [(0x60, ())] } }
     let len := imageElems { elem := .f16, scale := .none, rows := 8, cols := d.cols } + imageScales { elem := .f16, scale := .none, rows := 8, cols := d.cols }
     flies gone i 0x3000 0 (0x300 + 7 * 2 ^ 20) ∧ (acc i 0x3000 0 (0x300 + 7 * 2 ^ 20)).got = [] ∧ d.rows = 8 ∧ d.toff = 0x300 ∧ present gone 0 0x60 = false ∧
     (tileDesc 0x300).rows ≠ 8 ∧ 0x3004 % 32 ≠ 0 ∧ 0x300 + spanOf { elem := .f16, scale := .none, rows := 8, cols := d.cols } ≤ (fetchImage 0).scratch ∧
     ((lanesFrom (rowGet 0x3000 len) gone 8).bind (fun t => access? t 5)).isSome = true) ∧
    access? (doing (.gather (node3 .b32) .g true false) 0x3000 0 3) 5 = some (acc (.gather (node3 .b32) .g true false) 0x3000 0 3) := by
  refine ⟨?_, ?_, ?_, by decide⟩ <;> unfold flies InFlight <;> decide +kernel

theorem witness_ScratchpadLoadsReadOrPark_absent :
    OnPad (gap (.ldw (node3 .b64) .s plainMem) 32 0 0) (acc (.ldw (node3 .b64) .s plainMem) 32 0 0) fetchTeam 32 ∧
    parkedOn (gap (.ldw (node3 .b64) .s plainMem) 32 0 0) 0 < 512 ∧
    (thread? (gap (.ldw (node3 .b64) .s plainMem) 32 0 0) 0).map (·.st) = some (.inBlock 0) ∧ 32 / 8 ≤ 6 ∧ 6 * 8 < 32 + 32 ∧
    present (gap (.ldw (node3 .b64) .s plainMem) 32 0 0) fetchTeam.key 6 = false ∧
    ∀ x, 4 ≤ x → x < 6 → present (gap (.ldw (node3 .b64) .s plainMem) 32 0 0) fetchTeam.key x = true :=
  ⟨on_pad _ _ _ (by unfold InFlight; decide +kernel) (by decide +kernel) (by decide +kernel) (by decide +kernel),
   by decide +kernel, by decide +kernel, by decide, by decide, by decide +kernel, fun x h1 h2 => by
    have : x = 4 ∨ x = 5 := by omega
    rcases this with rfl | rfl <;> decide +kernel⟩

theorem witness_ScratchpadStoreWritesOnlyItsBytes :
    OnPad (gap (.stw (node3 .b64) .s plainMem) 0xFFFE0 1 0) (acc (.stw (node3 .b64) .s plainMem) 0xFFFE0 1 0) fetchTeam 32 ∧
    0xFFFE0 % 32 = 0 ∧ 0xFFFE0 + 32 ≤ 2 ^ 20 ∧
    OnPad (gap (.iwrite (node3 .b64) .s) 48 1 0) (acc (.iwrite (node3 .b64) .s) 48 1 0) fetchTeam 8 ∧
    present (gap (.iwrite (node3 .b64) .s) 48 1 0) fetchTeam.key (48 / 8) = false ∧
    OnPad (gap (.iwrite (node3 .b64) .s) 40 1 0) (acc (.iwrite (node3 .b64) .s) 40 1 0) fetchTeam 8 ∧
    present (gap (.iwrite (node3 .b64) .s) 40 1 0) fetchTeam.key (40 / 8) = true ∧
    tabWf (gap (.iwrite (node3 .b64) .s) 40 1 0).core.scratch = true ∧ tabWf (gap (.iwrite (node3 .b64) .s) 40 1 0).core.absent = true := by
  refine ⟨on_pad _ _ _ (by unfold InFlight; decide +kernel) (by decide +kernel) (by decide +kernel) (by decide +kernel), by decide, by decide,
    on_pad _ _ _ (by unfold InFlight; decide +kernel) (by decide +kernel) (by decide +kernel) (by decide +kernel), by decide +kernel,
    on_pad _ _ _ (by unfold InFlight; decide +kernel) (by decide +kernel) (by decide +kernel) (by decide +kernel), by decide +kernel,
    by decide +kernel, by decide +kernel⟩

/-- Words set up to the end of the scratchpad, an empty wait, an address that is no multiple of 8, and an atomic on a present word. -/
theorem witness_PresenceNodesAndScratchpadAtomics :
    (OnPad (gap (.spset (node3 .b64) .s false) 0xFFFF0 16 0) (acc (.spset (node3 .b64) .s false) 0xFFFF0 16 0) fetchTeam 16 ∧
      0xFFFF0 % 8 = 0 ∧ 16 % 8 = 0 ∧ 0xFFFF0 + 16 ≤ 2 ^ 20) ∧
    OnPad (gap (.spwait (node3 .b64) .s false) 48 0 0) (acc (.spwait (node3 .b64) .s false) 48 0 0) fetchTeam 0 ∧
    OnPad (gap (.spclr (node3 .b64) .s true) 4 8 0) (acc (.spclr (node3 .b64) .s true) 4 8 0) fetchTeam 8 ∧
    (OnPad (gap (.aadd (node3 .b64) .s plainMem) 40 8 0) (acc (.aadd (node3 .b64) .s plainMem) 40 8 0) fetchTeam 8 ∧ 40 % (64 / 8) = 0 ∧
      tyBits .b64 = 64 ∧ present (gap (.aadd (node3 .b64) .s plainMem) 40 8 0) fetchTeam.key (40 / 8) = true) ∧
    (OnPad (gap (.afadd (node3 .f32) .s plainMem) 44 8 0) (acc (.afadd (node3 .f32) .s plainMem) 44 8 0) fetchTeam 4 ∧ tyBits .f32 = 32) ∧
    (OnPad (gap (.spclr (node3 .b64) .s true) 8 4 0) (acc (.spclr (node3 .b64) .s true) 8 4 0) fetchTeam 4 ∧ 4 % 8 ≠ 0) ∧
    (OnPad (gap (.aadd (node3 .b64) .s plainMem) 48 8 0) (acc (.aadd (node3 .b64) .s plainMem) 48 8 0) fetchTeam 8 ∧
      present (gap (.aadd (node3 .b64) .s plainMem) 48 8 0) fetchTeam.key (48 / 8) = false ∧ parkedOn (gap (.aadd (node3 .b64) .s plainMem) 48 8 0) 0 < 512) := by
  refine ⟨⟨on_pad _ _ _ (by unfold InFlight; decide +kernel) (by decide +kernel) (by decide +kernel) (by decide +kernel), by decide, by decide,
    by decide⟩, on_pad _ _ _ (by unfold InFlight; decide +kernel) (by decide +kernel) (by decide +kernel) (by decide +kernel),
    on_pad _ _ _ (by unfold InFlight; decide +kernel) (by decide +kernel) (by decide +kernel) (by decide +kernel),
    ⟨on_pad _ _ _ (by unfold InFlight; decide +kernel) (by decide +kernel) (by decide +kernel) (by decide +kernel), by decide, by decide,
     by decide +kernel⟩,
    ⟨on_pad _ _ _ (by unfold InFlight; decide +kernel) (by decide +kernel) (by decide +kernel) (by decide +kernel), by decide⟩,
    ⟨on_pad _ _ _ (by unfold InFlight; decide +kernel) (by decide +kernel) (by decide +kernel) (by decide +kernel), by decide⟩,
    ⟨on_pad _ _ _ (by unfold InFlight; decide +kernel) (by decide +kernel) (by decide +kernel) (by decide +kernel), by decide +kernel,
     by decide +kernel⟩⟩

/-- An open page of die 0, read and written from a core of die 0 and of die 1. -/
def farAcc (i : Instr) (a b : Nat) : Access := { acc i a b 0 with f := { firing [] with core := 40 } }
def farDoing (i : Instr) (a b : Nat) : State := { world with accesses := [farAcc i a b] }

theorem witness_GlobalLoadsAndStores :
    (InFlight (doing (.ld (node3 .b32) .g plainMem) 0x3000 0 0) (acc (.ld (node3 .b32) .g plainMem) 0x3000 0 0) ∧
      launch? (doing (.ld (node3 .b32) .g plainMem) 0x3000 0 0) 0 = some (fetchLaunch 0) ∧
      translate (doing (.ld (node3 .b32) .g plainMem) 0x3000 0 0) 0 0 0x3000 .read = .ok 0x3000 0x17 3 ∧ pteOpen 0x17 = true ∧
      badAt (doing (.ld (node3 .b32) .g plainMem) 0x3000 0 0) 0x3000 4 = none) ∧
    (InFlight (doing (.st (node3 .b32) .g plainMem) 0x3000 5 0) (acc (.st (node3 .b32) .g plainMem) 0x3000 5 0) ∧
      translate (doing (.st (node3 .b32) .g plainMem) 0x3000 5 0) 0 0 0x3000 .write = .ok 0x3000 0x17 3 ∧
      (doing (.st (node3 .b32) .g plainMem) 0x3000 5 0).MemOk ∧ homeDie 0x3000 = dieOf 0) ∧
    InFlight (farDoing (.st (node3 .b32) .g plainMem) 0x3000 5) (farAcc (.st (node3 .b32) .g plainMem) 0x3000 5) ∧
    translate (farDoing (.st (node3 .b32) .g plainMem) 0x3000 5) 40 0 0x3000 .write = .ok 0x3000 0x17 3 ∧ homeDie 0x3000 ≠ dieOf 40 := by
  unfold InFlight State.MemOk
  decide +kernel

/-- Loads and stores of .G and .L with and without an acquire or a release, from the home die and from another, with a byte of the store
buffer to send home. -/
def flagged (sc : Scope) (acq rel : Bool) : MemFlags := { plainMem with scope := sc, acq := acq, rel := rel }
def atCore (core : Nat) (i : Instr) (b : Nat) : Access := { acc i 0x3000 b 0 with f := { firing [] with core := core } }
def inPlace (core : Nat) (rsb : List (Nat × Byte)) (i : Instr) (b : Nat) : State :=
  { world with accesses := [atCore core i b], mem := { world.mem with rsb := rsb } }

theorem witness_GlobalLoadsAndStores_forms : ∀ core ∈ [0, 40], ∀ sp ∈ [Sp.g, .l], ∀ sc ∈ [Scope.team, .dev, .sys], ∀ yes ∈ [false, true],
    (∀ i ∈ [Instr.ld (node3 .b32) sp (flagged sc yes false), .ldw (node3 .b64) sp (flagged sc yes false), .ldu (node3 .b32) sp],
      let s := inPlace core [(2 ^ 52 + 0x3001, 7)] i 0
      InFlight s (atCore core i 0) ∧ launch? s 0 = some (fetchLaunch 0) ∧ translate s core 0 0x3000 .read = .ok 0x3000 0x17 3 ∧ pteOpen 0x17 = true ∧
      l2Lines s (dieOf core) + 1 < 1048576 ∧ l1Lines s core + 1 < 12288 ∧ badSeen s (dieOf core) 0x3000 32 = none ∧ badAt s 0x3000 32 = none) ∧
    (∀ i ∈ [Instr.st (node3 .b32) sp (flagged sc false yes), .stw (node3 .b64) sp (flagged sc false yes), .stu (node3 .b32) sp],
      let s := inPlace core [(2 ^ 52 + 0x3001, 7)] i 5
      let r := releaseFor (atCore core i 5) s
      InFlight s (atCore core i 5) ∧ translate r core 0 0x3000 .write = .ok 0x3000 0x17 3 ∧ s.skim.lines = [] ∧ s.MemOk ∧ s.kamub.copies = [] ∧
      l2Lines r (dieOf core) + 1 < 1048576 ∧ l1Lines r core + 1 < 12288) := by
  unfold InFlight State.MemOk
  decide +kernel

/-- A companion line that the core holds or not, with the link up or down. -/
def farLine (i : Instr) (b : Nat) (up mine : Bool) : State :=
  { doing i 0x80000000 b 0 with
    mem := { Mem.reset with home := companionTables, comp := [(2 ^ 51 + 1, 7)],
                            compCopies := if mine then [(2 ^ 44, List.replicate 128 9)] else [] }
    kamub := { world.kamub with up := if up then 1 else 0, backed := [(0, 4096)] } }

theorem witness_GlobalLoadsAndStores_companion : ∀ sp ∈ [Sp.g, .l], ∀ up ∈ [false, true], ∀ mine ∈ [false, true],
    (let i := Instr.ld (node3 .b32) sp plainMem
     let s := farLine i 0 up mine
     InFlight s (acc i 0x80000000 0 0) ∧ translate s 0 0 0x80000000 .read = .ok (2 ^ 51) (2 ^ 51 + 0x17) 3 ∧ l1Lines s 0 < 12288 ∧
     (tabFind s.mem.compCopies (0 * 2 ^ 45 + 2 ^ 51 / 128)).isSome = mine ∧ badCopy s 0 (2 ^ 51) = none ∧ linkOk s (2 ^ 51) = up) ∧
    (let i := Instr.st (node3 .b32) sp (flagged .sys false true)
     let s := farLine i 5 up mine
     let r := releaseFor (acc i 0x80000000 5 0) s
     InFlight s (acc i 0x80000000 5 0) ∧ translate r 0 0 0x80000000 .write = .ok (2 ^ 51) (2 ^ 51 + 0x17) 3 ∧ s.MemOk ∧ linkOk r (2 ^ 51) = up) := by
  unfold InFlight State.MemOk
  decide +kernel

/-- The scratchpad of the thread's own team, of a team of its cluster, of a team of another, of a retired one, and of a team that is not there. -/
def peerTeam (core : Nat) (retired : Bool) : Team := { fetchTeam with key := 1, num := 1, core := core, retired := retired }
def peering (i : Instr) (va : Nat) (ts : List Team) : State :=
  { doing i va 5 0 with teams := world.teams ++ ts, core := { world.core with absent := [(9, ())] } }

theorem witness_GlobalLoadsAndStores_peers : ∀ i ∈ [Instr.ld (node3 .b64) .p plainMem, .st (node3 .b64) .p (flagged .team false true)],
    (∀ e ∈ [(64, []), (2 ^ 20 + 64, [peerTeam 3 false]), (2 ^ 20 + 64, [peerTeam 4 false]), (2 ^ 20 + 64, [peerTeam 3 true]), (2 ^ 20 + 64, []), (72, [])],
      let s := peering i e.1 e.2
      InFlight s (acc i e.1 5 0) ∧ teamOf s (firing []) = some fetchTeam ∧ imageOf s 0 = some (fetchImage 0) ∧ (fetchImage 0).scratch ≤ 2 ^ 20 ∧
      e.1 % 8 = 0 ∧ e.1 < 2 ^ 52 ∧ e.1 % 2 ^ 20 + 8 ≤ (fetchImage 0).scratch ∧
      s.teams.find? (fun t => t.launch == 0 && t.num == 1) = e.2.head? ∧ present s 1 8 = true ∧ present s 0 8 = true ∧ present s 0 9 = false ∧
      parkedOn s 0 < 512 ∧ tabWf s.core.scratch = true ∧ tabWf s.core.absent = true) ∧
    (fetchTeam.num = 0 ∧ fetchTeam.core / 4 = 0 ∧ 3 / 4 = 0 ∧ 4 / 4 ≠ 0 ∧ thread? (peering i 72 []) 0 = some fetchThread ∧ fetchThread.st = .inBlock 0) := by
  unfold InFlight
  decide +kernel

/-- The same page as one that is not open, with Skim entries, and a commit in progress. -/
def skimmed (i : Instr) (es : List SkimEntry) (c : Option Nat) : State :=
  { doing i 0x3000 5 0 with
    mem := { Mem.reset with home := (tables.take 4) ++ [(0x2000, 0x07)] ++ tables.drop 5 }
    skim := { world.skim with entries := es, current := c.map (fun v => { vt := v, walked := [] }), groups := [(3, [9])] } }
def entry (writers readers : List Nat) : SkimEntry := { unit_ := 0x3000, len := 128, writers := writers, readers := readers, overflow := false }
def transacts (i : Instr) (es : List SkimEntry) (c : Option Nat) : Prop :=
  InFlight (skimmed i es c) (acc i 0x3000 5 0) ∧ launch? (skimmed i es c) 0 = some (fetchLaunch 0) ∧ vtOfFiring (skimmed i es c) (firing []) = some 0 ∧
  translate (skimmed i es c) 0 0 0x3000 .read = .ok 0x3000 0x07 3 ∧ translate (skimmed i es c) 0 0 0x3000 .write = .ok 0x3000 0x07 3 ∧
  badAt (skimmed i es c) 0x3000 4 = none ∧ (tag? (skimmed i es c) 0).map (·.st) = some .active ∧ (skimmed i es c).skim.lines = [] ∧
  l2Lines (skimmed i es c) 0 + 1 < 1048576 ∧ l1Lines (skimmed i es c) 0 + 1 < 12288 ∧
  (skimmed i es c).mem.rsb = [] ∧ (skimmed i es c).kamub.copies = [] ∧ tabWf (skimmed i es c).skim.groups = true

theorem witness_GlobalLoadsAndStores_closed :
    pteOpen 0x07 = false ∧ unitOf 0x3000 0x07 = (0x3000, 128) ∧
    (let i := Instr.ld (node3 .b32) .g plainMem
     transacts i [entry [7] []] (some 7) ∧ unitHeld (skimmed i [entry [7] []] (some 7)) 0 (0x3000, 128) = true ∧
     (∀ es ∈ [[], [entry [0] []], [entry [7] [0]], [entry [7] [1]], [entry [7] [1, 2]]],
       transacts i es none ∧ unitHeld (skimmed i es none) 0 (0x3000, 128) = false ∧
       (tabFind (skimmed i es none).skim.groups (0x3000 / 4096)).isSome = true) ∧
     [0].all (fun w => (tagChain (skimmed i [] none) 0).contains w) = true ∧ [7].all (fun w => (tagChain (skimmed i [] none) 0).contains w) = false) ∧
    (let i := Instr.st (node3 .b32) .g plainMem
     transacts i [entry [7] []] (some 7) ∧
     ∀ es ∈ [[], [entry [0] []], [entry [7] []], [entry [1, 2, 3, 4] []]],
       transacts i es none ∧ unitHeld (skimmed i es none) 0 (0x3000, 128) = false ∧
       makeEntryRoom 0 0x3000 (fillTlb 0 0 0x3000 (skimmed i es none)) = (true, fillTlb 0 0 0x3000 (skimmed i es none))) := by
  refine ⟨by decide, by decide, ?_, ?_⟩ <;> unfold transacts InFlight <;> decide +kernel

/-- A semaphore word that holds 0, 1 or the greatest count, of a core that holds copies; and one in companion memory. -/
def counting (i : Instr) (bytes : List (Nat × Byte)) : State :=
  { doing i 0x3000 0 0 with mem := { Mem.reset with home := tables ++ bytes, rsb := [(5 * 2 ^ 20, 1)], copies := [(2 ^ 20, [])], compCopies := [(2 ^ 44, [])] } }
def full : List (Nat × Byte) := [(0x3000, 0xFF), (0x3001, 0xFF), (0x3002, 0xFF), (0x3003, 0xFF)]
def counts (i : Instr) (bytes : List (Nat × Byte)) (c : Nat) : Prop :=
  InFlight (counting i bytes) (acc i 0x3000 0 0) ∧ launch? (counting i bytes) 0 = some (fetchLaunch 0) ∧
  teamOf (counting i bytes) (firing []) = some fetchTeam ∧ (counting i bytes).MemOk ∧ (counting i bytes).skim.lines = [] ∧
  (counting i bytes).kamub.copies = [] ∧
  (let r := releaseFor (acc i 0x3000 0 0) (counting i bytes)
   badAt r 0x3000 4 = none ∧ translate r 0 0 0x3000 .read = .ok 0x3000 0x17 3 ∧
   translate (fillTlb 0 0 0x3000 r) 0 0 0x3000 .write = .ok 0x3000 0x17 3) ∧
  ofBytes ((List.range 4).map (fun i_ => (tabFind (counting i bytes).mem.rsb (0x3000 + i_)).getD (homeByte (counting i bytes) (0x3000 + i_)))) = c

/-- Two teams more on the core, whose sixteen barriers each hold arrivals: every entry of the barrier unit is in use. -/
def otherTeam (key : Nat) : Team :=
  { fetchTeam with key := key, barriers := (List.range 16).map (fun k => { num := k, phase := 0, arrived := 1, target := 2 }) }
def crowding (s : State) : State := { s with teams := s.teams ++ [otherTeam 1, otherTeam 2] }

theorem witness_SyncAndFlushNodesAct : ∀ sc ∈ [Scope.team, .dev, .sys],
    counts (.semv (node3 .b32) sc) full (2 ^ 32 - 1) ∧ counts (.semv (node3 .b32) sc) [] 0 ∧
    counts (.semtry (node3 .b32) sc) [] 0 ∧ counts (.semtry (node3 .b32) sc) [(0x3000, 1)] 1 ∧
    counts (.semdec (node3 .b32) sc) [] 0 ∧ counts (.semdec (node3 .b32) sc) [(0x3000, 1)] 1 ∧
    counts (.semp (node3 .b32) sc) [(0x3000, 1)] 1 ∧ counts (.semp (node3 .b32) sc) [] 0 ∧
    unitRoom (counting (.semp (node3 .b32) sc) []) 0 (0, 16) = true ∧
    (let i := Instr.semp (node3 .b32) sc
     InFlight (crowding (counting i [])) (acc i 0x3000 0 0) ∧ unitRoom (crowding (counting i [])) 0 (0, 16) = false) := by
  intro sc h
  simp only [List.mem_cons, List.not_mem_nil, or_false] at h
  rcases h with rfl | rfl | rfl <;> refine ⟨?_, ?_, ?_, ?_, ?_, ?_, ?_, ?_, by decide +kernel, ?_⟩ <;>
    (try unfold counts State.MemOk) <;> unfold InFlight <;> decide +kernel

theorem witness_SyncAndFlushNodesAct_companion : ∀ sc ∈ [Scope.team, .sys], ∀ i ∈ [Instr.semv (node3 .b32) sc, .semtry (node3 .b32) sc],
    let s := linked { (doing i 0x80000000 0 0) with mem := { Mem.reset with comp := [(2 ^ 51, 1)] } }
    let r := releaseFor (acc i 0x80000000 0 0) s
    let t := fillTlb 0 0 0x80000000 r
    InFlight s (acc i 0x80000000 0 0) ∧ s.MemOk ∧ 0x80000000 % 4 = 0 ∧ 2 ^ 51 % 4 = 0 ∧ pteOpen (2 ^ 51 + 0x17) = true ∧ linkOk r (2 ^ 51) = true ∧
    translate r 0 0 0x80000000 .read = .ok (2 ^ 51) (2 ^ 51 + 0x17) 3 ∧ translate t 0 0 0x80000000 .write = .ok (2 ^ 51) (2 ^ 51 + 0x17) 3 ∧
    ofBytes ((List.range 4).map (fun i => tabGet 0 s.mem.comp (2 ^ 51 + i))) = 1 := by
  unfold InFlight State.MemOk
  decide +kernel

/-- A barrier node of a team whose barrier 2 has had some arrivals; the node's target is 1 or 2. -/
def atBarrier (i : Instr) (p : Nat) (arrived : Nat) : State :=
  { doing i p 0 0 with teams := [{ fetchTeam with barriers := [{ num := 2, phase := 4, arrived := arrived, target := 2 }] }] }
def barNode (target : BitVec 16) : Node := { node3 .b32 with low := .imm (2 + target * 16) }

theorem witness_SyncAndFlushNodesAct_barriers :
    (∀ i ∈ [Instr.barArrive (barNode 2) .team, .barSync (barNode 2) .team, .barWait (barNode 2) .team], ∀ arrived ∈ [0, 1],
      let s := atBarrier i 4 arrived
      InFlight s (acc i 4 0 0) ∧ (teamOf s (firing [])).isSome = true ∧ unitRoom s 0 (0, 2) = true ∧
      (teamOf s (firing [])).map (fun m => (barrierOf m 2).phase) = some 4 ∧
      (teamOf s (firing [])).map (fun m => decide (2 ≤ (barrierOf m 2).arrived + 1)) = some (arrived == 1) ∧
      InFlight (crowding (atBarrier i 4 0)) (acc i 4 0 0) ∧ unitRoom (crowding (atBarrier i 4 0)) 0 (0, 2) = false) ∧
    (let i := Instr.barWait (barNode 2) .team
     InFlight (atBarrier i 3 1) (acc i 3 0 0) ∧ (4 : Word32) ≠ (BitVec.ofNat 64 3).setWidth 32 ∧ wideScope .team = false) ∧
    (let i := Instr.barSync (barNode 1) .sys
     InFlight (atBarrier i 0 0) (acc i 0 0 0) ∧ wideScope .sys = true ∧ (atBarrier i 0 0).mem.rsb = []) := by
  refine ⟨?_, ?_, ?_⟩ <;> unfold InFlight <;> decide +kernel

def flushing (i : Instr) (a b : Nat) (cells : List (Nat × Byte)) (l : Launch) : State :=
  { doing i a b 0 with mem := { Mem.reset with home := cells }, launches := [l] }
def logging : Launch := { fetchLaunch 0 with raw := raw [(56, 8, 4096), (64, 8, 0x40000000)] }

theorem witness_SyncAndFlushNodesAct_flushes :
    (∀ sc ∈ [Scope.crew, .team, .dev, .sys], let i := Instr.fence (node3 .b64) sc
      InFlight (doing i 0 0 0) (acc i 0 0 0) ∧ launch? (doing i 0 0 0) 0 = some (fetchLaunch 0) ∧ (doing i 0 0 0).MemOk) ∧
    wideScope .crew = false ∧ wideScope .dev = true ∧
    (∀ sc ∈ [Scope.team, .sys], let i := Instr.flushr (node3 .b64) sc
      InFlight (doing i 0x3000 0 0) (acc i 0x3000 0 0) ∧ InFlight (doing i (2 ^ 54 - 1) 2 0) (acc i (2 ^ 54 - 1) 2 0) ∧
      InFlight (doing i 0x3F80 128 0) (acc i 0x3F80 128 0) ∧ translate (doing i 0x3F80 128 0) 0 0 0x3F80 .read = .ok 0x3F80 0x17 3 ∧
      (acc i 0x3F80 128 0).left = [] ∧ 0x3F80 + 128 ≤ 0x3F80 / 4096 * 4096 + 4096 ∧ (doing i 0x3F80 128 0).MemOk ∧ (doing i 0x3F80 128 0).mem.rsb = []) ∧
    (let i := Instr.discr (node3 .b64)
     InFlight (doing i 0x3040 128 0) (acc i 0x3040 128 0) ∧ 0x3040 % 128 ≠ 0 ∧ InFlight (doing i 0x3F80 64 0) (acc i 0x3F80 64 0) ∧ 64 % 128 ≠ 0 ∧
     InFlight (doing i 0x3F80 0 0) (acc i 0x3F80 0 0) ∧
     (InFlight (flushing i 0x80000000 128 companionTables (fetchLaunch 0)) (acc i 0x80000000 128 0) ∧
       toCompanion (flushing i 0x80000000 128 companionTables (fetchLaunch 0)) (firing []) 0x80000000 = true) ∧
     (InFlight (doing i 0x3F80 128 0) (acc i 0x3F80 128 0) ∧ toCompanion (doing i 0x3F80 128 0) (firing []) 0x3F80 = false ∧
       translate (doing i 0x3F80 128 0) 0 0 0x3F80 .write = .ok 0x3F80 0x17 3) ∧
     (let s := flushing i 0x3F80 128 (tables.take 4 ++ [(0x2000, 0x07)] ++ tables.drop 5) logging
      InFlight s (acc i 0x3F80 128 0) ∧ toCompanion s (firing []) 0x3F80 = false ∧ translate s 0 0 0x3F80 .write = .ok 0x3F80 0x07 3 ∧
      vtOfFiring s (firing []) = some 0 ∧ (charge 0 256 true (fillTlb 0 0 0x3F80 s)).1 = true)) := by
  refine ⟨?_, ?_, ?_, ?_, ?_⟩ <;> (try unfold InFlight) <;> (try unfold State.MemOk) <;> decide +kernel

/-! ## Witnesses: registers, starts, links -/

/-- After reset with some of the boot state set, a port up, and space 0 enabled. -/
def booting (stage : Nat) (warm : Bool) : State :=
  { State.reset with boot := { Boot.reset with stage := stage, warmStart := warm, dieTemps := [90, 89, 0, 0] } }
def cooled (age : Nat) : State := { booting 3 true with boot := { (booting 3 true).boot with stageAge := age } }
def stilled (stage : Nat) : State := { booting stage false with boot := { (booting stage false).boot with frozenPin := true } }
def openSpace : Space := { Space.reset with enable := true, ctCount := 1 }
def device : State := { world with spaces := openSpace :: List.replicate 63 Space.reset, kamub := { State.reset.kamub with up := 1 } }
def frozenDevice : State := { device with boot := { device.boot with frozenCmd := true, frozenPin := true } }

theorem witness_RegisterWritesStoreTheirFields :
    (device.boot.failed = false ∧ device.kamub.up ≠ 0 ∧ (space device 0).enable = true) ∧ world.kamub.up = 0 ∧ MgmtPath.jtag ≠ .kamub ∧
    3 % 4 ≠ 0 ∧ 0x4000 ≤ 0x4000 ∧
    (savedCount device = 0 ∧ savedCount { device with launches := [{ fetchLaunch 0 with phase := .held }] } ≠ 0) ∧
    ((space device 0).enable = true ∧ (space device 1).enable = false ∧ (queue device 0).enable = false ∧
      (queue { device with queues := { Queue.reset with enable := true } :: device.queues.tail } 0).enable = true) ∧
    (live device 0 ≠ 0 ∧ live device 1 = 0) ∧ (0#32).getLsbD 0 = false ∧
    ∀ o ∈ [0x2C, 0x840, 0x3020, 0x3700], ∀ b ∈ [(0, 0x2C), (0x100, 0x300), (0x400, 0x40C), (0x480, 0x48C), (0x800, 0x804), (0x880, 0x88C), (0x900, 0x940),
      (0xA00, 0xC00), (0xC00, 0xC24), (0xC40, 0xC80), (0xD00, 0xF98), (0x1000, 0x2000), (0x2000, 0x282C), (0x3000, 0x3008), (0x3010, 0x3020),
      (0x3400, 0x3424), (0x3600, 0x3700), (0x3800, 0x4000)], o < b.1 ∨ b.2 ≤ o := by decide

theorem witness_ClearingReadsHandOverAndZero :
    device.boot.failed = false ∧ frozenDevice.boot.failed = false ∧ (device.boot.frozenCmd || device.boot.frozenPin) = false ∧
    tabWf device.mem.clean = true ∧ device.mem.dirtySel.toNat % 2 ^ 22 < 2367488 ∧ 2367488 ≤ (2367488#32).toNat % 2 ^ 22 := by decide

theorem witness_StartsRunTheirStagesAndEndLaunches :
    ((booting 0 false).boot.failed = false ∧ (booting 0 false).boot.tripped = false ∧ (booting 0 false).boot.stage = 0) ∧
    ((booting 1 false).boot.stage = 1 ∧ (booting 2 false).boot.stage = 2) ∧
    ((booting 3 false).boot.stage = 3 ∧ (booting 3 false).boot.warmStart = false ∧ (booting 3 true).boot.warmStart = true ∧
      90 ≤ (booting 3 true).boot.dieTemps.getD 0 0 ∧ ¬(90 ≤ (booting 3 true).boot.dieTemps.getD 1 0) ∧ (∀ x ∈ [89, 0], x < 90) ∧
      7000000000 ≤ (cooled 7000000000).boot.stageAge ∧ ¬(7000000000 ≤ (cooled 6999999999).boot.stageAge)) ∧
    (4 ≤ (stilled 4).boot.stage ∧ (stilled 8).boot.frozenPin = true ∧ (booting 4 true).boot.frozenCmd = false ∧
      (booting 4 true).boot.frozenPin = false) ∧ (world.launches ≠ [] ∧ (booting 8 false).launches = []) ∧
    ((booting 4 true).boot.stage = 4 ∧ (booting 4 false).boot.warmStart = false) ∧ (booting 5 false).boot.stage = 5 ∧
    ((booting 6 false).boot.stage = 6 ∧ (booting 6 false).boot.kept.getLsbD 11 = false) ∧ (booting 7 false).boot.stage = 7 ∧
    ((booting 8 false).boot.stage = 8 ∧ (booting 8 false).boot.released = false) ∧ (0#32).getLsbD 0 = false ∧ 110 ≤ 110 := by decide

def attesting : State := { device with boot := { device.boot with attBusy := true, attJob := some .attest } }
def extending : State := { device with boot := { device.boot with attBusy := true, attJob := some (.extend 4 [7]) } }
def tripped : State := { device with boot := { device.boot with tripped := true } }

theorem witness_FreezeAttestationAndGovernorAct :
    (device.boot.failed = false ∧ device.boot.released = true ∧ device.boot.attBusy = false) ∧
    (frozenDevice.boot.failed = false ∧ frozenDevice.boot.frozenCmd = true ∧ frozenDevice.boot.frozenPin = true ∧
      frozenDevice.boot.released = true ∧ frozenDevice.kamub.held = []) ∧
    (attesting.boot.attJob = some .attest ∧ attesting.boot.attNonce.length = 32 ∧ extending.boot.attJob = some (.extend 4 [7]) ∧
      extending.boot.meas.length = 8 ∧ tripped.boot.tripped = true ∧ device.boot.tripped = false) ∧
    ((((0xC#32) >>> 2).setWidth 3 : BitVec 3).toNat < 4 ∧ 4 ≤ (((0x10#32) >>> 2).setWidth 3 : BitVec 3).toNat) ∧
    (device.boot.frozenCmd = false ∧ device.boot.frozenPin = false ∧ device.gov.causePower = false ∧ device.gov.duty ≤ 64) ∧
    (2375 + 25 ≤ device.gov.limit.toNat ∧ ∀ t ∈ [89, 89, 0, 0], t < 90) ∧ device.gov.limit.toNat < 2401 ∧
    (¬(2376 + 25 ≤ device.gov.limit.toNat) ∧ ¬(device.gov.limit.toNat < 2376)) ∧ (∃ t ∈ [95], 95 ≤ t) ∧ (∃ t ∈ [105], 105 ≤ t) ∧
    ({ device.gov with duty := 8, overFor := 100 }.duty = 8 ∧ 100 ≤ { device.gov with overFor := 100 }.overFor) ∧
    ({ device.gov with causePower := true }.causePower = true ∧ device.boot.tripped = false ∧ tripped.boot.tripped = true) := by decide

/-- A connection of space 0, on which a receive of two bytes at an address is posted; the page at 0x80000000 is not open. -/
def receiving (va : Nat) (ps : List Posted) : State :=
  { device with
    mem := { Mem.reset with home := tables ++ [(0x300000, 0), (0x300017, 1)] }, spaces := { openSpace with ctLo := 0x300000 } :: List.replicate 63 Space.reset
    eth := { EthPort.reset with up := true } :: List.replicate 15 EthPort.reset, posted := ps, accesses := [acc (.nrecv (node3 .b64) false) va 2 0] }
def receive0 : Posted := { access := 5, space := 0, conn := 0, tag := 7, cycle := 0 }

theorem witness_LinksAndEthernetActByKind_receives :
    (∀ e ∈ [(0x3000, 3), (0x80000000, 2)], ∀ data ∈ [[1#8], [1, 2, 3]],
      let s := receiving e.1 [receive0, { receive0 with tag := 0xFFFFFFFF, cycle := 1 }]
      (s.boot.released = true ∧ (space s 0).enable = true ∧ (space s 0).dropEth = false ∧ connOk s 0 0 = true ∧ matchReceive s 0 0 7 = some receive0 ∧
        access? s 5 = some (acc (.nrecv (node3 .b64) false) e.1 2 0)) ∧
      (e.2 = 3 → openRange s 0 e.1 (Nat.min data.length 2) = .ok ((List.range (Nat.min data.length 2)).map (0x3000 + ·))) ∧
      (e.2 = 2 → openRange s 0 e.1 (Nat.min data.length 2) = .error .barred)) ∧
    openRange (receiving 0x3000 []) 0 0x40000000 1 = .error .closed ∧
    ([0x3000, 0x3001].Nodup ∧ (∀ q ∈ [0x3000, 0x3001], reachable device q = true) ∧ device.skim.lines = [] ∧ device.kamub.copies = [] ∧ device.MemOk) ∧
    (space { device with spaces := Space.reset :: device.spaces.tail } 0).enable = false ∧
    (∀ l ∈ device.launches, l.hang < lrHang l.raw) ∧
    (7 ≤ { device.boot with failed := true, stage := 7 }.stage ∧ { device.boot with failed := true, stage := 7 }.tripped = false) := by
  unfold State.MemOk
  decide +kernel

theorem witness_LinksAndEthernetActByKind :
    (device.kamub.up.getLsbD 0 = true ∧ device.kamub.retries.getD 0 0 < 8 ∧ device.kamub.up.getLsbD 1 = false) ∧
    (8 ≤ [8, 0, 0, 0].getD 0 0 ∧ 7 ≤ device.boot.stage ∧ device.boot.failed = false ∧ device.boot.tripped = false) ∧
    ((space device 0).dropEth = false ∧ { openSpace with dropEth := true }.dropEth = true ∧ connOk device 0 0 = false ∧ (space device 0).enable = true ∧
      matchReceive device 0 0 7 = none) ∧
    (let s := { device with mem := { Mem.reset with home := tables ++ [(0x300000, 0), (0x300017, 1)] },
                            spaces := { openSpace with ctLo := 0x300000 } :: List.replicate 63 Space.reset,
                            eth := { EthPort.reset with up := true } :: List.replicate 15 EthPort.reset,
                            outputs := [.ethSend 5 0 0 7 []] }
     (s.eth.getD 0 EthPort.reset).up = true ∧ connOk s 0 0 = true ∧ openRange s 0 0x3000 2 = .ok [0x3000, 0x3001] ∧
     matchReceive s 0 0 7 = none ∧ (∀ i < 2, translate s 160 0 (0x3000 + i) .device = .ok ([0x3000, 0x3001].getD i 0) 0x17 3 ∧
       reachable s ([0x3000, 0x3001].getD i 0) = true) ∧ openRange s 0 0x80000000 2 = .error .barred ∧ 5 < 2 ^ 80 ∧
     sentBy s 5 = some (.ethSend 5 0 0 7 []) ∧ access? s 5 = none ∧ 0 < s.spaces.length) ∧
    ((frozenDevice.boot.frozenCmd = true ∧ device.boot.frozenCmd = false ∧ device.boot.frozenPin = false) ∧
     (let s := { device with
        eth := { EthPort.reset with up := true } :: List.replicate 15 EthPort.reset, spaces := { openSpace with dropEth := true } :: device.spaces.tail }
      s.boot.released = true ∧ (s.eth.getD 0 EthPort.reset).up = true ∧ (space s 0).dropEth = true) ∧
     (let s := { device with accesses := [acc (.nsend (node3 .b64) false) 0 0 0], outputs := [.ethSend 5 0 0 7 [], .ethSend (2 ^ 79 + 5) 0 0 7 []] }
      sentBy s 5 = some (.ethSend 5 0 0 7 []) ∧ (access? s 5).isSome = true ∧ sentBy s (2 ^ 79 + 5) = some (.ethSend (2 ^ 79 + 5) 0 0 7 []) ∧
      5 < 2 ^ 79 ∧ 2 ^ 79 ≤ 2 ^ 79 + 5 ∧ 2 ^ 79 + 5 < 2 ^ 80)) := by decide +kernel

theorem witness_CompanionAccessesReadAndWriteHome :
    (device.boot.released = true ∧ device.boot.frozenCmd = false ∧ device.boot.frozenPin = false ∧ device.kamub.up ≠ 0) ∧
    (∀ i < 64, ∃ d < 12, backing device (0xBBFFFFFFC0 + i) = .hbm d) ∧ backing device 0xC00000000 = .hole ∧
    device.skim.lines = [] ∧ device.MemOk ∧ 0xBBFFFFFFC0 % 128 + 64 ≤ 128 ∧ world.kamub.up = 0 ∧
    (frozenDevice.boot.released = true ∧ frozenDevice.kamub.up ≠ 0 ∧ frozenDevice.boot.frozenCmd = true) := by
  unfold State.MemOk
  decide +kernel

/-- A line that a transaction shadows whose tag is active or queued, or commits. -/
theorem witness_CompanionAccessesReadAndWriteHome_shadows : ∀ st ∈ [TagSt.active, .queued, .committing],
    let s := { device with skim := { device.skim with lines := [{ otherLine with vt := 0 }], tags := [(0, { st := st, launch := 0, team := none, parent := none, cause := 0, charge := 0, logged := [] })] } }
    (∃ x ∈ s.skim.lines, x.line = 0x3000 / 128 ∧ x.vt = 0) ∧ (tag? s 0).map (·.st) = some st ∧ launch? s 0 = some (fetchLaunch 0) ∧ (fetchLaunch 0).vt = some 0 ∧
    (fetchLaunch 0).cause = none ∧ (∀ m ∈ s.teams, m.vt ≠ some 0) ∧ (∀ x ∈ s.skim.lines, tabWf x.bytes = true) ∧ tabWf s.skim.tags = true ∧
    s.MemOk ∧ 0x3000 % 128 + 64 ≤ 128 ∧ (∀ i < 64, ∃ d < 12, backing s (0x3000 + i) = .hbm d) := by
  unfold State.MemOk
  decide +kernel

/-! ## Witnesses: translation, queues, kills -/

def faulty : FaultRec := { key := 1, id := some 0, space := 0, va := 0x5000, kind := 0, reason := 0, vt := 0, core := 0, cookie := 0 }

def faulted : State := { device with xlat := { device.xlat with invBusy := true, invLines := [0x60], faults := [faulty] } }

theorem witness_TranslationRegistersActAsStated :
    (device.boot.failed = false ∧ 63 < device.spaces.length ∧ device.xlat.invBusy = false) ∧
    ((0x540#32).toNat / 64 % 4 ≠ 3 ∧ (0x540#32).toNat / 256 % 8 < 6 ∧ 6 ≤ (0x600#32).toNat / 256 % 8 ∧ (0xC0#32).toNat / 64 % 4 = 3) ∧
    (device.boot.frozenCmd = false ∧ device.boot.frozenPin = false ∧ faulted.xlat.invBusy = true ∧ faulted.xlat.invHeld = [] ∧
      faulted.xlat.invLines = [0x60] ∧ (∀ e ∈ faulted.mem.rsb, ∀ k ∈ [0x60], e.1 / 2 ^ 52 * 2 ^ 45 + e.1 % 2 ^ 52 / 128 ≠ k) ∧
     faulted.xlat.faults.find? (fun g => g.id == some faulted.xlat.respId.toNat) = some faulty ∧ ∀ g ∈ faulted.xlat.faults, g.id.isSome = true) ∧
    device.xlat.faults.find? (fun g => g.id == some device.xlat.respId.toNat) = none ∧
    (let x := { faulted.xlat with tlb := [{ core := 0, space := 0, vpn := 3, pte := 0x17, level := 3 }], invNow := { sp := 0, scope := 1, size := 0, va := 0 } }
     x.invBusy = true ∧ (∀ e ∈ x.tlb, invHits x e.space e.vpn = true) ∧ ∀ e ∈ x.tlb, invHits { x with invNow := { x.invNow with sp := 1 } } e.space e.vpn = false) ∧
    (live device 0 ≠ 0 ∧ live device 63 = 0 ∧ (1#32).getLsbD 0 = true ∧ (0#32).getLsbD 0 = false) := by decide

/-- Queue 0 in memory at 0x4000: the ring's registers, one record taken or waiting. -/
def ringQueue (head tail : Nat) (ws : List Waiting) : Queue :=
  { Queue.reset with baseLo := 0x4000, enable := true, needHead := false, head := head, tail := tail, waiting := ws }
def goodRecord (flags mode : Nat) : List Byte :=
  raw [(0, 2, 1), (3, 1, flags), (5, 1, 1), (8, 8, 0), (16, 8, 0x5000), (24, 4, 2), (28, 2, 1), (40, 4, 1), (88, 8, 0x3000), (128, 8, 0x3000), (144, 1, mode)]
def waitsFor (mode : Nat) (m : Option Nat) : Waiting :=
  { index := 0, raw := goodRecord 0 mode, sat := [mode == 0, true, true, true], monitored := [m, none, none, none], faults := [none, none, none, none], wasElig := mode == 0 }
def recordCells (done : Byte) : List (Nat × Byte) :=
  [(0x4100, 1), (0x4105, 1), (0x4111, 0x50), (0x4118, 2), (0x411C, 1), (0x4128, 1)] ++ (if done = 0 then [] else [(0x4158, done)]) ++ [(0x4159, 0x30), (0x4181, 0x30)]
def queued (bytes : List (Nat × Byte)) (x : Queue) : State :=
  { device with
    queues := x :: List.replicate 63 Queue.reset, mem := { Mem.reset with home := tables ++ bytes }
    launches := [], teams := [], threads := [], placed := [], crews := [], tokens := [] }

theorem witness_QueuesTakeRecordsAndJudgeDependencies :
    (State.reset.boot.failed = false ∧ State.reset.boot.released = false ∧ (queue State.reset 63).enable = false ∧ 63 < State.reset.queues.length ∧
      (queue device 63).enable = false ∧ (space device 1).enable = false ∧ (space device 0).enable = true) ∧
    (queueRuns (queued [] (ringQueue 1 0 [])) 0 = true ∧ (queue (queued [] (ringQueue 1 0 [])) 0).needHead = false ∧
      translate (queued [] (ringQueue 1 0 [])) 160 0 0x4000 .devWrite = .ok 0x4000 0x17 3 ∧ queueRuns State.reset 0 = false) ∧
    (queueRuns (queued (recordCells 0) (ringQueue 0 1 [])) 0 = true ∧
      translate (queued (recordCells 0) (ringQueue 0 1 [])) 160 0 (0x4000 + 256) .devWrite = .ok 0x4100 0x17 3 ∧
      translate (queued (recordCells 0) (ringQueue 0 1 [])) 160 0 (0x4000 + 128) .devWrite = .ok 0x4080 0x17 3 ∧
      readHome (queued (recordCells 0) (ringQueue 0 1 [])) 0x4100 256 = goodRecord 0 0 ∧
      lrDone (goodRecord 0 0) % 8 = 0 ∧ (openTarget (queued (recordCells 0) (ringQueue 0 1 [])) 0 (lrDone (goodRecord 0 0)) 8).isSome = true ∧
      lrLimitsOk (goodRecord 0 0) = true ∧ (∀ i < 4, lrDepMode (goodRecord 0 0) i = 0) ∧
      lrDone (readHome (queued (recordCells 4) (ringQueue 0 1 [])) 0x4100 256) % 8 ≠ 0 ∧
      reachable (queued (recordCells 0) (ringQueue 0 1 [])) 0x4100 = true ∧
      (let s := queued [(0x2010, 0x17), (0x2016, 0x08)] { ringQueue 0 1 [] with baseLo := 0x80000000 }
       queueRuns s 0 = true ∧ translate s 160 0 0x80000000 .devWrite = .ok (2 ^ 51) 0x8000000000017 3 ∧ pteOpen 0x8000000000017 = true ∧ reachable s (2 ^ 51) = false ∧
       translate s 160 0 (0x80000000 + 256) .devWrite = .ok (2 ^ 51 + 256) 0x8000000000017 3 ∧
       translate s 160 0 (0x80000000 + 128) .devWrite = .ok (2 ^ 51 + 128) 0x8000000000017 3)) ∧
    (∀ m ∈ [none, some 0x3000], (waitsFor 2 m).wasElig = false ∧ (waitsFor 2 m).faults.getD 0 none = none ∧ lrDepMode (waitsFor 2 m).raw 0 ≠ 0 ∧
      (queue (queued [] (ringQueue 1 1 [waitsFor 2 m])) 0).waiting.find? (fun y => y.index == 0) = some (waitsFor 2 m) ∧
      translate (queued [] (ringQueue 1 1 [waitsFor 2 m])) 160 0 (lrDepAddr (waitsFor 2 m).raw 0) .device = .ok 0x3000 0x17 3 ∧
      (waitsFor 2 m).sat.length = 4) ∧
    ((queued [] (ringQueue 1 1 [waitsFor 2 none])).pollAt = (queued [] (ringQueue 1 1 [waitsFor 2 none])).cycles ∧
      { world with pollAt := 1, cycles := 7001 }.pollAt + 7000 ≤ { world with cycles := 7001 }.cycles) := by decide +kernel

/-- Tables whose first GiB holds one page of 2 MiB that may move, at 0, beside the page that holds the rings. -/
def movables : List (Nat × Byte) :=
  [(0, 0x01), (1, 0x10), (0x1000, 0x01), (0x1001, 0x20), (0x2000, 0x01), (0x2001, 0x60), (0x6000, 0x07), (0x6002, 0x20)]
def ring (job : Option Move) : Placer :=
  { Placer.reset with
    freeLo := 0x8000, freeOn := true, freeProd := 1, logLo := 0x9000, logOn := true, job := job }
def migrating (bytes : List (Nat × Byte)) (job : Option Move) : State :=
  { device with mem := { Mem.reset with home := movables ++ bytes, uses := [(2 ^ 40 + 1, [0])] }, disp := { device.disp with migrate := true },
                placers := [Placer.reset, ring job, Placer.reset, Placer.reset] }
def moveOf (leaf : Nat) : Move := { space := 0, va := 0, leaf := leaf, frame := 0x3000000000 }

theorem witness_KillsPlacersAndPageMigration :
    (device.boot.failed = false ∧ 3 < device.placers.length ∧ device.disp.killBusy = false ∧ { device.disp with migrate := false }.migrate = false ∧
      (device.placers.getD 3 Placer.reset).logOn = false ∧ (device.placers.getD 3 Placer.reset).freeOn = false) ∧
    (device.boot.frozenCmd = false ∧ device.boot.frozenPin = false ∧
      (queue (queued [] (ringQueue 1 1 [waitsFor 0 none])) 0).waiting.find? (fun x => x.index == 0) = some (waitsFor 0 none) ∧
      0 < (queued [] (ringQueue 1 1 [waitsFor 0 none])).queues.length) ∧
    ((queue device 1).waiting = [] ∧ (∀ l ∈ device.launches, l.queue ≠ 1)) ∧
    ({ device.disp with killBusy := true }.killBusy = true ∧ ∀ i ∈ [7], launch? device i = none) ∧
    (walk (migrating [(0x8004, 0x30)] none) 0 0 = .leaf 4 0x200007 ∧ movable (migrating [(0x8004, 0x30)] none) 1 4 0x200007 = true ∧
      (placer (migrating [(0x8004, 0x30)] none) 1).job = none ∧ (ring none).freeProd ≠ (ring none).freeCons ∧ logRoom (ring none) = true ∧
      frameOk (migrating [(0x8004, 0x30)] none) 1 (ofBytes (readHome (migrating [(0x8004, 0x30)] none) 0x8000 8)) = true ∧
      plcBase (ring none).freeLo (ring none).freeHi = 0x8000 ∧ frameOk (migrating [] none) 1 (ofBytes (readHome (migrating [] none) 0x8000 8)) = false) ∧
    (pageShadowed (migrating [] (some (moveOf 0x200007))) (pteFrame 0x200007) = false ∧ logRoom (ring (some (moveOf 0x200007))) = true ∧
      logRoom { ring (some (moveOf 0x200007)) with logOn := false } = false ∧
      pageShadowed { migrating [] none with skim := { Skim.reset with lines := [{ vt := 0, line := 0x4000, place := .llc, bytes := [], used := 0 }] } }
        (pteFrame 0x200007) = true) := by decide +kernel

/-- The copy of a page leaves the committed bytes outside its new frame as they are. -/
theorem copied (old frame : Nat) {s : State} (h : Calm s) (hr : s.mem.rsb = []) :
    OthersKept (fun x => frame ≤ x ∧ x < frame + 2 ^ 21) s (copyPage old frame s) := by
  have hs : settlePage old s = s := by simp [settlePage, hr]
  have hw := othersKept_writeSys h frame (readHome s old (2 ^ 21))
  rw [show (readHome s old (2 ^ 21)).length = 2 ^ 21 by simp [readHome]] at hw
  unfold copyPage
  rw [hs]
  exact foldl_keeps (P := OthersKept _ s) (fun t i ht => ht.trans (othersKept_dropCopies ht.1 _)) _ hw

theorem readHome_copied {old frame : Nat} {s : State} (h : Calm s) (hr : s.mem.rsb = []) {pa n : Nat} (hp : pa + n ≤ frame) (hp2 : pa + n ≤ 2 ^ 51) (hn : 0 < n) :
    readHome (copyPage old frame s) pa n = readHome s pa n := by
  have hk := (copied old frame h hr).2.2
  unfold readHome
  refine List.map_congr_left fun i hi => ?_
  have hi' := List.mem_range.mp hi
  rw [if_neg (by omega), if_neg (by omega)]
  exact hk _ (by omega)

/-- A page is copied that holds no table, and its leaf stands where it stood. -/
theorem leaf_copied {old frame : Nat} {s : State} (h : Calm s) (hr : s.mem.rsb = []) (hf : 0x7000 ≤ frame) (hroot : rootOf s 0 = 0)
    (h0 : ofBytes (readHome s 0 8) = 0x1001) (h1 : ofBytes (readHome s 0x1000 8) = 0x2001) (h2 : ofBytes (readHome s 0x2000 8) = 0x6001)
    (h3 : ofBytes (readHome s 0x6000 8) = 0x200007) :
    leafAddr (copyPage old frame s) 0 0 = some 0x6000 ∧ ofBytes (readHome (copyPage old frame s) 0x6000 8) = 0x200007 := by
  have hread (pa : Nat) (hp : pa ≤ 0x6000) : readHome (copyPage old frame s) pa 8 = readHome s pa 8 :=
    readHome_copied h hr (by omega) (by omega) (by omega)
  have hsp : (copyPage old frame s).spaces = s.spaces := (copied old frame h hr).2.1
  generalize copyPage old frame s = c at hread hsp
  have hp (k : Nat) : ptIndex k 0 = 0 := by simp [ptIndex, bits]
  have hrc : rootOf c 0 = 0 := by unfold rootOf space at hroot ⊢; rw [hsp]; exact hroot
  rw [← hread _ (by omega)] at h0 h1 h2 h3
  refine ⟨?_, h3⟩
  unfold leafAddr
  rw [hrc]
  have hr (pa : Nat) (hl : pa < 2 ^ 51) : reachable c pa = true := by
    rw [reachable, Bool.or_eq_true]; exact .inl (decide_eq_true hl)
  simp only [leafAddr.go, hp, Nat.mul_zero, Nat.add_zero, h0, hr 0 (by omega)]
  rw [if_neg (by decide), if_neg (by decide), show pteFrame 0x1001 = 0x1000 by decide, h1, hr 0x1000 (by omega)]
  rw [if_neg (by decide), if_neg (by decide), show pteFrame 0x2001 = 0x2000 by decide, h2, hr 0x2000 (by omega)]
  rw [if_neg (by decide), if_neg (by decide), show pteFrame 0x6001 = 0x6000 by decide, h3, hr 0x6000 (by omega)]
  rw [if_neg (by decide), if_pos (by decide)]

/-- The leaf holds what was read of it, or something else. -/
theorem witness_PageMigrationEnds : ∀ leaf ∈ [7, 0x200007],
    leafAddr (copyPage (pteFrame leaf) 0x3000000000 (migrating [] (some (moveOf leaf)))) 0 0 = some 0x6000 ∧
    ofBytes (readHome (copyPage (pteFrame leaf) 0x3000000000 (migrating [] (some (moveOf leaf)))) 0x6000 8) = 0x200007 := by
  intro leaf hl
  have hc : Calm (migrating [] (some (moveOf leaf))) := ⟨by unfold State.MemOk; rfl, rfl, rfl⟩
  simp only [List.mem_cons, List.not_mem_nil, or_false] at hl
  rcases hl with rfl | rfl <;>
    exact leaf_copied hc rfl (by omega) (by decide +kernel) (by decide +kernel) (by decide +kernel) (by decide +kernel) (by decide +kernel)

theorem settlePage_none {old : Nat} {s : State} (h : s.mem.rsb = []) : settlePage old s = s := by simp [settlePage, h]

theorem copyPage_settled {old frame : Nat} {s : State} (h : (settlePage old s).mem.rsb = []) :
    copyPage old frame s = copyPage old frame (settlePage old s) := by
  unfold copyPage
  rw [settlePage_none h]

/-- A store to the page stands in a remote store buffer; and what the bytes of the page, its leaf and its log entry are read under. -/
def unsettled : State := let s := migrating [] (some (moveOf 0x200007)); { s with mem := { s.mem with rsb := [(2 ^ 52 + 0x200005, 7)] } }

theorem witness_PageMigrationEnds_buffered :
    leafAddr (copyPage (pteFrame 0x200007) 0x3000000000 unsettled) 0 0 = some 0x6000 ∧
    ofBytes (readHome (copyPage (pteFrame 0x200007) 0x3000000000 unsettled) 0x6000 8) = 0x200007 := by
  have hr : (settlePage (pteFrame 0x200007) unsettled).mem.rsb = [] := by decide +kernel
  have hc : Calm (settlePage (pteFrame 0x200007) unsettled) := ⟨by unfold State.MemOk; decide +kernel, by decide +kernel, by decide +kernel⟩
  rw [copyPage_settled hr]
  exact leaf_copied hc hr (by omega) (by decide +kernel) (by decide +kernel) (by decide +kernel) (by decide +kernel) (by decide +kernel)

theorem witness_PageMigrationEnds_bytes :
    (∀ s ∈ [migrating [] (some (moveOf 0x200007)), unsettled], s.MemOk ∧ (∀ x ∈ s.skim.lines, tabWf x.bytes = true) ∧
      pageShadowed s (pteFrame 0x200007) = false ∧ logRoom (placer s 1) = true ∧ (placer s 1).job = some (moveOf 0x200007) ∧
      coresRun s = true ∧ s.disp.migrate = true ∧
      (let p := placer s 1
       let entry := plcBase p.logLo p.logHi + 32 * (p.logProd.toNat % ringSize p.logLog)
       entry / 2 ^ 21 ≠ 0x3000000000 / 2 ^ 21 ∧ 0x6000 / 32 ≠ entry / 32 ∧ reachable s entry = true)) ∧
    pteFrame 0x200007 % 2 ^ 21 = 0 ∧ pteFrame 0x200007 + 2 ^ 21 ≤ 2 ^ 51 ∧ 0x3000000000 % 2 ^ 21 = 0 ∧ 0x3000000000 + 2 ^ 21 ≤ 2 ^ 51 ∧
    pteFrame 0x200007 ≠ 0x3000000000 ∧ 0x6000 % 8 = 0 ∧ 0x6000 / 2 ^ 21 ≠ 0x3000000000 / 2 ^ 21 ∧
    tabFind unsettled.mem.rsb (1 * 2 ^ 52 + pteFrame 0x200007 + 5) = some 7 ∧
    (∀ e ∈ unsettled.mem.rsb, e.1 = 2 ^ 52 + 0x200005) ∧ (migrating [] (some (moveOf 0x200007))).mem.rsb = [] := by
  unfold State.MemOk
  decide +kernel

/-- Leaves that are gone, rings that do not answer, and a placer whose log is full. -/
theorem witness_PageMigrationEnds_waits :
    ((∀ k x, walk { migrating [] none with mem := Mem.reset } 0 0 ≠ .leaf k x) ∧ leafAddr { device with mem := Mem.reset } 0 0 = none) ∧
    movable (migrating [] none) 1 3 0x200007 = false ∧
    reachable { migrating [] none with placers := [] } (2 ^ 51 + 8) = false ∧ ¬((moveOf 7).va = 2 ^ 21) := by
  have h : walk { migrating [] none with mem := Mem.reset } 0 0 = .absent := by decide +kernel
  exact ⟨⟨fun k x e => (nomatch e.symm.trans h), by decide +kernel⟩, by decide +kernel, by decide +kernel, by decide⟩

/-- Launch 0 of queue 0 runs, or its tag commits. -/
def killable (st : TagSt) : State :=
  { device with skim := { Skim.reset with tags := [(0, { st := st, launch := 0, team := none, parent := none, cause := 0, charge := 0, logged := [] })] } }

theorem witness_KillsPlacersAndPageMigration_launches : ∀ st ∈ [TagSt.active, .committing],
    let s := killable st
    s.boot.failed = false ∧ s.boot.frozenCmd = false ∧ s.boot.frozenPin = false ∧ s.disp.killBusy = false ∧ (∀ m ∈ s.launches, m.hang < lrHang m.raw) ∧
    s.disp.killHi.toNat * 2 ^ 32 + s.disp.killLo.toNat = 0 ∧ (queue s 0).waiting.find? (fun x => x.index == 0) = none ∧ 0 < s.queues.length ∧
    s.launches.find? (fun x => x.queue == 0 && x.index == 0 && x.parent.isNone) = some (fetchLaunch 0) ∧ launch? s (fetchLaunch 0).id = some (fetchLaunch 0) ∧
    (fetchLaunch 0).vt = some 0 ∧ (tag? s 0).map (fun g => (g.launch, g.st)) = some (0, st) ∧ (fetchLaunch 0).cause = none ∧ tabWf s.skim.tags = true ∧
    (∀ m ∈ s.teams, m.vt ≠ some 0) ∧ s.launches.find? (fun x => x.queue == 7 && x.index == 0 && x.parent.isNone) = none ∧
    (queue s 7).waiting = [] ∧ (∀ l ∈ s.launches, l.queue ≠ 7) := by decide +kernel

/-- Frozen, failed and busy devices turn a kill away; rings are enabled before or not. -/
theorem witness_KillsPlacersAndPageMigration_turned :
    (frozenDevice.boot.frozenCmd = true ∧ { device.boot with failed := true }.failed = true ∧ { device.disp with killBusy := true }.killBusy = true) ∧
    (let s := { device with disp := { device.disp with killBusy := true, killed := [0] } }
     ¬(s.disp.killBusy = true ∧ s.boot.frozenCmd = false ∧ s.boot.frozenPin = false ∧ ∀ i ∈ s.disp.killed, launch? s i = none)) ∧
    ((device.placers.getD 0 Placer.reset).logOn = false ∧ (device.placers.getD 0 Placer.reset).freeOn = false ∧
      ((migrating [] none).placers.getD 1 Placer.reset).logOn = true ∧ ((migrating [] none).placers.getD 1 Placer.reset).freeOn = true) := by decide +kernel

/-! ## Witnesses: the Skim and the completion word -/

def tagIs (st : TagSt) : VTag := { st := st, launch := 0, team := none, parent := none, cause := 0, charge := 0, logged := [] }
def skimWith (st : TagSt) (k : Skim) : State :=
  { device with skim := { k with tags := [(0, tagIs st)] }, launches := [{ fetchLaunch 0 with nextTeam := 0 }], teams := [], tokens := [], threads := [] }
def shadow (p : ShadowAt) : Shadow := { vt := 0, line := 0x60, place := p, bytes := [(0, 1), (127, 2)], used := 0 }

theorem witness_CommitChainPublishesAtTheFlip :
    (let s := skimWith .active Skim.reset
     coresRun s = true ∧ tag? s 0 = some (tagIs .active) ∧ launch? s 0 = some { fetchLaunch 0 with nextTeam := 0 } ∧
     s.skim.requests = [] ∧ (0 : Nat) = lrTeams (fetchLaunch 0).raw ∧ (∀ m ∈ s.teams, m.launch = 0 → m.retired = true) ∧ (∀ k ∈ s.launches, k.parent ≠ some 0) ∧
     ∀ a ∈ s.accesses, a.f.launch ≠ 0) ∧
    (let s := skimWith .active { Skim.reset with requests := [3, 5] }
     0 ∉ s.skim.requests ∧ (∀ v ∈ s.skim.requests, tabGet 0 s.skim.reqAt v = netCycle s) ∧ s.skim.requests.Pairwise (· ≤ ·) ∧
     ∀ v ∈ s.skim.requests, tabGet 0 s.skim.reqAt v < netCycle { s with half := true }) ∧
    (let s := skimWith .queued { Skim.reset with requests := [0] }
     s.skim.current = none ∧ s.skim.requests = 0 :: [] ∧ netCycle s ≤ tabGet 0 s.skim.reqAt 0 ∧
     tabGet 0 s.skim.reqAt 0 < netCycle { s with half := true }) ∧
    (let s := skimWith .committing { Skim.reset with current := some { vt := 0, walked := [0, 1, 2] } }
     s.skim.current = some { vt := 0, walked := [0, 1, 2] } ∧ (tagIs .committing).parent = none ∧ 3 ∉ [0, 1, 2] ∧
     ∀ e ∈ s.skim.entries, 0 ∈ e.writers → homeDie e.unit_ ≠ 3) ∧
    (let s := skimWith .committing { Skim.reset with current := some { vt := 0, walked := [0, 1, 2, 3] }, lines := [shadow .llc] }
     ([0, 1, 2, 3] : List Nat).length = 4 ∧ s.kamub.copies = [] ∧ s.skim.lines.Pairwise (fun x y => x.vt ≠ y.vt ∨ x.line ≠ y.line) ∧
     ∀ x ∈ s.skim.lines, tabWf x.bytes = true ∧ ∀ e ∈ x.bytes, e.1 < 128) ∧
    (let s := skimWith .draining { Skim.reset with releasing := [0], lines := [shadow .llc] }
     s.skim.releasing = 0 :: [] ∧ (∀ d ∈ s.skim.deferred, d.vt ≠ 0) ∧ s.MemOk) ∧
    (let s := skimWith .aborting Skim.reset
     launch? { s with launches := [] } 0 = none ∧ (tagIs .aborting).st = .aborting ∧ (tagIs .aborting).launch = 0 ∧
     (∀ e ∈ s.skim.tags, e.2.parent ≠ some 0) ∧
     ∃ e ∈ { s.skim with tags := s.skim.tags ++ [(1, { tagIs .active with parent := some 0 })] }.tags, e.2.parent = some 0) := by
  unfold State.MemOk
  decide +kernel

/-- The launch of an aborted tag: requeued, a top-level launch that ends, a child whose parent's team runs, and one whose tags are its
teams'. -/
def abortedWith (l : Launch) (more : List (Nat × VTag)) (ms : List Team) : State :=
  { device with skim := { Skim.reset with tags := (0, tagIs .aborting) :: more }, launches := [l], teams := ms, tokens := [], threads := [] }

theorem witness_CommitChainPublishesAtTheFlip_aborts :
    (∀ l ∈ [{ fetchLaunch 0 with requeue := true }, fetchLaunch 0, { fetchLaunch 0 with parent := some 7, parentTeam := 0, number := 0 }],
      let s := abortedWith l [] [{ fetchTeam with launch := 7 }]
      coresRun s = true ∧ tag? s 0 = some (tagIs .aborting) ∧ (∀ e ∈ s.skim.tags, e.2.parent ≠ some 0) ∧ tabWf s.skim.tags = true ∧
      launch? s 0 = some l ∧ l.vt = some 0 ∧ l.teamCommits = 0 ∧ l.queue < s.queues.length ∧ team? s 0 = some { fetchTeam with launch := 7 } ∧ (7 : Nat) ≠ l.id) ∧
    (let l := { fetchLaunch 0 with vt := none }
     let s := abortedWith l [(1, tagIs .active)] [{ fetchTeam with vt := some 1 }]
     launch? s 0 = some l ∧ (∃ m ∈ s.teams, m.launch = l.id ∧ ∃ v, m.vt = some v ∧ v ≠ 0 ∧ (tag? s v).isSome = true)) := by
  refine ⟨by decide +kernel, by decide +kernel, { fetchTeam with vt := some 1 }, by decide +kernel, by decide, 1, by decide, by decide, by decide +kernel⟩

/-- Tag 1 stands in the overflow group of a unit that tag 0 commits. -/
def strikeEntry : SkimEntry := { unit_ := 0x3000, len := 128, writers := [0], readers := [], overflow := true }
def struckIn (st : TagSt) : State :=
  { device with
    skim := { Skim.reset with current := some { vt := 0, walked := [] }, entries := [strikeEntry], groups := [(3, [1])],
                              tags := [(0, tagIs .committing), (1, { tagIs st with launch := 1 })] }
    launches := [{ fetchLaunch 0 with nextTeam := 0 }, { fetchLaunch 0 with id := 1, vt := some 1 }] }

theorem witness_CommitChainPublishesAtTheFlip_conflict : ∀ st ∈ [TagSt.active, .committing],
    coresRun (struckIn st) = true ∧ tag? (struckIn st) 0 = some (tagIs .committing) ∧ (tagIs .committing).parent = none ∧
    (struckIn st).skim.entries.filter (fun x => x.writers.contains 0 && homeDie x.unit_ == 0) = [strikeEntry] ∧
    tag? (struckIn st) 1 = some { tagIs st with launch := 1 } ∧ launch? (struckIn st) 1 = some { fetchLaunch 0 with id := 1, vt := some 1 } ∧
    tabWf (struckIn st).skim.tags = true ∧ strikeEntry.writers = [0] ∧ strikeEntry.readers = [] ∧
    (tabFind (struckIn st).skim.groups (strikeEntry.unit_ / 4096)).getD [] = [1] := by decide +kernel

def ended_ : Launch := { fetchLaunch 0 with phase := .committed, raw := goodRecord 0 0 }

theorem witness_ShadowMovementsAndCompletionWord :
    (let s := skimWith .active { Skim.reset with lines := [shadow (.l2 3)] }
     coresRun s = true ∧ s.skim.lines.find? (fun l => l.vt == 0 && l.line == 0x60) = some (shadow (.l2 3)) ∧ (shadow (.l2 3)).place = .l2 3 ∧
     makeRoom (homeDie (128 * 0x60)) 128 s = (true, s)) ∧
    (netCycle device < { device with scAt := 1 }.scAt ∧ device.scAt ≤ netCycle device ∧ (∀ w ∈ device.scWaiting, w % 4 ≠ device.scToken) ∧
      device.scAt + 16 ≤ netCycle { device with cycles := 8 }) ∧
    (device.MemOk ∧ 128 * (2 ^ 44 - 1) + 128 ≤ 2 ^ 51 ∧ device.skim.lines = [] ∧ device.kamub.copies = []) ∧
    (let s := { skimWith .draining Skim.reset with launches := [ended_] }
     launch? s 0 = some ended_ ∧ ended_.parent = none ∧ ended_.fault = none ∧ ended_.vt = some 0 ∧ wordsTurn s 0 = true ∧ 0 ∉ s.skim.releasing ∧
     (tag? s 0).map (fun g => (g.launch, g.st)) = some (0, .draining) ∧
     (∀ x ∈ s.skim.lines, x.vt = 0 → x.place ≠ .log) ∧ ended_.requeue = false ∧ ended_.cause = none ∧
     translate s 160 0 (lrDone ended_.raw) .devWrite = .ok 0x3000 0x17 3 ∧ pteSys 0x17 = false ∧ s.MemOk) := by
  unfold State.MemOk
  decide +kernel

theorem witness_NothingOfTheFabricMovesWhileFrozen :
    State.reset.boot.released = false ∧ frozenDevice.boot.frozenCmd = true ∧ frozenDevice.boot.frozenPin = true := by decide

/-! ## Witnesses: launches, teams, time, pre-emption -/

/-- A launch that is read for dispatch, whose image has been checked before. -/
def starting (header : List (Nat × Byte)) (l : Launch) : State :=
  { queued header (ringQueue 1 1 []) with launches := [l], images := [(0, fetchImage 0)] }
def coming : Launch := { fetchLaunch 0 with raw := goodRecord 0 0, phase := .dispatching, nextTeam := 0 }
def goodHeader : List Byte := 1 :: List.replicate 63 0

/-- A launch that runs and has two teams to make ready, beside `k` transactions. -/
def nextUp (vt : Option Nat) : Launch := { coming with phase := .running, vt := vt, freeStacks := [0] }
def placing (vt : Option Nat) (k : Nat) : State :=
  { queued [] (ringQueue 1 1 []) with launches := [nextUp vt], skim := { Skim.reset with tags := (List.range k).map (fun i => (i, tagIs .active)) } }

theorem witness_DispatchTakesARecord :
    let s := queued [] (ringQueue 1 1 [waitsFor 0 none])
    coresRun s = true ∧ resumable s = none ∧ selection (noteHeads (unitsFit s) s) (unitsFit s) = some (0, none) ∧
    queueHead (noteHeads (unitsFit s) s) 0 = some { waitsFor 0 none with wasElig := true } := by decide +kernel

theorem witness_DispatchReadsItsLaunch :
    (resumable (starting [] coming) = some coming ∧ launch? (starting [] coming) 0 = some coming ∧
      readParams (starting [] coming) 0 coming.raw = .ok (List.replicate 64 0, []) ∧ pbOk (List.replicate 64 0) = false) ∧
    (readParams (starting [(0x5000, 1)] coming) 0 coming.raw = .ok (goodHeader, []) ∧ pbOk goodHeader = true ∧
      verdictFor (starting [(0x5000, 1)] coming) 0 coming.raw = .ok (.image (fetchImage 0)) ∧ prefOk goodHeader 1 = true ∧ lrReport coming.raw = 0 ∧
      areaPages (starting [(0x5000, 1)] coming) 0 (lrTokBase coming.raw) (lrTokBytes coming.raw / 4096) 0 = .ok () ∧
      areaPages (starting [(0x5000, 1)] coming) 0 (lrShLog coming.raw) (lrShBudget coming.raw / 4096) 0 = .ok () ∧
      hwCrews 32 (lrTeamSz coming.raw) ≤ lrWsSlots coming.raw) :=
  ⟨⟨by decide +kernel, by decide +kernel, by decide +kernel, by decide⟩, by decide +kernel, by decide, by decide +kernel, by decide, by decide, by rfl, by rfl, by decide⟩

theorem witness_TeamReadyPlacesATeam :
    (launch? (placing (some 0) 1) 0 = some (nextUp (some 0)) ∧ (nextUp (some 0)).stream = none ∧
      readyCore (placing (some 0) 1) (nextUp (some 0)) = some 0 ∧ armed (placing (some 0) 1) 0 0 = true ∧ tabWf (placing (some 0) 1).crews = true ∧
      tabWf (placing (some 0) 1).threads = true ∧ tabWf (placing (some 0) 1).skim.tags = true ∧ claimAbove (placing (some 0) 1) 0 = false) ∧
    (readyCore (placing none 1) (nextUp none) = some 0 ∧ 128 < freeTags (placing none 895) ∧ pickTag (placing none 1) = some 1 ∧
      claimAbove (placing none 1) 0 = false) ∧
    freeTags (placing none 896) ≤ 128 ∧
    (let s := { placing (some 0) 1 with launches := [nextUp (some 0), { nextUp (some 0) with id := 1, prio := 1 }] }
     launch? s 0 = some (nextUp (some 0)) ∧ claimAbove s 0 = true) := by decide +kernel

/-- A launch of a record with a deadline of 1 µs and a hang limit of 1, at its counters. -/
def timed (deadline hang : Nat) : Launch :=
  { fetchLaunch 0 with raw := raw [(24, 4, 1), (72, 8, 1), (104, 4, 1)], deadline := deadline, hang := hang }
def timing (deadline hang : Nat) : State := { worldAt [] with launches := [timed deadline hang], accesses := [acc (.nfence (node3 .b64)) 0 0 0] }

/-- The same, where the access that its thread has begun waits in a sync node. -/
def waitingLong (deadline hang : Nat) : State :=
  { timing deadline hang with accesses := (timing deadline hang).accesses.map (fun a => { a with st := .blocked, left := [] }) }

/-- Its space has a hang map on a page that the system may not write; and its tag is DRAINING. -/
def mapping (deadline hang : Nat) : State :=
  { waitingLong deadline hang with spaces := { Space.reset with enable := true, hmLo := 0x3000, hmSize := 4096 } :: List.replicate 63 Space.reset }

theorem witness_DispatchTeamsAndTimersActOnLaunches_maps :
    (let s := mapping 0 1
     launch? s 0 = some (timed 0 1) ∧ topActive s (timed 0 1) = true ∧ 0 < (space s 0).hmSize.toNat ∧ 0 < s.spaces.length ∧ hangPaused s 0 = false ∧
     lrHang (timed 0 1).raw ≤ 1 ∧ holdsWork s 0 = true ∧ (∀ a ∈ s.accesses, a.st ≠ .flight ∧ a.st ≠ .held ∧ (a.st = .blocked → a.left = [])) ∧
     translate s 160 0 (bits (space s 0).hmLo.toNat 31 12 * 4096 + bits (space s 0).hmHi.toNat 21 0 * 2 ^ 32) .sysWrite = .perm) ∧
    (space (waitingLong 700 1) 0).hmSize = 0 ∧ topActive { waitingLong 700 1 with skim := Skim.reset } (timed 700 1) = false ∧
    (¬(lrHang (timed 700 0).raw ≤ 0) ∧ 700 * lrDeadline (timed 700 0).raw ≤ 700) := by decide +kernel

theorem witness_DispatchTeamsAndTimersActOnLaunches :
    (launch? (timing 700 1) 0 = some (timed 700 1) ∧ (timed 700 1).parent = none ∧ (timed 700 1).phase = .running ∧ (timed 700 1).cause = none ∧
      topActive (timing 700 1) (timed 700 1) = true ∧ (timing 700 1).boot.frozenCmd = false ∧ (timing 700 1).boot.frozenPin = false ∧
      0 < lrDeadline (timed 700 1).raw ∧ 700 * lrDeadline (timed 700 1).raw ≤ 700 ∧ hangPaused (timing 700 1) 0 = false ∧
      lrHang (timed 700 1).raw ≤ 1 ∧ holdsWork (timing 700 1) 0 = true ∧
      (∀ a ∈ (waitingLong 700 1).accesses, a.st ≠ .flight ∧ a.st ≠ .held ∧ (a.st = .blocked → a.left = [])) ∧ holdsWork (waitingLong 700 1) 0 = true ∧
      hangPaused (waitingLong 700 1) 0 = false) ∧
    (699 < 700 * lrDeadline (timed 699 0).raw ∧ 0 < lrHang (timed 699 0).raw) := by decide +kernel

/-- Launch 0 runs; launch 1 of a higher priority has more teams than there is room for and no window stack. -/
def victim (flags : Nat) (phase : Phase) (stream : Option (Nat × Nat)) (units : List SavedUnit) : Launch :=
  { fetchLaunch 0 with raw := raw [(3, 1, flags), (24, 4, 1), (28, 2, 1)], phase := phase, stream := stream, units := units }
def wanting : Launch := { fetchLaunch 0 with id := 1, raw := raw [(24, 4, 2 ^ 32 - 1), (28, 2, 1)], prio := 3, vt := some 1 }
def crowded (v : Launch) (pool : Nat) : State :=
  { world with launches := [v, wanting], disp := { world.disp with preempt := true, saveSize := BitVec.ofNat 16 pool } }

theorem witness_PreemptChoosesAVictim :
    (coresRun (crowded (victim 0 .running none []) 5) = true ∧ launch? (crowded (victim 0 .running none []) 5) 1 = some wanting ∧
      stuck (crowded (victim 0 .running none []) 5) wanting = true ∧ (∀ k ∈ (crowded (victim 0 .running none []) 5).launches, k.stream = none) ∧
      victims wanting (candidates (crowded (victim 0 .running none []) 5) wanting) (crowded (victim 0 .running none []) 5) = [0] ∧
      launch? (crowded (victim 0 .running none []) 5) 0 = some (victim 0 .running none []) ∧
      victim 0 .running none [] ∈ candidates (crowded (victim 0 .running none []) 5) wanting ∧ lrReplay (victim 0 .running none []).raw = false ∧
      unsavable (crowded (victim 0 .running none []) 5) 0 = false ∧
      poolFit (crowded (victim 0 .running none []) 5) (streamSize (crowded (victim 0 .running none []) 5) 0) = some 0) ∧
    (victims wanting (candidates (crowded (victim 1 .running none []) 5) wanting) (crowded (victim 1 .running none []) 5) = [0] ∧
      victim 1 .running none [] ∈ candidates (crowded (victim 1 .running none []) 5) wanting ∧ lrReplay (victim 1 .running none []).raw = true ∧ (victim 1 .running none []).cause = none ∧
      poolFit (crowded (victim 0 .running none []) 4) (streamSize (crowded (victim 0 .running none []) 4) 0) = none) := by decide +kernel

/-- A victim that replays, or is to be saved and cannot be, which has reached its hang limit or not. -/
def hanging (flags hang : Nat) (stream : Option (Nat × Nat)) : Launch :=
  { victim flags .running stream [] with raw := raw [(3, 1, flags), (24, 4, 1), (28, 2, 1), (104, 4, 1)], hang := hang }
def waiter : Access := { acc (.nfence (node3 .b64)) 0 0 0 with st := .blocked, left := [] }

theorem witness_PreemptChoosesAVictim_hangs : ∀ hang ∈ [0, 1],
    (let v := hanging 1 hang none
     let s := { crowded v 5 with accesses := [waiter] }
     stuck s wanting = true ∧ (∀ k ∈ s.launches, k.stream = none) ∧ victims wanting (candidates s wanting) s = [0] ∧ launch? s 0 = some v ∧
     v ∈ candidates s wanting ∧ lrReplay v.raw = true ∧ hangDue s 0 = (hang == 1)) ∧
    (let v := hanging 2 hang (some (0, 4096))
     let s := { world with launches := [v], accesses := [waiter] }
     launch? s 0 = some v ∧ topActive s v = true ∧ 4096 < streamSize s 0 ∧ teamCommitted s v = false ∧
     poolFit (modLaunch 0 (fun x => { x with stream := none }) s) (streamSize s 0) = none ∧ hangDue s 0 = (hang == 1)) := by decide +kernel

/-- A stream of the victim's team, which makes it one that cannot be saved. -/
def stream3_ : Strm := { team := 0, num := 3, minsub := 1, subs := [] }
def alone (v : Launch) : State := { world with launches := [v] }
def unit_ : SavedUnit := { launch := 0, core := some 0, home := 160, records := 1, bytes := 16 }
def held : Launch := victim 0 .held (some (0, 4096)) [unit_]
/-- A stream of one record of no length, with the end tag. -/
def holding : State := { queued [(0x3000, 0xFF), (0x3001, 1)] (ringQueue 1 1 []) with
  launches := [held], teams := [{ fetchTeam with core := 160 }], disp := { world.disp with saveLo := 0x3000 } }

theorem witness_PreemptionSavesAndRestores :
    (let v := victim 0 .running (some (0, 2 ^ 23)) []
     launch? (alone v) 0 = some v ∧ topActive (alone v) v = true ∧ unsavable (alone v) 0 = false ∧ streamSize (alone v) 0 ≤ 2 ^ 23 ∧
      unitsOf (alone v) 0 ≠ [] ∧ v.cause = none ∧ 4096 < streamSize (alone v) 0 ∧ teamCommitted (alone v) v = false ∧
      areaRoom (alone v) 0 = 0 ∧
      (let w := { v with stream := some (0, 4096) }
       let s (pool : Nat) : State := modLaunch 0 (fun x => { x with stream := none })
         { alone w with disp := { world.disp with saveSize := BitVec.ofNat 16 pool } }
       topActive (alone w) w = true ∧ poolFit (s 5) (streamSize (alone w) 0) = some 0 ∧ poolFit (s 4) (streamSize (alone w) 0) = none ∧ teamCommitted (alone w) w = false)) ∧
    (let v := { victim 2 .running (some (0, 4096)) [] with teamCommits := 1 }
     let s := { alone v with strms := [stream3_] }
     launch? s 0 = some v ∧ topActive s v = true ∧ unsavable s 0 = true ∧ teamCommitted s v = true) ∧
    (let v := victim 0 .saving (some (0, 4096)) []
     unitsOf (alone v) 0 = (0, 0) :: [] ∧ v.parent = none ∧ (alone v).teams.Pairwise (fun x y => x.key ≠ y.key) ∧
      (∀ a ∈ (alone v).accesses, a.f.launch = 0 → a.f.core = 0 → settledAccess (alone v) a = true) ∧
      (alone v).threads.map (·.2.st) = [.inBlock 0]) ∧
    (let s := noteHeads (unitsFit holding) holding
     coresRun holding = true ∧ holding.disp.hold = false ∧ selection s (unitsFit s) = some (0, some held) ∧ held.phase = .held ∧
      placeUnits s (heldUnits held) [] = some [(unit_, 0)] ∧ claimAbove s held.prio = false ∧
      badAt holding (streamAt holding 0) (unitsBytes held.units + 80) = none ∧
      streamFatal holding (streamAt holding 0) (streamAt holding 0 + ((held.stream.map (·.2)).getD 0)) ((held.units.map (·.records)).sum + 1) = false) ∧
    (victim 0 .restoring none []).phase = .restoring ∧ (victim 0 .restoring none []).parent = none := by decide +kernel

/-! ## Witnesses: accesses after hand-over, tokens, blocks, windows -/

def accAt (i : Instr) (a b c : Nat) (st : AccSt) (left : List Nat) (got : List Byte) : Access := { acc i a b c with st := st, left := left, got := got }
def inState (x : Access) : State := { world with accesses := [x] }
def load0 : Instr := .ld { node3 .b32 with low := .seq 0 0 0 } .g plainMem
def lateLoad : State := { inState (accAt load0 0x3000 0 0 .waiting [] []) with late := true }
def copying : Access := accAt (.copy (node3 .b64) true true false) 0xFFFF0 8 16 .blocked [1] []
def publish : Access := accAt (.strmPub (node3 .b64) false false) 3 0 0 .blocked [0] [1, 2]
def subscriber : Sub := { team := 0, ring := 0x1100040, next := 0 }
def stream3 : Strm := { team := 0, num := 3, minsub := 1, subs := [subscriber] }
def publishing : State := { inState publish with strms := [stream3], core := { world.core with absent := [(8, ())] } }
def semWaiter : Access := accAt (.semp (node3 .b32) .team) 0x3000 0 0 .blocked [] []
def parkedAcc (k x : Nat) (fl : Option Nat) : Access := accAt (.ld (node3 .b32) .s plainMem) 48 0 0 (.parked k x fl) [] []

/-- A load of a word that a copy of the same thread is to fill, before it. -/
def nextCopy : Access := { accAt (.copy { node3 .b64 with low := .seq 0 0 0 } true true false) 0xFFFF0 8 16 .waiting [] [] with id := 6, order := 6 }
def copyAfterLoad : State := { world with accesses := [accAt (.ld { node3 .b64 with low := .seq 0 0 0 } .s plainMem) 0xFFFF0 0 0 .flight [] [], nextCopy] }

theorem witness_AccessIssueAndResponse :
    (access? lateLoad 5 = some (accAt load0 0x3000 0 0 .waiting [] []) ∧ launchRuns lateLoad 0 = true ∧
      nextIssue lateLoad 0 = some (accAt load0 0x3000 0 0 .waiting [] []) ∧
      copyMustWait lateLoad (accAt load0 0x3000 0 0 .waiting [] []) = false ∧ lateLoad.late = true) ∧
    (nextIssue copyAfterLoad 0 = some nextCopy ∧ copyMustWait copyAfterLoad nextCopy = true) ∧
    (let s := { world with accesses := [parkedAcc 0 48 none, { nextCopy with st := .waiting }] }
     (s.accesses.filter (fun e => e.st == .waiting)).length = 1 ∧ ∀ e ∈ s.accesses, e.f.thread = 0 → e.st = .waiting → heldBack s e.f = true) ∧
    (let s := { inState (accAt load0 0x3000 0 0 .done [] []) with tokens := (List.range 4).map (fun i => { fetchToken 0 0 1 with seq := i, place := .port, src := 2 ^ 24 }) }
     responseRoom (inState (accAt load0 0x3000 0 0 .done [] [])) (accAt load0 0x3000 0 0 .done [] []) = true ∧
     responseRoom s (accAt load0 0x3000 0 0 .done [] []) = false) ∧
    (let s := inState (accAt load0 0x3000 0 0 .done [] [])
     access? s 5 = some (accAt load0 0x3000 0 0 .done [] []) ∧ barWaits (accAt load0 0x3000 0 0 .done [] []) = none ∧ isResident s 0 0 0 = true ∧
     (form load0).isSome = true ∧ isSync load0 = false ∧ (accAt load0 0x3000 0 0 .done [] []).drop = false) ∧
    (access? (inState (parkedAcc 1 48 (some 3))) 5 = some (parkedAcc 1 48 (some 3)) ∧
      parkOver (inState (parkedAcc 1 48 (some 3))) (parkedAcc 1 48 (some 3)) 1 48 (some 3) = false ∧
      parkOver (inState (parkedAcc 3 0 none)) (parkedAcc 3 0 none) 3 0 none = true ∧
      parkOver (inState (parkedAcc 0 48 none)) (parkedAcc 0 48 none) 0 48 none = true) := by decide +kernel

theorem witness_AccessEventsIssuePerformAndReturn :
    (access? (inState copying) 5 = some copying ∧ copying.left = [1] ∧ 1 < (copyShape copying).words ∧ teamOf (inState copying) copying.f = some fetchTeam ∧
      imageOf (inState copying) 0 = some (fetchImage 0) ∧ copySrc copying 1 + 8 ≤ 1048576 ∧ copyDst copying 1 + 8 ≤ 1048576 ∧
      copyDst copying 1 % 8 = 0 ∧ (fetchImage 0).scratch ≤ 2 ^ 20) ∧
    (access? publishing 5 = some publish ∧ publish.left.contains 0 = true ∧ strm? publishing (0, 3) = some stream3 ∧
      stream3.subs.find? (fun y => y.team == 0) = some subscriber ∧ (pubsFor publishing (0, 3) 0).head? = some publish ∧
      present publishing 0 (ringSlot subscriber / 8) = false ∧ ringSlot subscriber + publish.got.length ≤ 1048576 ∧ pubAhead publishing (0, 3) publish = false) ∧
    (let a := accAt (.rdsr { node3 .n64 with low := .seq 0 0 0 } 14) 0 0 0 .waiting [] []
     let s := { inState a with late := true }
     access? s 5 = some a ∧ launchRuns s 0 = true ∧ nextIssue s 0 = some a ∧ copyMustWait s a = false ∧ s.late = true) ∧
    ((sempsOf world 0 0 0 0).map (·.id) = [] ∧ (sempsOf (inState semWaiter) 0 0 0 0).map (·.id) = [5]) := by decide +kernel

/-- A space whose connection table holds one usable connection of a mode, and a message of the thread to it. -/
def netNode (i : Instr) (va count handle mode : Nat) (es : List Access) (home : List (Nat × Byte)) (budget : Nat) : State :=
  { world with
    spaces := { openSpace with ctLo := 0x300000 } :: List.replicate 63 Space.reset
    mem := { Mem.reset with home := home ++ [(0x300000, 0), (0x300016, BitVec.ofNat 8 mode), (0x300017, 1)] }
    launches := [{ fetchLaunch 0 with raw := raw [(56, 8, budget), (64, 8, 0x40000000)] }]
    accesses := es ++ [acc i va count handle] }
def nsend : Instr := .nsend { node3 .b64 with low := .seq 0 0 0 } false
def nrecv : Instr := .nrecv { node3 .b64 with low := .seq 0 0 0 } false
/-- A message whose connection table is in companion memory, with no port up. -/
def cutOff (i : Instr) : State :=
  { doing i 0x3000 8 0 with spaces := { openSpace with ctHi := 0x80000 } :: List.replicate 63 Space.reset }
/-- An earlier message of the thread to the same connection. -/
def sentBefore : Access := { acc nsend 0x3000 8 0 with id := 4, order := 4 }
def usableIn (s : State) (handle : Nat) : Prop := entryCut s 0 handle = false ∧ entryUe s 0 handle = none ∧ handleOf s 0 handle = some (0, 0)
def closedPage : List (Nat × Byte) := tables.take 4 ++ [(0x2000, 0x07)] ++ tables.drop 5

theorem witness_AccessEventsIssuePerformAndReturn_messages :
    (∀ i ∈ [nsend, nrecv],
      InFlight (netNode i 0x3000 8 1 0 [] tables 0) (acc i 0x3000 8 1) ∧ entryUe (netNode i 0x3000 8 1 0 [] tables 0) 0 1 = none ∧
      handleOf (netNode i 0x3000 8 1 0 [] tables 0) 0 1 = none ∧ entryCut (netNode i 0x3000 8 1 0 [] tables 0) 0 1 = false ∧
      InFlight (cutOff i) (acc i 0x3000 8 0) ∧ entryCut (cutOff i) 0 0 = true ∧
      InFlight (netNode i 0x3004 8 0 0 [] tables 0) (acc i 0x3004 8 0) ∧ usableIn (netNode i 0x3004 8 0 0 [] tables 0) 0 ∧ 0x3004 % 8 ≠ 0 ∧
      InFlight (netNode i 0x3000 16777217 0 0 [] tables 0) (acc i 0x3000 16777217 0) ∧ usableIn (netNode i 0x3000 16777217 0 0 [] tables 0) 0) ∧
    (InFlight (netNode nsend 0x3000 8 0 2 [sentBefore] tables 0) (acc nsend 0x3000 8 0) ∧ usableIn (netNode nsend 0x3000 8 0 2 [sentBefore] tables 0) 0 ∧
      rodWaits (netNode nsend 0x3000 8 0 2 [sentBefore] tables 0) (acc nsend 0x3000 8 0) 0 = true) ∧
    (let s := netNode nsend 0x3000 8 0 2 [] tables 0
     InFlight s (acc nsend 0x3000 8 0) ∧ usableIn s 0 ∧ rodWaits s (acc nsend 0x3000 8 0) 0 = false ∧
     InFlight (netNode nsend 0x3000 0 0 2 [] tables 0) (acc nsend 0x3000 0 0) ∧ usableIn (netNode nsend 0x3000 0 0 2 [] tables 0) 0 ∧
     (pagesOpen (firing []) 0x3000 8 2 0x3000 true s).1.toOption = some true ∧
     (loadRange (firing []) 2 true 0x3000 8 (pagesOpen (firing []) 0x3000 8 2 0x3000 true s).2).1.toOption = some (List.replicate 8 0)) ∧
    (let s := netNode nsend 0x3000 8 0 0 [] closedPage 4096
     InFlight s (acc nsend 0x3000 8 0) ∧ usableIn s 0 ∧ rodWaits s (acc nsend 0x3000 8 0) 0 = false ∧
     (pagesOpen (firing []) 0x3000 8 2 0x3000 true s).1.toOption = some false ∧
     (let w := loadRange (firing []) 2 false 0x3000 8 (pagesOpen (firing []) 0x3000 8 2 0x3000 true s).2
      w.1.toOption = some (List.replicate 8 0) ∧ vtOfFiring w.2 (firing []) = some 0 ∧ (charge 0 512 true w.2).1 = true ∧ 256 + roundUp 8 256 = 512)) ∧
    (let s := netNode nrecv 0x3000 8 0 0 [] tables 0
     InFlight s (acc nrecv 0x3000 8 0) ∧ usableIn s 0 ∧ (recvPages (firing []) 0x3000 8 2 0x3000 s).1.isOk = true ∧ s.posted = [] ∧
     InFlight (netNode nrecv 0x3000 0 0 0 [] tables 0) (acc nrecv 0x3000 0 0) ∧ usableIn (netNode nrecv 0x3000 0 0 0 [] tables 0) 0 ∧
     (let t := { s with posted := List.replicate 256 { access := 5, space := 0, conn := 0, tag := 0, cycle := 0 } }
      InFlight t (acc nrecv 0x3000 8 0) ∧ usableIn t 0 ∧
      (t.posted.filter (fun p => match access? t p.access with | some x => x.f.core == 0 | none => false)).length = 256)) := by
  refine ⟨?_, ?_, ?_, ?_, ?_⟩ <;> unfold usableIn InFlight <;> decide +kernel

/-- A LAUNCH whose record stands at 0x4100, and an LWAIT, of a team with some children. -/
def childNode (i : Instr) (va depth children : Nat) (bytes : List (Nat × Byte)) : State :=
  { doing i va 0 0 with
    cycles := 1, images := [(0, fetchImage 0)], mem := { Mem.reset with home := tables ++ bytes }
    launches := [{ fetchLaunch 0 with depth := depth }], teams := [{ fetchTeam with children := List.range children, status := [(0, 7)] }] }
def launchNode : Instr := .launch { node3 .b64 with low := .seq 0 0 0 }
def lwaitNode : Instr := .lwait { node3 .b64 with low := .seq 0 0 0 }
def launching (bytes : List (Nat × Byte)) : State := childNode launchNode 0x4100 0 0 bytes
def childTeam : Team := { fetchTeam with children := [], status := [(0, 7)] }
def begun (bytes : List (Nat × Byte)) : State :=
  beginChild (acc launchNode 0x4100 0 0) (fetchLaunch 0) (fetchLaunch 0) childTeam 0 1 (portNumber (acc launchNode 0x4100 0 0) childTeam (launching bytes)).2

theorem witness_AccessEventsIssuePerformAndReturn_children :
    (InFlight (childNode launchNode 0x4100 10 0 []) (acc launchNode 0x4100 0 0) ∧
      releaseFor (acc launchNode 0x4100 0 0) (childNode launchNode 0x4100 10 0 []) = childNode launchNode 0x4100 10 0 []) ∧
    (InFlight (childNode launchNode 0x4180 0 0 []) (acc launchNode 0x4180 0 0) ∧ 0x4180 % 256 ≠ 0) ∧
    (InFlight (launching []) (acc launchNode 0x4100 0 0) ∧ launch? (launching []) 0 = some (fetchLaunch 0) ∧ teamOf (launching []) (firing []) = some childTeam ∧
      releaseFor (acc launchNode 0x4100 0 0) (launching []) = launching [] ∧ (acc launchNode 0x4100 0 0).left = [] ∧
      portTurn (launching []) (acc launchNode 0x4100 0 0) childTeam = true ∧ pickTag (launching []) = some 1 ∧
      launch? (launching []) (topOf (launching []) 0) = some (fetchLaunch 0) ∧ tabWf (launching []).skim.tags = true ∧
      (launching []).disp.nextLaunch = 1 ∧ launch? (launching []) 1 = none ∧ topOf (launching []) 0 ≠ 1 ∧ (launch? (begun []) 1).isSome = true) ∧
    (InFlight { launching [] with cycles := 0 } (acc launchNode 0x4100 0 0) ∧
      portTurn { launching [] with cycles := 0 } (acc launchNode 0x4100 0 0) childTeam = false) ∧
    (let u := loadRange (firing []) 0 false 0x4100 256 (begun [])
     u.1.toOption = some (List.replicate 256 0) ∧ lrChildOk (List.replicate 256 0) = false ∧ (team? u.2 0).map (fun m => (m.launch, m.key, tabWf m.status)) = some (0, 0, true) ∧
     tabWf u.2.skim.tags = true) ∧
    (InFlight (childNode lwaitNode 1 0 1 []) (acc lwaitNode 1 0 0) ∧ InFlight (childNode lwaitNode 0 0 1 []) (acc lwaitNode 0 0 0) ∧
      InFlight (childNode lwaitNode 1 0 2 []) (acc lwaitNode 1 0 0) ∧ tabFind [(0, 7)] 0 = some 7 ∧ tabFind [(0, 7)] 1 = none) := by
  refine ⟨?_, ?_, ?_, ?_, ?_, ?_⟩ <;> (try unfold InFlight) <;> decide +kernel

/-- The child's record is good: it names the image that was checked before. -/
theorem witness_AccessEventsIssuePerformAndReturn_starts :
    let b := begun (recordCells 0 ++ [(0x5000, 1)])
    let u := loadRange (firing []) 0 false 0x4100 256 b
    let c := (launch? b 1).getD (fetchLaunch 0)
    let w := childParams (acc launchNode 0x4100 0 0) (goodRecord 0 0) (modLaunch 1 (fun _ => { c with raw := childRaw (goodRecord 0 0) (fetchLaunch 0).raw }) u.2)
    u.1.toOption = some (goodRecord 0 0) ∧ lrChildOk (goodRecord 0 0) = true ∧ w.1.toOption = some (some (1 :: List.replicate 63 0, [])) ∧
    (match verdictFor w.2 0 (goodRecord 0 0) with | .ok (.image im) => decide (im = fetchImage 0) | _ => false) = true ∧
    prefOk (1 :: List.replicate 63 0) 1 = true ∧ hwCrews 32 (lrTeamSz (goodRecord 0 0)) ≤ lrWsSlots (goodRecord 0 0) ∧ (launch? w.2 1).isSome = true := by
  decide +kernel

/-- A table that lists a run of keys finds each of them. -/
theorem tabFind_run {α : Type} (x : α) (n : Nat) : ∀ b v, b ≤ v → v < b + n → tabFind ((List.range' b n).map (fun k => (k, x))) v = some x := by
  induction n with
  | zero => omega
  | succ n ih =>
    intro b v hb hv
    simp only [List.range'_succ, List.map_cons, tabFind]
    rcases Nat.eq_or_lt_of_le hb with rfl | h
    · simp
    · rw [if_neg (by omega), if_neg (by omega)]
      exact ih _ _ h (by omega)

/-- No tag is FREE. -/
def tagless : State := { launching [] with skim := { Skim.reset with tags := (List.range' 0 1024).map (fun v => (v, tagIs .active)) } }

theorem witness_AccessEventsIssuePerformAndReturn_tags :
    (access? tagless 5 = some (acc launchNode 0x4100 0 0) ∧ portHeld tagless (acc launchNode 0x4100 0 0) = false ∧
      arrayBusy tagless (acc launchNode 0x4100 0 0) = false ∧ inOrder tagless (acc launchNode 0x4100 0 0) = true ∧ parkedOn tagless 0 < 512) ∧
    forceReads (acc launchNode 0x4100 0 0) tagless = tagless ∧ pickTag tagless = none := by
  refine ⟨by decide +kernel, rfl, List.find?_eq_none.mpr fun v hv => ?_⟩
  have h : tag? tagless v = some (tagIs .active) := tabFind_run _ 1024 0 v (by omega) (by simpa using hv)
  simp [h]

/-- A launch whose node 0 is an ADD of two ports. -/
def adding (ts : List Token) : State :=
  { fetchState State.reset (word 0x20 0 2 2 0 0 0x2000 0x2001 0) with tokens := ts, cycles := 2 ^ 31 }
def tok (p seq age : Nat) (place : Place) : Token := { fetchToken 0 p 1 with seq := seq, age := age, place := place }
def addNode : Instr := .add (bare .s32 2 (.port 0) (.port 1) (.src .none)) false

theorem witness_TokensEnterAndReturnByAge :
    (let s := adding [tok 0 1 0 .out]
     s.tokens[0]? = some (tok 0 1 0 .out) ∧ blockRuns s (tok 0 1 0 .out) = true ∧ nodeAt s 0 0 0 = some addNode ∧ matchingOf addNode = .ports 2 ∧
     peOf s (tok 0 1 0 .out) = 0 ∧ onArc (tok 0 1 0 .out) = true ∧ firstThere s (tok 0 1 0 .out) = true ∧ fabricOf (tok 0 1 0 .out) = 0 / 256 ∧
     firstThere (adding [tok 0 0 0 .out, tok 0 1 0 .out]) (tok 0 1 0 .out) = false ∧
     completes s addNode (tok 0 1 0 .out) [] = false ∧ entriesOf s 0 .general < 120) ∧
    (let s := adding [tok 0 1 0 .net, tok 1 2 5 .general]
     firstThere s (tok 0 1 0 .net) = true ∧ completes s addNode (tok 0 1 0 .net) [tok 1 2 5 .general] = true ∧ entriesOf s 0 .completion < 8) ∧
    (let k := tok 0 9 0 .due
     let full (n : Nat) : State := adding (k :: (List.range n).map (fun i => tok 0 i 0 .out))
     (full 3).tokens[0]? = some k ∧ blockRuns (full 3) k = true ∧ (∀ j ∈ (full 3).tokens, j.place = .due → j.net = k.net → j.src / 8 = k.src / 8 → k.seq ≤ j.seq) ∧
     ((full 3).tokens.filter (fun j => j.place == .out && j.net == k.net && j.src / 8 == k.src / 8)).length = 3 ∧
     ((full 4).tokens.filter (fun j => j.place == .out && j.net == k.net && j.src / 8 == k.src / 8)).length = 4 ∧
     ∃ j ∈ (adding [k, tok 0 8 0 .due]).tokens, j.place = .due ∧ j.net = k.net ∧ j.src / 8 = k.src / 8 ∧ j.seq < k.seq) ∧
    (let k := { tok 0 1 0 .out with src := 2048 }
     let s := adding [k]
     firstThere s k = true ∧ fabricOf k ≠ peOf s k / 256 ∧ tabGet 0 s.seams (seamLink s k) < 4 ∧
     4 ≤ tabGet 0 { s with seams := [(seamLink s k, 4)] }.seams (seamLink s k)) ∧
    (let k := tok 0 1 0 (.seam 0)
     let s := { adding [k, tok 1 2 5 .general] with seams := [(0, 1)] }
     s.tokens[0]? = some k ∧ blockRuns s k = true ∧ peOf s k = 0 ∧ firstThere s k = true ∧ fabricOf k = 0 / 256 ∧ 0 < tabGet 0 s.seams 0 ∧
     completes s addNode k [tok 1 2 5 .general] = true ∧ entriesOf s 0 .completion < 8) ∧
    (let s := adding [tok 0 1 5 .overflow, tok 0 2 5 .overflow]
     s.tokens[0]? = some (tok 0 1 5 .overflow) ∧ blockRuns s (tok 0 1 5 .overflow) = true ∧ completes s addNode (tok 0 1 5 .overflow) [] = false ∧
     ∀ j ∈ s.tokens, j.place = .overflow → 5 * 2 ^ 64 + 1 ≤ j.age * 2 ^ 64 + j.seq) ∧
    (onArc (tok 1 2 5 .general) = false ∧ (tok 1 2 5 .general).place ≠ .overflow) ∧
    (liveAges (adding [tok 1 2 1 .general]) 0 = 1 :: [] ∧ 1 + 2 ^ 31 ≤ ageNow (adding [tok 1 2 1 .general]) 0 + 1) := by decide +kernel

/-- A launch whose node 0 is a CMB of a count, or of the count in a k register that holds 0, with a token that arrives and an accumulator of
some tokens. -/
def cmbNode (count : BitVec 16) : Instr :=
  if count = 0 then .cmb (bare .s32 1 (.port 0) (.kreg 0) (.src .none)) .add else .cmb (bare .s32 1 (.port 0) .imm (.imm count)) .add
def arriving : Token := { tok 0 9 0 .out with count := 0 }
def combining (count : BitVec 16) (accs : List Token) : State :=
  { fetchState State.reset (encode (cmbNode count)) with tokens := arriving :: accs, cycles := 2 ^ 31, dawn := 10 }
def accumulator : Token := { tok 0 3 0 .general with count := 3, val := BitVec.ofNat 256 (5 + 2 ^ 64) }

def startsIn (s : State) (i : Instr) : Prop :=
  s.tokens[0]? = some arriving ∧ arriving.seq < s.dawn ∧ 9 ≤ arriving.seq ∧ blockRuns s arriving = true ∧ nodeAt s 0 0 0 = some i ∧ firstThere s arriving = true ∧
  fabricOf arriving = peOf s arriving / 256 ∧ entriesOf s 0 .completion < 8 ∧ entriesOf s 0 .general < 120 ∧
  s.tokens.find? (fun j => j.seq != arriving.seq && sameKey arriving j && decide (combined j < j.count)) = none

theorem witness_TokensEnterAndReturnByAge_combines :
    startsIn (combining 0 []) (cmbNode 0) ∧ startsIn (combining 1 []) (cmbNode 1) ∧ startsIn (combining 2 []) (cmbNode 2) ∧
    kWord (combining 0 []) 0 0 0 = 0 ∧
    (combining 3 [accumulator]).tokens.find? (fun j => j.seq != arriving.seq && sameKey arriving j && decide (combined j < j.count)) = some accumulator ∧
    firstThere (combining 3 [accumulator]) arriving = true ∧ arriving.count = 0 ∧ frozenDevice.boot.frozenCmd = true := by
  refine ⟨?_, ?_, ?_, ?_⟩ <;> (try unfold startsIn) <;> decide +kernel

/-- A launch whose node 0 is a CBAR over the lanes of an immediate mask, of a crew of one or of two threads. -/
def joinNode (mask : BitVec 16) : Node := { bare .b64 1 (.port 0) .imm (.imm mask) with tag := .join }
def joining (mask : BitVec 16) (ts : List Thread) : State :=
  let s := fetchState State.reset (encode (.cbar (joinNode mask)))
  { s with tokens := [arriving], cycles := 2 ^ 31, dawn := 10, threads := s.threads ++ ts.map (fun t => (t.tid, t)),
           teams := [{ fetchTeam with size := 1 + ts.length }] }
def second : Thread := { fetchThread with tid := 1 }

/-- The token's lane is not in the mask, is in one that names a lane that does not exist, and is in one of both its crew's lanes. -/
theorem witness_TokensEnterAndReturnByAge_joins : ∀ e ∈ [(2, [second], false, false), (3, [], true, false), (3, [second], true, true)],
    let mask := BitVec.ofNat 16 e.1
    let s := joining mask e.2.1
    s.tokens[0]? = some arriving ∧ blockRuns s arriving = true ∧ nodeAt s 0 0 0 = some (.cbar (joinNode mask)) ∧ matchingOf (.cbar (joinNode mask)) = .join ∧
    (form (.cbar (joinNode mask))).map (·.node) = some (joinNode mask) ∧ firstThere s arriving = true ∧
    fabricOf arriving = peOf s arriving / 256 ∧ arriving.seq < s.dawn ∧ ¬(arriving.seq < { s with dawn := 9 }.dawn) ∧ maskOf s arriving = none ∧
    joinMask s (joinNode mask) 0 0 = e.1 ∧ (e.1 : Nat).testBit (logicalLane s 0 0) = e.2.2.1 ∧ (e.1 &&& laneBits s 0 0 == e.1) = (e.2.1 != []) ∧
    (e.2.2.2 = true → completes { s with masks := s.masks ++ [keyMask s arriving e.1] } (.cbar (joinNode mask)) { arriving with count := e.1 } [] = false) ∧
    entriesOf s 0 .general < 120 := by decide +kernel

def waitingThread : Thread := { fetchThread with st := .waiting 0, episodes := [] }
def loading (stale : Bool) : Placed := { fetchPlaced with resident := false, stale := stale }
def blocksWith (ps : List Placed) (th : Thread) : State := { worldAt [] with placed := ps, threads := [(0, th)] }

/-- A launch whose block lies in a page of code, with that page's entry. -/
def codeLaunch : Launch := { fetchLaunch 0 with raw := raw [(8, 8, 0x80000000)] }
def fetchable (mapped : Bool) : State :=
  { blocksWith [loading false] waitingThread with
    launches := [codeLaunch], xlat := { world.xlat with fqEnable := true }
    mem := { Mem.reset with home := tables ++ [(0x2010, if mapped then 0x0B else 0x0A)] ++ [(0x2013, 0x80)] } }

theorem witness_BlocksAreLoadedEnteredAndEvicted :
    (coresRun (blocksWith [] waitingThread) = true ∧ (∀ q ∈ (blocksWith [loading false] waitingThread).placed, unhoused q = false) ∧ firstRanked (blocksWith [] waitingThread) 0 = some (0, 0) ∧
      blockAt (blocksWith [] waitingThread) 0 0 = some (fetchBlock 0) ∧ (fetchBlock 0).pages ≤ (pagesFor (blocksWith [] waitingThread) 0 0 0).length) ∧
    (∀ b : Bool, placed? (blocksWith [loading b] waitingThread) 0 0 0 = some (loading b) ∧ (loading b).resident = false ∧ (loading b).stale = b ∧
      (loading b).loading ≤ (blocksWith [loading b] waitingThread).cycles ∧ (loading b).fault = none ∧ unhoused (loading b) = false ∧
      fetchBar (fetchable true) (loading b) = none) ∧
    (fetchBar (fetchable false) (loading false) = some (.park 0 0x80000000) ∧ (fetchable false).xlat.fqEnable = true ∧
      launch? (fetchable false) 0 = some codeLaunch ∧ placed? (fetchable false) 0 0 0 = some (loading false)) ∧
    (placedOf (blocksWith [fetchPlaced] waitingThread) 0 0 0 = some fetchPlaced ∧ fetchPlaced.resident = true ∧ fetchPlaced.stopped = false ∧
      0 < fetchPlaced.replicas.length ∧ mayInject (blocksWith [fetchPlaced] waitingThread) fetchPlaced 0 = true ∧
      tabWf (blocksWith [fetchPlaced] waitingThread).threads = true ∧ launch? (blocksWith [fetchPlaced] waitingThread) 0 = some (fetchLaunch 0) ∧
      leastBy (fun (e : Nat × Thread) => (e.1 % 8192 + 8192 - fetchPlaced.pointer) % 8192)
        ((blocksWith [fetchPlaced] waitingThread).threads.filter (fun e => coreOf e.1 == 0 && e.2.launch == 0 && e.2.st == .waiting 0 && !e.2.saved &&
          replicaOk (blocksWith [fetchPlaced] waitingThread) fetchPlaced (fetchBlock 0).coll e.1 0)) = some (0, waitingThread)) ∧
    (let p := { fetchPlaced with stopped := true }
     let s := blocksWith [p] fetchThread
     placed? s 0 0 0 = some p ∧ tokensToWrite s p ≤ areaRoom s 0 ∧ (areaWrite 0 (tokensToWrite s p) s).1 = true ∧ s.accesses = [] ∧ inBlockOf s p (0, fetchThread) = true ∧
     s.threads.map (·.2.st) = [.inBlock 0]) := by decide +kernel

def leavingCrew : Crew := { fetchCrew with target := 32, done := 31 }
def stackLaunch : Launch := { fetchLaunch 0 with raw := raw [(30, 2, 64), (32, 8, 0x40000000), (40, 4, 1)] }
def moving : State := { worldAt [] with crews := [(0, leavingCrew)], launches := [stackLaunch] }
def departed : Thread := { fetchThread with st := .departing 0 0 32 }
def wideBlock : Block := { fetchBlock 0 with pages := 17 }
def wideImage : Image := { fetchImage 0 with stitch := true, blocks := [wideBlock] }
def wideLaunch : Launch := { fetchLaunch 0 with image := wideImage }
def stitchedWorld : State := { world with launches := [wideLaunch] }

/-- A crew's window that moves up or down, its stack in mapped memory or not; and a thread that waits for its own window. -/
def movingBy (w : Crew) (base : Nat) (es : List Access) : State :=
  { moving with
    crews := [(0, w)], xlat := { moving.xlat with fqEnable := true }, accesses := es, threads := [(0, { fetchThread with fp := 40 })]
    launches := [{ stackLaunch with raw := raw [(30, 2, 64), (32, 8, base), (40, 4, 1)] }] }
def upward (done : Nat) : Crew := { fetchCrew with target := 32, done := done }
def downward : Crew := { fetchCrew with lo := 32, target := 0, done := 0, high := 96 }
def windowWait : Access := { acc (.livein (node3 .b32) false) 0 0 0 with st := .parked 3 40 none }
def stackOf (base : Nat) : Launch := { stackLaunch with raw := raw [(30, 2, 64), (32, 8, base), (40, 4, 1)] }

theorem witness_WindowsDeparturesAndClusterResets_rows :
    (∀ w ∈ [upward 0, upward 32, downward], ∀ base ∈ [0x40000000, 0x80000000],
      let s := movingBy w base []
      coresRun s = true ∧ (s.crews.filter (fun e => e.1 / 256 == 0)).find? (fun e => e.2.target != e.2.lo) = some (0, w) ∧ tabWf s.crews = true ∧
      tabWf s.core.lvs = true ∧ hamperParked s 0 = false ∧ launchOfCrew s w = some (stackOf base) ∧ s.xlat.fqEnable = true ∧ s.MemOk ∧ s.skim.lines = []) ∧
    (leaving (upward 32)).drop 32 = [] ∧ (leaving (upward 0)).head? = some 0 ∧ (leaving downward).head? = some 64 ∧
    (translate (movingBy (upward 0) 0x40000000 []) 160 0 (stackAddr (stackOf 0x40000000) (upward 0) 0) .sysWrite = .ok 0x40000000 0x40000807 3 ∧
      Nat.max (upward 0).high 1 ≤ 0 + 64 ∧ (upward 0).target ≤ 0 + 64 ∧ 0 + 64 < (upward 0).target + 64) ∧
    (translate (movingBy downward 0x40000000 []) 160 0 (stackAddr (stackOf 0x40000000) downward 64) .sysWrite = .ok 0x40002000 0x40000807 3 ∧
      translate (movingBy downward 0x40000000 []) 160 0 (stackAddr (stackOf 0x40000000) downward 0) .sysWrite = .ok 0x40000000 0x40000807 3 ∧
      badAt (movingBy downward 0x40000000 []) 0x40000000 128 = none ∧ downward.target < downward.lo ∧ 64 - 64 < downward.target + 64) ∧
    translate (movingBy (upward 0) 0x80000000 []) 160 0 (stackAddr (stackOf 0x80000000) (upward 0) 0) .sysWrite = .park 0 ∧
    (let s := movingBy fetchCrew 0x40000000 [windowWait]
     (∀ e ∈ s.crews, e.1 / 256 = 0 → e.2.target = e.2.lo) ∧ hamperParked s 0 = false ∧ oldestWindow s 0 = some windowWait ∧
     tabFind s.crews 0 = some fetchCrew ∧ neededFp s windowWait = 40 ∧ fetchCrew.lo ≤ 40 ∧ 40 + 32 - 64 ≠ fetchCrew.lo) := by
  unfold State.MemOk
  decide +kernel

theorem witness_WindowsDeparturesAndClusterResets :
    ((moving.crews.filter (fun e => e.1 / 256 == 0)).find? (fun e => e.2.target != e.2.lo) = some (0, leavingCrew) ∧ tabWf moving.crews = true ∧
      tabWf moving.core.lvs = true ∧ moving.MemOk ∧ hamperParked moving 0 = false ∧
      hamperParked { moving with crews := [(0, { leavingCrew with moving := some 0 })] } 0 = true ∧ launchOfCrew moving leavingCrew = some stackLaunch ∧
      (leaving leavingCrew).drop leavingCrew.done = [31] ∧ leavingCrew.target = leavingCrew.lo + 32 ∧ leavingCrew.high ≤ 31 + 64 ∧
      translate moving 160 0 (stackAddr stackLaunch leavingCrew 31) .sysWrite = .ok 0x40000F80 0x40000807 3) ∧
    (thread? (blocksWith [fetchPlaced] departed) 0 = some departed ∧ departReady (blocksWith [fetchPlaced] departed) 0 0 = true ∧
      launch? (blocksWith [fetchPlaced] departed) 0 = some (fetchLaunch 0) ∧ armed (blocksWith [fetchPlaced] departed) 0 0 = true) ∧
    (((stitchedWorld.placed.filter (fun q => q.core / 4 == 0 && isStitched stitchedWorld q.launch q.block)).map (·.launch)).eraseDups = [0] ∧
      launch? stitchedWorld 0 = some wideLaunch ∧ wideLaunch.cause = none ∧ wideLaunch.vt = some 0 ∧
      (tag? stitchedWorld 0).map (fun g => (g.st, g.launch)) = some (.active, 0) ∧ hangDue stitchedWorld (topOf stitchedWorld 0) = false) := by
  unfold State.MemOk
  decide +kernel

/-! ## Witnesses: the Rambler -/

def slot0 (r : Rambler) : State := { device with ramblers := r :: List.replicate 3 Rambler.reset }
def mig (state : Nat) (src : Bool) : Rambler := { Rambler.reset with state := state, src := src }
def msg : Hello := { session := 1, pub := [], nonce := [], ident := [1], sig := [] }

theorem witness_RamblerCommandsMoveTheSession :
    ((rambler device 0).state = 0 ∧ device.boot.released = true ∧ device.boot.failed = false ∧ 3 < device.ramblers.length ∧
      (rambler (slot0 (mig 1 true)) 0).state ≠ 0 ∧ (rambler (slot0 (mig 1 true)) 0).space = (rambler (slot0 (mig 1 true)) 3).space) ∧
    ((mig 2 true).src = true ∧ (mig 2 true).state = 2 ∧ (mig 2 false).src = false) ∧
    ({ mig 3 true with cutAt := some 0 }.cutAt = some 0 ∧ (∀ l ∈ (slot0 (mig 3 true)).launches, l.space ≠ (1#6).toNat) ∧
      0 + 700 * (mig 3 true).grace.toNat ≤ (slot0 (mig 3 true)).cycles ∧ (slot0 (mig 3 true)).cycles < 0 + 700 * (1#16).toNat) ∧
    (1 ≤ (mig 4 true).state ∧ (mig 4 true).state ≤ 4) := by decide +kernel

/-- The public key of the secret of one byte 2, and what it signs of the digests of such messages, one with an all-zero public key among them. -/
def signer : Nat := 11081216751402656197953649012483941696411932957366643070398852394368576935269
def signedFinish : Nat := 111866757958944090598703060618757018185253988952667630026858201951579288367426319059631731465635968826022933706439978778147567227349453075800314174591179
def signedReply : Nat := 285886182427552317003706746461503032127564649813360454403672377505154339782530029539914171878408555042419982808798655151764853982128831463982475486276445
def signedZero : Nat := 648479713763856018692339699347277101168012751549983549413370870341466354653073893945873378123073662847671470410886528607822640713931320697262826461318639
def bare32 : Hello := { session := 1, pub := toBytes 32 9, nonce := [], ident := toBytes 32 signer, sig := [] }
def knowing (r : Rambler) : Rambler := { r with peerKey := (List.range 8).map (fun i => BitVec.ofNat 32 (signer / 2 ^ (32 * i))) }

theorem witness_HandshakesVerify :
    (let r := knowing { mig 1 false with hello := some bare32, reply := some bare32, secret := [1] }
     r.src = false ∧ r.hello = some bare32 ∧ r.reply = some bare32 ∧
     ed25519Verify (peerIdentity r) (handshakeDigest 2 bare32 bare32) (toBytes 64 signedFinish) = true ∧
     ed25519Verify (peerIdentity r) (handshakeDigest 2 bare32 bare32) (toBytes 64 2) = false ∧
     allZero (x25519 r.secret bare32.pub) = false ∧ allZero (x25519 r.secret (List.replicate 32 0)) = true) ∧
    (let r := knowing { mig 1 true with hello := some bare32, secret := [1] }
     let m : Hello := { bare32 with sig := toBytes 64 signedReply }
     r.src = true ∧ r.hello = some bare32 ∧ m.session = bare32.session ∧ m.ident = peerIdentity r ∧ msg.ident ≠ peerIdentity r ∧
     ed25519Verify (peerIdentity r) (handshakeDigest 1 bare32 { m with sig := [] }) m.sig = true ∧
     ed25519Verify (peerIdentity r) (handshakeDigest 1 bare32 { bare32 with sig := [] }) bare32.sig = false ∧ allZero (x25519 r.secret m.pub) = false ∧
     (let z : Hello := { m with pub := List.replicate 32 0, sig := toBytes 64 signedZero }
      z.session = bare32.session ∧ z.ident = peerIdentity r ∧ allZero (x25519 r.secret z.pub) = true ∧
      ed25519Verify (peerIdentity r) (handshakeDigest 1 bare32 { z with sig := [] }) z.sig = true)) := by decide +kernel

/-- A frame of one record that opens, one whose tag does not verify, and one that is too short to hold a tag. -/
theorem witness_FramesOpen (r : Rambler) (seq : Nat) (plain : List Byte) (hs : seq < 2 ^ 64) :
    let f := sealFrame r seq plain
    field f 8 8 = seq ∧ gcmOpen r.key (r.salt ++ toBytes 8 seq) (f.take 16) (f.drop 16) = some plain ∧
    gcmOpen r.key (r.salt ++ toBytes 8 seq) ((f.take 20).take 16) ((f.take 20).drop 16) = none := by
  have hl : (toBytes 4 r.session.toNat ++ toBytes 4 0 ++ toBytes 8 seq).length = 16 := by simp [toBytes]
  refine ⟨?_, ?_, ?_⟩
  · have h8 : ((sealFrame r seq plain).drop 8).take 8 = toBytes 8 seq := by
      simp [sealFrame, toBytes]
    unfold field
    rw [h8]
    simp only [toBytes, ofBytes, BitVec.toNat_ofNat]
    omega
  · unfold sealFrame
    dsimp only
    rw [← hl, List.take_left, List.drop_left]
    exact gcmOpen_gcmSeal _ _ _ _
  · unfold gcmOpen
    dsimp only
    rw [if_pos]
    left
    simp [sealFrame]
    omega

theorem witness_RamblerFramesAndRoundsAreAppliedOnce :
    ((rambler (slot0 (mig 1 false)) 0).state = 1 ∧ (mig 1 false).hello = none ∧ msg.ident ≠ peerIdentity (mig 1 false) ∧
      List.replicate 32 0 = peerIdentity (mig 1 false) ∧ (mig 1 false).src = false) ∧
    ({ mig 1 true with hello := some msg }.hello = some msg ∧ { mig 1 false with hello := some msg, reply := some msg }.reply = some msg) ∧
    (let r := { mig 2 false with begun := true, logSize := 4096, logLo := 0x4000 }
     let f : List Byte := List.replicate 16 0
     let plain := toBytes 2 2 ++ [1, 1] ++ toBytes 4 16 ++ toBytes 8 0x3000 ++ List.replicate 16 7
     r.begun = true ∧ r.accepted.contains (field f 8 8) = false ∧ (parseRecord plain).tag = 2 ∧
     (parseRecord plain).ver ≤ 1 ∧ translate (slot0 r) 160 r.space.toNat ((parseRecord plain).key / 4096 * 4096) .device = .ok 0x3000 0x17 3 ∧
     (slot0 r).skim.entries = [] ∧ (slot0 r).MemOk ∧ r.logUsed + plain.length ≤ r.logSize.toNat ∧
     (∀ x ∈ [(1, 1), (0xFF, 1), (0x55, 1), (2, 2)], let y := parseRecord (toBytes 2 x.1 ++ toBytes 1 x.2 ++ [1] ++ toBytes 4 0 ++ toBytes 8 0)
       y.tag = x.1 ∧ y.ver = x.2 ∧ y.req = true) ∧
     (∀ i < plain.length, translate (slot0 r) 160 r.space.toNat (r.logLo.toNat + r.logHi.toNat * 2 ^ 32 + r.logUsed + i) .device =
        .ok (0x4000 + i) 0x17 3 ∧ reachable (slot0 r) (0x4000 + i) = true)) ∧
    (∀ us ∈ [[], [1], [1, 2]], let r := { mig 2 true with begun := true, unacked := us, roundEnd := us == [] }
      r.begun = true ∧ 1 ≤ r.state ∧ r.state ≤ 4 ∧ (r.unacked = [] → r.ended = false ∧ r.roundEnd = true)) := by
  unfold State.MemOk
  decide +kernel

/-! ## Witnesses: what ends launches -/

/-- The launch of a state and its tag as the statement on causes has them. -/
def struckAt (s : State) (l : Launch) : Prop :=
  launch? s 0 = some l ∧ l.vt = some 0 ∧ (tag? s 0).map (fun g => (g.launch, g.st)) = some (0, .active) ∧ l.cause = none ∧ descendants s 0 = []

theorem witness_CausesHaveTheirCodesAndOutcomes_nodes :
    (struckAt (worldAt [7]) (fetchLaunch 0) ∧ Fires (worldAt [7]) (firing [7]) [opd64 (.port 0)] [] ∧ (thread? (worldAt [7]) 0).isSome = true) ∧
    (Fires (worldAt [6, 5]) (firing [6, 5]) [opd64 (.port 0), opd64 (.port 1)] [] ∧
      opVal (worldAt [6, 5]) (firing [6, 5]) (node3 .b64) (opd64 (.port 0)) % 2 = 0) ∧
    (struckAt emulating { fetchLaunch 0 with raw := raw [(44, 4, 4096), (48, 8, 0x40000000)], image := handlerImage } ∧
      emulating.cur = some (firing [3]) ∧ isHandler emulating 0 0 = true ∧ (thread? emulating 0).isSome = true) ∧
    (FiresOut (worldAt [5]) (firing [5]) [opd32 (.port 0)] [] ∧ opVal (worldAt [5]) (firing [5]) (node3 .b32) (opd32 (.port 0)) = 5 ∧
      (fetchLaunch 0).image = fetchImage 0 ∧ ¬(5 < (fetchImage 0).blocks.length)) ∧
    (let s := { worldAt [0xFFFF0000] with threads := [(0, { fetchThread with fp := 1 })] }
     FiresOut s (firing [0xFFFF0000]) [opd32 (.port 0)] [] ∧ opVal s (firing [0xFFFF0000]) (node3 .b32) (opd32 (.port 0)) = 0xFFFF0000 ∧
     0 < (fetchImage 0).blocks.length ∧ (fetchImage 0).emulate = false ∧ Nat.max 64 (lrWsRows (fetchLaunch 0).raw) < 1 + (31 + 1) + 32) := by
  unfold struckAt FiresOut Fires
  decide +kernel

/-- The world with a root table that companion memory holds, and with a page that may not be written. -/
def farRoot (i : Instr) (a : Nat) : State := { doing i a 0 0 with spaces := { Space.reset with enable := true, rootHi := 0x80000 } :: List.replicate 63 Space.reset }
def readOnly (i : Instr) : State := { doing i 0x3000 0 0 with mem := { Mem.reset with home := tables.take 4 ++ [(0x2000, 0x13)] ++ tables.drop 5 } }

theorem witness_CausesHaveTheirCodesAndOutcomes_accesses :
    (InFlight (doing load0 0x3002 0 0) (acc load0 0x3002 0 0) ∧ struckAt (doing load0 0x3002 0 0) (fetchLaunch 0) ∧ 0x3002 % (tyBits .b32 / 8) ≠ 0) ∧
    (InFlight (doing load0 0x80000000 0 0) (acc load0 0x80000000 0 0) ∧ (doing load0 0x80000000 0 0).xlat.fqEnable = false ∧
      translate (doing load0 0x80000000 0 0) 0 0 0x80000000 .read = .park 0) ∧
    (InFlight (doing load0 0x40000000 0 0) (acc load0 0x40000000 0 0) ∧ translate (doing load0 0x40000000 0 0) 0 0 0x40000000 .read = .perm) ∧
    (InFlight (farRoot load0 0x3000) (acc load0 0x3000 0 0) ∧ translate (farRoot load0 0x3000) 0 0 0x3000 .read = .link ∧ struckAt (farRoot load0 0x3000) (fetchLaunch 0)) ∧
    (let s := { doing load0 0x3000 0 0 with mem := { world.mem with bad := [(0x180, (1, 0))] } }
     InFlight s (acc load0 0x3000 0 0) ∧ translate s 0 0 0x3000 .read = .ok 0x3000 0x17 3 ∧ s.skim.lines = [] ∧
     (badSeen (fillTlb 0 0 0x3000 s) 0 0x3000 4).isSome = true) := by
  unfold struckAt InFlight
  decide +kernel

theorem witness_CausesHaveTheirCodesAndOutcomes_stores :
    let i := Instr.st (node3 .b32) .g plainMem
    (InFlight (readOnly i) (acc i 0x3000 0 0) ∧ translate (readOnly i) 0 0 0x3000 .write = .park 1 ∧ (readOnly i).xlat.fqEnable = false ∧
      struckAt (readOnly i) (fetchLaunch 0)) ∧
    (let s := skimmed i [entry [1, 2, 3, 4] []] none
     transacts i [entry [1, 2, 3, 4] []] none ∧ struckAt s (fetchLaunch 0) ∧ unitHeld s 0 (unitOf 0x3000 0x07) = false ∧
     s.skim.entries.find? (fun e => e.unit_ == 0x3000 && e.len == 128) = some (entry [1, 2, 3, 4] [])) ∧
    (let s := skimmed i [] none
     let t := { s with skim := { s.skim with room := List.replicate 4 (2 ^ 27 + 1) } }
     InFlight t (acc i 0x3000 5 0) ∧ translate t 0 0 0x3000 .write = .ok 0x3000 0x07 3 ∧ vtOfFiring t (firing []) = some 0 ∧ unitHeld t 0 (0x3000, 128) = false ∧
     t.skim.entries = [] ∧ makeEntryRoom 0 0x3000 (fillTlb 0 0 0x3000 t) = (false, fillTlb 0 0 0x3000 t)) := by
  unfold struckAt transacts InFlight
  decide +kernel

theorem witness_CausesHaveTheirCodesAndOutcomes_services :
    (let i := Instr.ld (node3 .b32) .p plainMem
     let s := doing i (5 * 2 ^ 20) 0 0
     InFlight s (acc i (5 * 2 ^ 20) 0 0) ∧ teamOf s (firing []) = some fetchTeam ∧ imageOf s 0 = some (fetchImage 0) ∧ fetchTeam.num ≠ 5 ∧
     s.teams.find? (fun x => x.launch == 0 && x.num == 5) = none) ∧
    (InFlight (childNode launchNode 0x4100 10 0 []) (acc launchNode 0x4100 0 0) ∧ struckAt (childNode launchNode 0x4100 10 0 []) { fetchLaunch 0 with depth := 10 } ∧
      (teamOf (childNode launchNode 0x4100 10 0 []) (firing [])).isSome = true ∧ (fetchLaunch 0).phase = .running) ∧
    (InFlight (childNode lwaitNode 1 0 1 []) (acc lwaitNode 1 0 0) ∧ (teamOf (childNode lwaitNode 1 0 1 []) (firing [])).map (fun m => m.children.length) = some 1) ∧
    (∀ i ∈ [nsend, nrecv],
      InFlight (netNode i 0x3000 8 1 0 [] tables 0) (acc i 0x3000 8 1) ∧ entryCut (netNode i 0x3000 8 1 0 [] tables 0) 0 1 = false ∧
      entryUe (netNode i 0x3000 8 1 0 [] tables 0) 0 1 = none ∧ handleOf (netNode i 0x3000 8 1 0 [] tables 0) 0 1 = none ∧
      InFlight (cutOff i) (acc i 0x3000 8 0) ∧ entryCut (cutOff i) 0 0 = true) := by
  refine ⟨?_, ?_, ?_, ?_⟩ <;> (try unfold struckAt) <;> unfold InFlight <;> decide +kernel

/-- A launch that hangs, one whose deadline has come, and one whose record a kill names, each with its tag. -/
theorem witness_CausesHaveTheirCodesAndOutcomes_events :
    (hangDue (waitingLong 0 1) 0 = true ∧ struckAt (waitingLong 0 1) (timed 0 1) ∧ (space (waitingLong 0 1) 0).hmSize = 0 ∧
      ∀ a ∈ (waitingLong 0 1).accesses, a.st ≠ .flight ∧ a.st ≠ .held ∧ (a.st = .blocked → a.left = [])) ∧
    (hangDue (timing 700 0) 0 = false ∧ struckAt (timing 700 0) (timed 700 0) ∧ 0 < lrDeadline (timed 700 0).raw ∧
      700 * lrDeadline (timed 700 0).raw ≤ (timed 700 0).deadline ∧ (timed 700 0).parent = none) ∧
    (hangDue world 0 = false ∧ struckAt world (fetchLaunch 0) ∧ world.disp.killBusy = false ∧ (fetchLaunch 0).index = 0 ∧ (fetchLaunch 0).queue = 0 ∧
      world.disp.killHi.toNat * 2 ^ 32 + world.disp.killLo.toNat = 0 ∧ (queue world 0).waiting.find? (fun x => x.index == 0) = none ∧
      world.launches.find? (fun x => x.queue == 0 && x.index == 0 && x.parent.isNone) = some (fetchLaunch 0)) ∧
    (hangDue stitchedWorld 0 = false ∧ struckAt stitchedWorld wideLaunch ∧
      ((stitchedWorld.placed.filter (fun q => q.core / 4 == 0 && isStitched stitchedWorld q.launch q.block)).map (·.launch)).eraseDups = [0]) ∧
    (thread? world 0 = some fetchThread ∧ team? world fetchThread.team = some fetchTeam ∧ world.boot.released = true ∧ world.boot.failed = false) := by
  unfold struckAt
  decide +kernel

/-- The grace period of the launch's space ends, its launch of teams that commit or not. -/
def expiring (commits : Nat) : State :=
  { slot0 { mig 3 true with cutAt := some 0 } with launches := [{ fetchLaunch 0 with raw := raw [(3, 1, 2)], teamCommits := commits }] }
def aborted_ : Launch := { fetchLaunch 0 with phase := .aborted, raw := raw [(88, 8, 0x3000), (96, 8, 0x5000)], cause := some 0x0E }

theorem witness_CausesHaveTheirCodesAndOutcomes_outcomes :
    (∀ c ∈ [0, 1], (rambler (expiring c) 0).state = 3 ∧ (rambler (expiring c) 0).cutAt = some 0 ∧ (rambler (expiring c) 0).space.toNat = 0 ∧
      0 + 700 * (rambler (expiring c) 0).grace.toNat ≤ (expiring c).cycles ∧ hangDue (expiring c) 0 = false ∧
      (expiring c).launches.map (fun l => (lrTeamGran l.raw, topActive (expiring c) l, l.teamCommits)) = [(true, true, c)] ∧
      (expiring c).boot.released = true ∧ 0 < (expiring c).ramblers.length ∧ ∀ e ∈ (expiring c).skim.tags, e.2.st ≠ .committing) ∧
    (let s := { skimWith .aborting Skim.reset with launches := [aborted_], skim := Skim.reset }
     coresRun s = true ∧ launch? s 0 = some aborted_ ∧ aborted_.cause = some 0x0E ∧ wordReady s aborted_ = true ∧ aborted_.requeue = false ∧
     translate s 160 0 (lrDone aborted_.raw) .devWrite = .ok 0x3000 0x17 3 ∧ pteSys 0x17 = false ∧ s.MemOk ∧ s.kamub.copies = [] ∧
     aborted_.ran = true ∧ lrReport aborted_.raw = 0x5000 ∧ openTarget (drainDies aborted_.dies s) 0 (0x5000 + 64) 64 = some 0x5040) := by
  unfold State.MemOk
  decide +kernel

/-! ## Witnesses: the machine as a whole -/

theorem witness_StepRunsTheDecodedInstruction :
    (∃ t u, takeTurn (State.reset.withFetchWord 128 0x20004800200080000005801000000000) = (some t, u) ∧ t.what = .fire 0 ∧
      coresRun (startTurn t u) = true ∧ (startTurn t u).core.pes = [] ∧ (chosen (startTurn t u) 0).isSome = true ∧
      takeFire 1 (startTurn t u) = none) ∧
    isEvent .scTokenHop = true ∧ Instr.scTokenHop.wf = true ∧ isEvent (.cold 0) = true ∧ isEvent (.add (node3 .s32) false) = false :=
  ⟨⟨_, _, rfl, by decide +kernel⟩, by decide⟩

theorem witness_EveryStepKeepsMemoryCanonical : world.MemOk ∧ ∃ t, step (State.reset.withFetchWord 128 0) = .next t := by
  exact ⟨by unfold State.MemOk; decide, _, rfl⟩

theorem witness_HomeWritesChangeOneByte : world.MemOk ∧ ∀ l ∈ world.skim.lines, tabWf l.bytes = true := by
  unfold State.MemOk
  decide

end Sys2Proof.Tests
end

/-! ## What a turn runs (R6, R167, R172) -/

namespace Sys2Proof.Machine

/-! ### The least element and the oldest tokens -/

theorem leastBy_mem {α : Type} {key : α → Nat} {x : α} {l : List α} (h : leastBy key l = some x) : x ∈ l := by
  induction l generalizing x with
  | nil => cases h
  | cons y t ih =>
    unfold leastBy at h
    split at h
    next z hz =>
      split at h
      · cases h; exact List.mem_cons_of_mem y (ih hz)
      · cases h; exact List.mem_cons_self
    next => cases h; exact List.mem_cons_self

theorem oldest_mem {k : Token} {ks : List Token} (h : oldest ks = some k) : k ∈ ks := leastBy_mem h

theorem oldestEach_head_mem {gs : List (List Token)} {j : Token} {js : List Token} (h : oldestEach gs = some (j :: js)) :
    ∃ g ∈ gs, j ∈ g := by
  cases gs with
  | nil => cases h
  | cons g gs =>
    unfold oldestEach at h
    split at h
    next k ks hk hks => cases h; exact ⟨g, List.mem_cons_self, oldest_mem hk⟩
    next => cases h

/-! ### A match is made at the node of its tokens -/

theorem sameNode_iff {k j : Token} :
    sameNode k j = true ↔ k.launch = j.launch ∧ k.block = j.block ∧ k.replica = j.replica ∧ k.node = j.node := by
  simp [sameNode, and_assoc]

theorem sameNode_of_sameCrew {s : State} {k j : Token} (h : sameCrew s k j = true) : sameNode k j = true := by
  simp only [sameCrew, Bool.and_eq_true] at h
  obtain ⟨⟨⟨hn, -⟩, -⟩, -⟩ := h
  exact hn

theorem sameNode_of_mem_groupsFor_join {s : State} {i : Instr} {k j : Token} {store g : List Token} (hi : matchingOf i = .join)
    (hg : g ∈ groupsFor s i k store) (hj : j ∈ g) : sameNode k j = true := by
  simp only [groupsFor, hi, List.mem_map] at hg
  obtain ⟨lane, -, rfl⟩ := hg
  have hc := (List.mem_filter.mp hj).2
  exact sameNode_of_sameCrew (Bool.and_eq_true_iff.mp hc).1

/-- The firing that a token's match makes is at the token's own node, also where the oldest lane's token makes it (R192). -/
theorem matchFrom_node {s : State} {i : Instr} {k : Token} {store : List Token} {f : Firing} (h : matchFrom s i k store = some f) :
    f.launch = k.launch ∧ f.block = k.block ∧ f.node = k.node := by
  unfold matchFrom at h
  split at h
  case h_1 =>
    split at h
    · cases h; exact ⟨rfl, rfl, rfl⟩
    · cases h
  case h_2 hi =>
    split at h
    · cases h
    · split at h
      next j js hold =>
        cases h
        obtain ⟨g, hg, hj⟩ := oldestEach_head_mem hold
        obtain ⟨hl, hb, -, hn⟩ := sameNode_iff.mp (sameNode_of_mem_groupsFor_join hi hg hj)
        exact ⟨hl.symm, hb.symm, hn.symm⟩
      next => cases h
  case h_3 =>
    obtain ⟨toks, -, rfl⟩ := Option.map_eq_some_iff.mp h
    exact ⟨rfl, rfl, rfl⟩

/-! ### What an element fires is what the decoder reads -/

theorem nodeAt_eq_some_iff {s : State} {l b node : Nat} {i : Instr} :
    nodeAt s l b node = some i ↔
      ∃ k w, blockAt s l b = some k ∧ tabFind k.words node = some w ∧ decodeIn (emulatesOf s l) w = .ok i := by
  cases hb : blockAt s l b with
  | none => simp [nodeAt, hb]
  | some k =>
    cases hw : tabFind k.words node with
    | none => simp [nodeAt, hb, hw]
    | some w => cases hd : decodeIn (emulatesOf s l) w <;> simp [nodeAt, hb, hw, hd]

/-- A complete match, one made again too, runs the node that stands at its place. -/
theorem nodeAt_of_mem_matchesAt {s : State} {pe : Nat} {i : Instr} {f : Firing} (h : (i, f) ∈ matchesAt s pe) :
    nodeAt s f.launch f.block f.node = some i := by
  simp only [matchesAt, List.mem_append, List.mem_filterMap, Option.bind_eq_some_iff, Option.map_eq_some_iff,
    Prod.mk.injEq] at h
  obtain ⟨k, -, i', hi, f', hf, rfl, rfl⟩ | ⟨f', -, i', hi, rfl, rfl⟩ := h
  · obtain ⟨hl, hb, hn⟩ := matchFrom_node hf
    rw [hl, hb, hn]
    exact hi
  · exact hi

theorem nodeAt_of_chosen {s : State} {pe : Nat} {i : Instr} {f : Firing} (h : chosen s pe = some (i, f)) :
    nodeAt s f.launch f.block f.node = some i :=
  nodeAt_of_mem_matchesAt (List.mem_filter.mp (leastBy_mem h)).1

theorem takeFire_of_chosen {s : State} {pe : Nat} {i : Instr} {f : Firing} (hr : coresRun s = true)
    (hl : ∀ x, tabFind s.core.pes pe = some x → x.last ≠ s.cycles + 1) (hc : chosen s pe = some (i, f)) :
    takeFire pe s = some (i, beginFire pe i f s) := by
  unfold takeFire
  cases hx : tabFind s.core.pes pe with
  | none => simp [hr, hc]
  | some x => simp [hr, hc, hl x hx]

@[simp] theorem beginFire_cur (pe : Nat) (i : Instr) (f : Firing) (s : State) : (beginFire pe i f s).cur = some f := rfl

/-! ### A step, turn by turn -/

theorem step_of_no_turn {s u : State} (h : takeTurn s = (none, u)) : step s = .next u := by
  simp [step, h]

theorem step_of_event {s u : State} {t : Turn} {i : Instr} (h : takeTurn s = (some t, u)) (hw : t.what = .event i) :
    step s = if isEvent i && i.wf then exec i (startTurn t u) else .next (startTurn t u) := by
  simp [step, h, hw]

theorem step_of_idle_element {s u : State} {t : Turn} {pe : Nat} (h : takeTurn s = (some t, u)) (hw : t.what = .fire pe)
    (hf : takeFire pe (startTurn t u) = none) : step s = .next (startTurn t u) := by
  simp [step, h, hw, hf]

theorem step_of_firing {s u v : State} {t : Turn} {pe : Nat} {i : Instr} (h : takeTurn s = (some t, u)) (hw : t.what = .fire pe)
    (hf : takeFire pe (startTurn t u) = some (i, v)) : step s = exec i v := by
  simp [step, h, hw, hf]

end Sys2Proof.Machine

section
open Sys2Proof Sys2Proof.Machine

/-- Settles O4: a step is read off turn by turn; a match stands at the node of its tokens, so the node that an element fires
is the one that the decoder reads at the firing's place. -/
theorem stepRunsTheDecodedInstruction : Obligations.StepRunsTheDecodedInstruction := by
  unfold Obligations.StepRunsTheDecodedInstruction
  intro s u t pe i
  refine ⟨step_of_no_turn, fun ht => ⟨fun hw he hi => ?_, fun hw hno => ?_, step_of_idle_element ht, fun hw f hr hl hc => ?_⟩⟩
  · rw [step_of_event ht hw, he, hi]; rfl
  · rw [step_of_event ht hw]
    obtain he | hi := hno
    · simp [he]
    · simp [hi]
  · exact ⟨step_of_firing ht hw (takeFire_of_chosen hr hl hc), beginFire_cur pe i f _, nodeAt_eq_some_iff.mp (nodeAt_of_chosen hc)⟩

end

/-! ## The state at the start of a cold start (R53, R56) -/

namespace Sys2Proof.Machine

theorem reset_spaces {x : Space} (h : x ∈ State.reset.spaces) : x = Space.reset := List.eq_of_mem_replicate h
theorem reset_queues {x : Queue} (h : x ∈ State.reset.queues) : x = Queue.reset := List.eq_of_mem_replicate h
theorem reset_eth {e : EthPort} (h : e ∈ State.reset.eth) : e = EthPort.reset := List.eq_of_mem_replicate h
theorem reset_ramblers {r : Rambler} (h : r ∈ State.reset.ramblers) : r = Rambler.reset := List.eq_of_mem_replicate h

end Sys2Proof.Machine

section
open Sys2Proof Sys2Proof.Machine

/-- Settles O5: each register stands in `State.reset` with its value, and every space, queue, port and slot is a copy of its own reset. -/
theorem resetHoldsTheStatedValues : Obligations.ResetHoldsTheStatedValues := by
  unfold Obligations.ResetHoldsTheStatedValues
  refine ⟨rfl, rfl, rfl, rfl, rfl, rfl, rfl, rfl, rfl, rfl, rfl, rfl, rfl, rfl, rfl, rfl, rfl, rfl, fun x hx => ?_, rfl, fun x hx => ?_,
    fun _ _ => rfl, rfl, rfl, rfl, rfl, fun e he => ?_, fun r hr => ?_, rfl, rfl, rfl, rfl, rfl, rfl, rfl⟩
  · rw [reset_spaces hx]; exact ⟨rfl, rfl⟩
  · rw [reset_queues hx]; exact ⟨rfl, rfl, rfl⟩
  · rw [reset_eth he]; rfl
  · rw [reset_ramblers hr]; rfl

end

/-! ## Reads of registers that clear, and the dirty bitmap (R24, R38 to R41, R52, R63) -/

namespace Sys2Proof.Machine

theorem answers_of_not_failed {s : State} {o : Nat} (hf : s.boot.failed = false) : answers s o = true := by
  simp [answers, hf]

/-! ### Sums of bits, and tables filled key by key -/

theorem sum_boolBit_succ (f : Nat → Bool) (n : Nat) :
    ((List.range (n + 1)).map (fun i => boolBit (f i) i)).sum
      = 2 ^ n * (f n).toNat + ((List.range n).map (fun i => boolBit (f i) i)).sum := by
  rw [List.sum_range_succ, Nat.add_comm]
  cases h : f n <;> simp [boolBit]

theorem sum_boolBit_lt (f : Nat → Bool) (n : Nat) : ((List.range n).map (fun i => boolBit (f i) i)).sum < 2 ^ n := by
  induction n with
  | zero => simp
  | succ n ih =>
    rw [sum_boolBit_succ, Nat.pow_succ]
    have hb : 2 ^ n * (f n).toNat ≤ 2 ^ n * 1 := Nat.mul_le_mul_left _ (Bool.toNat_le _)
    omega

theorem testBit_sum_boolBit (f : Nat → Bool) {i n : Nat} (hi : i < n) :
    ((List.range n).map (fun i => boolBit (f i) i)).sum.testBit i = f i := by
  induction n with
  | zero => omega
  | succ n ih =>
    rw [sum_boolBit_succ, Nat.testBit_two_pow_mul_add _ (sum_boolBit_lt f n)]
    split
    next h => exact ih h
    next h =>
      obtain rfl : i = n := by omega
      cases f i <;> simp

theorem tabFind_foldl_put {α : Type} (v : α) (k : Nat → Nat) (l : List Nat) (t : Tab α) (x : Nat) :
    tabFind (l.foldl (fun t i => tabPut t (k i) v) t) x = if ∃ i ∈ l, k i = x then some v else tabFind t x := by
  induction l generalizing t with
  | nil => simp
  | cons j l ih =>
    rw [List.foldl_cons, ih]
    by_cases hj : k j = x
    · subst hj; simp
    · rw [tabFind_put_other t v (Ne.symm hj)]
      simp [hj]

/-! ### The dirty bitmap -/

theorem testBit_dirtyWord (s : State) {w i : Nat} (hw : w < 2367488) (hi : i < 64) :
    (dirtyWord s w).testBit i = (tabFind s.mem.clean (64 * w + i)).isNone := by
  rw [dirtyWord, if_neg (by omega), testBit_sum_boolBit (fun i => (tabFind s.mem.clean (64 * w + i)).isNone) hi]

theorem dirtyWord_past {s : State} {w : Nat} (hw : 2367488 ≤ w) : dirtyWord s w = 0 := if_pos hw

/-- The bitmap with the 64 bits of a word cleared (R41). -/
def cleanWord (w : Nat) (t : Tab Unit) : Tab Unit := (List.range 64).foldl (fun t i => tabPut t (64 * w + i) ()) t

theorem tabFind_cleanWord (w : Nat) (t : Tab Unit) (x : Nat) :
    tabFind (cleanWord w t) x = if x / 64 = w then some () else tabFind t x := by
  have hx : (∃ i ∈ List.range 64, 64 * w + i = x) ↔ x / 64 = w := by
    simp only [List.mem_range]
    exact ⟨fun ⟨i, hi, he⟩ => by omega, fun h => ⟨x % 64, by omega, by omega⟩⟩
  simp only [cleanWord, tabFind_foldl_put, hx]

/-- A read of DIRTY_WORD_LO latches and answers the selected word, and clears the word's bits where CLEAR is set, nothing is
frozen and the bitmap has the word (R40, R41, R63). -/
theorem exec_dirtyWordLoRead {s : State} {w : Nat} {c : Bool} (hf : s.boot.failed = false)
    (hw : s.mem.dirtySel.toNat % 2 ^ 22 = w)
    (hc : (s.mem.dirtySel.getLsbD 31 && !(s.boot.frozenCmd || s.boot.frozenPin) && decide (w < 2367488)) = c) :
    exec .dirtyWordLoRead s = .next { s with
      readData := BitVec.ofNat 32 (dirtyWord s w)
      mem := { s.mem with
        latch := BitVec.ofNat 64 (dirtyWord s w)
        clean := if c then cleanWord w s.mem.clean else s.mem.clean } } := by
  have hr : w32 (bits (dirtyWord s w) 31 0) = BitVec.ofNat 32 (dirtyWord s w) :=
    BitVec.eq_of_toNat_eq (by simp [w32, bits])
  have hsel : bits s.mem.dirtySel.toNat 21 0 = w := hw
  show execDirtyWordLoRead s = _
  simp only [execDirtyWordLoRead, frozen, answers_of_not_failed hf, hsel, hr, hc, Bool.not_true, Bool.false_eq_true, if_false]
  cases c <;> rfl

/-! ### Reads that clear -/

/-- Outside the failed state a read of a register that clears hands over its value and then clears, but during a freeze (R52, R63). -/
theorem next_clearingRead {s : State} {o v : Nat} (hf : s.boot.failed = false) (hv : regValue s o = v) (clear : State → State) :
    (.next (clearingRead o clear s) : Out) = .next
      (let t := { s with readData := BitVec.ofNat 32 v }; if s.boot.frozenCmd || s.boot.frozenPin then t else clear t) := by
  simp only [clearingRead, readInto, regRead, frozen, answers_of_not_failed hf, hv, w32, Bool.not_true, Bool.or_false, if_true]

theorem boolBit_eq (b : Bool) (i : Nat) : boolBit b i = (if b then 1 else 0) * 2 ^ i := by
  cases b <;> simp [boolBit]

theorem regValue_eth {p : Nat} (s : State) (hp : p < 16) :
    regValue s (0x900 + 4 * p) =
      let e := s.eth.getD p EthPort.reset
      boolBit e.up 0 + boolBit e.llr 1 + e.uudDrop * 2 ^ 8 + e.trimRx * 2 ^ 16 + e.refused * 2 ^ 24 := by
  have hd : (0x900 + 4 * p - 0x900) / 4 = p := by omega
  simp (disch := omega) only [regValue, if_neg, if_pos, hd]

theorem regValue_share {d : Nat} (s : State) (hd : d < 4) : regValue s (0x3010 + 4 * d) = shareRead s d := by
  have hq : (0x3010 + 4 * d - 0x3010) / 4 = d := by omega
  simp (disch := omega) only [regValue, if_neg, if_pos, hq]

theorem regValue_placerStatus {d : Nat} (s : State) (hd : d < 4) :
    regValue s (0x3628 + 0x40 * d) = placerRead (s.placers.getD d Placer.reset) 0x28 := by
  have hq : (0x3628 + 0x40 * d - 0x3600) / 0x40 = d := by omega
  have hm : (0x3628 + 0x40 * d - 0x3600) % 0x40 = 0x28 := by omega
  simp (disch := omega) only [regValue, if_neg, if_pos, hq, hm]

theorem regValue_netStatus {n : Nat} (s : State) (hn : n < 64) : regValue s (0x3C0C + 0x10 * n) = netRead s n 0xC := by
  have hq : (0x3C0C + 0x10 * n - 0x3C00) / 16 = n := by omega
  have hm : (0x3C0C + 0x10 * n) % 16 = 0xC := by omega
  simp (disch := omega) only [regValue, if_neg, if_pos, hq, hm]

end Sys2Proof.Machine

section
open Sys2Proof Sys2Proof.Machine

/-- Settles O42: every read that clears is `clearingRead` of its register's value; the dirty word's bits are those of a sum of
distinct powers of two, and clearing lists the word's 64 keys as clean. -/
theorem clearingReadsHandOverAndZero : Obligations.ClearingReadsHandOverAndZero := by
  unfold Obligations.ClearingReadsHandOverAndZero
  refine ⟨fun s p d n w hf => ?_, fun s hf _ => ?_, fun s hf hw => ?_⟩
  · refine ⟨?_, ?_, ?_, ?_, ?_, ?_, ?_, ?_, ?_, ?_, ?_, ?_⟩
    · exact next_clearingRead hf rfl _
    · exact next_clearingRead hf (by simp [regValue, boolBit_eq]) _
    · exact next_clearingRead hf (by simp [regValue, boolBit_eq]) _
    · exact next_clearingRead hf (by simp [regValue_eth s p.isLt, boolBit_eq]) _
    · exact next_clearingRead hf rfl _
    · exact next_clearingRead hf rfl _
    · exact next_clearingRead hf (regValue_share s d.isLt) _
    · exact next_clearingRead hf rfl _
    · exact next_clearingRead hf (regValue_placerStatus s d.isLt) _
    · exact next_clearingRead hf (regValue_netStatus s n.isLt) _
    · show execDebugWindowRead w s = _
      simp only [execDebugWindowRead, answers_of_not_failed hf, if_true]
    · intro hz
      simp [debugWord, frozen, hz]
  · intro w clears hw
    have hsel : s.mem.dirtySel.toNat % 2 ^ 22 = w := rfl
    have hc : (s.mem.dirtySel.getLsbD 31 && !(s.boot.frozenCmd || s.boot.frozenPin) && decide (w < 2367488)) = clears := by
      simp only [clears, hw, decide_true, Bool.and_true]
    clear_value w clears
    refine ⟨_, exec_dirtyWordLoRead hf hsel hc, rfl, fun i hi => ?_, ?_, fun x => ?_⟩
    · simp only [BitVec.getLsbD_ofNat, hi, decide_true, Bool.true_and, testBit_dirtyWord s hw hi]
    · simp
    · cases clears
      · simp
      · by_cases hx : x / 64 = w <;> simp [hx, tabFind_cleanWord]
  · rw [exec_dirtyWordLoRead (c := false) hf rfl (by rw [decide_eq_false (by omega), Bool.and_false]), dirtyWord_past hw]
    rfl

end

/-! ## Plain writes of registers (R7, R52) -/

namespace Sys2Proof.Machine

/-! ### What a plain write does -/

/-- A plain write whose path is up, of a register that no row of the table has for its own, stores it (R52). -/
theorem exec_registerWrite_stores {via : MgmtPath} {o : Nat} {d : Word32} {s t : State} (hf : s.boot.failed = false)
    (hp : via ≠ .kamub ∨ s.kamub.up ≠ 0) (ho : o % 4 = 0 ∧ o < 0x4000) (hr : ownRow o d = false) (ht : regWrite o d s = t) :
    exec (.registerWrite via o d) s = .next t := by
  have hpath : pathTakes s via o = true := by
    have hlt : o < 65536 := by omega
    cases via <;> simp_all [pathTakes]
  show execRegisterWrite via o d s = _
  rw [execRegisterWrite, hpath, answers_of_not_failed hf, hr, ht]
  rfl

/-- A write that its path does not take, or whose register stores nothing, leaves the state (R7, R52). -/
theorem exec_registerWrite_idle {via : MgmtPath} {o : Nat} {d : Word32} {s : State}
    (h : pathTakes s via o = false ∨ regWrite o d s = s) : exec (.registerWrite via o d) s = .next s := by
  show execRegisterWrite via o d s = _
  rw [execRegisterWrite]
  obtain h | h := h <;> simp [h]

theorem pathTakes_kamub_down {s : State} {o : Nat} (h : s.kamub.up = 0) : pathTakes s .kamub o = false := by
  simp [pathTakes, h]

theorem pathTakes_unaligned {s : State} {via : MgmtPath} {o : Nat} (h : o % 4 ≠ 0) : pathTakes s via o = false := by
  simp [pathTakes, h]

/-- MGMT_ALERT and its enables, with ALERT_N told where it changes (R64). -/
theorem setAlerts_eq (x y : BitVec 6) (s : State) :
    setAlerts x y s = { s with
      boot := { s.boot with alert := x, alertEn := y }
      outputs := s.outputs ++ if (x &&& y != 0) = (s.boot.alert &&& s.boot.alertEn != 0) then [] else [.alert (x &&& y != 0)] } := by
  unfold setAlerts alertRaised
  dsimp only
  split <;> simp

/-! ### Which offsets belong to a row of their own -/

theorem ownRow_bootCtrl {d : Word32} (h0 : d.getLsbD 0 = false) (h1 : d.getLsbD 1 = false) (h3 : d.getLsbD 3 = false)
    (h4 : d.getLsbD 4 = false) : ownRow 4 d = false := by
  simp only [BitVec.getLsbD] at h0 h1 h3 h4
  simp [ownRow, bit, h0, h1, h3, h4]

theorem ownRow_attCtrl {d : Word32} (h0 : d.getLsbD 0 = false) (h1 : d.getLsbD 1 = false) : ownRow 0xC20 d = false := by
  simp only [BitVec.getLsbD] at h0 h1
  simp [ownRow, bit, h0, h1]

theorem ownRow_invCtrl {d : Word32} (h : d.getLsbD 16 = false) : ownRow 0x2808 d = false := by
  simp only [BitVec.getLsbD] at h
  simp [ownRow, bit, h]

theorem ownRow_fqCtrl {d : Word32} (h : d.getLsbD 8 = false) : ownRow 0x2818 d = false := by
  simp only [BitVec.getLsbD] at h
  simp [ownRow, bit, h]

theorem ownRow_killCtrl {d : Word32} (h : d.getLsbD 16 = false) : ownRow 0x3414 d = false := by
  simp only [BitVec.getLsbD] at h
  simp [ownRow, bit, h]

theorem ownRow_nonceOrData {o : Nat} {d : Word32} (h : 0xC00 ≤ o ∧ o < 0xC80) (hne : o ≠ 0xC20) : ownRow o d = false := by
  simp only [ownRow, Bool.or_eq_false_iff, Bool.and_eq_false_iff, decide_eq_false_iff_not]
  omega

theorem ownRow_spaceOrQueue {o : Nat} {d : Word32} (h : 0x2000 ≤ o ∧ o < 0x2800) (h8 : o % 16 ≠ 8) : ownRow o d = false := by
  simp only [ownRow, Bool.or_eq_false_iff, Bool.and_eq_false_iff, decide_eq_false_iff_not]
  omega

theorem ownRow_rambler {n o : Nat} {d : Word32} (hn : n < 4) (ho : o < 0x80) (h0 : o ≠ 0) :
    ownRow (0xA00 + 0x80 * n + o) d = false := by
  simp only [ownRow, Bool.or_eq_false_iff, Bool.and_eq_false_iff, decide_eq_false_iff_not]
  omega

theorem ownRow_placer {n o : Nat} {d : Word32} (hn : n < 4) (ho : o < 0x40) (h : o ≠ 8 ∧ o ≠ 0x1C ∨ d.getLsbD 8 = false) :
    ownRow (0x3600 + 0x40 * n + o) d = false := by
  simp only [ownRow, Bool.or_eq_false_iff, Bool.and_eq_false_iff, decide_eq_false_iff_not]
  obtain ho8 | hb := h
  · omega
  · have hb' : bit d.toNat 8 = false := hb
    simp only [hb', or_true, and_true]
    omega

theorem ownRow_above {o : Nat} {d : Word32} (h : 0x3700 ≤ o) : ownRow o d = false := by
  simp only [ownRow, Bool.or_eq_false_iff, Bool.and_eq_false_iff, decide_eq_false_iff_not]
  omega

/-! ### The arrays of registers -/

theorem regWrite_rambler {n o : Nat} (d : Word32) (s : State) (hn : n < 4) (ho : o < 0x80) :
    regWrite (0xA00 + 0x80 * n + o) d s = ramblerWrite n o d s := by
  have hq : (0xA00 + 0x80 * n + o - 0xA00) / 0x80 = n := by omega
  have hm : (0xA00 + 0x80 * n + o - 0xA00) % 0x80 = o := by omega
  simp (disch := omega) only [regWrite, if_neg, if_pos, hq, hm]

theorem regWrite_space {n o : Nat} (d : Word32) (s : State) (hn : n < 64) (ho : o < 16) :
    regWrite (0x2000 + 16 * n + o) d s = spaceWrite n o d s := by
  have hq : (0x2000 + 16 * n + o - 0x2000) / 16 = n := by omega
  have hm : (0x2000 + 16 * n + o) % 16 = o := by omega
  simp (disch := omega) only [regWrite, if_neg, if_pos, hq, hm]

theorem regWrite_queueBase {n o : Nat} (d : Word32) (s : State) (hn : n < 64) (ho : o < 16) :
    regWrite (0x2400 + 16 * n + o) d s = queueBaseWrite n o d s := by
  have hq : (0x2400 + 16 * n + o - 0x2400) / 16 = n := by omega
  have hm : (0x2400 + 16 * n + o) % 16 = o := by omega
  simp (disch := omega) only [regWrite, if_neg, if_pos, hq, hm]

theorem regWrite_placer {n o : Nat} (d : Word32) (s : State) (hn : n < 4) (ho : o < 0x40) :
    regWrite (0x3600 + 0x40 * n + o) d s = placerWrite n o d s := by
  have hq : (0x3600 + 0x40 * n + o - 0x3600) / 0x40 = n := by omega
  have hm : (0x3600 + 0x40 * n + o - 0x3600) % 0x40 = o := by omega
  simp (disch := omega) only [regWrite, if_neg, if_pos, hq, hm]

theorem regWrite_map {n o : Nat} (d : Word32) (s : State) (hn : n < 64) (ho : o < 16) :
    regWrite (0x3800 + 16 * n + o) d s = mapWrite n o d s := by
  have hq : (0x3800 + 16 * n + o - 0x3800) / 16 = n := by omega
  have hm : (0x3800 + 16 * n + o) % 16 = o := by omega
  simp (disch := omega) only [regWrite, if_neg, if_pos, hq, hm]

theorem regWrite_net {n o : Nat} (d : Word32) (s : State) (hn : n < 64) (ho : o < 16) :
    regWrite (0x3C00 + 16 * n + o) d s = netWrite n o d s := by
  have hq : (0x3C00 + 16 * n + o - 0x3C00) / 16 = n := by omega
  have hm : (0x3C00 + 16 * n + o) % 16 = o := by omega
  simp (disch := omega) only [regWrite, if_neg, if_pos, hq, hm]

theorem regWrite_nonce {k : Nat} (d : Word32) (s : State) (hk : k < 8) :
    regWrite (0xC00 + 4 * k) d s = { s with boot := { s.boot with attNonce := putBytes s.boot.attNonce (4 * k) d } } := by
  have ho : 0xC00 + 4 * k - 0xC00 = 4 * k := by omega
  simp (disch := omega) only [regWrite, if_neg, if_pos, ho]

theorem regWrite_measData {k : Nat} (d : Word32) (s : State) (hk : k < 16) :
    regWrite (0xC40 + 4 * k) d s = { s with boot := { s.boot with measData := putBytes s.boot.measData (4 * k) d } } := by
  have ho : 0xC40 + 4 * k - 0xC40 = 4 * k := by omega
  simp (disch := omega) only [regWrite, if_neg, if_pos, ho]

/-! ### Registers that take nothing while their owner is in use -/

theorem spaceWrite_enabled {n o : Nat} {d : Word32} {s : State} (h : (space s n).enable = true) : spaceWrite n o d s = s := if_pos h

theorem spaceWrite_disabled {n : Nat} {s : State} (d : Word32) (h : (space s n).enable = false) :
    spaceWrite n 0 d s = modSpace n (fun x => { x with rootLo := d &&& 0xFFFFFE00#32 }) s ∧
    spaceWrite n 4 d s = modSpace n (fun x => { x with rootHi := d &&& 0xFFFFF#32 }) s :=
  ⟨if_neg (Bool.eq_false_iff.mp h), if_neg (Bool.eq_false_iff.mp h)⟩

theorem queueBaseWrite_enabled {n o : Nat} {d : Word32} {s : State} (h : (queue s n).enable = true) : queueBaseWrite n o d s = s :=
  if_pos h

theorem queueBaseWrite_disabled {n : Nat} {s : State} (d : Word32) (h : (queue s n).enable = false) :
    queueBaseWrite n 0 d s = modQueue n (fun x => { x with baseLo := d &&& 0xFFFFFF00#32 }) s ∧
    queueBaseWrite n 4 d s = modQueue n (fun x => { x with baseHi := d &&& 0x3FFFFF#32 }) s :=
  ⟨if_neg (Bool.eq_false_iff.mp h), if_neg (Bool.eq_false_iff.mp h)⟩

theorem netWrite_live {n o : Nat} {d : Word32} {s : State} (h : live s n ≠ 0) : netWrite n o d s = s := if_pos h

theorem netWrite_idle {n : Nat} {s : State} (d : Word32) (h : live s n = 0) :
    netWrite n 0 d s = modSpace n (fun x => { x with ctLo := d &&& 0xFFFFFFC0#32 }) s ∧
    netWrite n 4 d s = modSpace n (fun x => { x with ctHi := d &&& 0xFFFFF#32 }) s ∧
    netWrite n 8 d s = modSpace n (fun x => { x with ctCount := d.setWidth 13 }) s :=
  ⟨if_neg (not_not.mpr h), if_neg (not_not.mpr h), if_neg (not_not.mpr h)⟩

theorem dispWrite_pool_held {s : State} (d : Word32) (h : savedCount s ≠ 0) : ∀ o ∈ [0x04, 0x08, 0x0C], dispWrite o d s = s := by
  simp only [List.forall_mem_cons, List.not_mem_nil, false_imp_iff, implies_true, and_true]
  exact ⟨if_pos h, if_pos h, if_pos h⟩

theorem dispWrite_pool_free {s : State} (d : Word32) (h : savedCount s = 0) :
    dispWrite 0x04 d s = { s with disp := { s.disp with saveLo := d &&& 0xFFFFF000#32 } } ∧
    dispWrite 0x08 d s = { s with disp := { s.disp with saveHi := d &&& 0xFFFFF#32 } } ∧
    dispWrite 0x0C d s = { s with disp := { s.disp with saveSize := d.setWidth 16 } } :=
  ⟨if_neg (not_not.mpr h), if_neg (not_not.mpr h), if_neg (not_not.mpr h)⟩

/-! ### Arrays inside a Rambler's registers -/

theorem ramblerWrite_peerAddr {k : Nat} (n : Nat) (d : Word32) (s : State) (hk : k < 4) :
    ramblerWrite n (0x28 + 4 * k) d s =
      { s with ramblers := listMod s.ramblers n (fun r => { r with peerAddr := r.peerAddr.set k d }) } := by
  have hi : (0x28 + 4 * k - 0x28) / 4 = k := by omega
  simp (disch := omega) only [ramblerWrite, if_neg, if_pos, hi]

theorem ramblerWrite_peerKey {k : Nat} (n : Nat) (d : Word32) (s : State) (hk : k < 8) :
    ramblerWrite n (0x40 + 4 * k) d s =
      { s with ramblers := listMod s.ramblers n (fun r => { r with peerKey := r.peerKey.set k d }) } := by
  have hi : (0x40 + 4 * k - 0x40) / 4 = k := by omega
  simp (disch := omega) only [ramblerWrite, if_neg, if_pos, hi]

/-! ### Offsets that store nothing -/

/-- The blocks of registers, each from its first offset to below its end (R52). -/
def registerBlocks : List (Nat × Nat) :=
  [(0, 0x2C), (0x100, 0x300), (0x400, 0x40C), (0x480, 0x48C), (0x800, 0x804), (0x880, 0x88C), (0x900, 0x940), (0xA00, 0xC00),
   (0xC00, 0xC24), (0xC40, 0xC80), (0xD00, 0xF98), (0x1000, 0x2000), (0x2000, 0x282C), (0x3000, 0x3008), (0x3010, 0x3020),
   (0x3400, 0x3424), (0x3600, 0x3700), (0x3800, 0x4000)]

theorem regWrite_outside {o : Nat} (d : Word32) (s : State) (h : ∀ b ∈ registerBlocks, o < b.1 ∨ b.2 ≤ o) : regWrite o d s = s := by
  simp only [registerBlocks, List.forall_mem_cons, List.not_mem_nil, false_imp_iff, implies_true, and_true] at h
  simp (disch := omega) only [regWrite, if_neg]

theorem registerBlocks_below : ∀ b ∈ registerBlocks, b.2 ≤ 0x4000 := by decide

theorem regWrite_readOnly (d : Word32) (s : State) :
    ∀ o ∈ [0x00, 0x08, 0x24, 0x28, 0x408, 0x484, 0x488, 0x884, 0x888, 0x3000, 0x3004, 0x3010, 0x3014, 0x3018, 0x301C, 0x3420],
      regWrite o d s = s := by
  simp only [List.forall_mem_cons, List.not_mem_nil, false_imp_iff, implies_true, and_true]
  exact ⟨rfl, rfl, rfl, rfl, rfl, rfl, rfl, rfl, rfl, rfl, rfl, rfl, rfl, rfl, rfl, ite_self s⟩

/-! ### Plain writes of the arrays -/

section

variable {via : MgmtPath} {d : Word32} {s t : State} {n o : Nat}
variable (hf : s.boot.failed = false) (hp : via ≠ .kamub ∨ s.kamub.up ≠ 0)
include hf hp

theorem exec_registerWrite_rambler (hn : n < 4) (ho : o % 4 = 0 ∧ 0 < o ∧ o < 0x80) (h : ramblerWrite n o d s = t) :
    exec (.registerWrite via (0xA00 + 0x80 * n + o) d) s = .next t :=
  exec_registerWrite_stores hf hp (by omega) (ownRow_rambler hn ho.2.2 (by omega)) ((regWrite_rambler d s hn ho.2.2).trans h)

theorem exec_registerWrite_space (hn : n < 64) (ho : o = 0 ∨ o = 4) (h : spaceWrite n o d s = t) :
    exec (.registerWrite via (0x2000 + 16 * n + o) d) s = .next t :=
  exec_registerWrite_stores hf hp (by omega) (ownRow_spaceOrQueue (by omega) (by omega)) ((regWrite_space d s hn (by omega)).trans h)

theorem exec_registerWrite_queueBase (hn : n < 64) (ho : o = 0 ∨ o = 4) (h : queueBaseWrite n o d s = t) :
    exec (.registerWrite via (0x2400 + 16 * n + o) d) s = .next t :=
  exec_registerWrite_stores hf hp (by omega) (ownRow_spaceOrQueue (by omega) (by omega)) ((regWrite_queueBase d s hn (by omega)).trans h)

theorem exec_registerWrite_placer (hn : n < 4) (ho : o % 4 = 0 ∧ o < 0x40) (hr : o ≠ 8 ∧ o ≠ 0x1C ∨ d.getLsbD 8 = false)
    (h : placerWrite n o d s = t) : exec (.registerWrite via (0x3600 + 0x40 * n + o) d) s = .next t :=
  exec_registerWrite_stores hf hp (by omega) (ownRow_placer hn ho.2 hr) ((regWrite_placer d s hn ho.2).trans h)

theorem exec_registerWrite_map (hn : n < 64) (ho : o % 4 = 0 ∧ o < 16) (h : mapWrite n o d s = t) :
    exec (.registerWrite via (0x3800 + 16 * n + o) d) s = .next t :=
  exec_registerWrite_stores hf hp (by omega) (ownRow_above (by omega)) ((regWrite_map d s hn ho.2).trans h)

theorem exec_registerWrite_net (hn : n < 64) (ho : o % 4 = 0 ∧ o < 16) (h : netWrite n o d s = t) :
    exec (.registerWrite via (0x3C00 + 16 * n + o) d) s = .next t :=
  exec_registerWrite_stores hf hp (by omega) (ownRow_above (by omega)) ((regWrite_net d s hn ho.2).trans h)

end

end Sys2Proof.Machine

section
open Sys2Proof Sys2Proof.Machine

/-- Settles O41: each register's offset leads `regWrite` to its own store; what no branch names, or no path takes, stores nothing. -/
theorem registerWritesStoreTheirFields : Obligations.RegisterWritesStoreTheirFields := by
  unfold Obligations.RegisterWritesStoreTheirFields
  intro s via d o addr w raised told alerts
  refine ⟨rfl, fun hf => ?_, ?_, ?_, fun hf hp => ?_, ?_, ?_⟩
  · show execLimitW d s = _
    rw [execLimitW, answers_of_not_failed hf]
    rfl
  · rintro - rfl hup
    exact exec_registerWrite_idle (.inl (pathTakes_kamub_down hup))
  · rintro (ho | ho)
    · exact exec_registerWrite_idle (.inl (pathTakes_unaligned ho))
    · exact exec_registerWrite_idle (.inr (regWrite_outside d s fun b hb => .inr ((registerBlocks_below b hb).trans ho)))
  · have st {o : Nat} {t : State} (ho : o % 4 = 0 ∧ o < 0x4000) (hr : ownRow o d = false) (ht : regWrite o d s = t) : w o = .next t :=
      exec_registerWrite_stores hf hp ho hr ht
    refine ⟨st (by decide) rfl (setAlerts_eq _ _ s), st (by decide) rfl (setAlerts_eq _ _ s), st (by decide) rfl rfl,
      st (by decide) rfl rfl, st (by decide) rfl rfl, st (by decide) rfl rfl, st (by decide) rfl rfl, st (by decide) rfl rfl,
      fun h0 h1 h3 h4 => st (by decide) (ownRow_bootCtrl h0 h1 h3 h4) rfl, st (by decide) rfl rfl, st (by decide) rfl rfl,
      st (by decide) rfl rfl, st (by decide) rfl rfl,
      fun k hk => st (by omega) (ownRow_nonceOrData (by omega) (by omega)) (regWrite_nonce d s hk),
      fun k hk => st (by omega) (ownRow_nonceOrData (by omega) (by omega)) (regWrite_measData d s hk),
      fun h0 h1 => st (by decide) (ownRow_attCtrl h0 h1) rfl, st (by decide) rfl rfl, st (by decide) rfl rfl,
      fun h => st (by decide) (ownRow_invCtrl h) rfl, st (by decide) rfl rfl, fun h => st (by decide) (ownRow_fqCtrl h) rfl,
      st (by decide) rfl rfl, fun h => st (by decide) (ownRow_killCtrl h) rfl, st (by decide) rfl rfl, st (by decide) rfl rfl,
      fun hs => ?_, fun hs => ?_, fun n hn => ?_, fun n hn => ?_⟩
    · have held := dispWrite_pool_held d hs
      simp only [List.forall_mem_cons, List.not_mem_nil, false_imp_iff, implies_true, and_true] at held ⊢
      exact held.imp (st (by decide) rfl) (.imp (st (by decide) rfl) (st (by decide) rfl))
    · exact (dispWrite_pool_free d hs).imp (st (by decide) rfl) (.imp (st (by decide) rfl) (st (by decide) rfl))
    · intro root ring map net
      have sp {o : Nat} {t : State} (ho : o = 0 ∨ o = 4) (h : spaceWrite n o d s = t) := exec_registerWrite_space hf hp hn ho h
      have qu {o : Nat} {t : State} (ho : o = 0 ∨ o = 4) (h : queueBaseWrite n o d s = t) := exec_registerWrite_queueBase hf hp hn ho h
      have mp {o : Nat} {t : State} (ho : o % 4 = 0 ∧ o < 16) (h : mapWrite n o d s = t) := exec_registerWrite_map hf hp hn ho h
      have nt {o : Nat} {t : State} (ho : o % 4 = 0 ∧ o < 16) (h : netWrite n o d s = t) := exec_registerWrite_net hf hp hn ho h
      exact ⟨fun he => ⟨sp (.inl rfl) (spaceWrite_enabled he), sp (.inr rfl) (spaceWrite_enabled he)⟩,
        fun he => (spaceWrite_disabled d he).imp (sp (.inl rfl)) (sp (.inr rfl)),
        fun he => ⟨qu (.inl rfl) (queueBaseWrite_enabled he), qu (.inr rfl) (queueBaseWrite_enabled he)⟩,
        fun he => (queueBaseWrite_disabled d he).imp (qu (.inl rfl)) (qu (.inr rfl)),
        mp (o := 0) (by decide) rfl, mp (o := 4) (by decide) rfl, mp (o := 8) (by decide) rfl,
        fun hl => ⟨nt (o := 0) (by decide) (netWrite_live hl), nt (o := 4) (by decide) (netWrite_live hl),
          nt (o := 8) (by decide) (netWrite_live hl)⟩,
        fun hl => (netWrite_idle d hl).imp (nt (by decide)) (.imp (nt (by decide)) (nt (by decide)))⟩
    · intro plc rmbl
      have pl {o : Nat} {t : State} (ho : o % 4 = 0 ∧ o < 0x40) (hr : o ≠ 8 ∧ o ≠ 0x1C ∨ d.getLsbD 8 = false)
        (h : placerWrite n o d s = t) := exec_registerWrite_placer hf hp hn ho hr h
      have rm {o : Nat} {t : State} (ho : o % 4 = 0 ∧ 0 < o ∧ o < 0x80) (h : ramblerWrite n o d s = t) :=
        exec_registerWrite_rambler hf hp hn ho h
      exact ⟨pl (by decide) (.inl (by decide)) rfl, pl (by decide) (.inl (by decide)) rfl,
        fun h => ⟨pl (by decide) (.inr h) rfl, pl (by decide) (.inr h) rfl⟩, pl (by decide) (.inl (by decide)) rfl,
        pl (by decide) (.inl (by decide)) rfl, pl (by decide) (.inl (by decide)) rfl, pl (by decide) (.inl (by decide)) rfl,
        rm (by decide) rfl, rm (by decide) rfl, rm (by decide) rfl, rm (by decide) rfl, rm (by decide) rfl, rm (by decide) rfl,
        fun k hk => rm (by omega) (ramblerWrite_peerAddr n d s hk), fun k hk => rm (by omega) (ramblerWrite_peerKey n d s hk)⟩
  · exact fun h => exec_registerWrite_idle (.inr (regWrite_outside d s h))
  · exact fun o ho => exec_registerWrite_idle (.inr (regWrite_readOnly d s o ho))

end

/-! ## The committed byte and its writes (R40, R208, R210, R211) -/

namespace Sys2Proof.Machine

/-! ### Where the committed byte is found -/

/-- Every shadow line lists its bytes in rising order. -/
def LinesWf (s : State) : Prop := ∀ l ∈ s.skim.lines, tabWf l.bytes = true

/-- Is the transaction of a tag committed, with lines that still drain (R123)? -/
def isDraining (s : State) (v : Nat) : Bool := (tag? s v).any (·.st == .draining)

/-- What one shadow line gives for a byte as a committed line that has not drained. -/
def drainedFrom (s : State) (pa : Nat) (l : Shadow) : Option Byte :=
  if l.line == pa / 128 && isDraining s l.vt then tabFind l.bytes (pa % 128) else none

/-- The committed byte without the companion's own copy. -/
def storedByte (s : State) (pa : Nat) : Byte :=
  (drainingByte s pa).getD ((tabFind s.mem.dirty pa).getD (tabGet 0 s.mem.home pa))

theorem find?_bind_eq_findSome? {α β : Type} (p : α → Bool) (f : α → Option β) (l : List α) :
    (l.find? (fun x => p x && (f x).isSome)).bind f = l.findSome? (fun x => if p x then f x else none) := by
  induction l with
  | nil => rfl
  | cons x l ih =>
    cases hp : p x
    · simp [hp, ih]
    · cases hf : f x <;> simp [hp, hf, ih]

theorem drainingByte_eq_findSome? (s : State) (pa : Nat) : drainingByte s pa = s.skim.lines.findSome? (drainedFrom s pa) := by
  have h : drainingByte s pa = (s.skim.lines.find? (fun l => (l.line == pa / 128 && isDraining s l.vt) &&
      (tabFind l.bytes (pa % 128)).isSome)).bind (fun l => tabFind l.bytes (pa % 128)) := by
    unfold drainingByte
    congr 2
    funext l
    unfold isDraining
    cases tag? s l.vt <;> simp [Bool.and_right_comm]
  exact h.trans (find?_bind_eq_findSome? _ _ _)

theorem homeByte_eq (s : State) (pa : Nat) : homeByte s pa = (compDirtyByte s pa).getD (storedByte s pa) := by
  unfold homeByte storedByte
  cases compDirtyByte s pa with
  | some b => rfl
  | none => cases drainingByte s pa with
    | some b => rfl
    | none => cases tabFind s.mem.dirty pa <;> rfl

theorem drainingByte_congr {s t : State} (hl : t.skim.lines = s.skim.lines) (hd : ∀ v, isDraining t v = isDraining s v) (pa : Nat) :
    drainingByte t pa = drainingByte s pa := by
  have hf : drainedFrom t pa = drainedFrom s pa := by funext l; simp only [drainedFrom, hd]
  rw [drainingByte_eq_findSome?, drainingByte_eq_findSome?, hl, hf]

/-- The committed bytes are those of the companion's copies, the shadow lines, the caches of the home and home memory. -/
theorem homeByte_congr {s t : State} (hc : t.kamub.copies = s.kamub.copies) (hl : t.skim.lines = s.skim.lines)
    (hd : ∀ v, isDraining t v = isDraining s v) (hy : t.mem.dirty = s.mem.dirty) (hm : t.mem.home = s.mem.home) (pa : Nat) :
    homeByte t pa = homeByte s pa := by
  simp only [homeByte_eq, storedByte, compDirtyByte, hc, hy, hm, drainingByte_congr hl hd]

/-! ### What gives way to a write -/

/-- The shadow line as a write to an address leaves it. -/
def supersededLine (pa : Nat) (s : State) (l : Shadow) : Shadow :=
  if l.line == pa / 128 && isDraining s l.vt then { l with bytes := tabDel l.bytes (pa % 128) } else l

theorem supersede_lines (pa : Nat) (s : State) : (supersede pa s).skim.lines = s.skim.lines.map (supersededLine pa s) := by
  refine congrArg (List.map · s.skim.lines) (funext fun l => ?_)
  unfold supersededLine isDraining
  cases tag? s l.vt <;> rfl

@[simp] theorem supersede_kamub (pa : Nat) (s : State) : (supersede pa s).kamub = s.kamub := rfl
@[simp] theorem supersede_mem (pa : Nat) (s : State) : (supersede pa s).mem = s.mem := rfl
@[simp] theorem isDraining_supersede (pa : Nat) (s : State) (v : Nat) : isDraining (supersede pa s) v = isDraining s v := rfl

theorem linesWf_supersede {s : State} (pa : Nat) (h : LinesWf s) : LinesWf (supersede pa s) := by
  intro l hl
  rw [supersede_lines] at hl
  obtain ⟨k, hk, rfl⟩ := List.mem_map.mp hl
  unfold supersededLine
  split
  · exact tabWf_del _ (h k hk)
  · exact h k hk

theorem drainedFrom_superseded {s : State} {l : Shadow} (pa x : Nat) (h : tabWf l.bytes = true) :
    drainedFrom s x (supersededLine pa s l) = if x = pa then none else drainedFrom s x l := by
  unfold supersededLine
  split
  next hd =>
    by_cases hx : x = pa
    · subst hx
      simp [drainedFrom, tabFind_del_same h]
    · rw [if_neg hx]
      unfold drainedFrom
      by_cases hline : x / 128 = pa / 128
      · rw [tabFind_del_other h (by omega)]
      · have hne : ¬ l.line = x / 128 := by
          have := (Bool.and_eq_true_iff.mp hd).1
          rw [beq_iff_eq] at this
          omega
        simp [hne]
  next hd =>
    split
    next hx => subst hx; simp [drainedFrom, hd]
    next => rfl

theorem drainingByte_supersede {s : State} (pa x : Nat) (h : LinesWf s) :
    drainingByte (supersede pa s) x = if x = pa then none else drainingByte s x := by
  have hf : drainedFrom (supersede pa s) x = drainedFrom s x := rfl
  rw [drainingByte_eq_findSome?, drainingByte_eq_findSome?, hf, supersede_lines, List.findSome?_map]
  unfold LinesWf at h
  generalize s.skim.lines = ls at h ⊢
  induction ls with
  | nil => simp
  | cons l ls ih =>
    simp only [List.findSome?_cons, Function.comp_apply, drainedFrom_superseded pa x (h l List.mem_cons_self),
      ih fun k hk => h k (List.mem_cons_of_mem l hk)]
    by_cases hx : x = pa <;> simp [hx]

/-! ### One byte stored, and a line given back by the companion -/

/-- One byte of home memory written, with what the device held above it gone. -/
def storeByte (pa : Nat) (b : Byte) (s : State) : State :=
  let s := supersede pa s
  { s with mem := { s.mem with home := tabSet 0 s.mem.home pa b, dirty := tabDel s.mem.dirty pa } }

theorem memOk_storeByte {s : State} (pa : Nat) (b : Byte) (h : s.MemOk) : (storeByte pa b s).MemOk := by
  unfold State.MemOk at h ⊢
  rw [memory_wf_iff] at h ⊢
  obtain ⟨hhome, hcomp, hdirty, hrest⟩ := h
  exact ⟨memWf_set _ _ hhome, hcomp, tabWf_del _ hdirty, hrest⟩

theorem linesWf_storeByte {s : State} (pa : Nat) (b : Byte) (h : LinesWf s) : LinesWf (storeByte pa b s) := linesWf_supersede pa h

theorem storedByte_storeByte {s : State} (pa x : Nat) (b : Byte) (hm : s.MemOk) (hl : LinesWf s) :
    storedByte (storeByte pa b s) x = if x = pa then b else storedByte s x := by
  obtain ⟨hhome, -, hdirty, -⟩ := (memory_wf_iff _).mp hm
  have hd : drainingByte (storeByte pa b s) x = if x = pa then none else drainingByte s x := drainingByte_supersede pa x hl
  have hy : (storeByte pa b s).mem.dirty = tabDel s.mem.dirty pa := rfl
  have hh : (storeByte pa b s).mem.home = tabSet 0 s.mem.home pa b := rfl
  unfold storedByte
  rw [hd, hy, hh]
  by_cases hx : x = pa
  · subst hx
    rw [if_pos rfl, if_pos rfl, tabFind_del_same hdirty]
    exact tabGet_set_same x b hhome
  · rw [if_neg hx, if_neg hx, tabFind_del_other hdirty hx, tabGet_set_other b hhome hx]

/-- The bytes of a line that the companion gives back, put in their place at the home (R32 (c)). -/
def storeLine (line : Nat) (l : List Byte) (s : State) : State :=
  (List.range 128).foldl (fun s i => setDirty (128 * line) (storeByte (128 * line + i) (l.getD i 0) s)) s

/-- What a line given back keeps: the canonical form, the companion's copies, and each byte but those stored so far. -/
theorem storeLine_prefix {s : State} (line : Nat) (l : List Byte) (n : Nat) (hm : s.MemOk) (hl : LinesWf s) :
    let t := (List.range n).foldl (fun s i => setDirty (128 * line) (storeByte (128 * line + i) (l.getD i 0) s)) s
    t.MemOk ∧ LinesWf t ∧ t.kamub = s.kamub ∧ (∀ x, drainingByte s x = none → drainingByte t x = none) ∧
      ∀ x, storedByte t x = if 128 * line ≤ x ∧ x < 128 * line + n then l.getD (x - 128 * line) 0 else storedByte s x := by
  induction n with
  | zero => exact ⟨hm, hl, rfl, fun _ h => h, fun x => by rw [if_neg (by omega)]; rfl⟩
  | succ n ih =>
    obtain ⟨hm', hl', hk, hd, hx⟩ := ih
    rw [List.range_succ, List.foldl_append]
    refine ⟨memOk_setDirty _ (memOk_storeByte (128 * line + n) (l.getD n 0) hm'), linesWf_storeByte (128 * line + n) (l.getD n 0) hl', hk, fun x h => ?_, fun x => ?_⟩
    · exact (drainingByte_supersede (128 * line + n) x hl').trans (by rw [hd x h, ite_self])
    have hs := storedByte_storeByte (128 * line + n) x (l.getD n 0) hm' hl'
    refine hs.trans ?_
    rw [hx]
    by_cases h : x = 128 * line + n
    · rw [if_pos h, if_pos (by omega), h, Nat.add_sub_cancel_left]
    · rw [if_neg h]
      exact if_congr (by omega) rfl rfl

/-- The state in which the companion holds a line no more, before what it had modified is stored. -/
def dropCompLine (line : Nat) (s : State) : State :=
  { s with kamub := { s.kamub with copies := s.kamub.copies.filter (·.line != line) }, outputs := s.outputs ++ [.invalidate line] }

theorem recallLine_eq (line : Nat) (s : State) :
    recallLine line s = match s.kamub.copies.find? (·.line == line) with
      | none => s
      | some c => match c.dirty with
        | none => dropCompLine line s
        | some l => storeLine line l (dropCompLine line s) := by
  unfold recallLine
  cases s.kamub.copies.find? (·.line == line) with
  | none => rfl
  | some c => cases h : c.dirty <;> simp only [h] <;> rfl

/-- Of a line given back nothing is left among the companion's copies, and the other lines' copies stay. -/
theorem compDirtyByte_drop {s t : State} {line : Nat} (ht : t.kamub.copies = s.kamub.copies.filter (·.line != line)) (x : Nat) :
    compDirtyByte t x = if x / 128 = line then none else compDirtyByte s x := by
  unfold compDirtyByte
  rw [ht, List.find?_filter]
  by_cases hx : x / 128 = line
  · rw [if_pos hx, List.find?_eq_none.mpr (by simp [hx])]
  · rw [if_neg hx]
    have hf : (fun c : CompCopy => decide ((c.line != line) = true ∧ (c.line == x / 128) = true)) = (·.line == x / 128) := by
      funext c
      by_cases hc : c.line = x / 128 <;> simp [hc, hx]
    rw [hf]

/-- A line given back: its copy is gone, the form is kept, and every committed byte stays what it was (R32 (c)). -/
theorem recallLine_keeps {s : State} (line : Nat) (hm : s.MemOk) (hl : LinesWf s) :
    let t := recallLine line s
    t.MemOk ∧ LinesWf t ∧ (∀ x, compDirtyByte t x = if x / 128 = line then none else compDirtyByte s x) ∧
      (∀ x, drainingByte s x = none → drainingByte t x = none) ∧
      ∀ x, homeByte t x = homeByte s x := by
  rw [recallLine_eq]
  split
  next hf =>
    refine ⟨hm, hl, fun x => ?_, fun _ h => h, fun _ => rfl⟩
    split
    next hx => subst hx; simp only [compDirtyByte, hf]
    next => rfl
  next c hf =>
    have hline : c.line = line := by simpa using List.find?_some hf
    have hcd (x : Nat) (hx : x / 128 = line) : compDirtyByte s x = c.dirty.map (fun l => l.getD (x % 128) 0) := by
      subst hx
      simp only [compDirtyByte, hf]
    split
    next hd =>
      have hc := compDirtyByte_drop (s := s) (t := dropCompLine line s) rfl
      refine ⟨hm, hl, hc, fun _ h => h, fun x => ?_⟩
      rw [homeByte_eq, homeByte_eq, hc]
      split
      next hx => rw [hcd x hx, hd]; rfl
      next => rfl
    next l hd =>
      obtain ⟨hm', hl', hk, hg, hx'⟩ := storeLine_prefix (s := dropCompLine line s) line l 128 hm hl
      have hc := compDirtyByte_drop (s := s) (t := storeLine line l (dropCompLine line s)) (congrArg (·.copies) hk)
      refine ⟨hm', hl', hc, hg, fun x => ?_⟩
      have hs : storedByte (storeLine line l (dropCompLine line s)) x = _ := hx' x
      rw [homeByte_eq, homeByte_eq, hc, hs]
      split
      next hx =>
        rw [hcd x hx, hd, if_pos (by omega)]
        subst hx
        exact congrArg (l.getD · 0) (by omega)
      next hx => rw [if_neg (by omega)]; rfl


/-! ### The writes -/

theorem dropVerdicts_same (pa : Nat) (s : State) :
    (dropVerdicts pa s).mem = s.mem ∧ (dropVerdicts pa s).kamub = s.kamub ∧ (dropVerdicts pa s).skim = s.skim := by
  unfold dropVerdicts
  dsimp only
  split <;> exact ⟨rfl, rfl, rfl⟩

/-- What makes way for a write at an address: nothing of the device or of the companion stands above the home there, and every other
committed byte stays. -/
theorem clearedFor_write {s : State} (pa : Nat) (hm : s.MemOk) (hl : LinesWf s) :
    let t := recallLine (pa / 128) (dropVerdicts pa (supersede pa s))
    t.MemOk ∧ LinesWf t ∧ compDirtyByte t pa = none ∧ drainingByte t pa = none ∧ ∀ x, x ≠ pa → homeByte t x = homeByte s x := by
  obtain ⟨hmem, hkamub, hskim⟩ := dropVerdicts_same pa (supersede pa s)
  have hdrain (x : Nat) : drainingByte (dropVerdicts pa (supersede pa s)) x = drainingByte (supersede pa s) x :=
    drainingByte_congr (by rw [hskim]) (fun v => by simp only [isDraining, tag?, hskim]) x
  have hm' := memOk_dropVerdicts pa (memOk_supersede pa hm)
  have hl' : LinesWf (dropVerdicts pa (supersede pa s)) := by
    unfold LinesWf
    rw [hskim]
    exact linesWf_supersede pa hl
  obtain ⟨hm2, hl2, hc2, hd2, hx2⟩ := recallLine_keeps (pa / 128) hm' hl'
  refine ⟨hm2, hl2, by rw [hc2, if_pos rfl], hd2 pa (by rw [hdrain, drainingByte_supersede pa pa hl, if_pos rfl]), fun x hx => ?_⟩
  rw [hx2]
  simp only [homeByte_eq, storedByte, compDirtyByte, hmem, hkamub, hdrain, drainingByte_supersede pa x hl, if_neg hx, supersede_kamub,
    supersede_mem]

theorem linesWf_writeHomeByte {s : State} (pa : Nat) (b : Byte) (hm : s.MemOk) (hl : LinesWf s) : LinesWf (writeHomeByte pa b s) :=
  (clearedFor_write pa hm hl).2.1

/-- A byte written at its home is the committed byte there, and no other committed byte changes (R40, R210). -/
theorem homeByte_writeHomeByte {s : State} (pa x : Nat) (b : Byte) (hm : s.MemOk) (hl : LinesWf s) :
    homeByte (writeHomeByte pa b s) x = if x = pa then b else homeByte s x := by
  obtain ⟨hm', -, hc, hd, ho⟩ := clearedFor_write pa hm hl
  obtain ⟨hhome, -, hdirty, -⟩ := (memory_wf_iff _).mp hm'
  generalize ht : recallLine (pa / 128) (dropVerdicts pa (supersede pa s)) = t at *
  have hw : writeHomeByte pa b s = setDirty pa { t with mem := { t.mem with
      home := tabSet 0 t.mem.home pa b, dirty := tabDel t.mem.dirty pa } } := by rw [← ht]; rfl
  have he : homeByte (writeHomeByte pa b s) x = (compDirtyByte t x).getD ((drainingByte t x).getD
      ((tabFind (tabDel t.mem.dirty pa) x).getD (tabGet 0 (tabSet 0 t.mem.home pa b) x))) := by rw [hw, homeByte_eq]; rfl
  rw [he]
  split
  next hx =>
    subst hx
    rw [hc, hd, tabFind_del_same hdirty]
    exact tabGet_set_same x b hhome
  next hx =>
    rw [← ho x hx, homeByte_eq, tabFind_del_other hdirty hx, tabGet_set_other b hhome hx]
    rfl

/-- A byte written in the home die's caches is the committed byte there, and no other committed byte changes (R208, R210). -/
theorem homeByte_writeL2Byte {s : State} (pa x : Nat) (b : Byte) (hm : s.MemOk) (hl : LinesWf s) :
    homeByte (writeL2Byte pa b s) x = if x = pa then b else homeByte s x := by
  obtain ⟨-, -, hc, hd, ho⟩ := clearedFor_write pa hm hl
  generalize ht : recallLine (pa / 128) (dropVerdicts pa (supersede pa s)) = t at *
  have hw : writeL2Byte pa b s = setDirty pa { t with mem := { t.mem with dirty := tabPut t.mem.dirty pa b } } := by rw [← ht]; rfl
  have he : homeByte (writeL2Byte pa b s) x = (compDirtyByte t x).getD ((drainingByte t x).getD
      ((tabFind (tabPut t.mem.dirty pa b) x).getD (tabGet 0 t.mem.home x))) := by rw [hw, homeByte_eq]; rfl
  rw [he]
  split
  next hx =>
    subst hx
    rw [hc, hd, tabFind_put_same]
    rfl
  next hx =>
    rw [← ho x hx, homeByte_eq, tabFind_put_other _ _ hx]
    rfl

/-- A byte in a die's remote store buffer is what that die reads (R211 (b)). -/
theorem dieByte_writeRsbByte (die pa : Nat) (b : Byte) (s : State) : dieByte (writeRsbByte die pa b s) die pa = b := by
  simp [dieByte, writeRsbByte]

/-- A byte in a remote store buffer has not reached its home. -/
theorem homeByte_writeRsbByte (die pa x : Nat) (b : Byte) (s : State) : homeByte (writeRsbByte die pa b s) x = homeByte s x := rfl

end Sys2Proof.Machine

section
open Sys2Proof Sys2Proof.Machine

/-- Settles O8: a write first clears what stands above its home, the byte of a line that the companion gives back among it, and then
sets the one place that is left; a remote store buffer stands before its home for its own die alone. -/
theorem homeWritesChangeOneByte : Obligations.HomeWritesChangeOneByte := by
  unfold Obligations.HomeWritesChangeOneByte
  intro s pa x die b hm hl
  exact ⟨homeByte_writeHomeByte pa x b hm hl, memOk_writeHomeByte pa b hm, homeByte_writeL2Byte pa x b hm hl, memOk_writeL2Byte pa b hm,
    dieByte_writeRsbByte die pa b s, homeByte_writeRsbByte die pa x b s, memOk_writeRsbByte die pa b hm⟩

end

/-! ## What ending transactions leaves as it was (R125, R163 to R165) -/

namespace Sys2Proof.Machine

/-! ### Tables and lists changed at a key -/

theorem tabFind_mod {α : Type} (t : Tab α) (x y : Nat) (f : α → α) :
    tabFind (tabMod t x f) y = if y = x then (tabFind t y).map f else tabFind t y := by
  unfold tabMod
  split
  next v hv =>
    split
    next hy => rw [hy, tabFind_put_same, hv]; rfl
    next hy => exact tabFind_put_other _ _ hy
  next hv =>
    split
    next hy => rw [hy, hv]; rfl
    next => rfl

/-- A table whose entries change under their keys. -/
theorem tabFind_map {α : Type} (g : Nat × α → Nat × α) (hg : ∀ e, (g e).1 = e.1) (t : Tab α) (x : Nat) :
    tabFind (t.map g) x = (tabFind t x).map (fun v => (g (x, v)).2) := by
  induction t with
  | nil => rfl
  | cons e t ih =>
    obtain ⟨k, v⟩ := e
    have hk : g (k, v) = (k, (g (k, v)).2) := Prod.ext (hg _) rfl
    rw [List.map_cons, hk]
    simp only [tabFind]
    split
    next hx => subst hx; rfl
    next => split
            · rfl
            · exact ih

theorem map_modWhere {α β : Type} {g : α → β} {f : α → α} (h : ∀ x, g (f x) = g x) (p : α → Bool) (l : List α) :
    (modWhere p f l).map g = l.map g := by
  unfold modWhere
  rw [List.map_map]
  refine List.map_congr_left fun x _ => ?_
  simp only [Function.comp_apply]
  split
  · exact h x
  · rfl

/-- A change that keeps what a search looks at changes what it finds. -/
theorem find?_modWhere {α : Type} {q : α → Bool} {f : α → α} (h : ∀ x, q (f x) = q x) (p : α → Bool) (l : List α) :
    (modWhere p f l).find? q = (l.find? q).map (fun x => if p x then f x else x) := by
  unfold modWhere
  rw [List.find?_map]
  congr 1
  refine congrArg (List.find? · l) (funext fun x => ?_)
  simp only [Function.comp_apply]
  split
  · exact h x
  · rfl

/-! ### The frame of an abort -/

/-- What no abort changes of a launch. -/
def launchKey (l : Launch) : Nat × Option Nat × Nat × List Byte := (l.id, l.vt, l.hang, l.raw)

/-- The second state is the first with transactions ended: memory, the bytes of shadow lines, which tags drain, the companion's copies,
the spaces, the queues, the Rambler and the launches' identities stay. -/
structure EndsOnly (s t : State) : Prop where
  mem : t.mem = s.mem
  boot : t.boot = s.boot
  spaces : t.spaces = s.spaces
  queues : t.queues = s.queues
  ramblers : t.ramblers = s.ramblers
  kamub : t.kamub = { s.kamub with linkAborts := t.kamub.linkAborts }
  lines : t.skim.lines = s.skim.lines
  draining : ∀ v, isDraining t v = isDraining s v
  launches : t.launches.map launchKey = s.launches.map launchKey
  teams : t.teams.map (·.vt) = s.teams.map (·.vt)

theorem EndsOnly.refl (s : State) : EndsOnly s s := ⟨rfl, rfl, rfl, rfl, rfl, rfl, rfl, fun _ => rfl, rfl, rfl⟩

theorem EndsOnly.trans {s t u : State} (h : EndsOnly s t) (k : EndsOnly t u) : EndsOnly s u where
  mem := k.mem.trans h.mem
  boot := k.boot.trans h.boot
  spaces := k.spaces.trans h.spaces
  queues := k.queues.trans h.queues
  ramblers := k.ramblers.trans h.ramblers
  kamub := by rw [k.kamub, h.kamub]
  lines := k.lines.trans h.lines
  draining v := (k.draining v).trans (h.draining v)
  launches := k.launches.trans h.launches
  teams := k.teams.trans h.teams

/-- A fold of ends is an end. -/
theorem EndsOnly.foldl {β : Type} {s t : State} {g : State → β → State} (hg : ∀ u x, EndsOnly s u → EndsOnly u (g u x)) (l : List β)
    (h : EndsOnly s t) : EndsOnly s (l.foldl g t) :=
  foldl_keeps (P := EndsOnly s) (fun u x hu => hu.trans (hg u x hu)) l h

theorem endsOnly_modLaunch (id : Nat) {f : Launch → Launch} (h : ∀ l, launchKey (f l) = launchKey l) (s : State) :
    EndsOnly s (modLaunch id f s) :=
  ⟨rfl, rfl, rfl, rfl, rfl, rfl, rfl, fun _ => rfl, map_modWhere h _ _, rfl⟩

theorem endsOnly_clearTeam (m : Team) (s : State) : EndsOnly s (clearTeam m s) := ⟨rfl, rfl, rfl, rfl, rfl, rfl, rfl, fun _ => rfl, rfl, rfl⟩

theorem endsOnly_freeStacks (m : Team) (s : State) : EndsOnly s (freeStacks m s) := by
  unfold freeStacks
  exact endsOnly_modLaunch _ (by exact fun _ => rfl) s

theorem endsOnly_stopLaunch (id : Nat) (s : State) : EndsOnly s (stopLaunch id s) := by
  have hf : EndsOnly s ((s.teams.filter (fun m => m.launch == id && !m.retired)).foldl (fun u m => clearTeam m (freeStacks m u)) s) :=
    EndsOnly.foldl (fun u m _ => (endsOnly_freeStacks m u).trans (endsOnly_clearTeam m _)) _ (EndsOnly.refl s)
  exact hf.trans ⟨rfl, rfl, rfl, rfl, rfl, rfl, rfl, fun _ => rfl, rfl, map_modWhere (by exact fun _ => rfl) _ _⟩

theorem endsOnly_countAbort (cause : Nat) (s : State) : EndsOnly s (countAbort cause s) := by
  unfold countAbort
  split
  · exact ⟨rfl, rfl, rfl, rfl, rfl, rfl, rfl, fun _ => rfl, rfl, rfl⟩
  · split
    · exact ⟨rfl, rfl, rfl, rfl, rfl, rfl, rfl, fun _ => rfl, rfl, rfl⟩
    · exact EndsOnly.refl s

@[simp] theorem countAbort_tags (cause : Nat) (s : State) : (countAbort cause s).skim.tags = s.skim.tags := by
  unfold countAbort
  split
  · rfl
  · split <;> rfl

/-- The tag that dies becomes ABORTING with its cause; no other tag changes. -/
theorem tag?_killTag (w cause : Nat) (s : State) (v : Nat) :
    tag? (killTag w cause s) v = if v = w then (tag? s v).map (fun g => { g with st := .aborting, cause := cause }) else tag? s v := by
  unfold killTag tag?
  rw [countAbort_tags]
  exact tabFind_mod _ _ _ _

theorem endsOnly_killTag {w : Nat} {s : State} (cause : Nat) (h : isDraining s w = false) : EndsOnly s (killTag w cause s) := by
  have hd (v : Nat) : isDraining (killTag w cause s) v = isDraining s v := by
    unfold isDraining at h ⊢
    rw [tag?_killTag]
    split
    next hv => subst hv; rw [h]; cases tag? s v <;> rfl
    next => rfl
  have hc := endsOnly_countAbort cause { s with skim := { s.skim with
    tags := tabMod s.skim.tags w (fun g => { g with st := .aborting, cause := cause }), requests := s.skim.requests.filter (· != w) } }
  exact ⟨hc.mem, hc.boot, hc.spaces, hc.queues, hc.ramblers, hc.kamub, hc.lines, hd, hc.launches, hc.teams⟩

/-- Tags of which none drains are killed one after the other. -/
theorem endsOnly_killTags {vs : List Nat} {s : State} (cause : Nat) (h : ∀ w ∈ vs, isDraining s w = false) :
    EndsOnly s (vs.foldl (fun s w => killTag w cause s) s) := by
  induction vs generalizing s with
  | nil => exact EndsOnly.refl s
  | cons w vs ih =>
    have hk := endsOnly_killTag cause (h w List.mem_cons_self)
    exact hk.trans (ih fun x hx => (hk.draining x).trans (h x (List.mem_cons_of_mem w hx)))

theorem endsOnly_countLink (cause : Nat) (s : State) : EndsOnly s (countLink cause s) := by
  unfold countLink
  split
  · exact ⟨rfl, rfl, rfl, rfl, rfl, rfl, rfl, fun _ => rfl, rfl, rfl⟩
  · exact EndsOnly.refl s

theorem endsOnly_stampCause (id cause vt : Nat) (rep : Option Report) (s : State) : EndsOnly s (stampCause id cause vt rep s) := by
  unfold stampCause
  refine EndsOnly.trans (t := if (launch? s id).any (·.cause.isNone) then countLink cause s else s) ?_ ?_
  · split
    · exact endsOnly_countLink cause s
    · exact EndsOnly.refl s
  · exact (endsOnly_modLaunch id (fun l => by cases h : l.cause <;> rfl) _).trans (endsOnly_stopLaunch id _)

theorem endsOnly_lowerCause (id cause : Nat) (rep : Option Report) (s : State) : EndsOnly s (lowerCause id cause rep s) := by
  unfold lowerCause
  split
  · exact EndsOnly.refl s
  split
  · exact EndsOnly.refl s
  split
  · refine ⟨rfl, rfl, rfl, rfl, rfl, rfl, rfl, fun v => ?_, map_modWhere (by exact fun _ => rfl) _ _, rfl⟩
    unfold isDraining tag?
    dsimp only
    rw [tabFind_map _ (fun e => by split <;> rfl)]
    cases tabFind s.skim.tags v with
    | none => rfl
    | some g => simp only [Option.map_some, Option.any_some]; split <;> rfl
  · exact EndsOnly.refl s

/-- A tag that can still be aborted does not drain. -/
theorem isDraining_of_abortable {s : State} {v cause : Nat} {r : Bool} (h : abortable s v cause r = true) : isDraining s v = false := by
  unfold abortable at h
  unfold isDraining
  cases hg : tag? s v with
  | none => rfl
  | some g => rw [hg] at h; cases hs : g.st <;> simp_all

/-- Tags of a launch die and the launch stops on the cause. -/
def strike (id cause vt : Nat) (rep : Option Report) (vs : List Nat) (s : State) : State :=
  stampCause id cause vt rep (vs.foldl (fun s v => killTag v cause s) s)

theorem endsOnly_strike (id cause vt : Nat) (rep : Option Report) {vs : List Nat} {s : State} (h : ∀ w ∈ vs, isDraining s w = false) :
    EndsOnly s (strike id cause vt rep vs s) :=
  (endsOnly_killTags cause h).trans (endsOnly_stampCause _ _ _ _ _)

/-- The tags of a descendant that its ancestor's abort takes with it (R125). -/
def fallingTags (s : State) (k : Launch) (cause : Nat) : List Nat := (endTags s k none).filter (fun v => abortable s v cause true)

/-- The abort of one descendant of a launch that aborts (R125). -/
def abortDescendant (cause : Nat) (s : State) (d : Nat) : State :=
  match launch? s d with
  | some k => if (fallingTags s k cause).isEmpty then s else strike d cause (namedTag s k) none (fallingTags s k cause) s
  | none => s

/-- Does a tag stand in a state of R109? -/
def tagIn (s : State) (v : Nat) (st : TagSt) : Bool := match tag? s v with | some g => g.st == st | none => false

/-- Has a launch of GRAN = TEAM teams that are not dispatched yet? -/
def unready (l : Launch) : Bool :=
  l.vt.isNone && l.cause.isNone && l.phase != .dispatching && decide (l.nextTeam < lrTeams l.raw)

/-- Does an abort reach the launch's QUEUED tags too (R120, R127)? -/
def reachesQueued (s : State) (l : Launch) (cause : Nat) (byRelative : Bool) : Bool :=
  byRelative || cause == 0x09 || (l.vt.isNone && (unready l || (endTags s l none).any (fun v => tagIn s v .active)))

/-- The tags of a launch that its abort takes with it: ACTIVE, and QUEUED where the cause permits it (R120, R125). -/
def liveTags (s : State) (l : Launch) (cause : Nat) (byRelative : Bool) : List Nat :=
  (endTags s l none).filter (fun v => tagIn s v .active || (tagIn s v .queued && reachesQueued s l cause byRelative))

/-- How an abort goes: of a launch with nothing left to abort at most the cause falls; else its live tags die, the launch stops, and its
descendants follow. -/
theorem abortLaunch_eq {id : Nat} {s : State} {l : Launch} (hl : launch? s id = some l) (cause : Nat) (byRelative : Bool)
    (rep : Option Report) :
    abortLaunch id cause byRelative rep s =
      if (liveTags s l cause byRelative).isEmpty && !((l.vt.isNone && l.phase == .dispatching) || unready l) then lowerCause id cause rep s
      else
        let t := strike id cause (namedTag s l) rep (liveTags s l cause byRelative) s
        (descendants t id).foldl (abortDescendant cause) t := by
  unfold abortLaunch
  rw [hl]
  rfl

theorem isDraining_of_liveTags {s : State} {l : Launch} {cause v : Nat} {r : Bool} (h : v ∈ liveTags s l cause r) : isDraining s v = false := by
  have hv := (List.mem_filter.mp h).2
  unfold tagIn at hv
  unfold isDraining
  cases hg : tag? s v with
  | none => rfl
  | some g => rw [hg] at hv; cases hs : g.st <;> simp_all

theorem endsOnly_abortDescendant (cause d : Nat) (s : State) : EndsOnly s (abortDescendant cause s d) := by
  unfold abortDescendant
  split
  · split
    · exact EndsOnly.refl s
    · exact endsOnly_strike _ _ _ _ fun w hw => isDraining_of_abortable (List.mem_filter.mp hw).2
  · exact EndsOnly.refl s

theorem endsOnly_abortLaunch (id cause : Nat) (byRelative : Bool) (rep : Option Report) (s : State) :
    EndsOnly s (abortLaunch id cause byRelative rep s) := by
  cases hl : launch? s id with
  | none => unfold abortLaunch; rw [hl]; exact EndsOnly.refl s
  | some l =>
    rw [abortLaunch_eq hl]
    split
    · exact endsOnly_lowerCause _ _ _ _
    · exact EndsOnly.foldl (fun u d _ => endsOnly_abortDescendant cause d u) _ (endsOnly_strike _ _ _ _ fun _ => isDraining_of_liveTags)

theorem endsOnly_abortVt (vt cause : Nat) (byRelative : Bool) (rep : Option Report) (s : State) :
    EndsOnly s (abortVt vt cause byRelative rep s) := by
  unfold abortVt
  split
  · split
    · exact endsOnly_abortLaunch _ _ _ _ _
    · exact endsOnly_lowerCause _ _ _ _
  · exact EndsOnly.refl s

theorem endsOnly_conflictWrite (pa : Nat) (sp : Option Nat) (s : State) : EndsOnly s (conflictWrite pa sp s) :=
  EndsOnly.foldl (fun u v _ => endsOnly_abortVt v 0x09 false none u) _ (EndsOnly.refl s)

/-- Ending transactions changes no committed byte. -/
theorem EndsOnly.homeByte {s t : State} (h : EndsOnly s t) (x : Nat) : homeByte t x = homeByte s x :=
  homeByte_congr (by rw [h.kamub]) h.lines h.draining (by rw [h.mem]) (by rw [h.mem]) x

end Sys2Proof.Machine

/-! ## A conflict reaches each transaction that shadows the line (R33, R117, R165) -/

namespace Sys2Proof.Machine

/-! ### The launch and the tag of one transaction -/

/-- A tag and its launch before any cause has reached them. -/
def Running (g : VTag) (k : Launch) : Prop := (g.st = .active ∨ g.st = .queued) ∧ k.cause = none

/-- A tag and its launch after a conflict has ended them. -/
def Conflicted (g : VTag) (k : Launch) : Prop := g.st = .aborting ∧ g.cause = 0x09 ∧ k.phase = .aborted ∧ k.cause = some 0x09

/-- Tag `v` is the tag of launch `id` and of no team, and a conflict has ended both or, unless `done`, has not reached them yet. -/
structure Holds (id v : Nat) (done : Prop) (s : State) : Prop where
  pair : ∃ g k, tag? s v = some g ∧ launch? s id = some k ∧ g.launch = id ∧ k.vt = some v ∧ (Conflicted g k ∨ ¬done ∧ Running g k)
  teams : ∀ m ∈ s.teams, m.vt ≠ some v

section
variable {id v : Nat} {done : Prop} {s t : State}

theorem launch?_id {s : State} {i : Nat} {l : Launch} (h : launch? s i = some l) : l.id = i := by
  simpa using List.find?_some h

theorem launch?_modLaunch {f : Launch → Launch} (hf : ∀ l, (f l).id = l.id) (i j : Nat) (s : State) :
    launch? (modLaunch i f s) j = if j = i then (launch? s j).map f else launch? s j := by
  unfold launch?
  rw [modLaunch_launches, find?_modWhere (by simp [hf])]
  cases hk : s.launches.find? (·.id == j) with
  | none => simp
  | some k =>
    have hid : k.id = j := by simpa using List.find?_some hk
    by_cases hj : j = i <;> simp [hid, hj]

/-- Launches that differ in their free window stacks alone are found under the same numbers. -/
def withoutStacks (l : Launch) : Launch := { l with freeStacks := [] }

theorem launch?_of_withoutStacks {s t : State} (h : t.launches.map withoutStacks = s.launches.map withoutStacks) (i : Nat) :
    (launch? t i).map withoutStacks = (launch? s i).map withoutStacks := by
  have hf (l : List Launch) : (l.find? (·.id == i)).map withoutStacks = (l.map withoutStacks).find? (·.id == i) := by
    rw [List.find?_map]; rfl
  unfold launch?
  rw [hf, hf, h]

theorem stopLaunch_launches (i : Nat) (s : State) :
    (stopLaunch i s).launches.map withoutStacks = s.launches.map withoutStacks :=
  foldl_same (fun u => u.launches.map withoutStacks) (g := fun u m => clearTeam m (freeStacks m u))
    (fun u m => map_modWhere (by exact fun _ => rfl) _ _) _ s

theorem stopLaunch_tags (i : Nat) (s : State) : (stopLaunch i s).skim.tags = s.skim.tags :=
  foldl_same (fun u => u.skim.tags) (g := fun u m => clearTeam m (freeStacks m u)) (fun _ _ => rfl) _ s

theorem countLink_same (cause : Nat) (s : State) :
    (countLink cause s).launches = s.launches ∧ (countLink cause s).skim = s.skim ∧ (countLink cause s).teams = s.teams := by
  unfold countLink
  split <;> exact ⟨rfl, rfl, rfl⟩

theorem stampCause_tags (i cause vt : Nat) (rep : Option Report) (s : State) : (stampCause i cause vt rep s).skim.tags = s.skim.tags := by
  unfold stampCause
  refine (stopLaunch_tags _ _).trans ?_
  rw [modLaunch_skim]
  split
  · rw [(countLink_same cause s).2.1]
  · rfl

theorem launch?_stopLaunch {j : Nat} {k : Launch} (i : Nat) {f : Launch → Launch} {s : State} (h : launch? s j = some k)
    (hf : ∀ l, (f l).id = l.id) :
    ∃ k', launch? (stopLaunch i (modLaunch i f s)) j = some k' ∧ withoutStacks k' = withoutStacks (if j = i then f k else k) := by
  have hs := launch?_of_withoutStacks (stopLaunch_launches i (modLaunch i f s)) j
  have hk : (if j = i then (some k).map f else some k) = some (if j = i then f k else k) := by split <;> rfl
  rw [launch?_modLaunch hf, h, hk] at hs
  obtain ⟨k', hk', he⟩ := Option.map_eq_some_iff.mp hs
  exact ⟨k', hk', he⟩

/-- What a launch becomes as a cause takes effect. -/
def stamped (cause causeAt vt : Nat) (rep : Option Report) (l : Launch) : Launch :=
  match l.cause with
  | some _ => l
  | none => { l with cause := some cause, causeAt := causeAt, causeVt := vt, report := rep, phase := .aborted, fault := none }

theorem stamped_keeps (cause causeAt vt : Nat) (rep : Option Report) (l : Launch) :
    (stamped cause causeAt vt rep l).id = l.id ∧ (stamped cause causeAt vt rep l).vt = l.vt ∧
      ((stamped cause causeAt vt rep l).cause, (stamped cause causeAt vt rep l).phase) =
        if l.cause = none then (some cause, .aborted) else (l.cause, l.phase) := by
  unfold stamped
  cases h : l.cause <;> simp [h]

/-- The first cause of a launch is recorded and ends it; a later one changes nothing. -/
theorem launch?_stampCause {j : Nat} {k : Launch} (i cause vt : Nat) (rep : Option Report) {s : State} (h : launch? s j = some k) :
    ∃ k', launch? (stampCause i cause vt rep s) j = some k' ∧ k'.vt = k.vt ∧
      (k'.cause, k'.phase) = if j = i ∧ k.cause = none then (some cause, .aborted) else (k.cause, k.phase) := by
  obtain ⟨u, hu⟩ : ∃ u, u = if (launch? s i).any (·.cause.isNone) then countLink cause s else s := ⟨_, rfl⟩
  have hs : stampCause i cause vt rep s = stopLaunch i (modLaunch i (stamped cause u.cycles vt rep) u) := by rw [hu]; rfl
  have hk : launch? u j = some k := by
    rw [hu]
    split
    · unfold launch? at h ⊢; rw [(countLink_same cause s).1, h]
    · exact h
  obtain ⟨-, hvt, hcp⟩ := stamped_keeps cause u.cycles vt rep k
  obtain ⟨k', hk', he⟩ := launch?_stopLaunch i hk (f := stamped cause u.cycles vt rep) (fun l => (stamped_keeps _ _ _ _ l).1)
  refine ⟨k', by rw [hs, hk'], (congrArg (·.vt) he).trans ?_, (congrArg (fun l => (l.cause, l.phase)) he).trans ?_⟩
  · split
    · exact hvt
    · rfl
  · by_cases hj : j = i
    · simpa [hj, withoutStacks] using hcp
    · simp [hj, withoutStacks]

/-! ### Tags that die -/

theorem killTag_same (w cause : Nat) (s : State) :
    (killTag w cause s).launches = s.launches ∧ (killTag w cause s).teams = s.teams := by
  unfold killTag countAbort
  split
  · exact ⟨rfl, rfl⟩
  · split <;> exact ⟨rfl, rfl⟩

theorem killTags_same (cause : Nat) (vs : List Nat) (s : State) :
    (vs.foldl (fun s w => killTag w cause s) s).launches = s.launches ∧ (vs.foldl (fun s w => killTag w cause s) s).teams = s.teams :=
  ⟨foldl_same (·.launches) (fun u w => (killTag_same w cause u).1) vs s, foldl_same (·.teams) (fun u w => (killTag_same w cause u).2) vs s⟩

theorem tag?_killTags (cause : Nat) (vs : List Nat) (s : State) (x : Nat) :
    tag? (vs.foldl (fun s w => killTag w cause s) s) x =
      if x ∈ vs then (tag? s x).map (fun g => { g with st := .aborting, cause := cause }) else tag? s x := by
  induction vs generalizing s with
  | nil => simp
  | cons w vs ih =>
    rw [List.foldl_cons, ih, tag?_killTag]
    by_cases hw : x = w
    · subst hw
      cases tag? s x <;> simp
    · simp [hw]

/-! ### Every step of an abort with CONFLICT -/

theorem Holds.mono {done more : Prop} (h : Holds id v more s) (hm : done → more) : Holds id v done s := by
  obtain ⟨⟨g, k, hg, hk, hgl, hkv, hs⟩, ht⟩ := h
  exact ⟨⟨g, k, hg, hk, hgl, hkv, hs.imp_right fun ⟨hn, hr⟩ => ⟨fun hd => hn (hm hd), hr⟩⟩, ht⟩

/-- A launch that is struck takes the tag with it where the tag is its own, and touches neither where it is not. -/
theorem Holds.strike {d vt : Nat} {rep : Option Report} {vs : List Nat} (h : Holds id v done s) (hv : v ∈ vs → d = id)
    (hr : ∀ g k, tag? s v = some g → launch? s id = some k → Running g k → d = id → v ∈ vs) :
    Holds id v (done ∨ d = id) (strike d 0x09 vt rep vs s) := by
  obtain ⟨⟨g, k, hg, hk, hgl, hkv, hs⟩, ht⟩ := h
  obtain ⟨hlaunches, hteams⟩ := killTags_same 0x09 vs s
  have hk1 : launch? (vs.foldl (fun s w => killTag w 0x09 s) s) id = some k := by unfold launch? at hk ⊢; rw [hlaunches, hk]
  obtain ⟨k', hk', hkv', hcp⟩ := launch?_stampCause d 0x09 vt rep hk1
  have hg1 : tag? (Machine.strike d 0x09 vt rep vs s) v =
      if v ∈ vs then some { g with st := .aborting, cause := 0x09 } else some g := by
    unfold Machine.strike
    rw [tag?, stampCause_tags, ← tag?, tag?_killTags, hg]
    rfl
  have hvts : (Machine.strike d 0x09 vt rep vs s).teams.map (·.vt) = s.teams.map (·.vt) := by
    rw [← hteams]
    exact (endsOnly_stampCause d 0x09 vt rep _).teams
  refine ⟨?_, fun m hm e => ?_⟩
  · by_cases hd : d = id
    · subst hd
      have hcp' : k'.cause = some 0x09 ∧ k'.phase = .aborted := by
        rcases hs with hc | hrun
        · simpa [hc.2.2.1, hc.2.2.2] using hcp
        · simpa [hrun.2.2] using hcp
      by_cases hin : v ∈ vs
      · rw [if_pos hin] at hg1
        exact ⟨_, k', hg1, hk', hgl, hkv'.trans hkv, .inl ⟨rfl, rfl, hcp'.2, hcp'.1⟩⟩
      · rw [if_neg hin] at hg1
        rcases hs with hc | hrun
        · exact ⟨g, k', hg1, hk', hgl, hkv'.trans hkv, .inl ⟨hc.1, hc.2.1, hcp'.2, hcp'.1⟩⟩
        · exact absurd (hr g k hg hk hrun.2 rfl) hin
    · rw [if_neg fun hin => hd (hv hin)] at hg1
      rw [if_neg fun hj => hd hj.1.symm] at hcp
      obtain ⟨hcause, hphase⟩ := Prod.mk.inj hcp
      refine ⟨g, k', hg1, hk', hgl, hkv'.trans hkv, hs.imp (fun hc => ?_) fun ⟨hn, hrun⟩ => ⟨fun h => h.elim hn hd, hrun.1, ?_⟩⟩
      · exact ⟨hc.1, hc.2.1, hphase.trans hc.2.2.1, hcause.trans hc.2.2.2⟩
      · exact hcause.trans hrun.2
  · obtain ⟨m', hm', he⟩ := List.mem_map.mp (hvts ▸ List.mem_map_of_mem (f := fun m : Team => m.vt) hm)
    exact ht m' hm' (he.trans e)

/-- The tag is among those of its own launch, and of no other. -/
theorem Holds.mem_endTags {d : Nat} {k : Launch} (h : Holds id v done s) (hd : launch? s d = some k) : v ∈ endTags s k none ↔ d = id := by
  obtain ⟨⟨g, l, hg, hl, hgl, hlv, -⟩, ht⟩ := h
  unfold endTags
  cases hk : k.vt with
  | none =>
    refine iff_of_false (fun hm => ?_) fun e => ?_
    · obtain ⟨m, hm, hmv⟩ := List.mem_filterMap.mp hm
      exact ht m (List.mem_of_mem_filter hm) hmv
    · subst e
      rw [hl] at hd
      cases hd
      rw [hk] at hlv
      cases hlv
  | some w =>
    have hid := launch?_id hd
    constructor
    · intro hm
      dsimp only at hm
      split at hm
      next hw =>
        obtain rfl : v = w := List.mem_singleton.mp hm
        rw [hg, Option.any_some, beq_iff_eq, hgl, hid] at hw
        exact hw.symm
      next => cases hm
    · intro e
      subst e
      rw [hl] at hd
      cases hd
      rw [hk] at hlv
      cases hlv
      simp [hg, hgl, hid]

theorem Holds.abortDescendant (h : Holds id v done s) (d : Nat) : Holds id v done (abortDescendant 0x09 s d) := by
  unfold Machine.abortDescendant
  split
  next k hd =>
    split
    · exact h
    · refine (h.strike (fun hm => (h.mem_endTags hd).mp (List.mem_of_mem_filter hm)) fun g l hg hl hrun e => ?_).mono .inl
      refine List.mem_filter.mpr ⟨(h.mem_endTags hd).mpr e, ?_⟩
      unfold abortable
      rw [hg]
      rcases hrun.1 with hst | hst <;> simp [hst]
  next => exact h

/-- A lower cause never lowers CONFLICT with itself. -/
theorem Holds.lowerCause {rep : Option Report} (h : Holds id v done s) (i : Nat) : Holds id v done (lowerCause i 0x09 rep s) := by
  unfold Machine.lowerCause
  split
  · exact h
  next l hl =>
  split
  · exact h
  next c hc =>
  dsimp only
  split
  next hlt =>
    obtain ⟨⟨g, k, hg, hk, hgl, hkv, hs⟩, ht⟩ := h
    have hother : k.cause ≠ some c := fun e => by
      rcases hs with hc | hrun
      · rw [hc.2.2.2, Option.some.injEq] at e
        omega
      · rw [hrun.2.2] at e
        cases e
    have hself : k.id ≠ i := fun e => by
      rw [← e, launch?_id hk, hk] at hl
      cases hl
      exact hother hc
    have hfix (b : Bool) : (if b && g.st == .aborting then { g with cause := 0x09 } else g) = g := by
      split
      next hb =>
        rcases hs with hc | hrun
        · rw [← hc.2.1]
        · have hst := (Bool.and_eq_true_iff.mp hb).2
          rcases hrun.2.1 with e | e <;> simp [e] at hst
      next => rfl
    refine ⟨⟨g, k, ?_, ?_, hgl, hkv, hs⟩, ht⟩
    · unfold tag? at hg ⊢
      dsimp only
      rw [tabFind_map _ (fun e => by split <;> rfl), hg, Option.map_some, apply_ite Prod.snd]
      exact congrArg some (hfix _)
    · unfold launch? at hk ⊢
      dsimp only
      rw [find?_modWhere (by exact fun _ => rfl), hk]
      simp [hother, hself]
  · exact h

/-- A tag that still runs is among the tags that an abort with CONFLICT of its launch takes with it. -/
theorem mem_liveTags_of_running {g : VTag} {k l : Launch} {r : Bool} (h : v ∈ endTags s l none) (hg : tag? s v = some g)
    (hr : Running g k) : v ∈ liveTags s l 0x09 r := by
  refine List.mem_filter.mpr ⟨h, ?_⟩
  unfold tagIn reachesQueued
  rw [hg]
  rcases hr.1 with hst | hst <;> simp [hst]

/-- An abort with CONFLICT reaches the launch that it names. -/
theorem Holds.abortLaunch {r : Bool} {rep : Option Report} (h : Holds id v done s) (i : Nat) :
    Holds id v (done ∨ i = id) (abortLaunch i 0x09 r rep s) := by
  cases hl : launch? s i with
  | none =>
    obtain ⟨⟨g, k, hg, hk, hgl, hkv, hs⟩, ht⟩ := h
    have hne : i ≠ id := fun e => by rw [e, hk] at hl; cases hl
    unfold Machine.abortLaunch
    rw [hl]
    exact ⟨⟨g, k, hg, hk, hgl, hkv, hs.imp_right fun ⟨hn, hrun⟩ => ⟨fun hd => hd.elim hn hne, hrun⟩⟩, ht⟩
  | some l =>
    rw [abortLaunch_eq hl]
    split
    next he =>
      have hempty := List.isEmpty_iff.mp (Bool.and_eq_true_iff.mp he).1
      refine Holds.lowerCause ?_ i
      obtain ⟨⟨g, k, hg, hk, hgl, hkv, hs⟩, ht⟩ := h
      refine ⟨⟨g, k, hg, hk, hgl, hkv, hs.imp_right fun ⟨hn, hrun⟩ => ⟨fun hd => hd.elim hn fun e => ?_, hrun⟩⟩, ht⟩
      have hin := (Holds.mem_endTags ⟨⟨g, k, hg, hk, hgl, hkv, hs⟩, ht⟩ hl).mpr e
      have hlive := mem_liveTags_of_running (r := r) hin hg hrun
      rw [hempty] at hlive
      cases hlive
    next =>
      refine foldl_keeps (P := Holds id v (done ∨ i = id)) (fun u d hu => hu.abortDescendant d) _ (h.strike (fun hm => ?_) ?_)
      · exact (h.mem_endTags hl).mp (List.mem_of_mem_filter hm)
      · exact fun g k hg _ hrun e => mem_liveTags_of_running ((h.mem_endTags hl).mpr e) hg hrun

theorem Holds.abortVt {r : Bool} {rep : Option Report} (h : Holds id v done s) (w : Nat) :
    Holds id v (done ∨ v = w) (abortVt w 0x09 r rep s) := by
  obtain ⟨g, k, hg, hk, hgl, hkv, hs⟩ := h.pair
  unfold Machine.abortVt
  split
  next f hf =>
    split
    next => exact (h.abortLaunch f.launch).mono (Or.imp_right fun e => by subst e; rw [hg] at hf; cases hf; exact hgl)
    next hno =>
      refine Holds.lowerCause ⟨⟨g, k, hg, hk, hgl, hkv, hs.imp_right fun ⟨hn, hrun⟩ => ⟨fun hd => hd.elim hn fun e => hno ?_, hrun⟩⟩, h.teams⟩ _
      subst e
      unfold abortable
      rw [hg]
      rcases hrun.1 with hst | hst <;> simp [hst]
  next hf =>
    refine h.mono fun hd => hd.elim (fun x => x) fun e => ?_
    subst e
    rw [hg] at hf
    cases hf

theorem Holds.abortVts {r : Bool} {rep : Option Report} (h : Holds id v done s) (vs : List Nat) :
    Holds id v (done ∨ v ∈ vs) (vs.foldl (fun s w => Machine.abortVt w 0x09 r rep s) s) := by
  induction vs generalizing s done with
  | nil => exact h.mono fun hd => hd.elim (fun x => x) fun e => by cases e
  | cons w vs ih => exact (ih (h.abortVt w)).mono (by rw [List.mem_cons, or_assoc]; exact fun x => x)

/-- A write of the companion ends every transaction that still runs and shadows the line (R33). -/
theorem Holds.conflictWrite {pa : Nat} (h : Holds id v done s) (hv : ∃ l ∈ s.skim.lines, l.line = pa / 128 ∧ l.vt = v) :
    Holds id v True (conflictWrite pa none s) := by
  obtain ⟨g, k, hg, hk, hgl, hkv, hs⟩ := h.pair
  obtain ⟨l, hl, hline, hvt⟩ := hv
  unfold Machine.conflictWrite
  rcases hs with hc | hrun
  · have hdone : Holds id v True s := ⟨⟨g, k, hg, hk, hgl, hkv, .inl hc⟩, h.teams⟩
    exact (hdone.abortVts _).mono .inl
  · refine (h.abortVts _).mono fun _ => .inr (List.mem_filter.mpr ⟨List.mem_map.mpr ⟨l, List.mem_filter.mpr ⟨hl, by simp [hline]⟩, hvt⟩, ?_⟩)
    have hst := hrun.2.1
    simp only [hg, Bool.and_true]
    unfold conflictable
    rw [hg]
    rcases hst with e | e <;> simp [e]

end

/-- Where every transaction that shadows the line is past its end, a write conflicts with none. -/
theorem conflictWrite_none {pa : Nat} {sp : Option Nat} {s : State}
    (h : ∀ l ∈ s.skim.lines, l.line = pa / 128 → ∀ g, tag? s l.vt = some g → g.st = .committing ∨ g.st = .draining) :
    conflictWrite pa sp s = s := by
  unfold conflictWrite
  dsimp only
  rw [List.filter_eq_nil_iff.mpr]
  · rfl
  intro v hv
  obtain ⟨l, hl, rfl⟩ := List.mem_map.mp hv
  obtain ⟨hl, hline⟩ := List.mem_filter.mp hl
  cases hg : tag? s l.vt with
  | none => simp
  | some g =>
    unfold conflictable
    rcases h l hl (by simpa using hline) g hg with e | e <;> simp [hg, e]

/-! ## Writes of ranges at the home (R40) -/

/-- What a write of bytes at the home makes of the committed ones. -/
def written (pa : Nat) (data : List Byte) (old : Nat → Byte) (x : Nat) : Byte :=
  if pa ≤ x ∧ x < pa + data.length then data.getD (x - pa) 0 else old x

theorem writeRun_homeBytes (pa : Nat) (data : List Byte) {s : State} (hm : s.MemOk) (hl : LinesWf s) :
    let t := writeRun writeHomeByte pa data s
    t.MemOk ∧ LinesWf t ∧ ∀ x, homeByte t x = written pa data (homeByte s) x := by
  induction data generalizing pa s with
  | nil => exact ⟨hm, hl, fun x => by rw [written, if_neg (by simp)]; rfl⟩
  | cons b data ih =>
    obtain ⟨hm', hl', hx⟩ := ih (pa + 1) (memOk_writeHomeByte pa b hm) (linesWf_writeHomeByte pa b hm hl)
    refine ⟨hm', hl', fun x => (hx x).trans ?_⟩
    unfold written
    rw [homeByte_writeHomeByte pa x b hm hl, List.length_cons]
    by_cases h : x = pa
    · subst h
      rw [if_neg (by omega), if_pos rfl, if_pos (by omega), Nat.sub_self, List.getD_cons_zero]
    · rw [if_neg h]
      by_cases hin : pa + 1 ≤ x ∧ x < pa + 1 + data.length
      · have he : x - pa = (x - (pa + 1)) + 1 := by omega
        rw [if_pos hin, if_pos (by omega), he, List.getD_cons_succ]
      · rw [if_neg hin, if_neg (by omega)]

theorem reachable_of_device {pa : Nat} (s : State) (hp : pa < 2 ^ 51) : reachable s pa = true := by
  unfold reachable
  rw [decide_eq_true hp, Bool.true_or]

/-- A write by the system below the companion's memory is the committed value of its range, and changes no other byte (R40, R91). -/
theorem homeByte_writeSys {pa : Nat} (data : List Byte) {s : State} (hp : pa < 2 ^ 51) (hm : s.MemOk) (hl : LinesWf s) (x : Nat) :
    homeByte (writeSys pa data s) x = written pa data (homeByte s) x := by
  have hpos : ¬ 2 ^ 51 ≤ pa := by omega
  unfold writeSys
  rw [reachable_of_device s hp, if_neg hpos]
  exact (writeRun_homeBytes pa data hm hl).2.2 x

/-! ### What a write leaves as it was -/

/-- The state without what a write of bytes can change: memory, the shadow lines, the companion's copies, the verdicts and what tells the
companion of a line. -/
def withoutBytes (s : State) : State :=
  { s with mem := Mem.reset, images := [], placed := [], outputs := [], kamub := { s.kamub with copies := [] },
           skim := { s.skim with lines := [] } }

theorem withoutBytes_dropVerdicts (pa : Nat) (s : State) : withoutBytes (dropVerdicts pa s) = withoutBytes s := by
  unfold dropVerdicts
  dsimp only
  split <;> rfl

theorem withoutBytes_storeByte (line pa : Nat) (b : Byte) (s : State) : withoutBytes (setDirty line (storeByte pa b s)) = withoutBytes s := rfl

theorem withoutBytes_storeLine (line : Nat) (l : List Byte) (s : State) : withoutBytes (storeLine line l s) = withoutBytes s := by
  unfold storeLine
  exact foldl_same withoutBytes (fun u i => withoutBytes_storeByte (128 * line) (128 * line + i) (l.getD i 0) u) _ s

theorem withoutBytes_recallLine (line : Nat) (s : State) : withoutBytes (recallLine line s) = withoutBytes s := by
  rw [recallLine_eq]
  split
  · rfl
  · split
    · rfl
    · exact withoutBytes_storeLine line _ (dropCompLine line s)

theorem withoutBytes_writeHomeByte (pa : Nat) (b : Byte) (s : State) : withoutBytes (writeHomeByte pa b s) = withoutBytes s :=
  (withoutBytes_recallLine (pa / 128) _).trans (withoutBytes_dropVerdicts pa (supersede pa s))

theorem withoutBytes_writeCompByte (pa : Nat) (b : Byte) (s : State) : withoutBytes (writeCompByte pa b s) = withoutBytes s :=
  withoutBytes_dropVerdicts pa s

theorem withoutBytes_writeRun {w : Nat → Byte → State → State} (hw : ∀ pa b s, withoutBytes (w pa b s) = withoutBytes s) (pa : Nat)
    (data : List Byte) (s : State) : withoutBytes (writeRun w pa data s) = withoutBytes s := by
  induction data generalizing pa s with
  | nil => rfl
  | cons b data ih => exact (ih _ _).trans (hw pa b s)

theorem withoutBytes_writeSys (pa : Nat) (data : List Byte) (s : State) : withoutBytes (writeSys pa data s) = withoutBytes s := by
  unfold writeSys
  split
  · rfl
  split
  · exact withoutBytes_writeRun withoutBytes_writeCompByte pa data s
  · exact withoutBytes_writeRun withoutBytes_writeHomeByte pa data s

/-! ## The companion's own line (R32, R33) -/

theorem healCovered_same (line : Nat) (covered : Nat → Bool) (s : State) :
    let t := healCovered line covered s
    withoutBytes t = withoutBytes s ∧ t.kamub = s.kamub ∧ t.skim = s.skim ∧ t.mem.home = s.mem.home ∧ t.mem.dirty = s.mem.dirty := by
  have hf {τ : Type} (p : State → τ) (h : ∀ a n u, p (healWords a n u) = p u) : p (healCovered line covered s) = p s :=
    foldl_same p (fun _ _ => h _ _ _) _ s
  exact ⟨hf withoutBytes fun _ _ _ => rfl, hf (·.kamub) fun _ _ _ => rfl, hf (·.skim) fun _ _ _ => rfl, hf (·.mem.home) fun _ _ _ => rfl,
    hf (·.mem.dirty) fun _ _ _ => rfl⟩

/-- The bytes of a line with those of a write in their place. -/
def ownedBytes (line pa : Nat) (data : List Byte) (s : State) : List Byte :=
  (List.range 128).map (fun i => if pa ≤ 128 * line + i ∧ 128 * line + i < pa + data.length then data.getD (128 * line + i - pa) 0
    else ((List.range 128).map (fun i => homeByte s (128 * line + i))).getD i 0)

theorem ownedBytes_getD {line pa x : Nat} {data : List Byte} {s : State} (hx : x / 128 = line) :
    (ownedBytes line pa data s).getD (x % 128) 0 = written pa data (homeByte s) x := by
  have hi : x % 128 < 128 := Nat.mod_lt _ (by decide)
  have he : 128 * line + x % 128 = x := by omega
  have hg (f : Nat → Byte) : ((List.range 128).map f).getD (x % 128) 0 = f (x % 128) := by
    rw [List.getD_eq_getElem _ _ (by simpa using hi), List.getElem_map, List.getElem_range]
  unfold ownedBytes written
  rw [hg, hg, he]

theorem ownLine_same (line pa : Nat) (data : List Byte) (s : State) :
    let t := ownLine line pa data s
    withoutBytes t = withoutBytes s ∧ t.skim = s.skim ∧ t.mem.home = s.mem.home ∧ t.mem.dirty = s.mem.dirty ∧
      t.kamub.copies = s.kamub.copies.filter (·.line != line) ++ [{ line := line, dirty := some (ownedBytes line pa data s) }] := by
  obtain ⟨hmem, hkamub, hskim⟩ := dropVerdicts_same (128 * line) s
  obtain ⟨hf, hk, hs, hh, hd⟩ := healCovered_same line
    (fun i => decide (pa ≤ 128 * line + i ∧ 128 * line + i < pa + data.length)) (setDirty (128 * line) (dropVerdicts (128 * line) s))
  refine ⟨hf.trans (withoutBytes_dropVerdicts _ _), hs.trans hskim, hh.trans (congrArg (·.home) hmem), hd.trans (congrArg (·.dirty) hmem), ?_⟩
  exact congrArg (fun k : Kamub => k.copies.filter (·.line != line) ++ [{ line := line, dirty := some (ownedBytes line pa data s) }])
    (hk.trans hkamub)

/-- The line that the companion owns reads as what it put there, and no other committed byte changes. -/
theorem homeByte_ownLine {line pa : Nat} {data : List Byte} {s : State} (hlo : 128 * line ≤ pa) (hhi : pa + data.length ≤ 128 * line + 128)
    (x : Nat) : homeByte (ownLine line pa data s) x = written pa data (homeByte s) x := by
  obtain ⟨-, hskim, hhome, hdirty, hcopies⟩ := ownLine_same line pa data s
  by_cases hx : x / 128 = line
  · have hc : compDirtyByte (ownLine line pa data s) x = some ((ownedBytes line pa data s).getD (x % 128) 0) := by
      unfold compDirtyByte
      rw [hcopies, List.find?_append, List.find?_eq_none.mpr (by simp [hx])]
      simp [hx]
    rw [homeByte_eq, hc, Option.getD_some, ownedBytes_getD hx]
  · have hc : compDirtyByte (ownLine line pa data s) x = compDirtyByte s x := by
      refine Eq.trans ?_ ((compDirtyByte_drop (t := dropCompLine line s) rfl x).trans (if_neg hx))
      unfold compDirtyByte
      rw [hcopies, List.find?_append, List.find?_cons_of_neg (by simpa using Ne.symm hx), List.find?_nil, Option.or_none]
      rfl
    have hd : drainingByte (ownLine line pa data s) x = drainingByte s x :=
      drainingByte_congr (by rw [hskim]) (fun v => by simp only [isDraining, tag?, hskim]) x
    rw [written, if_neg (by omega), homeByte_eq, homeByte_eq, hc]
    simp only [storedByte, hd, hdirty, hhome]

theorem linesOf_oneLine {pa n : Nat} (hn : 0 < n) (h : pa % 128 + n ≤ 128) : linesOf pa n = [pa / 128] := by
  have hl : (List.range n).map (fun i => (pa + i) / 128) = List.replicate n (pa / 128) := by
    refine List.eq_replicate_iff.mpr ⟨by simp, fun b hb => ?_⟩
    obtain ⟨i, hi, rfl⟩ := List.mem_map.mp hb
    have := List.mem_range.mp hi
    omega
  obtain ⟨m, rfl⟩ := Nat.exists_eq_add_of_lt hn
  unfold linesOf
  rw [hl, Nat.zero_add, List.replicate_succ, List.eraseDups_cons, List.filter_replicate]
  simp

/-- The companion keeps a copy of a line that it has read, unless it has one. -/
def keepLine (s : State) (line : Nat) : State :=
  if s.kamub.copies.any (·.line == line) then s
  else { s with kamub := { s.kamub with copies := s.kamub.copies ++ [{ line := line, dirty := none }] } }

theorem keepLine_same (s : State) (line : Nat) :
    let t := keepLine s line
    t.mem = s.mem ∧ t.skim = s.skim ∧ t.launches = s.launches ∧ t.outputs = s.outputs ∧
      (∃ c ∈ t.kamub.copies, c.line = line) ∧ ∀ c ∈ s.kamub.copies, c ∈ t.kamub.copies := by
  unfold keepLine
  split
  next h =>
    obtain ⟨c, hc, hl⟩ := List.any_eq_true.mp h
    exact ⟨rfl, rfl, rfl, rfl, ⟨c, hc, by simpa using hl⟩, fun _ hc => hc⟩
  next => exact ⟨rfl, rfl, rfl, rfl, ⟨_, List.mem_append_right _ List.mem_cons_self, rfl⟩, fun _ hc => List.mem_append_left _ hc⟩

theorem keepLines_same (ls : List Nat) (s : State) :
    let t := ls.foldl keepLine s
    t.mem = s.mem ∧ t.skim = s.skim ∧ t.launches = s.launches ∧ t.outputs = s.outputs ∧
      (∀ l ∈ ls, ∃ c ∈ t.kamub.copies, c.line = l) ∧ ∀ c ∈ s.kamub.copies, c ∈ t.kamub.copies := by
  induction ls generalizing s with
  | nil => exact ⟨rfl, rfl, rfl, rfl, fun _ hl => (List.not_mem_nil hl).elim, fun _ hc => hc⟩
  | cons l ls ih =>
    obtain ⟨hm, hk, hla, ho, ⟨c, hc, hcl⟩, hkeep⟩ := keepLine_same s l
    obtain ⟨hm', hk', hla', ho', hall, hkeep'⟩ := ih (keepLine s l)
    refine ⟨hm'.trans hm, hk'.trans hk, hla'.trans hla, ho'.trans ho, fun x hx => ?_, fun c hc => hkeep' c (hkeep c hc)⟩
    rcases List.mem_cons.mp hx with rfl | hx
    · exact ⟨c, hkeep' c hc, hcl⟩
    · exact hall x hx

theorem mem_linesOf {pa n i : Nat} (hi : i < n) : (pa + i) / 128 ∈ linesOf pa n :=
  List.mem_eraseDups.mpr (List.mem_map.mpr ⟨i, List.mem_range.mpr hi, rfl⟩)

theorem deviceRange_iff (s : State) (pa n : Nat) :
    deviceRange s pa n = true ↔ ∀ i < n, (∃ d, backing s (pa + i) = .hbm d) ∨ (∃ d, backing s (pa + i) = .carve d) := by
  unfold deviceRange
  rw [List.all_eq_true]
  refine forall_congr' fun i => ?_
  rw [List.mem_range]
  refine imp_congr_right fun _ => ?_
  cases backing s (pa + i) <;> simp

/-! ## What the companion's requests do (R31, R33, R35, R62) -/

theorem companionRead_hole {s : State} {pa len : Nat} (keep : Bool) (h : deviceRange s pa len = false) :
    companionRead pa len keep s = tell (.companion none) s := by
  unfold companionRead
  rw [h]
  rfl

theorem companionWrite_hole {s : State} {pa : Nat} {data : List Byte} (own : Bool) (h : deviceRange s pa data.length = false) :
    companionWrite pa data own s = tell (.companion none) s := by
  unfold companionWrite
  rw [h]
  rfl

theorem companionRead_device {s : State} {pa len : Nat} (keep : Bool) (h : deviceRange s pa len = true) :
    let t := companionRead pa len keep s
    t.outputs = s.outputs ++ [.companion (some (readHome s pa len))] ∧ t.mem = s.mem ∧ t.skim = s.skim ∧ t.launches = s.launches ∧
      (keep = true → ∀ i < len, ∃ c ∈ t.kamub.copies, c.line = (pa + i) / 128) := by
  unfold companionRead
  rw [h]
  cases keep with
  | false => exact ⟨rfl, rfl, rfl, rfl, fun hk => by cases hk⟩
  | true =>
    obtain ⟨hm, hs, hl, ho, hc, -⟩ := keepLines_same (linesOf pa len) (tell (.companion (some (readHome s pa len))) s)
    exact ⟨ho, hm, hs, hl, fun _ i hi => hc _ (mem_linesOf hi)⟩

/-- A write of one line stands after the conflicts that it makes. -/
theorem companionWrite_device {s : State} {pa : Nat} {data : List Byte} (own : Bool) (h : deviceRange s pa data.length = true)
    (hn : 0 < data.length) (hl : pa % 128 + data.length ≤ 128) :
    companionWrite pa data own s =
      let t := conflictWrite (128 * (pa / 128)) none s
      if own then ownLine (pa / 128) pa data t else writeSys pa data t := by
  unfold companionWrite
  rw [h, linesOf_oneLine hn hl]
  rfl

/-- What either form of a write makes of the committed bytes, and what it leaves. -/
theorem companionStore {s : State} {pa : Nat} {data : List Byte} (own : Bool) (hm : s.MemOk) (hw : LinesWf s) (hp : pa < 2 ^ 51)
    (hl : pa % 128 + data.length ≤ 128) :
    let t := if own then ownLine (pa / 128) pa data s else writeSys pa data s
    withoutBytes t = withoutBytes s ∧ ∀ x, homeByte t x = written pa data (homeByte s) x := by
  cases own with
  | true => exact ⟨(ownLine_same _ _ _ _).1, homeByte_ownLine (by omega) (by omega)⟩
  | false => exact ⟨withoutBytes_writeSys pa data s, homeByte_writeSys data hp hm hw⟩

end Sys2Proof.Machine

section
open Sys2Proof Sys2Proof.Machine

/-- Settles O46: a write first ends the transactions that shadow its line, which changes no committed byte, and then stands at the home
or in the companion's own copy, which a read finds first. -/
theorem companionAccessesReadAndWriteHome : Obligations.CompanionAccessesReadAndWriteHome := by
  unfold Obligations.CompanionAccessesReadAndWriteHome
  intro s pa len v data keep own g l linked acts waits device
  have hlink : companionLink s = true ↔ linked := by simp [companionLink, linked]
  have hfroz (h : linked) : frozen s = false ↔ acts := by simp [frozen, acts, h]
  have hread (h : acts) : exec (.companionRead pa len keep) s = .next (companionRead pa len keep s) := by
    show execCompanionRead pa len keep s = _
    simp [execCompanionRead, hlink.mpr h.1, (hfroz h.1).mpr h]
  have hwrite (h : acts) : exec (.companionWrite pa data own) s = .next (companionWrite pa data own s) := by
    show execCompanionWrite pa data own s = _
    simp [execCompanionWrite, hlink.mpr h.1, (hfroz h.1).mpr h]
  refine ⟨fun ha hd => ?_, fun ha hd hw _ hm hn hl hp => ?_, fun ha hd => ?_, fun ha hd => ?_, fun hk ha => ?_, fun hk => ?_⟩
  · obtain ⟨ho, hmem, hskim, hlau, hkeep⟩ := companionRead_device keep ((deviceRange_iff s pa len).mpr hd)
    exact ⟨_, hread ha, ho, hmem, hskim, hlau, hkeep⟩
  · have hline : 128 * (pa / 128) / 128 = pa / 128 := Nat.mul_div_cancel_left _ (by decide)
    have he := endsOnly_conflictWrite (128 * (pa / 128)) none s
    have hmem : (conflictWrite (128 * (pa / 128)) none s).MemOk := memOk_of_mem hm he.mem
    have hlines : LinesWf (conflictWrite (128 * (pa / 128)) none s) := by unfold LinesWf; rw [he.lines]; exact hw
    obtain ⟨hfam, hbytes⟩ := companionStore own hmem hlines (by omega) hl
    refine ⟨_, (hwrite ha).trans (congrArg _ (companionWrite_device own ((deviceRange_iff s pa _).mpr hd) hn hl)), fun x _ => ?_, ?_, ?_⟩
    · exact (hbytes x).trans (by simp only [written, he.homeByte])
    · intro hshadow hg hst hk hkv hc hteams
      have hrun : Holds g.launch v False s := ⟨⟨g, l, hg, hk, rfl, hkv, .inr ⟨id, hst, hc⟩⟩, hteams⟩
      obtain ⟨h, k, hh, hk', -, -, hs⟩ := (hrun.conflictWrite (pa := 128 * (pa / 128)) (hline.symm ▸ hshadow)).pair
      obtain ⟨hab, hcause, hphase, hkc⟩ := hs.resolve_right fun hn => hn.1 trivial
      refine ⟨h, k, ?_, hab, hcause, ?_, hphase, hkc⟩
      · exact (congrArg (tag? · v) hfam).trans hh
      · exact (congrArg (launch? · l.id) hfam).trans ((launch?_id hk).symm ▸ hk')
    · intro hpast
      have hnone := conflictWrite_none (pa := 128 * (pa / 128)) (sp := none) (hline.symm ▸ hpast)
      have hsame := hfam.trans (congrArg withoutBytes hnone)
      exact ⟨congrArg (·.launches) hsame, congrArg (·.skim.tags) hsame⟩
  · exact (hread ha).trans (congrArg _ (companionRead_hole keep (Bool.eq_false_iff.mpr fun h => hd ((deviceRange_iff s pa len).mp h))))
  · exact (hwrite ha).trans (congrArg _ (companionWrite_hole own (Bool.eq_false_iff.mpr fun h => hd ((deviceRange_iff s pa _).mp h))))
  · have hf : frozen s = true := Bool.eq_true_of_not_eq_false fun h => ha ((hfroz hk).mp h)
    constructor
    · show execCompanionRead pa len keep s = _
      simp [execCompanionRead, hlink.mpr hk, hf, holdRequest, waits]
    · show execCompanionWrite pa data own s = _
      simp [execCompanionWrite, hlink.mpr hk, hf, holdRequest, waits]
  · have hf : companionLink s = false := Bool.eq_false_iff.mpr fun h => hk (hlink.mp h)
    constructor
    · show execCompanionRead pa len keep s = _
      simp [execCompanionRead, hf]
    · show execCompanionWrite pa data own s = _
      simp [execCompanionWrite, hf]

end

/-! ## The Rambler's slots (R42, R48, R49, R51) -/

namespace Sys2Proof.Machine

/-! ### Lists changed at an index -/

section
variable {α : Type}

@[simp] theorem length_listMod (l : List α) (n : Nat) (f : α → α) : (listMod l n f).length = l.length := by
  induction l generalizing n with
  | nil => rfl
  | cons x l ih =>
    cases n with
    | zero => rfl
    | succ n => simp [listMod, ih]

theorem getD_listMod_same {l : List α} {n : Nat} (h : n < l.length) (f : α → α) (d : α) : (listMod l n f).getD n d = f (l.getD n d) := by
  induction l generalizing n with
  | nil => simp at h
  | cons x l ih =>
    cases n with
    | zero => rfl
    | succ n => exact ih (by simpa using h)

theorem getD_listMod_other {k n : Nat} (h : k ≠ n) (l : List α) (f : α → α) (d : α) : (listMod l n f).getD k d = l.getD k d := by
  induction l generalizing k n with
  | nil => rfl
  | cons x l ih =>
    cases n with
    | zero =>
      cases k with
      | zero => exact absurd rfl h
      | succ k => rfl
    | succ n =>
      cases k with
      | zero => rfl
      | succ k => exact ih (by omega)

theorem listMod_listMod (l : List α) (n : Nat) (f g : α → α) : listMod (listMod l n f) n g = listMod l n (fun x => g (f x)) := by
  induction l generalizing n with
  | nil => rfl
  | cons x l ih =>
    cases n with
    | zero => rfl
    | succ n => simp [listMod, ih]

/-- What stands at the index is all that a change depends on. -/
theorem listMod_congr {l : List α} {n : Nat} {f g : α → α} {d : α} (h : f (l.getD n d) = g (l.getD n d)) : listMod l n f = listMod l n g := by
  induction l generalizing n with
  | nil => rfl
  | cons x l ih =>
    cases n with
    | zero => simpa [listMod] using h
    | succ n => simpa [listMod] using ih h

end

/-! ### One slot changed -/

theorem rambler_modRambler_same {n : Nat} {s : State} (h : n < s.ramblers.length) (f : Rambler → Rambler) :
    rambler (modRambler n f s) n = f (rambler s n) := getD_listMod_same h f _

theorem rambler_modRambler_other {k n : Nat} (h : k ≠ n) (f : Rambler → Rambler) (s : State) :
    rambler (modRambler n f s) k = rambler s k := getD_listMod_other h _ f _

theorem modRambler_modRambler (n : Nat) (f g : Rambler → Rambler) (s : State) :
    modRambler n g (modRambler n f s) = modRambler n (fun r => g (f r)) s := by
  unfold modRambler
  rw [listMod_listMod]

theorem modRambler_congr {n : Nat} {f g : Rambler → Rambler} {s : State} (h : f (rambler s n) = g (rambler s n)) :
    modRambler n f s = modRambler n g s := by
  unfold modRambler
  rw [listMod_congr h]

theorem ramblerRuns_iff (s : State) : ramblerRuns s = true ↔ s.boot.released = true ∧ s.boot.frozenCmd = false ∧ s.boot.frozenPin = false := by
  simp [ramblerRuns, frozen]

/-! ### Starts (R42, R51) -/

theorem holdsSpace_iff (r : Rambler) : holdsSpace r = true ↔ r.state ≠ 0 ∧ ¬(r.state = 6 ∧ r.err = 6) := by
  unfold holdsSpace
  rw [Bool.and_eq_true, bne_iff_ne, Bool.not_eq_true', Bool.and_eq_false_iff, beq_eq_false_iff_ne, beq_eq_false_iff_ne, not_and_or]

theorem spaceTaken_iff (s : State) (n : Nat) : spaceTaken s n = true ↔
    ∃ k < 4, k ≠ n ∧ holdsSpace (rambler s k) = true ∧ (rambler s k).space = (rambler s n).space := by
  simp [spaceTaken, and_assoc]

theorem spaceTaken_modRambler {n : Nat} {s : State} (hn : n < s.ramblers.length) {f : Rambler → Rambler} (hf : ∀ r, (f r).space = r.space) :
    spaceTaken (modRambler n f s) n = spaceTaken s n := by
  refine Bool.eq_iff_iff.mpr ?_
  rw [spaceTaken_iff, spaceTaken_iff, rambler_modRambler_same hn, hf]
  refine exists_congr fun k => and_congr_right fun _ => and_congr_right fun hk => ?_
  rw [rambler_modRambler_other hk]

/-- A slot as a start leaves it. -/
def startedSlot (src : Bool) (f : Fresh) (r : Rambler) : Rambler :=
  { r with src := src, session := f.session, secret := f.secret, nonce := f.nonce, state := 1, round := 0, err := 0 }

theorem startSlot_idle {n : Nat} {src : Bool} {f : Fresh} {s : State} (h : ramblerRuns s = false ∨ (rambler s n).state ≠ 0) :
    startSlot n src f s = s := by
  unfold startSlot
  rcases h with h | h <;> simp [h]

section
variable {n : Nat} {src : Bool} {f : Fresh} {s : State} (hn : n < s.ramblers.length) (hf : s.boot.failed = false)
  (hr : ramblerRuns s = true) (h0 : (rambler s n).state = 0)
include hn hf hr h0

theorem startSlot_eq : startSlot n src f s = if spaceTaken s n then
    modRambler n (fun r => { startedSlot src f r with state := 6, err := 6 }) s else modRambler n (startedSlot src f) s := by
  have ht : spaceTaken (modRambler n (startedSlot src f) s) n = spaceTaken s n := spaceTaken_modRambler hn fun _ => rfl
  have hgo : (!answers s 0xA00 || !ramblerRuns s || (rambler s n).state != 0) = false := by
    simp [answers_of_not_failed hf, hr, h0]
  unfold startSlot
  rw [hgo, if_neg Bool.false_ne_true, ← ht]
  exact if_congr Iff.rfl (modRambler_modRambler n _ _ s) rfl

theorem startSlot_free (ht : spaceTaken s n = false) : startSlot n src f s = modRambler n (startedSlot src f) s := by
  rw [startSlot_eq hn hf hr h0, ht, if_neg Bool.false_ne_true]

theorem startSlot_busy (ht : spaceTaken s n = true) :
    startSlot n src f s = modRambler n (fun r => { startedSlot src f r with state := 6, err := 6 }) s := by
  rw [startSlot_eq hn hf hr h0, ht, if_pos rfl]

/-- SEND starts the slot and sends HELLO (R42). -/
theorem evSend_free (ht : spaceTaken s n = false) :
    evSend n f s = modRambler n (fun r => { startedSlot true f r with hello := some (ownHello s (startedSlot true f (rambler s n)) f.session) })
      { s with outputs := s.outputs ++ [.hello n (ownHello s (startedSlot true f (rambler s n)) f.session)] } := by
  have hs := rambler_modRambler_same hn (startedSlot true f)
  unfold evSend
  rw [startSlot_free hn hf hr h0 ht]
  dsimp only
  rw [hs, if_pos ⟨h0, rfl⟩]
  exact modRambler_modRambler n (startedSlot true f)
    (fun r => { r with hello := some (ownHello s (startedSlot true f (rambler s n)) f.session) })
    { s with outputs := s.outputs ++ [.hello n (ownHello s (startedSlot true f (rambler s n)) f.session)] }

theorem evSend_busy (ht : spaceTaken s n = true) :
    evSend n f s = modRambler n (fun r => { startedSlot true f r with state := 6, err := 6 }) s := by
  unfold evSend
  rw [startSlot_busy hn hf hr h0 ht]
  dsimp only
  rw [rambler_modRambler_same hn, if_neg fun h => absurd (show 6 = 1 from h.2) (by decide)]

end

theorem evSend_idle {n : Nat} {f : Fresh} {s : State} (h : ramblerRuns s = false ∨ (rambler s n).state ≠ 0) : evSend n f s = s := by
  unfold evSend
  rw [startSlot_idle h]
  exact if_neg fun h => by omega

/-! ### The ends of the waits (R48, R49, R51) -/

theorem evGraceExpiry_eq {n at_ : Nat} {s : State} (hr : ramblerRuns s = true) (h3 : (rambler s n).state = 3)
    (hc : (rambler s n).cutAt = some at_) (hl : ∀ l ∈ s.launches, l.space ≠ (rambler s n).space.toNat) :
    evGraceExpiry n s = if s.cycles < at_ + (rambler s n).grace.toNat * 700 then s
      else modSpace (rambler s n).space.toNat (fun p => { p with dropEth := true }) (modRambler n (fun r => { r with state := 4 }) s) := by
  have hnone : s.launches.filter (fun l => l.space == (rambler s n).space.toNat && l.parent.isNone) = [] :=
    List.filter_eq_nil_iff.mpr fun l hm => by simp [hl l hm]
  unfold evGraceExpiry
  dsimp only
  rw [hc]
  dsimp only
  rw [hr, h3, hnone]
  simp

theorem evCut_taken {n : Nat} {s : State} (hf : s.boot.failed = false) (hz : frozen s = false) (hs : (rambler s n).src = true)
    (h2 : (rambler s n).state = 2) :
    evCut n s = modSpace (rambler s n).space.toNat (fun p => { p with cutOver := true })
      (modRambler n (fun r => { r with state := 3, cutAt := some s.cycles }) s) := by
  unfold evCut
  simp [answers_of_not_failed hf, hz, hs, h2]

theorem evCut_idle {n : Nat} {s : State} (h : (rambler s n).src = false ∨ (rambler s n).state ≠ 2) : evCut n s = s := by
  unfold evCut
  rcases h with h | h <;> simp [h]

theorem evResume_eq {n : Nat} {s : State} (hf : s.boot.failed = false) (hz : frozen s = false)
    (h : (rambler s n).state = 5 ∨ (rambler s n).state = 6) :
    evResume n s = if holdsSpace (rambler s n) then
        modSpace (rambler s n).space.toNat (fun p => { p with cutOver := false, dropEth := false }) (modRambler n releasedSlot s)
      else modRambler n releasedSlot s := by
  unfold evResume
  rw [answers_of_not_failed hf, hz]
  rcases h with h | h <;> cases hh : holdsSpace (rambler s n) <;> simp [h, hh]

theorem inSession_iff (r : Rambler) : inSession r = true ↔ 1 ≤ r.state ∧ r.state ≤ 4 := by
  simp [inSession]

/-! ### What sending records changes (R43, R44, R46, R47) -/

/-- A slot without the record of what it has sent. -/
def withoutSent (r : Rambler) : Rambler :=
  { r with seqOut := 0, unacked := [], transcript := [], roundSent := 0, roundEnd := false, ended := false }

/-- The second state is the first after a slot has sent records: the slot's session, the launches and what has gone out before stay. -/
structure SendsOnly (n : Nat) (s t : State) : Prop where
  launches : t.launches = s.launches
  outputs : s.outputs <+: t.outputs
  slot : n < s.ramblers.length → n < t.ramblers.length ∧ withoutSent (rambler t n) = withoutSent (rambler s n)

theorem SendsOnly.refl (n : Nat) (s : State) : SendsOnly n s s := ⟨rfl, List.prefix_rfl, fun h => ⟨h, rfl⟩⟩

theorem SendsOnly.trans {n : Nat} {s t u : State} (h : SendsOnly n s t) (k : SendsOnly n t u) : SendsOnly n s u where
  launches := k.launches.trans h.launches
  outputs := h.outputs.trans k.outputs
  slot hn := ⟨(k.slot (h.slot hn).1).1, (k.slot (h.slot hn).1).2.trans (h.slot hn).2⟩

theorem SendsOnly.foldl {n : Nat} {β : Type} {s t : State} {g : State → β → State} (hg : ∀ u x, SendsOnly n u (g u x)) (l : List β)
    (h : SendsOnly n s t) : SendsOnly n s (l.foldl g t) :=
  foldl_keeps (P := SendsOnly n s) (fun u x hu => hu.trans (hg u x)) l h

/-- A change of the record of what a slot has sent, with nothing or one message more gone out. -/
theorem sendsOnly_modRambler {n : Nat} {f : Rambler → Rambler} (hf : ∀ r, withoutSent (f r) = withoutSent r) (o : List Output) (s : State) :
    SendsOnly n s (modRambler n f { s with outputs := s.outputs ++ o }) :=
  ⟨rfl, List.prefix_append _ _, fun h => ⟨by simpa using h, by rw [rambler_modRambler_same (by simpa using h), hf]; rfl⟩⟩

theorem sendsOnly_sendRecord (n : Nat) (rec_ : List Byte) (s : State) : SendsOnly n s (sendRecord n rec_ s) := by
  unfold sendRecord
  exact sendsOnly_modRambler (by exact fun _ => rfl) _ s

theorem sendsOnly_count (n : Nat) {f : Rambler → Rambler} (hf : ∀ r, withoutSent (f r) = withoutSent r) (s : State) :
    SendsOnly n s (modRambler n f s) := by
  have h := sendsOnly_modRambler (n := n) hf [] s
  rwa [List.append_nil] at h

theorem sendsOnly_sendPage (n : Nat) (e : Nat × Nat) (s : State) : SendsOnly n s (sendPage n e s) := by
  unfold sendPage
  have hc : SendsOnly n s { s with mem := { s.mem with clean := tabPut s.mem.clean (dirtyIndex e.2) () } } :=
    ⟨rfl, List.prefix_rfl, fun h => ⟨h, rfl⟩⟩
  exact (hc.trans (sendsOnly_count n (by exact fun _ => rfl) _)).trans
    (sendsOnly_sendRecord n _ _)

theorem sendsOnly_walkSpace (n : Nat) (every : Bool) (s : State) : SendsOnly n s (walkSpace n every s) := by
  refine SendsOnly.foldl (fun u e => ?_) _ (SendsOnly.refl n s)
  split
  · exact sendsOnly_sendPage n e u
  · exact SendsOnly.refl n u

theorem sendsOnly_sendRoundEnd (n : Nat) (s : State) : SendsOnly n s (sendRoundEnd n s) := by
  unfold sendRoundEnd
  exact (sendsOnly_sendRecord n _ s).trans (sendsOnly_count n (by exact fun _ => rfl) _)

theorem sendsOnly_sendQueue (n q : Nat) (s : State) : SendsOnly n s (sendQueue n q s) :=
  SendsOnly.foldl (fun u _ => sendsOnly_sendRecord n _ u) _ (sendsOnly_sendRecord n _ s)

theorem sendsOnly_closeFinal (n : Nat) (s : State) : SendsOnly n s (closeFinal n s) := by
  unfold closeFinal
  exact ((SendsOnly.foldl (fun u q => sendsOnly_sendQueue n q u) _ (sendsOnly_sendRoundEnd n s)).trans (sendsOnly_sendRecord n _ _)).trans
    (sendsOnly_count n (by exact fun _ => rfl) _)

theorem sendsOnly_walkFinal (n : Nat) (s : State) : SendsOnly n s (walkFinal n s) := by
  unfold walkFinal
  dsimp only
  split
  · exact sendsOnly_walkSpace n false s
  split
  · exact SendsOnly.refl n s
  · exact sendsOnly_closeFinal n s

/-! ### The handshake (R42) -/

/-- The bytes that the session keys are cut from. -/
def sessionKeys (secret peerPub : List Byte) (hello reply : Hello) : List Byte :=
  hkdf (x25519 secret peerPub) (hello.nonce ++ reply.nonce)
    ("HF7160-RMBL-1".toList.map (fun c => BitVec.ofNat 8 c.toNat) ++ toBytes 4 hello.session.toNat) 36

theorem deriveKeys_failed {n : Nat} {pub : List Byte} {h p : Hello} {s : State} (hz : allZero (x25519 (rambler s n).secret pub) = true) :
    deriveKeys n pub h p s = failSession n 1 s := by
  unfold deriveKeys
  simp [hz]

theorem deriveKeys_keys {n : Nat} {pub : List Byte} {h p : Hello} {s : State} (hz : allZero (x25519 (rambler s n).secret pub) = false) :
    deriveKeys n pub h p s = modRambler n (fun r => { r with
      key := (sessionKeys (rambler s n).secret pub h p).take 32, salt := ((sessionKeys (rambler s n).secret pub h p).drop 32).take 4,
      state := 2, round := 1, begun := true }) s := by
  unfold deriveKeys
  dsimp only
  rw [hz]
  rfl

/-- The destination's REPLY to a HELLO. -/
def replyTo (s : State) (r : Rambler) (m : Hello) : Hello :=
  { ownHello s r m.session with sig := padTo 64 (ed25519Sign s.boot.identity (handshakeDigest 1 m (ownHello s r m.session))) }

section
variable {n : Nat} {m h p : Hello} {sig : List Byte} {s : State} (hr : ramblerRuns s = true) (h1 : (rambler s n).state = 1)
include hr h1

theorem evHello_stranger (hs : (rambler s n).src = false) (hh : (rambler s n).hello = none) (hi : m.ident ≠ peerIdentity (rambler s n)) :
    evHello n m s = failSession n 2 s := by
  unfold evHello
  simp [hr, h1, hs, hh, hi]

theorem evHello_peer (hs : (rambler s n).src = false) (hh : (rambler s n).hello = none) (hi : m.ident = peerIdentity (rambler s n)) :
    evHello n m s = modRambler n (fun r => { r with hello := some m, reply := some (replyTo s (rambler s n) m), session := m.session })
      (tell (.reply n (replyTo s (rambler s n) m)) s) := by
  unfold evHello
  dsimp only
  rw [hr, h1, hs, hh, if_neg (by simp), if_neg (not_not.mpr hi)]
  rfl

theorem evFinish_eq (hs : (rambler s n).src = false) (hh : (rambler s n).hello = some h) (hp : (rambler s n).reply = some p) :
    evFinish n sig s = if ed25519Verify (peerIdentity (rambler s n)) (handshakeDigest 2 h p) sig then deriveKeys n h.pub h p s
      else failSession n 1 s := by
  unfold evFinish
  dsimp only
  rw [hh, hp]
  dsimp only
  rw [hr, hs, h1, if_neg (by simp)]
  generalize ed25519Verify (peerIdentity (rambler s n)) (handshakeDigest 2 h p) sig = ok
  cases ok
  · exact (if_pos rfl).trans (if_neg Bool.false_ne_true).symm
  · exact (if_neg Bool.false_ne_true).trans (if_pos rfl).symm

/-- The source's FINISH, with REPLY at hand. -/
def finished (n : Nat) (h m : Hello) (s : State) : State :=
  modRambler n (fun r => { r with reply := some m }) (tell (.finish n (padTo 64 (ed25519Sign s.boot.identity (handshakeDigest 2 h m)))) s)

theorem evReply_stranger (hs : (rambler s n).src = true) (hh : (rambler s n).hello = some h) (hm : m.session = h.session)
    (hi : m.ident ≠ peerIdentity (rambler s n)) : evReply n m s = failSession n 2 s := by
  unfold evReply
  dsimp only
  rw [hh]
  dsimp only
  simp [hr, h1, hs, hm, hi]

theorem evReply_unsigned (hs : (rambler s n).src = true) (hh : (rambler s n).hello = some h) (hm : m.session = h.session)
    (hi : m.ident = peerIdentity (rambler s n))
    (hv : ed25519Verify (peerIdentity (rambler s n)) (handshakeDigest 1 h { m with sig := [] }) m.sig = false) :
    evReply n m s = failSession n 1 s := by
  unfold evReply
  dsimp only
  rw [hh]
  dsimp only
  rw [hr, hs, h1, if_neg (by simp [hm]), if_neg (not_not.mpr hi), hv, if_pos (by simp)]

theorem evReply_signed (hs : (rambler s n).src = true) (hh : (rambler s n).hello = some h) (hm : m.session = h.session)
    (hi : m.ident = peerIdentity (rambler s n))
    (hv : ed25519Verify (peerIdentity (rambler s n)) (handshakeDigest 1 h { m with sig := [] }) m.sig = true) :
    evReply n m s =
      let t := deriveKeys n m.pub h m (finished n h m s)
      if (rambler t n).state = 2 then
        walkSpace n true (sendRecord n (recordBytes 1 true h.session.toNat (beginPayload t (rambler s n).space.toNat)) t)
      else t := by
  unfold evReply
  dsimp only
  rw [hh]
  dsimp only
  rw [hr, hs, h1, if_neg (by simp [hm]), if_neg (not_not.mpr hi), hv, if_neg (by simp)]
  rfl

end

theorem finished_secret {n : Nat} {s : State} (hn : n < s.ramblers.length) (h m : Hello) :
    (rambler (finished n h m s) n).secret = (rambler s n).secret := by
  unfold finished
  rw [rambler_modRambler_same (by simpa using hn)]
  rfl

/-- The slot has derived these session keys, and round 1 is the current round. -/
def KeysReady (out : List Byte) (r : Rambler) : Prop :=
  r.state = 2 ∧ r.round = 1 ∧ r.begun = true ∧ r.key = out.take 32 ∧ r.salt = (out.drop 32).take 4

theorem keysReady_of_withoutSent {out : List Byte} {r q : Rambler} (h : KeysReady out q) (e : withoutSent r = withoutSent q) : KeysReady out r := by
  obtain ⟨hst, hro, hbe, hke, hsa⟩ := h
  exact ⟨(congrArg (·.state) e).trans hst, (congrArg (·.round) e).trans hro, (congrArg (·.begun) e).trans hbe,
    (congrArg (·.key) e).trans hke, (congrArg (·.salt) e).trans hsa⟩

/-- Where the shared secret is not all zero, the slot's keys are ready. -/
theorem deriveKeys_ready {n : Nat} {pub : List Byte} {h p : Hello} {s : State} (hn : n < s.ramblers.length)
    (hz : allZero (x25519 (rambler s n).secret pub) = false) :
    KeysReady (sessionKeys (rambler s n).secret pub h p) (rambler (deriveKeys n pub h p s) n) := by
  rw [deriveKeys_keys hz, rambler_modRambler_same hn]
  exact ⟨rfl, rfl, rfl, rfl, rfl⟩

theorem deriveKeys_same {n : Nat} {pub : List Byte} {h p : Hello} {s : State} (hz : allZero (x25519 (rambler s n).secret pub) = false) :
    (deriveKeys n pub h p s).outputs = s.outputs ∧ (deriveKeys n pub h p s).mem = s.mem ∧
      (deriveKeys n pub h p s).ramblers.length = s.ramblers.length := by
  rw [deriveKeys_keys hz]
  exact ⟨rfl, rfl, by simp⟩

end Sys2Proof.Machine

section
open Sys2Proof Sys2Proof.Machine

/-- Settles O59: every command and every message of the handshake is one change of its own slot, what the first round sends aside, which
leaves the session as it is. -/
theorem ramblerCommandsMoveTheSession : Obligations.RamblerCommandsMoveTheSession := by
  unfold Obligations.RamblerCommandsMoveTheSession
  refine ⟨fun s n f at_ hn hf hc hp => ?_, ?_⟩
  · intro r now started mine runs holds busy
    have hz : frozen s = false := by simp [frozen, hc, hp]
    have hruns : runs ↔ ramblerRuns s = true := by simp [ramblerRuns_iff, runs, hc, hp]
    have hbusy : busy ↔ spaceTaken s n.val = true := by
      simp only [spaceTaken_iff, holdsSpace_iff, busy, holds, r]
    have hnow (g : Rambler → Rambler) : modRambler n.val g s = now (g r) := modRambler_congr rfl
    refine ⟨fun hno => ?_, fun hr h0 => ⟨fun hb => ?_, fun hb => ?_⟩, fun h0 => ?_, fun hs h2 => ?_, fun hs => ?_,
      fun hr h3 ha hl => ⟨fun hle => ?_, fun hlt => ?_⟩, fun h56 => ?_, fun h1 h4 => ?_⟩
    · have hi := Bool.eq_false_iff.mpr fun h => hno (hruns.mpr h)
      exact ⟨congrArg _ (startSlot_idle (.inl hi)), congrArg _ (evSend_idle (.inl hi))⟩
    · have ht := Bool.eq_false_iff.mpr fun h => hb (hbusy.mpr h)
      have hout (o : Output) (g : Rambler → Rambler) : modRambler n.val g (tell o s) = { now (g r) with outputs := s.outputs ++ [o] } :=
        congrArg (Machine.tell o) (hnow g)
      obtain ⟨h, hh⟩ : ∃ h, h = ownHello s (startedSlot true f r) f.session := ⟨_, rfl⟩
      refine ⟨congrArg _ ((startSlot_free hn hf (hruns.mp hr) h0 ht).trans (hnow _)), h, evSend n.val f s, rfl, ?_, ?_⟩
      · rw [evSend_free hn hf (hruns.mp hr) h0 ht, ← hh]
        exact hout (.hello n.val h) (fun x => { startedSlot true f x with hello := some h })
      · rw [hh]
        exact ⟨rfl, rfl, rfl, rfl⟩
    · have ht := hbusy.mp hb
      exact ⟨congrArg _ ((startSlot_busy hn hf (hruns.mp hr) h0 ht).trans (hnow _)),
        congrArg _ ((evSend_busy hn hf (hruns.mp hr) h0 ht).trans (hnow _))⟩
    · exact ⟨congrArg _ (startSlot_idle (.inr h0)), congrArg _ (evSend_idle (.inr h0))⟩
    · exact congrArg _ ((evCut_taken hf hz hs h2).trans (congrArg (mine _) (hnow _)))
    · exact congrArg _ (evCut_idle hs)
    · have hle' : at_ + 700 * (rambler s n.val).grace.toNat ≤ s.cycles := hle
      refine congrArg Host.Outcome.next ((evGraceExpiry_eq (hruns.mp hr) h3 ha hl).trans ?_)
      rw [if_neg (by omega)]
      exact congrArg (mine _) (hnow _)
    · have hlt' : s.cycles < at_ + 700 * (rambler s n.val).grace.toNat := hlt
      exact congrArg Host.Outcome.next ((evGraceExpiry_eq (hruns.mp hr) h3 ha hl).trans (if_pos (by omega)))
    · refine ⟨evResume n.val s, rfl, ?_⟩
      have hrel := rambler_modRambler_same hn releasedSlot
      rw [evResume_eq hf hz h56]
      by_cases hh : holdsSpace (rambler s n.val) = true
      · have h66 : ¬(r.state = 6 ∧ r.err = 6) := ((holdsSpace_iff _).mp hh).2
        rw [if_pos hh, if_neg h66]
        exact ⟨congrArg (·.state) hrel, congrArg (·.space) hrel, rfl, rfl⟩
      · have h66 : r.state = 6 ∧ r.err = 6 := by
          have h0 : (rambler s n.val).state ≠ 0 := by
            rcases h56 with h | h <;> rw [show (rambler s n.val).state = _ from h] <;> decide
          by_contra h
          exact hh ((holdsSpace_iff _).mpr ⟨h0, h⟩)
        rw [if_neg hh, if_pos h66]
        exact ⟨congrArg (·.state) hrel, congrArg (·.space) hrel, rfl, rfl⟩
    · have hs : inSession (rambler s n.val) = true := (inSession_iff _).mpr ⟨h1, h4⟩
      refine ⟨?_, fun hr => ?_⟩
      · show execCancel n s = _
        simp only [execCancel, answers_of_not_failed hf, hz, hs]
        exact congrArg _ (hnow _)
      · show execRmblNetFail n s = _
        simp only [execRmblNetFail, hruns.mp hr, hs]
        exact congrArg _ (hnow _)
  · intro s n m h p sig hn hrel hc hp r fails keys ready h1
    have hr : ramblerRuns s = true := (ramblerRuns_iff s).mpr ⟨hrel, hc, hp⟩
    refine ⟨fun hs hh => ⟨fun hi => ?_, fun hi => ?_⟩, fun hs hh hpl => ⟨fun hv => ?_, fun hv => ⟨fun hz => ?_, fun hz => ?_⟩⟩,
      fun hs hh hm => ⟨fun hi => ?_, fun hi => ⟨fun hv => ?_, fun hv hz => ?_, fun hv hz => ?_⟩⟩⟩
    · exact congrArg Host.Outcome.next (evHello_stranger hr h1 hs hh hi)
    · refine ⟨evHello n.val m s, replyTo s r m, rfl, ?_⟩
      rw [evHello_peer hr h1 hs hh hi]
      refine ⟨rfl, rfl, rfl, rfl, rfl, rfl, ?_⟩
      rw [rambler_modRambler_same (by simpa using hn)]
      exact ⟨rfl, rfl, h1, rfl⟩
    · exact congrArg Host.Outcome.next ((evFinish_eq hr h1 hs hh hpl).trans (by rw [hv]; rfl))
    · exact congrArg Host.Outcome.next ((evFinish_eq hr h1 hs hh hpl).trans ((if_pos hv).trans (deriveKeys_failed hz)))
    · obtain ⟨hout, hmem, -⟩ := deriveKeys_same (h := h) (p := p) hz
      exact ⟨_, congrArg Host.Outcome.next ((evFinish_eq hr h1 hs hh hpl).trans (if_pos hv)), deriveKeys_ready hn hz, hout, hmem⟩
    · exact congrArg Host.Outcome.next (evReply_stranger hr h1 hs hh hm hi)
    · exact congrArg Host.Outcome.next (evReply_unsigned hr h1 hs hh hm hi hv)
    · rw [← finished_secret hn h m] at hz
      refine congrArg Host.Outcome.next ((evReply_signed hr h1 hs hh hm hi hv).trans ?_)
      have hcount : n.val < (finished n.val h m s).ramblers.length := by simpa [finished] using hn
      have hst : (rambler (failSession n.val 1 (finished n.val h m s)) n.val).state = 6 :=
        congrArg (·.state) (rambler_modRambler_same hcount _)
      dsimp only
      rw [deriveKeys_failed hz, hst, if_neg (by decide)]
      exact modRambler_modRambler n.val (fun x => { x with reply := some m }) (fun x => { x with state := 6, err := 1 })
        (Machine.tell (.finish n.val (padTo 64 (ed25519Sign s.boot.identity (handshakeDigest 2 h m)))) s)
    · rw [← finished_secret hn h m] at hz
      have hcount : n.val < (finished n.val h m s).ramblers.length := by simpa [finished] using hn
      have hready := deriveKeys_ready (h := h) (p := m) hcount hz
      obtain ⟨hout, -, hlen⟩ := deriveKeys_same (h := h) (p := m) hz
      obtain ⟨payload, he⟩ : ∃ payload, evReply n.val m s =
          walkSpace n.val true (sendRecord n.val payload (deriveKeys n.val m.pub h m (finished n.val h m s))) :=
        ⟨_, (evReply_signed hr h1 hs hh hm hi hv).trans (if_pos hready.1)⟩
      rw [finished_secret hn] at hready
      generalize deriveKeys n.val m.pub h m (finished n.val h m s) = u at he hready hout hlen
      have hsend := (sendsOnly_sendRecord n.val payload u).trans (sendsOnly_walkSpace n.val true _)
      obtain ⟨rest, hrest⟩ := hsend.outputs
      refine ⟨_, rest, congrArg Host.Outcome.next he, keysReady_of_withoutSent hready (hsend.slot (hlen ▸ hcount)).2, ?_⟩
      rw [← hrest, hout]
      exact List.append_assoc s.outputs [_] rest
end

/-! ## Frames and rounds of the Rambler (R43 to R50) -/

namespace Sys2Proof.Machine

/-! ### A slot's registers stand apart from the maps of memory -/

theorem walkFrom_modRambler (n : Nat) (f : Rambler → Rambler) (s : State) (va fuel level table : Nat) :
    walkFrom (modRambler n f s) va fuel level table = walkFrom s va fuel level table := by
  induction fuel generalizing level table with
  | zero => rfl
  | succ fuel ih =>
    have hb (pa : Nat) : backing (modRambler n f s) pa = backing s pa := rfl
    have hl (pa : Nat) : linkOk (modRambler n f s) pa = linkOk s pa := rfl
    have hu (pa k : Nat) : badAt (modRambler n f s) pa k = badAt s pa k := rfl
    have hh (pa k : Nat) : readHome (modRambler n f s) pa k = readHome s pa k := rfl
    simp only [walkFrom, hb, hl, hu, hh, ih]

theorem lookup_modRambler (n : Nat) (f : Rambler → Rambler) (s : State) (core sp va : Nat) :
    lookup (modRambler n f s) core sp va = lookup s core sp va := by
  unfold lookup walk
  rw [walkFrom_modRambler]
  rfl

theorem translate_modRambler (n : Nat) (f : Rambler → Rambler) (s : State) (core sp va : Nat) (need : Need) :
    translate (modRambler n f s) core sp va need = translate s core sp va need := by
  unfold translate
  rw [lookup_modRambler]
  rfl

/-! ### What a frame does before its record is applied (R43) -/

/-- A slot that has accepted a frame. -/
def acceptFrame (seq : Nat) (plain : List Byte) (r : Rambler) : Rambler :=
  { r with accepted := r.accepted ++ [seq], transcript := tabPut r.transcript seq plain }

theorem receiveFrame_idle {n : Nat} {ours : Nat → Bool} {f : List Byte} {s : State}
    (h : (rambler s n).src = true ∨ (rambler s n).begun = false ∨ (rambler s n).state = 0 ∨ 5 ≤ (rambler s n).state ∨
      (rambler s n).accepted.contains (field f 8 8) = true) : receiveFrame n ours f s = s := by
  unfold receiveFrame
  dsimp only
  split
  · rfl
  next hno =>
    simp only [Bool.or_eq_true, Bool.not_eq_true', not_or, Bool.not_eq_true, Bool.not_eq_false, inSession_iff] at hno
    obtain ⟨⟨⟨-, hs⟩, hb⟩, h1, h4⟩ := hno
    rw [if_pos]
    rcases h with h | h | h | h | h
    · rw [hs] at h; cases h
    · rw [hb] at h; cases h
    · omega
    · omega
    · exact h

section
variable {n : Nat} {ours : Nat → Bool} {f : List Byte} {s : State} (hr : ramblerRuns s = true) (hs : (rambler s n).src = false)
  (hb : (rambler s n).begun = true) (h1 : 1 ≤ (rambler s n).state) (h4 : (rambler s n).state ≤ 4)
  (hc : (rambler s n).accepted.contains (field f 8 8) = false)
include hr hs hb h1 h4 hc

theorem receiveFrame_sealed (ho : gcmOpen (rambler s n).key ((rambler s n).salt ++ toBytes 8 (field f 8 8)) (f.take 16) (f.drop 16) = none) :
    receiveFrame n ours f s = failSession n 1 s := by
  unfold receiveFrame
  dsimp only
  rw [hr, hs, hb, (inSession_iff _).mpr ⟨h1, h4⟩, hc, ho]
  rfl

theorem receiveFrame_opened {plain : List Byte}
    (ho : gcmOpen (rambler s n).key ((rambler s n).salt ++ toBytes 8 (field f 8 8)) (f.take 16) (f.drop 16) = some plain) :
    receiveFrame n ours f s = if ours (parseRecord plain).tag then
      takeRecord n (field f 8 8) (parseRecord plain) (modRambler n (acceptFrame (field f 8 8) plain) s) else s := by
  unfold receiveFrame
  dsimp only
  rw [hr, hs, hb, (inSession_iff _).mpr ⟨h1, h4⟩, hc, ho, if_neg (by simp), if_neg (by simp)]
  dsimp only
  cases ours (parseRecord plain).tag
  · rw [if_pos (by rfl), if_neg (by simp)]
  · rw [if_neg (by simp), if_pos rfl]
    rfl

end

/-! ### Which records are applied (R45, R46) -/

section
variable {n seq : Nat} {r : Rec} {s : State}

theorem takeRecord_refused (h : r.tag = 0 ∨ (r.req = true ∧ (1 < r.ver ∨ !ramblerTags.contains r.tag))) :
    takeRecord n seq r s = failSession n 8 s := if_pos h

theorem takeRecord_unknown (h0 : r.tag ≠ 0) (hq : r.req = false) (ht : ramblerTags.contains r.tag = false) : takeRecord n seq r s = s := by
  unfold takeRecord
  rw [if_neg (by simp [h0, hq]), ht]
  rfl

/-- A record of a known tag that its reader may apply. -/
def Applies (r : Rec) : Prop := ramblerTags.contains r.tag = true ∧ (r.req = false ∨ r.ver ≤ 1)

theorem not_refused (h : Applies r) : ¬(r.tag = 0 ∨ (r.req = true ∧ (1 < r.ver ∨ !ramblerTags.contains r.tag))) := by
  obtain ⟨ht, hv⟩ := h
  rintro (h0 | ⟨hq, hv' | ht'⟩)
  · rw [h0] at ht; revert ht; decide
  · rcases hv with hv | hv
    · rw [hv] at hq; cases hq
    · omega
  · rw [ht] at ht'; cases ht'

theorem takeRecord_page (h : Applies r) (ht : r.tag = 2) : takeRecord n seq r s = writePage n r.key (padTo 4096 r.payload) s := by
  unfold takeRecord
  rw [if_neg (not_refused h), h.1, if_neg (by simp), if_pos ht]

theorem takeRecord_zero (h : Applies r) (ht : r.tag = 3) : takeRecord n seq r s = writePage n r.key (List.replicate 4096 0) s := by
  unfold takeRecord
  rw [if_neg (not_refused h), h.1, if_neg (by simp), if_neg (by omega), if_pos ht]

/-- What a control record does once it stands in the log. -/
def logRecord (n seq : Nat) (r : Rec) (s : State) : State :=
  if (rambler s n).state = 6 then s
  else if r.tag = 4 then modRambler n (fun t => { t with round := r.key + 1 }) s
  else if r.tag = 0xFF then takeEnd n seq r s
  else s

theorem takeRecord_control (h : Applies r) (h2 : r.tag ≠ 2) (h3 : r.tag ≠ 3) :
    takeRecord n seq r s = logRecord n seq r (writeLog n r.raw s) := by
  unfold takeRecord
  rw [if_neg (not_refused h), h.1, if_neg (by simp), if_neg h2, if_neg h3]
  rfl

end

/-! ### Pages and the log (R50) -/

theorem ramblers_deviceWrite (pa : Nat) (data : List Byte) (sp : Option Nat) (s : State) :
    (deviceWrite pa data sp s).ramblers = s.ramblers := by
  unfold deviceWrite
  refine (congrArg (·.ramblers) (withoutBytes_writeSys pa data _)).trans ?_
  show State.ramblers (if _ then s else _) = _
  split
  · rfl
  · exact foldl_same (·.ramblers) (fun u l => (endsOnly_conflictWrite (128 * l) sp u).ramblers) _ s

/-- Where no transaction shadows a line, a write of the system reaches the home at once. -/
theorem deviceWrite_unshadowed {s : State} (hl : s.skim.lines = []) (pa : Nat) (data : List Byte) (sp : Option Nat) :
    deviceWrite pa data sp s = writeSys pa data s := by
  have hc (u : State) (hu : u.skim.lines = []) (l : Nat) : conflictWrite (128 * l) sp u = u :=
    conflictWrite_none fun x hx => by rw [hu] at hx; cases hx
  unfold deviceWrite
  dsimp only
  split
  · rfl
  · rw [foldl_keeps (P := fun u => u = s) (fun u l hu => by subst hu; exact hc u hl l) _ rfl]

theorem writePage_device {n key pa p lvl : Nat} {data : List Byte} {s : State}
    (ht : translate s 160 (rambler s n).space.toNat (key / 4096 * 4096) .device = .ok pa p lvl) (hp : pa < 2 ^ 51)
    (hl : s.skim.lines = []) : writePage n key data s = writeSys pa data s := by
  unfold writePage
  dsimp only
  rw [ht]
  dsimp only
  rw [reachable_of_device s hp, if_pos rfl, deviceWrite_unshadowed hl]

theorem mapM_ne_none {α β : Type} {f : α → Option β} {l : List α} (h : ∀ a ∈ l, f a ≠ none) : l.mapM f ≠ none := by
  induction l with
  | nil => simp
  | cons a l ih =>
    obtain ⟨b, hb⟩ := Option.ne_none_iff_exists'.mp (h a List.mem_cons_self)
    obtain ⟨bs, hbs⟩ := Option.ne_none_iff_exists'.mp (ih fun x hx => h x (List.mem_cons_of_mem a hx))
    simp [List.mapM_cons, hb, hbs]

/-- A record that has room in the log, and whose bytes can all be written, stands in it. -/
theorem rambler_writeLog {n : Nat} {data : List Byte} {s : State} (hn : n < s.ramblers.length)
    (hroom : (rambler s n).logUsed + data.length ≤ (rambler s n).logSize.toNat)
    (hmap : ∀ i < data.length, ∃ a b c, translate s 160 (rambler s n).space.toNat
      ((rambler s n).logLo.toNat + (rambler s n).logHi.toNat * 2 ^ 32 + (rambler s n).logUsed + i) .device = .ok a b c ∧ reachable s a = true) :
    (writeLog n data s).ramblers.length = s.ramblers.length ∧
      rambler (writeLog n data s) n = { rambler s n with logUsed := (rambler s n).logUsed + data.length } := by
  unfold writeLog
  dsimp only
  rw [if_neg (by omega)]
  split
  next hno =>
    refine absurd hno (mapM_ne_none fun i hi => ?_)
    obtain ⟨a, b, c, ht, hreach⟩ := hmap i (List.mem_range.mp hi)
    simp only [ht, hreach]
    simp
  next l _ =>
    have hsame : ((l.zip data).foldl (fun (u : State) (e : Nat × Byte) =>
        deviceWrite e.1 [e.2] (some (rambler s n).space.toNat) u) s).ramblers = s.ramblers :=
      foldl_same (·.ramblers) (fun (u : State) (e : Nat × Byte) => ramblers_deviceWrite e.1 [e.2] _ u) _ s
    generalize (l.zip data).foldl (fun (u : State) (e : Nat × Byte) => deviceWrite e.1 [e.2] (some (rambler s n).space.toNat) u) s = t at hsame
    refine ⟨by simp [hsame], ?_⟩
    rw [rambler_modRambler_same (by rw [hsame]; exact hn)]
    unfold rambler
    rw [hsame]

/-! ### Control records (R46, R50) -/

theorem rambler_logRecord {n seq : Nat} {r : Rec} {s : State} (hn : n < s.ramblers.length) (h6 : (rambler s n).state ≠ 6) :
    rambler (logRecord n seq r s) n =
      if r.tag = 4 then { rambler s n with round := r.key + 1 }
      else if r.tag = 0xFF then
        if r.key = (rambler s n).accepted.length ∧
            padTo 64 r.payload =
              toBytes 64 (sha512 (((rambler s n).transcript.filter (fun (e : Nat × List Byte) => e.1 != seq)).flatMap (·.2))).toNat
        then { rambler s n with state := 5 } else { rambler s n with state := 6, err := 8 }
      else rambler s n := by
  unfold logRecord
  rw [if_neg h6]
  split
  · exact rambler_modRambler_same hn _
  split
  · unfold takeEnd failSession
    dsimp only
    split <;> exact rambler_modRambler_same hn _
  · rfl

/-- A control record that finds room in the log: the slot as it is left. -/
theorem rambler_takeRecord {n seq : Nat} {r : Rec} {s : State} (hn : n < s.ramblers.length) (h : Applies r) (h2 : r.tag ≠ 2) (h3 : r.tag ≠ 3)
    (h6 : (rambler s n).state ≠ 6) (hroom : (rambler s n).logUsed + r.raw.length ≤ (rambler s n).logSize.toNat)
    (hmap : ∀ i < r.raw.length, ∃ a b c, translate s 160 (rambler s n).space.toNat
      ((rambler s n).logLo.toNat + (rambler s n).logHi.toNat * 2 ^ 32 + (rambler s n).logUsed + i) .device = .ok a b c ∧ reachable s a = true) :
    rambler (takeRecord n seq r s) n =
      let t := { rambler s n with logUsed := (rambler s n).logUsed + r.raw.length }
      if r.tag = 4 then { t with round := r.key + 1 }
      else if r.tag = 0xFF then
        if r.key = t.accepted.length ∧
            padTo 64 r.payload = toBytes 64 (sha512 ((t.transcript.filter (fun (e : Nat × List Byte) => e.1 != seq)).flatMap (·.2))).toNat
        then { t with state := 5 } else { t with state := 6, err := 8 }
      else t := by
  obtain ⟨hlen, hlog⟩ := rambler_writeLog hn hroom hmap
  rw [takeRecord_control h h2 h3, rambler_logRecord (by rw [hlen]; exact hn) (by rw [hlog]; exact h6), hlog]

/-! ### Acknowledgements and rounds (R46 to R49) -/

theorem sendRecord_eq (n : Nat) (rec_ : List Byte) (s : State) :
    sendRecord n rec_ s = modRambler n (fun r => { r with
        seqOut := (rambler s n).seqOut + 1, unacked := r.unacked ++ [(rambler s n).seqOut + 1],
        transcript := tabPut r.transcript ((rambler s n).seqOut + 1) rec_ })
      (tell (.frame n ((rambler s n).seqOut + 1) (sealFrame (rambler s n) ((rambler s n).seqOut + 1) rec_)) s) := rfl

/-- ROUND_END after the last acknowledgement: one more record, whose own acknowledgement is awaited. -/
theorem sendRoundEnd_acknowledged {n : Nat} {s : State} (hn : n < s.ramblers.length) :
    sendRoundEnd n (modRambler n (fun r => { r with unacked := [] }) s) =
      let q := (rambler s n).seqOut + 1
      let rec_ := recordBytes 4 true (rambler s n).round (toBytes 8 (rambler s n).roundSent)
      modRambler n (fun r => { r with unacked := [q], seqOut := q, transcript := tabPut r.transcript q rec_, roundEnd := true })
        (tell (.frame n q (sealFrame (rambler s n) q rec_)) s) := by
  unfold sendRoundEnd
  dsimp only
  rw [rambler_modRambler_same hn, sendRecord_eq, rambler_modRambler_same hn, modRambler_modRambler]
  exact modRambler_modRambler n (fun r => { r with unacked := [] }) _ (tell _ s)

section
variable {n seq : Nat} {s : State} (hr : ramblerRuns s = true) (hs : (rambler s n).src = true) (hb : (rambler s n).begun = true)
  (h1 : 1 ≤ (rambler s n).state) (h4 : (rambler s n).state ≤ 4)
include hr hs hb h1 h4

theorem evAck_unknown (hc : (rambler s n).unacked.contains seq = false) : evAck n seq s = s := by
  unfold evAck
  dsimp only
  rw [hr, hs, hb, (inSession_iff _).mpr ⟨h1, h4⟩, hc]
  rfl

theorem evAck_more (hn : n < s.ramblers.length) (hc : (rambler s n).unacked.contains seq = true) (hl : (rambler s n).unacked.length ≠ 1) :
    evAck n seq s = modRambler n (fun r => { r with unacked := r.unacked.erase seq }) s := by
  have hmore : ((rambler s n).unacked.erase seq).isEmpty = false := by
    have hlen := List.length_erase_of_mem (List.contains_iff_mem.mp hc)
    have hpos := List.length_pos_of_mem (List.contains_iff_mem.mp hc)
    rw [Bool.eq_false_iff, ne_eq, List.isEmpty_iff, ← List.length_eq_zero_iff, hlen]
    omega
  unfold evAck
  dsimp only
  rw [hr, hs, hb, (inSession_iff _).mpr ⟨h1, h4⟩, hc, rambler_modRambler_same hn]
  dsimp only
  rw [hmore]
  rfl

/-- What follows on the last acknowledgement of what has been sent. -/
theorem evAck_last (hn : n < s.ramblers.length) (hu : (rambler s n).unacked = [seq]) :
    evAck n seq s =
      let t := modRambler n (fun r => { r with unacked := [] }) s
      if (rambler s n).ended then modRambler n (fun r => { r with state := 5, sent := r.roundSent }) t
      else if inFinal (rambler s n) then t
      else if (rambler s n).roundEnd then modRambler n (fun r => { r with sent := r.roundSent }) t
      else sendRoundEnd n t := by
  have herase : modRambler n (fun r => { r with unacked := r.unacked.erase seq }) s = modRambler n (fun r => { r with unacked := [] }) s :=
    modRambler_congr (by rw [hu]; simp)
  have hc : (rambler s n).unacked.contains seq = true := by rw [hu]; simp
  unfold evAck
  dsimp only
  rw [hr, hs, hb, (inSession_iff _).mpr ⟨h1, h4⟩, hc, herase, rambler_modRambler_same hn]
  rfl

end

/-- The bytes that a page record puts in its page. -/
def PageData (r : Rec) (data : List Byte) : Prop :=
  (r.tag = 2 ∧ data = padTo 4096 r.payload) ∨ (r.tag = 3 ∧ data = List.replicate 4096 0)

/-- A page record is applied in its whole page, and its slot keeps what it has accepted. -/
theorem takeRecord_pageData {n seq pa p lvl : Nat} {r : Rec} {data : List Byte} {s : State} (hv : r.req = false ∨ r.ver ≤ 1)
    (hd : PageData r data) (ht : translate s 160 (rambler s n).space.toNat (r.key / 4096 * 4096) .device = .ok pa p lvl)
    (hp : pa + 4096 ≤ 2 ^ 51) (hm : s.MemOk) (hl : s.skim.lines = []) :
    rambler (takeRecord n seq r s) n = rambler s n ∧ ∀ i < 4096, homeByte (takeRecord n seq r s) (pa + i) = data.getD i 0 := by
  have hw : takeRecord n seq r s = writeSys pa data s := by
    rcases hd with ⟨h2, rfl⟩ | ⟨h3, rfl⟩
    · rw [takeRecord_page ⟨by rw [h2]; rfl, hv⟩ h2, writePage_device ht (by omega) hl]
    · rw [takeRecord_zero ⟨by rw [h3]; rfl, hv⟩ h3, writePage_device ht (by omega) hl]
  have hlen : data.length = 4096 := by
    rcases hd with ⟨-, rfl⟩ | ⟨-, rfl⟩
    · exact length_padTo _ _
    · exact List.length_replicate
  have hlines : LinesWf s := by unfold LinesWf; rw [hl]; exact List.forall_mem_nil _
  rw [hw]
  refine ⟨(congrArg (rambler · n) (withoutBytes_writeSys pa data s) :), fun i hi => ?_⟩
  rw [homeByte_writeSys data (by omega) hm hlines, written, if_pos (by omega), Nat.add_sub_cancel_left]

theorem inFinal_of_state {r : Rambler} (h : r.state ≠ 4) : inFinal r = false := by
  simp [inFinal, h]

/-- The slot at the beginning of its next round. -/
def nextRound (r : Rambler) : Rambler :=
  { r with round := r.round + 1, roundEnd := false, roundSent := 0, cutAt := if r.state = 4 then none else r.cutAt }

theorem evRound_idle {n : Nat} {s : State} (h : (rambler s n).unacked ≠ [] ∨ (rambler s n).ended = true) : evRound n s = s := by
  have hwait : (!(rambler s n).unacked.isEmpty || (rambler s n).ended) = true := by
    rcases h with h | h <;> simp [h]
  unfold evRound
  dsimp only
  rw [if_pos (by rw [Bool.or_assoc, hwait, Bool.or_true])]

theorem evRound_next {n : Nat} {s : State} (hr : ramblerRuns s = true) (hs : (rambler s n).src = true) (hb : (rambler s n).begun = true)
    (hu : (rambler s n).unacked = []) (he : (rambler s n).ended = false) (hre : (rambler s n).roundEnd = true)
    (hst : (rambler s n).state = 2 ∨ ((rambler s n).state = 4 ∧ (rambler s n).cutAt.isSome = true)) :
    SendsOnly n (modRambler n nextRound s) (evRound n s) := by
  have hfin : inFinal (rambler s n) = false := by
    unfold inFinal
    rcases hst with h | ⟨h, hc⟩
    · simp [h]
    · cases hcut : (rambler s n).cutAt with
      | none => rw [hcut] at hc; cases hc
      | some _ => simp
  have hgo : (!(rambler s n).roundEnd || ((rambler s n).state != 2 && (rambler s n).state != 4)) = false := by
    rcases hst with h | ⟨h, -⟩ <;> simp [h, hre]
  unfold evRound
  dsimp only
  rw [if_neg (by rw [hr, hs, hb, hu, he]; decide), hfin, if_neg Bool.false_ne_true, hgo, if_neg Bool.false_ne_true]
  split
  · exact sendsOnly_walkFinal n _
  split
  · exact (sendsOnly_walkSpace n false _).trans (sendsOnly_sendRoundEnd n _)
  · exact sendsOnly_walkSpace n false _

end Sys2Proof.Machine

section
open Sys2Proof Sys2Proof.Machine

/-- Settles O60: every row hands its frame to one receiver, which accepts it once and applies its record to its own slot; an acknowledgement
takes its frame from those awaited, and what a round sends leaves its session as it is. -/
theorem ramblerFramesAndRoundsAreAppliedOnce : Obligations.RamblerFramesAndRoundsAreAppliedOnce := by
  unfold Obligations.RamblerFramesAndRoundsAreAppliedOnce
  refine ⟨fun s n f plain pa p lvl hn hrel hfc hfp => ?_, ?_⟩
  · intro r seq x rows all session accept
    have hr : ramblerRuns s = true := (ramblerRuns_iff s).mpr ⟨hrel, hfc, hfp⟩
    have hrows : ∀ e ∈ rows, exec e.1 s = .next (receiveFrame n.val (· == e.2) f s) := by
      simp only [rows, List.forall_mem_cons, List.not_mem_nil, false_imp_iff, implies_true, and_true]
      exact ⟨rfl, rfl, rfl, rfl, rfl, rfl, rfl⟩
    have hall : ∀ i ∈ all, ∃ ours, exec i s = .next (receiveFrame n.val ours f s) := by
      intro i hi
      rcases List.mem_append.mp hi with hi | hi
      · obtain ⟨e, he, rfl⟩ := List.mem_map.mp hi
        exact ⟨_, hrows e he⟩
      · rw [List.mem_singleton.mp hi]
        exact ⟨_, rfl⟩
    refine ⟨fun h i hi => ?_, fun hs hb h1 h4 hc => ⟨fun ho i hi => ?_, fun ho => ?_⟩⟩
    · obtain ⟨ours, he⟩ := hall i hi
      exact he.trans (congrArg _ (receiveFrame_idle h))
    · obtain ⟨ours, he⟩ := hall i hi
      exact he.trans (congrArg _ (receiveFrame_sealed hr hs hb h1 h4 hc ho))
    obtain ⟨u, hu⟩ : ∃ u, u = modRambler n.val (acceptFrame seq plain) s := ⟨_, rfl⟩
    have hopen (ours : Nat → Bool) : receiveFrame n.val ours f s = if ours x.tag then takeRecord n.val seq x u else s := by
      rw [hu]
      exact receiveFrame_opened hr hs hb h1 h4 hc ho
    have htake {i : Instr} {k : Nat} (he : (i, k) ∈ rows) (ht : x.tag = k) : exec i s = .next (takeRecord n.val seq x u) :=
      (hrows _ he).trans (congrArg _ ((hopen _).trans (if_pos (beq_iff_eq.mpr ht))))
    have hfail : failSession n.val 8 u = session (fun y => { accept y with state := 6, err := 8 }) := by
      rw [hu]
      exact modRambler_modRambler n.val (acceptFrame seq plain) _ s
    have hslot : rambler u n.val = accept r := by rw [hu]; exact rambler_modRambler_same hn (acceptFrame seq plain)
    have htr (sp va : Nat) : translate u 160 sp va .device = translate s 160 sp va .device := by rw [hu, translate_modRambler]
    have hreach (a : Nat) : reachable u a = reachable s a := by rw [hu]; rfl
    refine ⟨fun e he ht => ?_, fun hq hv e he ht => ?_, fun ht h0 => ?_, fun hv => ⟨fun data hd ht hp hm hl _ => ?_, fun hroom hmap => ?_⟩⟩
    · exact (hrows e he).trans (congrArg _ ((hopen _).trans (if_neg (by simpa using ht))))
    · exact (htake he ht).trans (congrArg _ ((takeRecord_refused (.inr ⟨hq, .inl hv⟩)).trans hfail))
    · have hunknown : ramblerTags.contains x.tag = false := by
        rw [← Bool.not_eq_true, List.contains_iff_mem]
        exact ht
      have he : exec (.rmblUnknownTag n f) s = .next (takeRecord n.val seq x u) :=
        congrArg Host.Outcome.next ((hopen (fun t => !ramblerTags.contains t)).trans (if_pos (by simp only [hunknown]; rfl)))
      refine he.trans (congrArg _ ?_)
      cases hq : x.req with
      | true => exact (takeRecord_refused (.inr ⟨hq, .inr (by rw [hunknown]; rfl)⟩)).trans hfail
      | false => exact (takeRecord_unknown h0 hq hunknown).trans hu
    · have hpage : u.MemOk ∧ u.skim.lines = [] := by rw [hu]; exact ⟨hm, hl⟩
      obtain ⟨hsame, hbytes⟩ := takeRecord_pageData (n := n.val) (seq := seq) hv hd ((htr _ _).trans (by rw [hslot]; exact ht)) hp hpage.1 hpage.2
      refine ⟨_, ?_, hsame.trans hslot, hbytes⟩
      rcases hd with ⟨h2, -⟩ | ⟨h3, -⟩
      · rw [if_pos h2]
        exact htake (k := 2) (by simp [rows]) h2
      · rw [if_neg (by omega)]
        exact htake (k := 3) (by simp [rows]) h3
    · intro logged takes
      have hcount : n.val < u.ramblers.length := by rw [hu]; simpa using hn
      have hst : (accept r).state ≠ 6 := by show r.state ≠ 6; omega
      have hctl {k : Nat} (ht : x.tag = k) (hk : ramblerTags.contains k = true) (h23 : k ≠ 2 ∧ k ≠ 3) :=
        rambler_takeRecord (seq := seq) hcount (r := x) ⟨by rw [ht]; exact hk, hv⟩ (by omega) (by omega) (by rw [hslot]; exact hst)
          (by rw [hslot]; exact hroom) (by simp only [hslot, htr, hreach]; exact hmap)
      rw [hslot] at hctl
      have hplain {i : Instr} {k : Nat} (he : (i, k) ∈ rows) (ht : x.tag = k) (hk : ramblerTags.contains k = true)
          (h23 : k ≠ 2 ∧ k ≠ 3) (h : k ≠ 4 ∧ k ≠ 0xFF) : takes i logged :=
        ⟨_, htake he ht, (hctl ht hk h23).trans ((if_neg (by omega)).trans (if_neg (by omega)))⟩
      exact ⟨fun ht => hplain (k := 1) (by simp [rows]) ht (by decide) (by decide) (by decide),
        fun ht => hplain (k := 0x10) (by simp [rows]) ht (by decide) (by decide) (by decide),
        fun ht => hplain (k := 0x11) (by simp [rows]) ht (by decide) (by decide) (by decide),
        fun ht => ⟨_, htake (k := 4) (by simp [rows]) ht, (hctl ht (by decide) (by decide)).trans (if_pos ht)⟩,
        fun ht => ⟨_, htake (k := 0xFF) (by simp [rows]) ht,
          (hctl ht (by decide) (by decide)).trans ((if_neg (by omega)).trans (if_pos ht))⟩⟩
  · intro s n seq hn hrel hfc hfp r session hs hb h1 h4
    have hr : ramblerRuns s = true := (ramblerRuns_iff s).mpr ⟨hrel, hfc, hfp⟩
    refine ⟨fun hc => ?_, fun hc hl => ?_, fun hu => ⟨fun he => ?_, fun he hst hre => ?_, fun he hst hre => ?_⟩, fun h => ?_,
      fun hu he hre hst => ?_⟩
    · exact congrArg Host.Outcome.next (evAck_unknown hr hs hb h1 h4 hc)
    · exact congrArg Host.Outcome.next (evAck_more hr hs hb h1 h4 hn hc hl)
    · refine congrArg Host.Outcome.next ((evAck_last hr hs hb h1 h4 hn hu).trans ((if_pos he).trans ?_))
      exact modRambler_modRambler n.val (fun x => { x with unacked := [] }) _ s
    · refine congrArg Host.Outcome.next ((evAck_last hr hs hb h1 h4 hn hu).trans ?_)
      dsimp only
      rw [he, if_neg Bool.false_ne_true, inFinal_of_state hst, if_neg Bool.false_ne_true, hre, if_pos rfl]
      exact modRambler_modRambler n.val (fun x => { x with unacked := [] }) _ s
    · refine congrArg Host.Outcome.next ((evAck_last hr hs hb h1 h4 hn hu).trans ?_)
      dsimp only
      rw [he, if_neg Bool.false_ne_true, inFinal_of_state hst, if_neg Bool.false_ne_true, hre, if_neg Bool.false_ne_true]
      exact sendRoundEnd_acknowledged hn
    · exact congrArg Host.Outcome.next (evRound_idle h)
    · have hsend := evRound_next hr hs hb hu he hre hst
      have hslot := (hsend.slot (by simpa using hn)).2
      rw [rambler_modRambler_same hn] at hslot
      refine ⟨evRound n.val s, rfl, congrArg (·.round) hslot, fun h => (congrArg (·.cutAt) hslot).trans (if_pos h), congrArg (·.state) hslot,
        hsend.outputs, hsend.launches⟩
end

/-! ## Ports and packets (R35 to R37, R395 to R397) -/

namespace Sys2Proof.Machine

/-! ### A port that goes down (R35) -/

/-- No launch's hang counter has run out. -/
def NoHang (s : State) : Prop := ∀ l ∈ s.launches, l.hang < lrHang l.raw

theorem EndsOnly.noHang {s t : State} (h : EndsOnly s t) (hn : NoHang s) : NoHang t := by
  intro l hl
  obtain ⟨k, hk, he⟩ := List.mem_map.mp (h.launches ▸ List.mem_map_of_mem (f := launchKey) hl)
  have hhang : k.hang = l.hang := congrArg (·.2.2.1) he
  have hraw : k.raw = l.raw := congrArg (·.2.2.2) he
  rw [← hhang, ← hraw]
  exact hn k hk

theorem hangFirst_noHang {s : State} (h : NoHang s) (id : Nat) : hangFirst id s = s := by
  unfold hangFirst evHang
  split
  next l hl =>
    have hlt := h l (List.mem_of_find?_eq_some hl)
    have hdue : hangDue s (topOf s id) = false := by
      unfold hangDue
      rw [hl]
      simp [Nat.not_le.mpr hlt]
    rw [hdue]
    exact if_neg Bool.false_ne_true
  next => rfl

theorem raiseAlert_same (i : Nat) (s : State) :
    let t := raiseAlert i s
    t.boot.alert = s.boot.alert ||| (1#6 <<< i) ∧ t.kamub = s.kamub ∧ t.mem = s.mem ∧ t.spaces = s.spaces ∧ t.queues = s.queues := by
  unfold raiseAlert setAlerts
  dsimp only
  split <;> exact ⟨rfl, rfl, rfl, rfl, rfl⟩

/-- A port down and its copies dropped, before the launches with requests on it end. -/
def portGone (p : Nat) (s : State) : State :=
  { s with kamub := { s.kamub with
      up := s.kamub.up &&& ~~~(1#4 <<< p)
      down := s.kamub.down ||| (1#4 <<< p)
      copies := []
      retries := s.kamub.retries.set p 0 } }

theorem portFails_eq {s : State} (p : Nat) (hn : NoHang s) : ∃ t, EndsOnly (portGone p s) t ∧ portFails p s = raiseAlert 5 t := by
  have hnu : NoHang (portGone p s) := hn
  unfold portFails
  dsimp only
  refine ⟨_, ?_, rfl⟩
  refine EndsOnly.foldl (fun u a hu => ?_) _ (EndsOnly.refl (portGone p s))
  rw [hangFirst_noHang (hu.noHang hnu)]
  exact endsOnly_abortLaunch _ _ _ _ _

/-- Requests in flight on a port end their launches and nothing else; the port's own bits, its copies and its alert are set. -/
theorem portFails_same {s : State} (p : Nat) (hn : NoHang s) :
    let t := portFails p s
    t.kamub.up = s.kamub.up &&& ~~~(1#4 <<< p) ∧ t.kamub.down = s.kamub.down ||| (1#4 <<< p) ∧ t.kamub.copies = [] ∧
      t.boot.alert = s.boot.alert ||| (1#6 <<< 5) ∧ t.mem = s.mem ∧ t.spaces = s.spaces ∧ t.queues = s.queues := by
  obtain ⟨t, ht, he⟩ := portFails_eq p hn
  obtain ⟨halert, hkamub, hmem, hspaces, hqueues⟩ := raiseAlert_same 5 t
  rw [he]
  have hk : (raiseAlert 5 t).kamub = { (portGone p s).kamub with linkAborts := t.kamub.linkAborts } := hkamub.trans ht.kamub
  exact ⟨congrArg (·.up) hk, congrArg (·.down) hk, congrArg (·.copies) hk, halert.trans (by rw [ht.boot]; rfl), hmem.trans ht.mem,
    hspaces.trans ht.spaces, hqueues.trans ht.queues⟩

/-- What the events of a companion port do to it (R35), by which of them it is and how many retries its flits have had. -/
theorem portEvents (s : State) (p : Fin 4) (hz : frozen s = false) (hu : s.kamub.up.getLsbD p.val = true) :
    execPortDown p s = .next (portFails p.val s) ∧
      (8 ≤ s.kamub.retries.getD p.val 0 → execFlitCrcError p s = .next (portFails p.val s)) ∧
      (s.kamub.retries.getD p.val 0 < 8 → execFlitCrcError p s = .next { s with kamub := { s.kamub with
        retries := listMod s.kamub.retries p.val (· + 1), retryCount := Nat.min 255 (s.kamub.retryCount + 1) } }) := by
  unfold execPortDown execFlitCrcError
  rw [hz, hu]
  exact ⟨rfl, fun h => congrArg Host.Outcome.next (if_neg (Nat.not_lt.mpr h)), fun h => congrArg Host.Outcome.next (if_pos h)⟩

/-! ### The oldest of the receives that a message meets (R397) -/

theorem leastBy_eq_none {α : Type} {key : α → Nat} {l : List α} (h : leastBy key l = none) : l = [] := by
  cases l with
  | nil => rfl
  | cons x l =>
    unfold leastBy at h
    split at h
    · split at h <;> cases h
    · cases h

theorem leastBy_le {α : Type} {key : α → Nat} {l : List α} {x : α} (h : leastBy key l = some x) : ∀ y ∈ l, key x ≤ key y := by
  induction l generalizing x with
  | nil => cases h
  | cons z l ih =>
    unfold leastBy at h
    intro y hy
    split at h
    next w hw =>
      have hle := ih hw
      split at h
      next hlt =>
        cases h
        rcases List.mem_cons.mp hy with rfl | hy
        · omega
        · exact hle y hy
      next hge =>
        cases h
        rcases List.mem_cons.mp hy with rfl | hy
        · exact Nat.le_refl _
        · exact Nat.le_trans (by omega) (hle y hy)
    next hnone =>
      cases h
      rw [leastBy_eq_none hnone, List.mem_singleton] at hy
      rw [hy]

/-- Does a message of a connection and tag meet a posted receive? -/
def Meets (sp conn : Nat) (tag : Word32) (q : Posted) : Prop := q.space = sp ∧ q.conn = conn ∧ (q.tag = tag ∨ q.tag = 0xFFFFFFFF)

/-- The thread slot that posted a receive. -/
def postedBy (s : State) (q : Posted) : Nat := ((access? s q.access).map (·.f.thread)).getD 0

theorem mem_meeting {s : State} {sp conn : Nat} {tag : Word32} {q : Posted} :
    q ∈ s.posted.filter (fun p => p.space == sp && p.conn == conn && (p.tag == tag || p.tag == 0xFFFFFFFF)) ↔
      q ∈ s.posted ∧ Meets sp conn tag q := by
  simp [Meets, and_assoc]

theorem matchReceive_none {s : State} {sp conn : Nat} {tag : Word32} (h : matchReceive s sp conn tag = none) :
    ∀ q ∈ s.posted, ¬Meets sp conn tag q := by
  intro q hq hm
  have hin := mem_meeting.mpr ⟨hq, hm⟩
  rw [leastBy_eq_none h] at hin
  cases hin

theorem matchReceive_some {s : State} {sp conn : Nat} {tag : Word32} {r : Posted} (h : matchReceive s sp conn tag = some r) :
    r ∈ s.posted ∧ Meets sp conn tag r ∧ ∀ q ∈ s.posted, Meets sp conn tag q → postedBy s q < 2 ^ 21 →
      r.cycle ≤ q.cycle ∧ (q.cycle = r.cycle → postedBy s r ≤ postedBy s q) := by
  obtain ⟨hr, hm⟩ := mem_meeting.mp (leastBy_mem h)
  refine ⟨hr, hm, fun q hq hmq hlt => ?_⟩
  have hle : r.cycle * 2 ^ 21 + postedBy s r ≤ q.cycle * 2 ^ 21 + postedBy s q := leastBy_le h q (mem_meeting.mpr ⟨hq, hmq⟩)
  omega

/-! ### What inbound data writes is read back (R40, R107) -/

/-- One byte at system scope. -/
def sysByte (s : State) (pa : Nat) : Byte := if 2 ^ 51 ≤ pa then tabGet 0 s.mem.comp pa else homeByte s pa

theorem readHome_one (s : State) (pa : Nat) : readHome s pa 1 = [sysByte s pa] := rfl

theorem reachable_of_withoutBytes {s t : State} (h : withoutBytes t = withoutBytes s) (pa : Nat) : reachable t pa = reachable s pa :=
  (congrArg (reachable · pa) h :)

theorem calm_writeSys {s : State} (h : Calm s) (pa : Nat) (data : List Byte) : Calm (writeSys pa data s) := (othersKept_writeSys h pa data).1

theorem comp_writeHomeByte {s : State} (h : Calm s) (pa : Nat) (b : Byte) : (writeHomeByte pa b s).mem.comp = s.mem.comp := by
  obtain ⟨hm, hk, -⟩ := dropVerdicts_same pa (supersede pa s)
  have hr : recallLine (pa / 128) (dropVerdicts pa (supersede pa s)) = dropVerdicts pa (supersede pa s) := by
    rw [recallLine_eq, hk, supersede_kamub, h.2.2]
    rfl
  unfold writeHomeByte
  dsimp only
  rw [hr]
  exact congrArg (·.comp) hm

/-- One byte that the system writes, of the device's memory or the companion's, is read there, and no other changes. -/
theorem sysByte_writeSys_one {s : State} (h : Calm s) {pa : Nat} (hr : reachable s pa = true) (b : Byte) (x : Nat) :
    sysByte (writeSys pa [b] s) x = if x = pa then b else sysByte s x := by
  by_cases hp : 2 ^ 51 ≤ pa
  · obtain ⟨hm, hk, hs⟩ := dropVerdicts_same pa s
    have hw : writeSys pa [b] s = healWords pa 1 (writeCompByte pa b s) := by
      unfold writeSys
      rw [hr, if_pos hp]
      rfl
    have hcomp : (writeSys pa [b] s).mem.comp = tabSet 0 s.mem.comp pa b := by
      rw [hw, ← hm]
      rfl
    have hhome : homeByte (writeSys pa [b] s) x = homeByte s x := by
      rw [hw]
      exact homeByte_congr (congrArg (·.copies) hk) (congrArg (·.lines) hs) (fun v => by
        show (tabFind (dropVerdicts pa s).skim.tags v).any _ = _
        rw [hs]; rfl) (congrArg (·.dirty) hm) (congrArg (·.home) hm) x
    obtain ⟨-, hwf, -⟩ := (memory_wf_iff _).mp h.1
    unfold sysByte
    rw [hcomp, hhome]
    by_cases hx : x = pa
    · rw [if_pos hx, hx, if_pos hp, tabGet_set_same pa b hwf]
    · rw [if_neg hx, tabGet_set_other b hwf hx]
  · have hw : writeSys pa [b] s = healWords pa 1 (l1Invalidate (fun c => dieOf c == homeDie pa) pa 1 (writeHomeByte pa b s)) := by
      unfold writeSys
      rw [hr, if_neg hp]
      rfl
    have hcomp : (writeSys pa [b] s).mem.comp = s.mem.comp := by
      rw [hw]
      exact comp_writeHomeByte h pa b
    have hlines : LinesWf s := by unfold LinesWf; rw [h.2.1]; exact List.forall_mem_nil _
    have hhome : homeByte (writeSys pa [b] s) x = if x = pa then b else homeByte s x := by
      rw [hw]
      exact homeByte_writeHomeByte pa x b h.1 hlines
    unfold sysByte
    rw [hcomp, hhome]
    by_cases hx : x = pa
    · rw [if_pos hx, if_pos hx, hx, if_neg hp]
    · rw [if_neg hx, if_neg hx]

theorem inbound_cons (sp q : Nat) (qs : List Nat) (b : Byte) (bs : List Byte) {s : State} (h : Calm s) :
    inbound sp (q :: qs) (b :: bs) s = inbound sp qs bs (writeSys q [b] s) := by
  rw [← deviceWrite_unshadowed h.2.1 q [b] (some sp)]
  rfl

/-- What inbound data writes is what its addresses read after, and no other byte changes. -/
theorem sysByte_inbound (sp : Nat) {pas : List Nat} {data : List Byte} {s : State} (h : Calm s) (hn : pas.Nodup)
    (hl : pas.length = data.length) (hr : ∀ q ∈ pas, reachable s q = true) :
    (∀ i < pas.length, sysByte (inbound sp pas data s) (pas.getD i 0) = data.getD i 0) ∧
      ∀ x, x ∉ pas → sysByte (inbound sp pas data s) x = sysByte s x := by
  induction pas generalizing data s with
  | nil => exact ⟨fun i hi => absurd hi (Nat.not_lt_zero i), fun _ _ => rfl⟩
  | cons q qs ih =>
    cases data with
    | nil => cases hl
    | cons b bs =>
      obtain ⟨hq, hqs⟩ := List.nodup_cons.mp hn
      have hone := sysByte_writeSys_one h (hr q List.mem_cons_self) b
      obtain ⟨hin, hout⟩ := ih (calm_writeSys h q [b]) hqs (Nat.succ.inj hl) fun x hx =>
        (reachable_of_withoutBytes (withoutBytes_writeSys q [b] s) x).trans (hr x (List.mem_cons_of_mem q hx))
      rw [inbound_cons sp q qs b bs h]
      refine ⟨fun i hi => ?_, fun x hx => ?_⟩
      · cases i with
        | zero => exact (hout q hq).trans ((hone q).trans (if_pos rfl))
        | succ i => exact hin i (Nat.lt_of_succ_lt_succ hi)
      · obtain ⟨hne, hx'⟩ := not_or.mp (mt List.mem_cons.mpr hx)
        exact (hout x hx').trans ((hone x).trans (if_neg hne))

/-! ### What a packet does (R36, R37, R397) -/

theorem mapM_eq_map {α β : Type} {f : α → Option β} {g : α → β} {l : List α} (h : ∀ a ∈ l, f a = some (g a)) :
    l.mapM f = some (l.map g) := by
  induction l with
  | nil => rfl
  | cons a l ih =>
    obtain ⟨ha, hl⟩ := List.forall_mem_cons.mp h
    rw [List.mapM_cons, ha, ih hl]
    rfl

theorem map_getD_range (l : List Nat) : (List.range l.length).map (l.getD · 0) = l := by
  refine List.ext_getElem (by simp) fun i _ h => ?_
  simp [h]

theorem mapM_range_eq {f : Nat → Option Nat} {l : List Nat} (h : ∀ i < l.length, f i = some (l.getD i 0)) :
    (List.range l.length).mapM f = some l := by
  rw [mapM_eq_map (g := (l.getD · 0)) fun i hi => h i (List.mem_range.mp hi), map_getD_range]

/-- Is a space's inbound traffic handled, on a port that is up? -/
def Hears (s : State) (p sp : Nat) : Prop :=
  s.boot.released = true ∧ frozen s = false ∧ (s.eth.getD p EthPort.reset).up = true ∧ (space s sp).dropEth = false

/-- May a connection of a space be used by inbound traffic? -/
def Usable (s : State) (sp conn : Nat) : Prop := (space s sp).enable = true ∧ connOk s sp conn = true

theorem usable_iff (s : State) (sp conn : Nat) : (!(space s sp).enable || !connOk s sp conn) = false ↔ Usable s sp conn := by
  simp [Usable]

theorem deaf_of_hears {s : State} {p sp : Nat} (h : Hears s p sp) :
    (frozen s || !s.boot.released || !(s.eth.getD p EthPort.reset).up || (space s sp).dropEth) = false := by
  obtain ⟨hr, hz, hu, hd⟩ := h
  rw [hr, hz, hu, hd]
  rfl

section
variable {s : State} {p : Fin 16} {sp : Fin 64} {conn : Nat}

theorem ethRx_dropped (hd : (space s sp.val).dropEth = true) (k : EthKind) : execEthRx p sp conn k s = .next s := by
  unfold execEthRx
  rw [hd, Bool.or_true]
  rfl

theorem uetReadRequest_dropped (hd : (space s sp.val).dropEth = true) (va : Word64) (len : Nat) :
    execUetReadRequest p sp conn va len s = .next s := by
  unfold execUetReadRequest
  rw [hd, Bool.or_true]
  rfl

theorem ethRx_trimmed (h : Hears s p.val sp.val) : execEthRx p sp conn .trimmed s = .next (if (space s sp.val).enable then
    tell (.ethResponse p.val .nack) (modEth p.val (fun e => { e with trimRx := satAdd 255 e.trimRx 1 }) s) else refuse p.val .barred s) := by
  unfold execEthRx
  rw [deaf_of_hears h]
  rfl

theorem ethRx_atomic (h : Hears s p.val sp.val) : execEthRx p sp conn .atomic s = .next (if (space s sp.val).enable then
    tell (.ethResponse p.val .unsupported) s else refuse p.val .barred s) := by
  unfold execEthRx
  rw [deaf_of_hears h]
  rfl

theorem ethRx_barred (h : Hears s p.val sp.val) (hu : ¬Usable s sp.val conn) (va : Word64) (tag : Word32) (data : List Byte) :
    execEthRx p sp conn (.write va data) s = .next (refuse p.val .barred s) ∧
      execEthRx p sp conn (.send tag data) s = .next (refuse p.val .barred s) := by
  have hb := Bool.eq_true_of_not_eq_false (mt (usable_iff s sp.val conn).mp hu)
  unfold execEthRx
  rw [deaf_of_hears h]
  dsimp only
  rw [hb]
  exact ⟨rfl, rfl⟩

theorem ethRx_send (h : Hears s p.val sp.val) (hu : Usable s sp.val conn) (tag : Word32) (data : List Byte) :
    execEthRx p sp conn (.send tag data) s = .next (match matchReceive s sp.val conn tag with
      | some r => receive p.val r data s
      | none => tell (.ethResponse p.val .notReady) s) := by
  unfold execEthRx
  rw [deaf_of_hears h]
  dsimp only
  rw [(usable_iff s sp.val conn).mpr hu]
  rfl

theorem ethRx_send_met (h : Hears s p.val sp.val) (hu : Usable s sp.val conn) {tag : Word32} {r : Posted} (data : List Byte)
    (hr : matchReceive s sp.val conn tag = some r) : execEthRx p sp conn (.send tag data) s = .next (receive p.val r data s) :=
  (ethRx_send h hu tag data).trans (by rw [hr])

theorem ethRx_write (h : Hears s p.val sp.val) (hu : Usable s sp.val conn) (va : Word64) (data : List Byte) :
    execEthRx p sp conn (.write va data) s = .next (match openRange s sp.val va.toNat data.length with
      | .ok pas => tell (.ethResponse p.val .ok) (inbound sp.val pas data s)
      | .error why => refuse p.val why s) := by
  unfold execEthRx
  rw [deaf_of_hears h]
  dsimp only
  rw [(usable_iff s sp.val conn).mpr hu]
  rfl

theorem uetReadRequest_barred (h : Hears s p.val sp.val) (hu : ¬Usable s sp.val conn) (va : Word64) (len : Nat) :
    execUetReadRequest p sp conn va len s = .next (tell (.ethResponse p.val .accessError) s) := by
  have hb := Bool.eq_true_of_not_eq_false (mt (usable_iff s sp.val conn).mp hu)
  unfold execUetReadRequest
  rw [deaf_of_hears h, hb]
  rfl

/-- A UET read of mapped bytes answers them from their homes, below the dirty lines (R36). -/
theorem uetReadRequest_mapped {va : Word64} {pas : List Nat} (h : Hears s p.val sp.val) (hu : Usable s sp.val conn)
    (hm : ∀ i < pas.length, ∃ q l, translate s 160 sp.val (va.toNat + i) .device = .ok (pas.getD i 0) q l ∧ reachable s (pas.getD i 0) = true) :
    execUetReadRequest p sp conn va pas.length s =
      .next (tell (.ethRead p.val (pas.map (fun pa => if 2 ^ 51 ≤ pa then tabGet 0 s.mem.comp pa else atHomeByte s pa))) s) := by
  unfold execUetReadRequest
  rw [deaf_of_hears h, (usable_iff s sp.val conn).mpr hu]
  dsimp only
  rw [mapM_range_eq fun i hi => by
    obtain ⟨q, l, ht, hr⟩ := hm i hi
    rw [ht]
    exact if_pos hr]
  rfl

end

theorem receive_refused {p : Nat} {r : Posted} {a : Access} {data : List Byte} {why : NoTarget} {s : State} (ha : access? s r.access = some a)
    (ho : openRange s r.space a.a.toNat (Nat.min data.length a.b.toNat) = .error why) : receive p r data s = refuse p why s := by
  unfold receive
  rw [ha]
  dsimp only
  rw [ho]

/-- The result of a receive: the bytes that landed, and in bit 32 whether the message was longer (R397). -/
def received (a : Access) (data : List Byte) : Nat := Nat.min data.length a.b.toNat + boolBit (decide (a.b.toNat < data.length)) 32

theorem receive_taken {p : Nat} {r : Posted} {a : Access} {data : List Byte} {pas : List Nat} {s : State} (ha : access? s r.access = some a)
    (ho : openRange s r.space a.a.toNat (Nat.min data.length a.b.toNat) = .ok pas) :
    receive p r data s = tell (.ethResponse p .ok)
      (modAccess r.access (fun x => { x with st := .done, result := BitVec.ofNat 256 (received a data) })
        { inbound r.space pas data s with posted := (inbound r.space pas data s).posted.filter (fun q => q.access != r.access) }) := by
  unfold receive
  rw [ha]
  dsimp only
  rw [ho]
  rfl

theorem access?_modAccess {f : Access → Access} (hf : ∀ a, (f a).id = a.id) (i : Nat) (s : State) :
    access? (modAccess i f s) i = (access? s i).map f := by
  unfold access?
  rw [modAccess_accesses, find?_modWhere fun a => by rw [hf a]]
  cases h : s.accesses.find? (·.id == i) with
  | none => rfl
  | some a => exact congrArg some (if_pos (List.find?_some h))

/-! ### The acknowledgement of a send (R395, R396) -/

/-- Is an output another packet than the message of a number? -/
def notSend (op : Nat) (o : Output) : Bool :=
  match o with
  | .ethSend k _ _ _ _ => k != op
  | _ => true

/-- Numbers below 2^80 are those of messages. -/
theorem packetOp_notSend {op : Nat} {o : Output} (hop : op < 2 ^ 80) (h : notSend op o = true) : packetOp o ≠ some op := by
  cases o with
  | ethSend k => simpa [packetOp, notSend] using h
  | hello | reply | finish | frame =>
    simp only [packetOp, ne_eq, Option.some.injEq]
    omega
  | _ => simp [packetOp]

theorem sentBy_withoutSend {op : Nat} {s t : State} (hop : op < 2 ^ 80) (ht : t.outputs = s.outputs.filter (notSend op)) : sentBy t op = none := by
  unfold sentBy
  rw [ht]
  refine List.find?_eq_none.mpr fun o ho => ?_
  simpa using packetOp_notSend hop (List.mem_filter.mp ho).2

/-- Counts a failed send where it belongs: in DEFER_FAIL if it was deferred, else in SEND_FAIL. -/
def countSend (op sp : Nat) (ok : Bool) (s : State) : State :=
  if ok then s
  else if op < deferredOp then modSpace sp (fun p => { p with sendFail := satAdd 65535 p.sendFail 1 }) s
  else modSpace sp (fun p => { p with deferFail := satAdd 65535 p.deferFail 1 }) s

theorem nsendAck_eq {op sp conn : Nat} {ok : Bool} {tag : Word32} {data : List Byte} {s : State} (hz : frozen s = false)
    (h : sentBy s op = some (.ethSend op sp conn tag data)) :
    execNsendAck op ok s = .next (modAccess op (fun a => { a with st := .done, result := if ok then 0 else 1 })
      (countSend op sp ok { s with outputs := s.outputs.filter (notSend op) })) := by
  unfold execNsendAck
  rw [hz, h]
  rfl

theorem countSend_same (op sp : Nat) (ok : Bool) (s : State) :
    let t := countSend op sp ok s
    t.outputs = s.outputs ∧ t.mem = s.mem ∧ t.accesses = s.accesses := by
  unfold countSend
  dsimp only
  split
  · exact ⟨rfl, rfl, rfl⟩
  · split <;> exact ⟨rfl, rfl, rfl⟩

theorem space_countSend {op sp : Nat} {ok : Bool} {s : State} (hs : sp < s.spaces.length) :
    (space (countSend op sp ok s) sp).sendFail =
        (if ok = false ∧ op < 2 ^ 79 then satAdd 65535 (space s sp).sendFail 1 else (space s sp).sendFail) ∧
      (space (countSend op sp ok s) sp).deferFail =
        (if ok = false ∧ 2 ^ 79 ≤ op then satAdd 65535 (space s sp).deferFail 1 else (space s sp).deferFail) := by
  have hmod (f : Space → Space) : space (modSpace sp f s) sp = f (space s sp) := getD_listMod_same hs f Space.reset
  unfold countSend deferredOp
  cases ok with
  | true => exact ⟨rfl, rfl⟩
  | false =>
    by_cases ho : op < 2 ^ 79
    · simp only [Bool.false_eq_true, if_false, ho, if_true, hmod, Nat.not_le.mpr ho, and_true, and_false]
    · simp only [Bool.false_eq_true, if_false, ho, if_true, hmod, Nat.le_of_not_lt ho, and_true, and_false]

end Sys2Proof.Machine

section
open Sys2Proof Sys2Proof.Machine

/-- Settles O45: each event of a port and each kind of packet by its own clause; what inbound data writes is read back by induction on
its bytes. -/
theorem linksAndEthernetActByKind : Obligations.LinksAndEthernetActByKind := by
  unfold Obligations.LinksAndEthernetActByKind
  dsimp only
  constructor
  · intro s p e llr
    have hthaw (h : ¬(s.boot.frozenCmd = true ∨ s.boot.frozenPin = true)) : frozen s = false := by
      simpa [frozen] using h
    refine ⟨fun h => ?_, fun h hu => (portEvents s p (hthaw h) hu).2.2, fun h hn hu h8 => ?_, fun h hn hu => ?_, fun hu => ?_, fun h7 ht => ?_,
      fun h => ?_⟩
    · have hz : frozen s = true := by simpa [frozen] using h
      show execFlitCrcError p s = _ ∧ execPortDown p s = _ ∧ execEthLinkDown e s = _
      unfold execFlitCrcError execPortDown execEthLinkDown
      rw [hz]
      exact ⟨rfl, rfl, rfl⟩
    · exact ⟨_, (portEvents s p (hthaw h) hu).2.1 h8, portFails_same p.val hn⟩
    · exact ⟨_, (portEvents s p (hthaw h) hu).1, portFails_same p.val hn⟩
    · show execPortTrainRetry p s = _
      unfold execPortTrainRetry
      rw [hu]
      rfl
    · have hup : 7 ≤ s.boot.stage ∧ (!s.boot.tripped) = true := ⟨h7, by rw [ht]; rfl⟩
      exact ⟨congrArg Host.Outcome.next (if_pos hup), congrArg Host.Outcome.next (if_pos hup)⟩
    · show execEthLinkDown e s = _
      unfold execEthLinkDown
      rw [hthaw h]
      rfl
  · intro s p sp conn len op va data tag ok out pas why hrel hcmd hpin hlink
    have hz : frozen s = false := by unfold frozen; rw [hcmd, hpin]; rfl
    refine ⟨?_, fun x hn hl hr hlines hcopies hm => ?_, fun hd => ⟨fun k => ethRx_dropped hd k, uetReadRequest_dropped hd va len⟩, fun hd => ?_,
      fun hs => ?_, fun hs hop hsp => ?_⟩
    · split
      next hnone => exact matchReceive_none hnone
      next r hsome => exact matchReceive_some hsome
    · obtain ⟨hin, hout⟩ := sysByte_inbound sp.val ⟨hm, hlines, hcopies⟩ hn hl hr
      exact ⟨fun i hi => congrArg (fun b => [b]) (hin i hi), fun hx => congrArg (fun b => [b]) (hout x hx)⟩
    · have hears : Hears s p.val sp.val := ⟨hrel, hz, hlink, hd⟩
      have hdeaf := deaf_of_hears hears
      have htrimmed := ethRx_trimmed (conn := conn) hears
      have hatomic := ethRx_atomic (conn := conn) hears
      refine ⟨?_, ?_, fun he => ?_, fun he => ?_, fun hu => ?_, fun hu hnone => ?_, fun r a hu hsome ha => ⟨fun ho => ?_, fun ho => ?_⟩,
        fun hu ho => ?_, fun hu ho => ?_, fun hu hlen hmap => ?_⟩
      · exact congrArg Host.Outcome.next (if_neg (ne_true_of_eq_false hdeaf))
      · exact congrArg Host.Outcome.next (if_neg (ne_true_of_eq_false hdeaf))
      · exact ⟨htrimmed.trans (by rw [if_pos he]; rfl), hatomic.trans (by rw [if_pos he]; rfl)⟩
      · have hoff : ¬(space s sp.val).enable = true := ne_true_of_eq_false he
        exact ⟨htrimmed.trans (by rw [if_neg hoff]; rfl), hatomic.trans (by rw [if_neg hoff]; rfl)⟩
      · exact ⟨(ethRx_barred hears hu va tag data).1, (ethRx_barred hears hu va tag data).2, uetReadRequest_barred hears hu va len⟩
      · exact (ethRx_send hears hu tag data).trans (by rw [hnone]; rfl)
      · exact (ethRx_send_met hears hu data hsome).trans (by rw [receive_refused ha ho]; cases why <;> rfl)
      · refine ⟨_, (ethRx_send_met hears hu data hsome).trans (congrArg _ (receive_taken ha ho)), rfl, rfl, rfl, rfl, rfl, ?_⟩
        refine (access?_modAccess (by exact fun _ => rfl) _ _).trans ?_
        have hres : received a data = Nat.min data.length a.b.toNat + (if a.b.toNat < data.length then 2 ^ 32 else 0) := by
          unfold received boolBit
          simp only [decide_eq_true_eq]
        rw [hres]
        rfl
      · exact (ethRx_write hears hu va data).trans (by rw [ho]; rfl)
      · exact (ethRx_write hears hu va data).trans (by rw [ho]; cases why <;> rfl)
      · subst hlen
        exact uetReadRequest_mapped hears hu hmap
    · show execEthTrimNack op s = _
      unfold execEthTrimNack
      rw [hz, hs]
      rfl
    · obtain ⟨houtputs, hmem, haccesses⟩ := countSend_same op sp.val ok { s with outputs := s.outputs.filter (notSend op) }
      obtain ⟨hsend, hdefer⟩ := space_countSend (op := op) (ok := ok) (s := { s with outputs := s.outputs.filter (notSend op) }) hsp
      refine ⟨_, nsendAck_eq hz hs, sentBy_withoutSend hop houtputs, hmem, ?_, hsend, hdefer⟩
      refine (access?_modAccess (by exact fun _ => rfl) _ _).trans ?_
      unfold access?
      rw [haccesses]

end

section
open Sys2Proof Sys2Proof.Machine

/-- Settles O6: memory at reset is in its form, and both its lists are empty. -/
theorem memoryIsCanonicalAtReset : Obligations.MemoryIsCanonicalAtReset := ⟨memOk_reset, rfl, rfl⟩

end

/-! ## What stands still before READY and during a freeze (R53, R61) -/

namespace Sys2Proof.Machine

theorem frozen_of_cause {s : State} (h : s.boot.frozenCmd = true ∨ s.boot.frozenPin = true) : frozen s = true := by
  simpa [frozen] using h

theorem frozen_of_no_cause {s : State} (hcmd : s.boot.frozenCmd = false) (hpin : s.boot.frozenPin = false) : frozen s = false := by
  unfold frozen
  rw [hcmd, hpin]
  rfl

theorem coresRun_stopped {s : State} (h : s.boot.released = false ∨ s.boot.frozenCmd = true ∨ s.boot.frozenPin = true) :
    coresRun s = false := by
  unfold coresRun
  obtain hr | hz := h
  · rw [hr]; rfl
  · rw [frozen_of_cause hz]; exact Bool.and_false _

section

variable {s : State} (h : coresRun s = false)
include h

/-! ### What runs where the cores run -/

theorem launchRuns_stopped (id : Nat) : launchRuns s id = false := by
  unfold launchRuns
  rw [h]
  rfl

theorem blockRuns_stopped (k : Token) : blockRuns s k = false := by
  unfold blockRuns
  rw [launchRuns_stopped h]
  rfl

theorem queueRuns_stopped (q : Nat) : queueRuns s q = false := by
  have hr : (s.boot.released && !frozen s) = false := h
  unfold queueRuns
  simp only [hr, Bool.false_and]

theorem whileRunning_stopped (f : State → State) : whileRunning f s = .next s := by
  unfold whileRunning
  rw [h]
  rfl

/-! ### Events of the queues and the dispatcher -/

theorem execQueueTailRead_stopped (q : Fin 64) : execQueueTailRead q s = .next s := by
  unfold execQueueTailRead
  rw [queueRuns_stopped h]
  rfl

theorem execRecordTake_stopped (q : Fin 64) : execRecordTake q s = .next s := by
  unfold execRecordTake
  rw [queueRuns_stopped h]
  rfl

theorem evTeamReady_stopped (id : Nat) : evTeamReady id s = s := by
  unfold evTeamReady
  split
  · rfl
  · rw [h]; rfl

theorem evPreempt_stopped (id : Nat) : evPreempt id s = s := by
  unfold evPreempt
  split
  · rfl
  · rw [h]; rfl

theorem evSave_stopped (id : Nat) : evSave id s = s := by
  unfold evSave
  split
  · rfl
  · rw [h]; rfl

theorem evSaveDone_stopped (id core : Nat) : evSaveDone id core s = s := by
  unfold evSaveDone
  dsimp only
  split
  · rfl
  · exact if_pos (by rw [h]; exact Bool.or_true _)

theorem evRestore_stopped (id : Nat) : evRestore id s = s := by
  unfold evRestore
  rw [h]
  rfl

theorem evRestoreDone_stopped (id : Nat) : evRestoreDone id s = s := by
  unfold evRestoreDone
  split
  · rfl
  · exact if_pos (by rw [h, Bool.not_false, Bool.or_true]; rfl)

theorem evPageMigrate_stopped (sp : Fin 64) (va : Word64) (die : Fin 4) : evPageMigrate sp va die s = s := by
  unfold evPageMigrate
  rw [h]
  rfl

/-! ### Events of accesses -/

theorem evOrderedIssue_stopped (t : Nat) : evOrderedIssue t s = s := by
  unfold evOrderedIssue
  split
  · rw [launchRuns_stopped h]; rfl
  · rfl

theorem evAccessResponse_stopped (id : Nat) (ecc : Ecc) : evAccessResponse id ecc s = s := by
  unfold evAccessResponse
  split
  · rfl
  · rw [launchRuns_stopped h]; rfl

theorem evCopyWordArrival_stopped (id w : Nat) : evCopyWordArrival id w s = s := by
  unfold evCopyWordArrival
  split
  · rw [launchRuns_stopped h]; rfl
  · rfl

theorem evStrmCopy_stopped (id sub : Nat) : evStrmCopy id sub s = s := by
  unfold evStrmCopy
  split
  · rw [launchRuns_stopped h]; rfl
  · rfl

theorem evSemWake_stopped (core launch team sem : Nat) : evSemWake core launch team sem s = s := by
  unfold evSemWake
  rw [launchRuns_stopped h]
  rfl

theorem evParkResume_stopped (id : Nat) : evParkResume id s = s := by
  unfold evParkResume
  split
  · rfl
  · split
    · rw [launchRuns_stopped h]; rfl
    · rfl

/-! ### Events of tokens, blocks, windows and departing threads -/

theorem evTokenArrive_stopped (ix : Nat) : evTokenArrive ix s = s := by
  unfold evTokenArrive
  split
  · rfl
  · rw [blockRuns_stopped h]
    split
    · rfl
    · exact if_pos (by rw [Bool.not_false, Bool.or_true]; rfl)

theorem evTokenReturn_stopped (ix : Nat) : evTokenReturn ix s = s := by
  unfold evTokenReturn
  split
  · rfl
  · exact if_pos (by rw [blockRuns_stopped h]; exact Bool.or_true _)

theorem evSchedEval_stopped (core : Nat) : evSchedEval core s = s := by
  unfold evSchedEval
  rw [h]
  rfl

theorem evBlockResident_stopped (core l b : Nat) : evBlockResident core l b s = s := by
  unfold evBlockResident
  split
  · rfl
  · exact if_pos (by rw [h]; exact Bool.or_true _)

theorem evInject_stopped (core l b r : Nat) : evInject core l b r s = s := by
  unfold evInject
  split
  · exact if_pos (by simp only [h, Bool.not_false, Bool.or_true, Bool.true_or])
  · rfl

theorem evEvict_stopped (core l b : Nat) : evEvict core l b s = s := by
  unfold evEvict
  split
  · rfl
  · exact if_pos (by simp only [h, Bool.not_false, Bool.or_true, Bool.true_or])

theorem evHamperMove_stopped (core : Nat) : evHamperMove core s = s := by
  unfold evHamperMove
  rw [h]
  rfl

theorem execDepartureComplete_stopped (t : Nat) : execDepartureComplete t s = .next s := by
  unfold execDepartureComplete
  split
  · rw [launchRuns_stopped h]; rfl
  · rfl

end

/-! ### What a freeze alone holds up -/

section

variable {s : State} (h : frozen s = true)
include h

theorem evDeadline_frozen (id : Nat) : evDeadline id s = s := by
  unfold evDeadline
  split
  · rfl
  · exact if_neg (by simp only [h, Bool.not_true, Bool.and_false, Bool.false_and]; exact Bool.false_ne_true)

theorem hangPaused_frozen (id : Nat) : hangPaused s id = true := by
  unfold hangPaused
  rw [h]
  rfl

theorem evHang_frozen (id : Nat) : evHang id s = s := by
  have hdue : hangDue s id = false := by
    unfold hangDue
    split
    · simp only [hangPaused_frozen h, Bool.not_true, Bool.and_false, Bool.false_and]
    · rfl
  unfold evHang
  rw [hdue]
  split <;> rfl

theorem execClusterReset_frozen (c : Nat) : execClusterReset c s = .next s := by
  unfold execClusterReset
  rw [h]
  rfl

theorem execAgeRenumber_frozen (core : Nat) : execAgeRenumber core s = .next s := by
  unfold execAgeRenumber
  rw [h]
  rfl

theorem execDepWordRead_frozen (q : Fin 64) (index : Nat) (k : Fin 4) : execDepWordRead q index k s = .next s := by
  unfold execDepWordRead
  rw [h]
  rfl

theorem execDepPoll_frozen (q : Fin 64) (index : Nat) (k : Fin 4) : execDepPoll q index k s = .next s := by
  unfold execDepPoll
  rw [h]
  rfl

end

end Sys2Proof.Machine

section
open Sys2Proof Sys2Proof.Machine

/-- Settles O52: where the cores do not run, each event of the lists is guarded by `coresRun`, or by what asks for it; and where a
freeze lasts, the other six by `frozen`. -/
theorem nothingOfTheFabricMovesWhileFrozen : Obligations.NothingOfTheFabricMovesWhileFrozen := by
  unfold Obligations.NothingOfTheFabricMovesWhileFrozen
  intro s id vt line a b c core n team die q sp k va ecc hstop
  have h := coresRun_stopped hstop
  have still {t : State} (ht : t = s) : (.next t : Out) = .next s := congrArg Host.Outcome.next ht
  have skim (f : State → State) := whileRunning_stopped h f
  simp only [List.forall_mem_cons, List.not_mem_nil, false_imp_iff, implies_true, and_true]
  refine ⟨⟨skim _, skim _, skim _, skim _, skim _, skim _, skim _, skim _, skim _, skim _, skim _, skim _,
      execQueueTailRead_stopped h q, execRecordTake_stopped h q⟩,
    ⟨still (evTeamReady_stopped h id), still (evPreempt_stopped h id), still (evSave_stopped h id), still (evSaveDone_stopped h id core),
      still (evRestore_stopped h id), still (evRestoreDone_stopped h id), still (evPageMigrate_stopped h sp va die)⟩,
    ⟨still (evOrderedIssue_stopped h a), still (evAccessResponse_stopped h a ecc), still (evCopyWordArrival_stopped h a b),
      still (evStrmCopy_stopped h a b), still (evSemWake_stopped h core a b c), still (evParkResume_stopped h a),
      still (evTokenArrive_stopped h n), still (evTokenReturn_stopped h n), still (evSchedEval_stopped h core),
      still (evBlockResident_stopped h core a b), still (evInject_stopped h core a b c), still (evEvict_stopped h core a b),
      still (evHamperMove_stopped h core), execDepartureComplete_stopped h a⟩,
    fun hz => ?_⟩
  have hf := frozen_of_cause hz
  exact ⟨execClusterReset_frozen hf c, execAgeRenumber_frozen hf core, still (evDeadline_frozen hf id), still (evHang_frozen hf id),
    execDepWordRead_frozen hf q n k, execDepPoll_frozen hf q n k⟩

end

/-! ## Alerts, temperatures and the stages of a start (R20, R24, R53 to R59, R65) -/

namespace Sys2Proof.Machine

/-! ### Alerts and temperatures -/

/-- An alert sets its bit, and ALERT_N may be told; nothing else changes. -/
theorem raiseAlert_eq (i : Nat) (s : State) :
    ∃ o, raiseAlert i s = { s with boot := { s.boot with alert := s.boot.alert ||| (1#6 <<< i) }, outputs := o } :=
  ⟨_, setAlerts_eq _ _ s⟩

/-- Does a die come to 105 °C with these temperatures (R20, R24)? -/
def getsHot (temps : List Nat) (s : State) : Bool := (temps.zip s.boot.dieTemps).any (fun e => decide (105 ≤ e.1 ∧ e.2 < 105))

/-- The temperature monitor changes the temperatures and what it derives from them; a die that comes to 105 °C sets HOT and its alert. -/
theorem setTemps_eq (temps : List Nat) (s : State) :
    ∃ o, setTemps temps s = { s with
      boot := { s.boot with dieTemps := temps, alert := if getsHot temps s then s.boot.alert ||| 4#6 else s.boot.alert }
      gov := { s.gov with
        tempMax := temps.foldl Nat.max 0
        causeThermal := temps.any (fun t => decide (95 ≤ t))
        hot := if getsHot temps s then true else s.gov.hot }
      outputs := o } := by
  unfold setTemps
  cases hg : getsHot temps s with
  | true =>
    obtain ⟨o, ho⟩ := raiseAlert_eq 2 ({ s with
      boot := { s.boot with dieTemps := temps }
      gov := { s.gov with tempMax := temps.foldl Nat.max 0, causeThermal := temps.any (fun t => decide (95 ≤ t)), hot := true } } : State)
    exact ⟨o, (if_pos hg).trans ho⟩
  | false => exact ⟨s.outputs, if_neg (ne_true_of_eq_false hg)⟩

/-! ### The failed state (R54) -/

theorem bootFail_same (code unit : Nat) (s : State) :
    let t := bootFail code unit s
    t.boot.failed = true ∧ t.boot.code = code ∧ t.boot.unit_ = unit ∧ t.boot.vcore = false ∧ t.boot.alert = s.boot.alert ||| 1 ∧
      t.boot.stage = s.boot.stage ∧ t.mem = s.mem := by
  obtain ⟨o, ho⟩ := raiseAlert_eq 0 { s with boot := { s.boot with failed := true, code := code, unit_ := unit, vcore := false } }
  unfold bootFail
  rw [ho]
  exact ⟨rfl, rfl, rfl, rfl, rfl, rfl, rfl⟩

/-! ### The stage in progress -/

theorem inStage_now {s : State} {n : Nat} (hf : s.boot.failed = false) (ht : s.boot.tripped = false) (hn : s.boot.stage = n)
    (hz : n < 4 ∨ frozen s = false) : inStage s n = true := by
  unfold inStage
  obtain h4 | hz := hz
  · simp [hf, ht, hn, Nat.not_le.mpr h4]
  · simp [hf, ht, hn, hz]

theorem inStage_frozen {s : State} {n : Nat} (hz : frozen s = true) (hn : 4 ≤ n) : inStage s n = false := by
  simp [inStage, hz, hn]

/-- An event of a stage that is in progress does what the stage does. -/
theorem next_inStage {s : State} {n : Nat} (h : inStage s n = true) (x : State) : (.next (if !inStage s n then s else x) : Out) = .next x := by
  rw [h]
  rfl

/-- The events of the stages from the fourth on wait for a freeze to end (R61). -/
theorem stages_wait_frozen {s : State} (hz : frozen s = true) (n : Fin 12) (d : Fin 4) (temps : List Nat) :
    ∀ i ∈ [Instr.hbm (some n) temps, .hbm none temps, .bist (some d) none, .bist none none, .fill none, .init none, .ready],
      exec i s = .next s := by
  have wait {n : Nat} (hn : 4 ≤ n) (x : State) : (.next (if !inStage s n then s else x) : Out) = .next s := by
    rw [inStage_frozen hz hn]
    rfl
  have hready : execReady s = .next s := by
    unfold execReady
    rw [inStage_frozen hz (by decide)]
    rfl
  simp only [List.forall_mem_cons, List.not_mem_nil, false_imp_iff, implies_true, and_true]
  exact ⟨wait (n := 4) (by decide) _, wait (n := 4) (by decide) _, wait (n := 5) (by decide) _, wait (n := 5) (by decide) _,
    wait (n := 6) (by decide) _, wait (n := 7) (by decide) _, hready⟩

/-! ### What the stages do -/

section

variable {s : State} {a b : FwImage} {temps : List Nat}

theorem execImage_slotA (h : inStage s 1 = true) (ha : imageCode a = none) : execImage a b s = .next (acceptImage a false s) := by
  unfold execImage
  rw [next_inStage h, ha]

theorem execImage_slotB (h : inStage s 1 = true) (ha : imageCode a ≠ none) (hb : imageCode b = none) :
    execImage a b s = .next (acceptImage b true s) := by
  obtain ⟨c, hc⟩ := Option.ne_none_iff_exists'.mp ha
  unfold execImage
  rw [next_inStage h, hc, hb]

theorem execImage_fails {c : Nat} (h : inStage s 1 = true) (ha : imageCode a ≠ none) (hb : imageCode b = some c) :
    execImage a b s = .next (bootFail c 1 { s with boot := { s.boot with imageB := true } }) := by
  obtain ⟨c', hc⟩ := Option.ne_none_iff_exists'.mp ha
  unfold execImage
  rw [next_inStage h, hc, hb]

/-- Good rails lead on at a cold start, and at a warm one where every die is below 90 °C (R53, R56). -/
theorem execRails_leads (h : inStage s 3 = true) (hc : s.boot.warmStart = false ∨ ∀ x ∈ temps, x < 90) :
    ∃ o, execRails none temps s = .next (toStage 4 { s with
      boot := { s.boot with
        dieTemps := temps, alert := if getsHot temps s then s.boot.alert ||| 4#6 else s.boot.alert, vcore := true }
      gov := { s.gov with
        tempMax := temps.foldl Nat.max 0
        causeThermal := temps.any (fun t => decide (95 ≤ t))
        hot := if getsHot temps s then true else s.gov.hot }
      outputs := o }) := by
  have hgo : ¬(s.boot.warmStart && temps.any (fun t => decide (90 ≤ t))) = true := by
    simpa [imp_iff_not_or] using hc
  obtain ⟨o, ho⟩ := setTemps_eq temps s
  refine ⟨o, (next_inStage h _).trans (congrArg Host.Outcome.next ?_)⟩
  dsimp only
  rw [ho]
  exact if_neg hgo

theorem execRailsTimeout_eq (h : inStage s 3 = true) (hw : s.boot.warmStart = true) {d : Fin 4} (hd : 90 ≤ s.boot.dieTemps.getD d.val 0) :
    execRailsTimeout d s = .next (if 7000000000 ≤ s.boot.stageAge then bootFail 0x21 d.val s else s) := by
  unfold execRailsTimeout
  simp only [h, hw, hd, decide_true, Bool.and_self, Bool.true_and, decide_eq_true_eq]

theorem retrain_cold (hw : s.boot.warmStart = false) (n : Nat) : retrain s temps n = true := by
  unfold retrain
  rw [hw]
  rfl

/-- A start that is cold, or that found PRESERVE clear, keeps no stack (R56). -/
theorem kept_none (h : s.boot.warmStart = false ∨ s.boot.preserveNow = false) :
    ((List.range 12).map (fun n => boolBit (s.boot.warmStart && s.boot.preserveNow && !retrain s temps n) n)).sum = 0 := by
  have hb : (s.boot.warmStart && s.boot.preserveNow) = false := by
    obtain h | h := h <;> simp [h]
  simp only [hb, Bool.false_and, boolBit, Bool.false_eq_true, if_false]
  decide

theorem execBist_passes (h : inStage s 5 = true) : execBist none none s = .next (toStage 6 s) :=
  (next_inStage h _).trans (congrArg Host.Outcome.next (ite_self _))

theorem execBist_cold (h : inStage s 5 = true) (hw : s.boot.warmStart = false) (d : Fin 4) :
    execBist (some d) none s = .next (bootFail 0x40 d.val s) ∧ execBist none (some d) s = .next (bootFail 0x41 d.val s) := by
  have hcold : ¬s.boot.warmStart = true := ne_true_of_eq_false hw
  exact ⟨(next_inStage h _).trans (congrArg Host.Outcome.next (if_neg hcold)),
    (next_inStage h _).trans (congrArg Host.Outcome.next (if_neg hcold))⟩

theorem execReady_now (h : inStage s 8 = true) (hr : s.boot.released = false) :
    execReady s = .next { s with boot := { s.boot with released := true, statusAtReady := bootStatus s }, clock := 0 } := by
  unfold execReady
  rw [h, hr]
  rfl

end

/-- Memory after FILL holds only the kept stacks (R53, R56). -/
theorem mem_filter_keptAddr {s : State} {e : Host.Cell} (h : e ∈ s.mem.home.filter (fun e => keptAddr s e.1)) :
    e ∈ s.mem.home ∧ e.1 < 0xC000000000 ∧ s.boot.kept.getLsbD (e.1 / 0x1000000000) = true := by
  obtain ⟨hm, hk⟩ := List.mem_filter.mp h
  simp only [keptAddr, Bool.and_eq_true, decide_eq_true_eq] at hk
  exact ⟨hm, hk⟩

theorem lt_of_mem_filter_hbm {l : List Host.Cell} {e : Host.Cell} (h : e ∈ l.filter (fun e => decide (e.1 < 0xC000000000))) :
    e.1 < 0xC000000000 := of_decide_eq_true (List.mem_filter.mp h).2

/-! ### What starts and trips leave (R26, R54, R56, R57, R62) -/

/-- No launch, thread, token or transaction is left, and no cache line of device memory. -/
def Emptied (t : State) : Prop :=
  t.launches = [] ∧ t.teams = [] ∧ t.threads = [] ∧ t.tokens = [] ∧ t.accesses = [] ∧ t.placed = [] ∧
    t.skim = Skim.reset ∧ t.boot.released = false ∧ t.mem.dirty = [] ∧ t.mem.rsb = [] ∧ t.mem.copies = [] ∧ t.spaces.length = 64

theorem emptied_startFrom (s : State) (warm : Bool) (stage : Nat) : Emptied (startFrom s warm stage) :=
  ⟨rfl, rfl, rfl, rfl, rfl, rfl, rfl, rfl, rfl, rfl, rfl, rfl⟩

theorem startFrom_home (s : State) (warm : Bool) (stage : Nat) : (startFrom s warm stage).mem.home = s.mem.home := rfl

theorem firstStage_eq (s : State) : firstStage s = if s.launches = [] then 0 else 1 := by
  unfold firstStage
  simp only [List.isEmpty_iff]

theorem drainHbm_home {s : State} {e : Host.Cell} (h : e ∈ (drainHbm s).mem.home) : e.1 < 0xC000000000 :=
  lt_of_mem_filter_hbm h

theorem execWarm_alone {d : Word32} {s : State} (hd : d.getLsbD 0 = false) (hf : s.boot.failed = false) :
    execWarm d s = .next (startFrom (drainHbm (endTransactions (regWrite 4 d s))) true (firstStage s)) := by
  have hf' : ¬(regWrite 4 d s).boot.failed = true := ne_true_of_eq_false hf
  exact congrArg Host.Outcome.next ((if_neg (ne_true_of_eq_false hd)).trans (if_neg hf'))

/-- What the device is left with by a trip, before its alert. -/
def trippedFrom (s : State) : State :=
  { State.reset with
    boot := { s.boot with
      tripped := true, selfRefresh := true, vcore := false, released := false, frozenCmd := false, frozenPin := false }
    gov := s.gov, merr := s.merr, kamub := { s.kamub with copies := [], held := [] }, eth := s.eth
    mem := { Mem.reset with home := s.mem.home, comp := s.mem.comp, bad := s.mem.bad }
    cycles := s.cycles, half := s.half, nextId := s.nextId, freeCtr := s.freeCtr, turns := s.turns, outputs := s.outputs }

theorem execThermalTrip_eq {die : Fin 4} {temp : Nat} {s : State} (ht : 110 ≤ temp) (hs : s.boot.tripped = false) :
    execThermalTrip die temp s =
      .next (raiseAlert 3 (trippedFrom (drainHbm (endTransactions (setTemps (s.boot.dieTemps.set die.val temp) s))))) := by
  have hgo : ¬(temp < 110 ∨ s.boot.tripped = true) := by
    rw [hs]
    simpa using ht
  exact congrArg Host.Outcome.next (if_neg hgo)

/-- A trip leaves the device empty and in reset, with no supply of the cores and no freeze, and its alert raised. -/
theorem trippedFrom_same (s : State) :
    let t := raiseAlert 3 (trippedFrom s)
    Emptied t ∧ t.boot.tripped = true ∧ t.boot.vcore = false ∧ t.boot.selfRefresh = true ∧ t.boot.frozenCmd = false ∧
      t.boot.frozenPin = false ∧ t.boot.alert.getLsbD 3 = true := by
  obtain ⟨o, ho⟩ := raiseAlert_eq 3 (trippedFrom s)
  rw [ho]
  refine ⟨⟨rfl, rfl, rfl, rfl, rfl, rfl, rfl, rfl, rfl, rfl, rfl, rfl⟩, rfl, rfl, rfl, rfl, rfl, ?_⟩
  simp

end Sys2Proof.Machine

section
open Sys2Proof Sys2Proof.Machine

/-- Settles O43: a stage in progress does its own work or enters `bootFail`; a start is `startFrom` and a trip `trippedFrom`,
which take next to nothing over from the state before. -/
theorem startsRunTheirStagesAndEndLaunches : Obligations.StartsRunTheirStagesAndEndLaunches := by
  unfold Obligations.StartsRunTheirStagesAndEndLaunches
  constructor
  · intro s a b temps r n d hf ht fails leads
    have failsBy {i : Instr} {code unit : Nat} (h : exec i s = .next (bootFail code unit s)) : fails i code unit :=
      ⟨_, h, bootFail_same code unit s⟩
    have early {n : Nat} (hn : s.boot.stage = n) (h4 : n < 4) : inStage s n = true := inStage_now hf ht hn (.inl h4)
    refine ⟨fun h => ?_, fun h => ⟨fun ha => ?_, fun ha hb => ?_, fun c ha hb => ?_⟩, fun h => ⟨?_, ?_, ?_⟩,
      fun h => ⟨?_, fun hc => ?_, fun hw hd => ?_⟩, fun _ hz => stages_wait_frozen (frozen_of_cause hz) n d temps, fun hcmd hpin => ?_⟩
    · have hin := early h (by decide)
      exact ⟨_, congrArg Host.Outcome.next (if_pos hin), rfl, hf, rfl, rfl, rfl, rfl, rfl⟩
    · exact ⟨_, execImage_slotA (early h (by decide)) ha, rfl, hf, rfl, rfl, rfl, rfl, rfl⟩
    · exact ⟨_, execImage_slotB (early h (by decide)) ha hb, rfl, hf, rfl, rfl, rfl, rfl⟩
    · exact ⟨_, execImage_fails (early h (by decide)) ha hb, bootFail_same c 1 _⟩
    · exact failsBy (next_inStage (early h (by decide)) _)
    · exact failsBy (next_inStage (early h (by decide)) _)
    · exact ⟨_, next_inStage (early h (by decide)) _, rfl, hf, rfl, rfl, rfl⟩
    · exact failsBy (next_inStage (early h (by decide)) _)
    · obtain ⟨o, ho⟩ := execRails_leads (early h (by decide)) hc
      exact ⟨_, ho, rfl, hf, rfl, rfl, rfl, rfl, rfl⟩
    · have he := execRailsTimeout_eq (early h (by decide)) hw hd
      split
      next hage => exact failsBy (he.trans (by rw [if_pos hage]))
      next hage => exact he.trans (by rw [if_neg hage])
    · have hz : frozen s = false := frozen_of_no_cause hcmd hpin
      have late {n : Nat} (hn : s.boot.stage = n) : inStage s n = true := inStage_now hf ht hn (.inr hz)
      refine ⟨fun h => ⟨fun hw => ?_, ?_⟩, fun h => ⟨fun hw => ?_, ?_⟩, fun h => ⟨fun hk => ?_, ?_⟩, fun h => ⟨?_, ?_⟩, fun h hr => ?_⟩
      · exact failsBy ((next_inStage (late h) _).trans (congrArg Host.Outcome.next (if_pos (retrain_cold hw n.val))))
      · exact ⟨_, next_inStage (late h) _, rfl, hf, rfl, rfl, fun hk => congrArg (BitVec.ofNat 12) (kept_none hk), rfl⟩
      · exact (execBist_cold (late h) hw d).imp failsBy failsBy
      · exact ⟨_, execBist_passes (late h), rfl, hf, rfl, rfl, rfl⟩
      · exact failsBy ((next_inStage (late h) _).trans (congrArg Host.Outcome.next (if_neg (ne_true_of_eq_false hk))))
      · exact ⟨_, next_inStage (late h) _, rfl, hf, rfl, rfl, rfl, fun e he => mem_filter_keptAddr he⟩
      · exact failsBy (next_inStage (late h) _)
      · exact ⟨_, next_inStage (late h) _, rfl, hf, rfl, rfl, rfl, rfl, rfl, fun e he => lt_of_mem_filter_hbm he⟩
      · exact execReady_now (late h) hr
  · intro s d die temp empty
    refine ⟨⟨_, rfl, emptied_startFrom _ _ _, rfl, rfl, rfl⟩, ⟨_, rfl, emptied_startFrom _ _ _, firstStage_eq s, rfl, rfl⟩,
      fun hd hf => ⟨_, execWarm_alone hd hf, emptied_startFrom _ _ _, firstStage_eq s, rfl, rfl, fun e he => drainHbm_home (startFrom_home _ _ _ ▸ he)⟩,
      fun ht hs => ⟨_, execThermalTrip_eq ht hs, trippedFrom_same _⟩⟩

end

/-! ## Freezes, attestation and the governor (R20 to R24, R59 to R62, R404) -/

namespace Sys2Proof.Machine

/-! ### Freezes (R61, R62) -/

/-- What keeps the stacks in self-refresh where no freeze does: a trip, or a warm start before stage 5 (R56, R66). -/
def restsUnfrozen (s : State) : Bool := s.boot.tripped || (s.boot.warmStart && !s.boot.released && decide (s.boot.stage < 5))

theorem heldRequests_none {s : State} (h : s.kamub.held = []) : heldRequests s = s := by
  unfold heldRequests
  rw [h]
  calc ({ s with kamub := { s.kamub with held := [] } } : State)
      = { s with kamub := { s.kamub with held := s.kamub.held } } := by rw [h]
    _ = s := rfl

/-- Once a cause of a freeze is gone and no request waits, only the stacks' self-refresh follows, which stays while another cause does. -/
theorem unfreeze_eq {s : State} (h : s.kamub.held = [] ∨ frozen s = true) :
    unfreeze s = { s with boot := { s.boot with selfRefresh := if frozen s then s.boot.selfRefresh else restsUnfrozen s } } := by
  unfold unfreeze
  cases hz : frozen s with
  | true => rfl
  | false => exact heldRequests_none (h.resolve_right (ne_true_of_eq_false hz))

theorem execThaw_eq {d : Word32} {s : State} (hcmd : s.boot.frozenCmd = true) (h : s.kamub.held = [] ∨ s.boot.frozenPin = true) :
    ∃ t, execThaw d s = .next t ∧ t.boot.frozenCmd = false ∧ t.boot.frozenPin = s.boot.frozenPin ∧ t.boot.brkHit.getLsbD 20 = false ∧
      t.boot.selfRefresh = (if s.boot.frozenPin then s.boot.selfRefresh else restsUnfrozen s) ∧ t.mem = s.mem := by
  have hgo : ¬(!(regWrite 4 d s).boot.frozenCmd) = true := by
    show ¬(!s.boot.frozenCmd) = true
    rw [hcmd]
    decide
  refine ⟨_, congrArg Host.Outcome.next ((if_neg hgo).trans (unfreeze_eq h)), rfl, rfl, ?_, rfl, rfl⟩
  show (s.boot.brkHit &&& 0xFFEFFFFF).getLsbD 20 = false
  simp

theorem execFreezeNHigh_eq {s : State} (hpin : s.boot.frozenPin = true) (h : s.kamub.held = [] ∨ s.boot.frozenCmd = true) :
    ∃ t, execFreezeNHigh s = .next t ∧ t.boot.frozenPin = false ∧ t.boot.frozenCmd = s.boot.frozenCmd ∧
      t.boot.selfRefresh = (if s.boot.frozenCmd then s.boot.selfRefresh else restsUnfrozen s) ∧ t.mem = s.mem := by
  have hz : frozen { s with boot := { s.boot with frozenPin := false } } = s.boot.frozenCmd := Bool.or_false _
  have hu := unfreeze_eq (s := { s with boot := { s.boot with frozenPin := false } }) (h.imp_right hz.trans)
  rw [hz] at hu
  have hgo : ¬(!s.boot.frozenPin) = true := by
    rw [hpin]
    decide
  exact ⟨_, congrArg Host.Outcome.next ((if_neg hgo).trans hu), rfl, rfl, rfl, rfl⟩

/-! ### Attestation (R59, R60) -/

/-- A command of the attestation unit acts where the unit is not busy (R60). -/
theorem next_attestation {s : State} (hf : s.boot.failed = false) (hb : s.boot.attBusy = false) (x : State) :
    (.next (if s.boot.attBusy || !answers s 0xC20 then s else x) : Out) = .next x := by
  rw [hb, answers_of_not_failed hf]
  rfl

/-- A report begins with its version, a word of zero and the nonce (R60). -/
theorem attReport_take_nonce {s : State} (hn : s.boot.attNonce.length = 32) :
    (attReport s).take 40 = toBytes 4 1 ++ toBytes 4 0 ++ s.boot.attNonce := by
  have hlen : (toBytes 4 1 ++ toBytes 4 0 ++ s.boot.attNonce).length = 40 := by
    rw [List.length_append, hn]
    rfl
  have hsplit : ∃ rest, attReport s = (toBytes 4 1 ++ toBytes 4 0 ++ s.boot.attNonce) ++ rest := by
    simp only [attReport, List.append_assoc]
    exact ⟨_, rfl⟩
  obtain ⟨rest, hrest⟩ := hsplit
  rw [hrest, List.take_left' hlen]

theorem execAttestDone_eq {s : State} (hj : s.boot.attJob = some .attest) :
    execAttestDone s = .next { s with boot := { s.boot with attReport := attReport s, attBusy := false, attJob := none } } :=
  congrArg Host.Outcome.next (if_pos hj)

theorem execExtendDone_eq {s : State} {k : BitVec 3} {digest : List Byte} (hj : s.boot.attJob = some (.extend k digest)) :
    execExtendDone s = .next { s with boot := { s.boot with
      meas := listMod s.boot.meas k.toNat (fun m => sha512 (measBytes m ++ digest)), attBusy := false, attJob := none } } := by
  unfold execExtendDone
  rw [hj]
  rfl

/-- An extend replaces one measurement register (R59). -/
theorem getD_extended {meas : List (BitVec 512)} (hm : meas.length = 8) (k : BitVec 3) (digest : List Byte) (i : Nat) :
    (listMod meas k.toNat (fun m => sha512 (measBytes m ++ digest))).getD i 0 =
      if i = k.toNat then sha512 (toBytes 64 (meas.getD i 0).toNat ++ digest) else meas.getD i 0 := by
  split
  next h =>
    rw [h]
    exact getD_listMod_same (by omega) _ _
  next h => exact getD_listMod_other h _ _ _

/-! ### The governor (R20, R21, R23) -/

section

variable {limit power duty : Nat} {temps : List Nat}

/-- Is there room to raise the duty: 25 below the limit, and every die below 90 °C? -/
def HasRoom (limit power : Nat) (temps : List Nat) : Prop := power + 25 ≤ limit ∧ ∀ t ∈ temps, t < 90

/-- Is the duty to be lowered: power above the limit, or a die at 95 °C? -/
def MustLower (limit power : Nat) (temps : List Nat) : Prop := limit < power ∨ ∃ t ∈ temps, 95 ≤ t

theorem hasRoom_iff : (decide (power + 25 ≤ limit) && temps.all (fun t => decide (t < 90))) = true ↔ HasRoom limit power temps := by
  simp [HasRoom]

/-- The duty after a sample, by which rows of R20 apply: the lowest of their results. -/
def dutyRows (lower room hot : Bool) (duty : Nat) : Nat :=
  if !lower && !room && !hot then duty
  else min (if lower then max 8 (duty - 8) else 64) (min (if room then min 64 (duty + 1) else 64) (if hot then 8 else 64))

theorem nextDuty_rows {lower room hot : Bool} (hl : MustLower limit power temps ↔ lower = true)
    (hr : HasRoom limit power temps ↔ room = true) (hh : (∃ t ∈ temps, 105 ≤ t) ↔ hot = true) (duty : Nat) :
    nextDuty limit power duty temps = dutyRows lower room hot duty := by
  have hlb : (decide (limit < power) || temps.any (fun t => decide (95 ≤ t))) = lower := by
    rw [Bool.eq_iff_iff, ← hl]
    simp [MustLower]
  have hrb : (decide (power + 25 ≤ limit) && temps.all (fun t => decide (t < 90))) = room :=
    Bool.eq_iff_iff.mpr (hasRoom_iff.trans hr)
  have hhb : temps.any (fun t => decide (105 ≤ t)) = hot := by
    rw [Bool.eq_iff_iff, ← hh]
    simp
  subst hlb hrb hhb
  unfold nextDuty dutyRows
  simp only [Bool.or_eq_true, Bool.and_eq_true, decide_eq_true_eq]

theorem HasRoom.not_mustLower (h : HasRoom limit power temps) : ¬MustLower limit power temps := by
  obtain ⟨hp, ht⟩ := h
  rintro (hp' | ⟨t, hm, h95⟩)
  · omega
  · have := ht t hm
    omega

theorem HasRoom.not_hot (h : HasRoom limit power temps) : ¬∃ t ∈ temps, 105 ≤ t := fun ⟨t, hm, h105⟩ => by
  have := h.2 t hm
  omega

theorem mustLower_of_hot (h : ∃ t ∈ temps, 105 ≤ t) : MustLower limit power temps :=
  .inr (h.imp fun _ ⟨hm, h105⟩ => ⟨hm, by omega⟩)

/-- At 105 °C the duty is 8 (R20). -/
theorem nextDuty_hot (h : ∃ t ∈ temps, 105 ≤ t) : nextDuty limit power duty temps = 8 := by
  have hl : MustLower limit power temps := mustLower_of_hot h
  have hr : ¬HasRoom limit power temps := fun hr => hr.not_mustLower hl
  rw [nextDuty_rows (iff_of_true hl rfl) (iff_of_false hr Bool.false_ne_true) (iff_of_true h rfl)]
  unfold dutyRows
  simp

/-- With room the duty rises by 1 (R20). -/
theorem nextDuty_up (h : HasRoom limit power temps) : nextDuty limit power duty temps = Nat.min 64 (duty + 1) := by
  rw [nextDuty_rows (iff_of_false h.not_mustLower Bool.false_ne_true) (iff_of_true h rfl) (iff_of_false h.not_hot Bool.false_ne_true)]
  unfold dutyRows
  simp

/-- Above the limit, or at 95 °C, it falls by 8 (R20). -/
theorem nextDuty_down (h : MustLower limit power temps) (hh : ∀ t ∈ temps, t < 105) (hd : duty ≤ 64) :
    nextDuty limit power duty temps = Nat.max 8 (duty - 8) := by
  have hr : ¬HasRoom limit power temps := fun hr => hr.not_mustLower h
  rw [nextDuty_rows (iff_of_true h rfl) (iff_of_false hr Bool.false_ne_true)
    (iff_of_false (fun ⟨t, hm, h105⟩ => Nat.not_le.mpr (hh t hm) h105) Bool.false_ne_true)]
  show min (max 8 (duty - 8)) (min 64 64) = max 8 (duty - 8)
  omega

/-- Otherwise it stays (R20). -/
theorem nextDuty_same (hr : ¬HasRoom limit power temps) (hl : ¬MustLower limit power temps) : nextDuty limit power duty temps = duty := by
  rw [nextDuty_rows (iff_of_false hl Bool.false_ne_true) (iff_of_false hr Bool.false_ne_true)
    (iff_of_false (mt mustLower_of_hot hl) Bool.false_ne_true)]
  rfl

end

section

variable {s : State} {power : Nat} {temps : List Nat}

/-- During a freeze and after a trip a sample only takes the temperatures (R62, R66). -/
theorem execGovernorSample_suspended (h : frozen s = true ∨ s.boot.tripped = true) :
    execGovernorSample power temps s = .next (setTemps temps s) := by
  have hgo : (frozen s || s.boot.tripped) = true := by simpa using h
  exact congrArg Host.Outcome.next (if_pos hgo)

/-- A sample takes the power and the temperatures, and sets the duty: 8 while power is held and there is no room, else by R20. -/
theorem execGovernorSample_samples {hold : Bool} (hz : frozen s = false) (ht : s.boot.tripped = false)
    (hh : (s.gov.causePower = true ∧ ¬HasRoom s.gov.limit.toNat power temps) ↔ hold = true) :
    ∃ t, execGovernorSample power temps s = .next t ∧ t.gov.power = power ∧ t.gov.peak = Nat.max s.gov.peak power ∧
      t.boot.dieTemps = temps ∧ t.mem = s.mem ∧ t.core = s.core ∧
      t.gov.duty = (if hold then 8 else nextDuty s.gov.limit.toNat power s.gov.duty temps) ∧ t.gov.causePower = hold := by
  have hb : (s.gov.causePower && !(decide (power + 25 ≤ s.gov.limit.toNat) && temps.all (fun t => decide (t < 90)))) = hold := by
    rw [Bool.eq_iff_iff, ← hh, Bool.and_eq_true, Bool.not_eq_true', ← Bool.not_eq_true, hasRoom_iff]
  have hgo : ¬(frozen s || s.boot.tripped) = true := by simp [hz, ht]
  obtain ⟨o, ho⟩ := setTemps_eq temps { s with gov := { s.gov with
    power := power
    peak := Nat.max s.gov.peak power
    duty := if hold then 8 else nextDuty s.gov.limit.toNat power s.gov.duty temps
    causePower := hold
    overFor := if s.gov.duty = 8 ∧ s.gov.limit.toNat < power then s.gov.overFor + 1 else 0 } }
  subst hb
  exact ⟨_, congrArg Host.Outcome.next ((if_neg hgo).trans ho), rfl, rfl, rfl, rfl, rfl, rfl, rfl⟩

theorem execPowerHold_now (hd : s.gov.duty = 8) (ho : 100 ≤ s.gov.overFor) (hc : s.gov.causePower = false) (hz : frozen s = false) :
    execPowerHold s = .next (raiseAlert 1 { s with gov := { s.gov with causePower := true } }) :=
  congrArg Host.Outcome.next (if_pos ⟨hd, ho, by rw [hc]; rfl, by rw [hz]; rfl⟩)

theorem execHot_now {die : Fin 4} {temp : Nat} (h : 105 ≤ temp) :
    ∃ t, execHot die temp s = .next t ∧ t.gov.hot = true ∧ t.boot.alert = s.boot.alert ||| 4 ∧
      t.boot.dieTemps = s.boot.dieTemps.set die.val temp ∧ t.mem = s.mem := by
  obtain ⟨o, ho⟩ := setTemps_eq (s.boot.dieTemps.set die.val temp) { s with gov := { s.gov with hot := true } }
  obtain ⟨p, hp⟩ := raiseAlert_eq 2 (setTemps (s.boot.dieTemps.set die.val temp) { s with gov := { s.gov with hot := true } })
  refine ⟨_, congrArg Host.Outcome.next ((if_pos h).trans hp), ?_⟩
  rw [ho]
  refine ⟨ite_self _, ?_, rfl, rfl⟩
  show (if _ then s.boot.alert ||| 4#6 else s.boot.alert) ||| 4#6 = s.boot.alert ||| 4#6
  split
  · rw [BitVec.or_assoc, BitVec.or_self]
  · rfl

end

end Sys2Proof.Machine

section
open Sys2Proof Sys2Proof.Machine

/-- Settles O44: a freeze ends where its last cause does; a sample's duty is 8 while power is held, else that of R20's rows. -/
theorem freezeAttestationAndGovernorAct : Obligations.FreezeAttestationAndGovernorAct := by
  unfold Obligations.FreezeAttestationAndGovernorAct
  constructor
  · intro s d hf still
    refine ⟨⟨_, rfl, rfl, rfl, rfl, rfl⟩, fun hcmd h => execThaw_eq hcmd h, rfl, fun hpin h => execFreezeNHigh_eq hpin h,
      fun hb => ⟨next_attestation hf hb _, fun hi => ?_, fun hi => ?_⟩, fun hj hn => ?_, fun k digest hj hm => ?_⟩
    · exact (next_attestation hf hb _).trans (congrArg Host.Outcome.next (if_pos hi))
    · exact (next_attestation hf hb _).trans (congrArg Host.Outcome.next (if_neg (Nat.not_lt.mpr hi)))
    · exact ⟨_, execAttestDone_eq hj, rfl, rfl, rfl, attReport_take_nonce hn⟩
    · exact ⟨_, execExtendDone_eq hj, rfl, rfl, fun i _ => getD_extended hm k digest i⟩
  · intro s power temps die temp limit up down
    refine ⟨fun h => ?_, fun hcmd hpin ht => ?_, fun hd ho hc hcmd hpin => ?_, fun h => execHot_now h⟩
    · have hstop : frozen s = true ∨ s.boot.tripped = true := by
        obtain h | h | h := h
        · exact .inl (frozen_of_cause (.inl h))
        · exact .inl (frozen_of_cause (.inr h))
        · exact .inr h
      obtain ⟨o, ho⟩ := setTemps_eq temps s
      exact ⟨_, (execGovernorSample_suspended hstop).trans (congrArg _ ho), rfl, rfl, rfl, rfl, rfl, rfl⟩
    · have hz : frozen s = false := frozen_of_no_cause hcmd hpin
      by_cases hold : s.gov.causePower = true ∧ ¬up
      · obtain ⟨hc, hup⟩ := hold
        obtain ⟨t, he, hpow, hpeak, htemps, hmem, hcore, hduty, hcause⟩ :=
          execGovernorSample_samples (power := power) hz ht (iff_of_true ⟨hc, hup⟩ rfl)
        have hheld : ¬s.gov.causePower = false := ne_false_of_eq_true hc
        exact ⟨t, he, hpow, hpeak, htemps, hmem, hcore, fun _ _ => hduty, fun _ _ => ⟨hduty, hcause⟩, fun _ h => absurd h hup,
          fun h => absurd h hheld, fun h => absurd h hheld, fun h => absurd h hheld⟩
      · obtain ⟨t, he, hpow, hpeak, htemps, hmem, hcore, hduty, hcause⟩ :=
          execGovernorSample_samples (power := power) hz ht (iff_of_false hold Bool.false_ne_true)
        exact ⟨t, he, hpow, hpeak, htemps, hmem, hcore, fun h105 _ => hduty.trans (nextDuty_hot h105),
          fun hc hup => absurd ⟨hc, hup⟩ hold, fun _ hup => ⟨hcause, fun _ => hduty.trans (nextDuty_up hup)⟩,
          fun _ h105 hd hdown => hduty.trans (nextDuty_down hdown h105 hd), fun _ _ hup => hduty.trans (nextDuty_up hup),
          fun _ hup hdown => hduty.trans (nextDuty_same hup hdown)⟩
    · have hz : frozen s = false := frozen_of_no_cause hcmd hpin
      obtain ⟨o, hp⟩ := raiseAlert_eq 1 ({ s with gov := { s.gov with causePower := true } } : State)
      exact ⟨_, (execPowerHold_now hd ho hc hz).trans (congrArg _ hp), rfl, rfl, rfl, rfl⟩

end

/-! ## Queues and dependency words (R53, R85, R87, R88, R138, R139) -/

namespace Sys2Proof.Machine

theorem bits_eq (v hi lo : Nat) : bits v hi lo = v / 2 ^ lo % 2 ^ (hi + 1 - lo) := by
  rw [bits, Nat.shiftRight_eq_div_pow]

theorem queue_modQueue {q : Nat} {s : State} (hq : q < s.queues.length) (f : Queue → Queue) :
    queue (modQueue q f s) q = f (queue s q) := getD_listMod_same hq f Queue.reset

theorem queueBase_eq (s : State) (q : Nat) :
    queueBase s q = (queue s q).baseLo.toNat / 256 * 256 + (queue s q).baseHi.toNat % 2 ^ 22 * 2 ^ 32 := by
  have hlo : (queue s q).baseLo.toNat < 2 ^ 32 := (queue s q).baseLo.isLt
  unfold queueBase
  rw [bits_eq, bits_eq]
  omega

/-! ### Enabling a queue (R85) -/

/-- What an enable binds: the fields of the word, ENABLE set and the queue's error cleared. -/
def bindQueue (q : Nat) (d : Word32) (s : State) : State :=
  modQueue q (fun x => { x with
    space := BitVec.ofNat 6 (d.toNat % 64), prio := BitVec.ofNat 2 (d.toNat / 64 % 4), logSize := BitVec.ofNat 4 (d.toNat / 256 % 16),
    enable := true, err := 0, stopped := false, needHead := true, fault := none }) s

section

variable {q : Fin 64} {d : Word32} {s : State}

theorem execQueueEnable_idle (h : (queue s q.val).enable = true ∨ ioRuns s = false) : execQueueEnable q d s = .next s := by
  have hstay : ((queue s q.val).enable || !answers s (0x2408 + 16 * q.val) || !ioRuns s) = true := by
    obtain h | h := h <;> simp [h]
  exact congrArg Host.Outcome.next (if_pos hstay)

theorem execQueueEnable_binds (he : (queue s q.val).enable = false) (hf : s.boot.failed = false) (hr : ioRuns s = true) :
    execQueueEnable q d s = .next (if queueRuns (bindQueue q.val d s) q.val then readTail q.val (bindQueue q.val d s) else bindQueue q.val d s) := by
  have hgo : ¬((queue s q.val).enable || !answers s (0x2408 + 16 * q.val) || !ioRuns s) = true := by
    simp [he, answers_of_not_failed hf, hr]
  refine congrArg Host.Outcome.next ((if_neg hgo).trans ?_)
  have hspace : bits d.toNat 5 0 = d.toNat % 64 := by simp [bits_eq]
  have hprio : bits d.toNat 7 6 = d.toNat / 64 % 4 := by simp [bits_eq]
  have hlog : bits d.toNat 11 8 = d.toNat / 256 % 16 := by simp [bits_eq]
  simp only [hspace, hprio, hlog]
  rfl

/-- A queue that an enable has bound runs where its space is enabled. -/
theorem queueRuns_bindQueue (hq : q.val < s.queues.length) (hr : ioRuns s = true) :
    queueRuns (bindQueue q.val d s) q.val = (space s (d.toNat % 64)).enable := by
  have hio : (s.boot.released && !frozen s) = true := hr
  have hsp : (BitVec.ofNat 6 (d.toNat % 64)).toNat = d.toNat % 64 := by simp
  unfold queueRuns bindQueue
  dsimp only
  rw [queue_modQueue hq, hsp]
  show (s.boot.released && !frozen s && true && !false && true && (space s (d.toNat % 64)).enable) = _
  rw [hio]
  rfl

theorem execQueueEnable_reads (he : (queue s q.val).enable = false) (hf : s.boot.failed = false) (hr : ioRuns s = true)
    (hq : q.val < s.queues.length) (hsp : (space s (d.toNat % 64)).enable = true) :
    execQueueEnable q d s = .next (readTail q.val (bindQueue q.val d s)) :=
  (execQueueEnable_binds he hf hr).trans (congrArg Host.Outcome.next (if_pos ((queueRuns_bindQueue hq hr).trans hsp)))

theorem execQueueEnable_unread (he : (queue s q.val).enable = false) (hf : s.boot.failed = false) (hr : ioRuns s = true)
    (hq : q.val < s.queues.length) (hsp : (space s (d.toNat % 64)).enable = false) :
    execQueueEnable q d s = .next (bindQueue q.val d s) :=
  (execQueueEnable_binds he hf hr).trans
    (congrArg Host.Outcome.next (if_neg (ne_true_of_eq_false ((queueRuns_bindQueue hq hr).trans hsp))))

theorem execQueueDisable_enabled (he : (queue s q.val).enable = true) (hf : s.boot.failed = false) :
    execQueueDisable q d s = .next (modQueue q.val (fun x => { x with enable := false }) s) := by
  unfold execQueueDisable
  simp [answers_of_not_failed hf, he]

end

/-! ### A queue's own memory (R80, R86, R87) -/

theorem queueMem_open {s : State} {q va pa p lvl : Nat}
    (h : translate s 160 (queue s q).space.toNat va .devWrite = .ok pa p lvl) (ho : pteOpen p = true) :
    queueMem q va s = (if reachable s pa then some pa else none, s) := by
  simp only [queueMem, h, ho, Bool.not_true, Bool.false_eq_true, if_false]
  split
  · rfl
  · rfl

theorem readTail_open {s : State} {q pa p lvl : Nat} (hr : queueRuns s q = true) (hn : (queue s q).needHead = false)
    (h : translate s 160 (queue s q).space.toNat (queueBase s q) .devWrite = .ok pa p lvl) (ho : pteOpen p = true) :
    readTail q s =
      if reachable s pa = false then s
      else if ofBytes (readHome s pa 8) < (queue s q).tail then stopQueue q 2 s
      else if queueSize s q < ofBytes (readHome s pa 8) - (queue s q).head then stopQueue q 1 s
      else modQueue q (fun x => { x with tail := ofBytes (readHome s pa 8) }) s := by
  have hhead : readHead q s = s := by simp [readHead, hn]
  simp only [readTail, hhead, hn, hr, queueMem_open h ho]
  cases hp : reachable s pa with
  | true => simp
  | false => simp

/-! ### The taking of a record (R87, R138) -/

section

variable {q : Fin 64} {s : State} {pa ha p hp lvl hl : Nat}
variable (hr : queueRuns s q.val = true) (hn : (queue s q.val).needHead = false) (hlt : (queue s q.val).head < (queue s q.val).tail)
variable (h : translate s 160 (queue s q.val).space.toNat
  (queueBase s q.val + 256 + 256 * ((queue s q.val).head % queueSize s q.val)) .devWrite = .ok pa p lvl) (ho : pteOpen p = true)
include hr hn hlt h ho

theorem execRecordTake_unreachable (hpa : reachable s pa = false) : execRecordTake q s = .next s := by
  simp [execRecordTake, hr, hn, Nat.not_le.mpr hlt, queueMem_open h ho, hpa]

theorem execRecordTake_badDone (hpa : reachable s pa = true) (hd : lrDone (readHome s pa 256) % 8 ≠ 0) :
    execRecordTake q s = .next (stopQueue q.val 4 s) := by
  simp [execRecordTake, hr, hn, Nat.not_le.mpr hlt, queueMem_open h ho, hpa, hd]

/-- A record as it is taken: all its words hold, where none depends on another (R138). -/
def takenRecord (index : Nat) (raw : List Byte) : Waiting :=
  { index := index, raw := raw, sat := [true, true, true, true], monitored := [none, none, none, none],
    faults := [none, none, none, none], wasElig := false }

theorem execRecordTake_takes (hpa : reachable s pa = true)
    (hh : translate s 160 (queue s q.val).space.toNat (queueBase s q.val + 128) .devWrite = .ok ha hp hl) (hho : pteOpen hp = true)
    (hha : reachable s ha = true) (hd : lrDone (readHome s pa 256) % 8 = 0)
    (ht : (openTarget s (queue s q.val).space.toNat (lrDone (readHome s pa 256)) 8).isSome = true)
    (hl : lrLimitsOk (readHome s pa 256) = true) (hm : ∀ i < 4, lrDepMode (readHome s pa 256) i = 0) :
    execRecordTake q s = .next (modQueue q.val (fun y => { y with
      head := (queue s q.val).head + 1
      waiting := y.waiting ++ [takenRecord (queue s q.val).head (readHome s pa 256)] })
      (writeSys ha (toBytes 8 ((queue s q.val).head + 1)) s)) := by
  have hrange : List.range 4 = [0, 1, 2, 3] := rfl
  have hnone : (openTarget s (queue s q.val).space.toNat (lrDone (readHome s pa 256)) 8).isNone = false := by
    rw [← Option.not_isSome, ht]
    rfl
  simp [execRecordTake, hr, hn, Nat.not_le.mpr hlt, queueMem_open h ho, queueMem_open hh hho, hpa, hha, hd, hnone, hl, hrange, hm 0,
    hm 1, hm 2, hm 3, takenRecord]

end

/-! ### Dependency words (R139) -/

/-- A word judged by its mode: equal to the value, or at least the value. -/
def depHolds (raw : List Byte) (i v : Nat) : Bool := if lrDepMode raw i = 1 then decide (v = lrDepVal raw i) else decide (lrDepVal raw i ≤ v)

/-- A waiting record whose word `i` has been read, which `m` monitors. -/
def judgedWord (i : Nat) (good : Bool) (m : Option Nat) (w : Waiting) : Waiting :=
  { w with sat := w.sat.set i good, monitored := w.monitored.set i m, faults := w.faults.set i none }

section

variable {q index i pa p lvl : Nat} {w : Waiting} {s : State}

theorem readDep_reads (hw : (queue s q).waiting.find? (fun y => y.index == index) = some w)
    (h : translate s 160 (queue s q).space.toNat (lrDepAddr w.raw i) .device = .ok pa p lvl) (hpa : reachable s pa = true) :
    ∃ m, readDep q index i s = modQueue q (fun x => { x with
      waiting := modWhere (·.index == index) (judgedWord i (depHolds w.raw i (ofBytes (readHome s pa 8))) m) x.waiting }) s := by
  simp only [readDep, hw, h, hpa, Bool.not_true, Bool.false_eq_true, if_false]
  exact ⟨_, rfl⟩

/-- A word that is read is judged by its mode, and changes nothing else of its record, nor memory. -/
theorem readDep_judges (hq : q < s.queues.length) (hi : i < 4) (hlen : w.sat.length = 4)
    (hw : (queue s q).waiting.find? (fun y => y.index == index) = some w)
    (h : translate s 160 (queue s q).space.toNat (lrDepAddr w.raw i) .device = .ok pa p lvl) (hpa : reachable s pa = true) :
    ∃ y, (queue (readDep q index i s) q).waiting.find? (fun y => y.index == index) = some y ∧
      y.sat.getD i false = depHolds w.raw i (ofBytes (readHome s pa 8)) ∧ (∀ j, j ≠ i → y.sat.getD j false = w.sat.getD j false) ∧
      y.raw = w.raw ∧ (readDep q index i s).mem = s.mem := by
  obtain ⟨m, hm⟩ := readDep_reads hw h hpa
  rw [hm, queue_modQueue hq]
  refine ⟨judgedWord i (depHolds w.raw i (ofBytes (readHome s pa 8))) m w, ?_, ?_, fun j hj => ?_, rfl, rfl⟩
  · have hidx : (w.index == index) = true := List.find?_some (p := fun y : Waiting => y.index == index) hw
    refine (find?_modWhere (by exact fun _ => rfl) _ _).trans ?_
    rw [hw, Option.map_some, if_pos hidx]
  · simp [judgedWord, hlen, hi]
  · simp [judgedWord, Ne.symm hj]

theorem depPending_waits (hw : (queue s q).waiting.find? (fun y => y.index == index) = some w) (he : w.wasElig = false)
    (hf : w.faults.getD i none = none) (hm : lrDepMode w.raw i ≠ 0) :
    depPending s q index i (w.monitored.getD i none).isSome = true := by
  unfold depPending
  rw [hw]
  dsimp only
  rw [he, hf]
  simp [hm]

end

theorem translate_pollAt (n : Nat) (s : State) (core sp va : Nat) (need : Need) :
    translate { s with pollAt := n } core sp va need = translate s core sp va need := rfl

section

variable {q : Fin 64} {index : Nat} {k : Fin 4} {s : State}

theorem execDepWordRead_pending (hz : frozen s = false) (h : depPending s q.val index k.val true = true) :
    execDepWordRead q index k s = .next (readDep q.val index k.val s) := by
  simp [execDepWordRead, hz, h]

/-- The words that nothing monitors are read every 7,000 cycles (R6, R139). -/
theorem execDepPoll_pending (hz : frozen s = false) (h : depPending s q.val index k.val false = true)
    (ht : s.pollAt = s.cycles ∨ s.pollAt + 7000 ≤ s.cycles) :
    execDepPoll q index k s = .next (readDep q.val index k.val { s with pollAt := s.cycles }) := by
  have hdue : (s.pollAt == s.cycles || decide (s.pollAt + 7000 ≤ s.cycles)) = true := by simpa using ht
  unfold execDepPoll
  rw [hz, h, hdue]
  rfl

end

end Sys2Proof.Machine

section
open Sys2Proof Sys2Proof.Machine

/-- Settles O48: an enable binds the queue's fields before it reads TAIL; an access to an open page leads to the bytes at its address
and nowhere else; and a dependency word that is read is judged in its own record. -/
theorem queuesTakeRecordsAndJudgeDependencies : Obligations.QueuesTakeRecordsAndJudgeDependencies := by
  unfold Obligations.QueuesTakeRecordsAndJudgeDependencies
  constructor
  · intro s q d pa p lvl hf hq x base size tail stops runs bound
    have hruns (h : runs) : ioRuns s = true := by
      obtain ⟨hr, hcmd, hpin⟩ := h
      simp [ioRuns, hr, frozen_of_no_cause hcmd hpin]
    have hidle (h : ¬runs) : ioRuns s = false := by
      refine Bool.eq_false_iff.mpr fun hio => h ?_
      simpa [ioRuns, frozen] using hio
    refine ⟨fun _ h => execQueueEnable_idle (.inr (hidle h)), fun he h hsp => execQueueEnable_unread he hf (hruns h) hq hsp,
      fun he h hsp => execQueueEnable_reads he hf (hruns h) hq hsp, fun he => ⟨execQueueEnable_idle (.inl he), execQueueDisable_enabled he hf⟩,
      fun hr hn ht ho => ?_, fun hr => ?_⟩
    · have htail : translate s 160 (queue s q.val).space.toNat (queueBase s q.val) .devWrite = .ok pa p lvl := by
        rw [queueBase_eq]
        exact ht
      refine (congrArg Host.Outcome.next ((if_pos hr).trans (readTail_open hr hn htail ho))).trans ?_
      simp only [apply_ite (Host.Outcome.next : State → Out)]
      rfl
    · exact congrArg Host.Outcome.next (if_neg (ne_true_of_eq_false hr))
  · intro s q k index pa p lvl ha hp hl w hq x base raw
    refine ⟨fun hr hn hlt ht ho hht hho => ⟨fun hpa => ?_, fun hpa hd => ?_, fun hpa hha hd hopen hlim hm => ?_⟩,
      fun hw he hfault hmode hcmd hpin ht hlen hpa => ⟨fun hmon => ?_, fun hmon hdue => ?_⟩⟩
    · exact execRecordTake_unreachable hr hn hlt ht ho hpa
    · exact execRecordTake_badDone hr hn hlt ht ho hpa hd
    · exact execRecordTake_takes hr hn hlt ht ho hpa hht hho hha hd hopen hlim hm
    · have hpend := depPending_waits hw he hfault hmode
      rw [hmon] at hpend
      obtain ⟨y, hy, hgood, hother, hraw, hmem⟩ := readDep_judges hq k.isLt hlen hw ht hpa
      exact ⟨_, y, execDepWordRead_pending (frozen_of_no_cause hcmd hpin) hpend, hy, hgood, hother, hraw, hmem⟩
    · have hpend := depPending_waits hw he hfault hmode
      rw [hmon] at hpend
      obtain ⟨y, hy, hgood, hother, hraw, hmem⟩ := readDep_judges (s := { s with pollAt := s.cycles }) hq k.isLt hlen hw
        ((translate_pollAt _ _ _ _ _ _).trans ht) hpa
      exact ⟨_, y, execDepPoll_pending (frozen_of_no_cause hcmd hpin) hpend hdue, hy, hgood, hother, hraw, hmem⟩

end

/-! ## Memory keeps its canonical form (R68, R106, R123)

One lemma for each function of the model that hands a state on: its memory has the form of `State.MemOk` wherever the memory that it
was given has. Below a record update, a choice, a fold or a part of an access the form comes from the parts; the memory itself changes
in few functions, each by `tabPut`, `tabDel`, `tabSet` or a filter of one map. -/

namespace Sys2Proof.Machine

/-! ### How the form passes through what the functions are built of -/

/-- An outcome whose next state, if there is one, has its memory in canonical form. -/
def KeepsMem (o : Out) : Prop := ∀ t, o = .next t → t.MemOk

theorem keepsMem_next {t : State} (h : t.MemOk) : KeepsMem (.next t) := fun _ e => by cases e; exact h

/-- A state that differs from another in anything but its memory. It is written out by its fields, so that a record update meets it
without unfolding what its other fields are. -/
theorem memOk_with {s : State} (h : s.MemOk)
    {boot gov merr kamub eth ramblers spaces queues xlat skim disp placers core launches teams threads crews tokens accesses resumed placed
      regions strms posted images scToken scWaiting scAt scLast seams cycles half clock pollAt nextId dawn masks brks freeCtr turns late cur
      readData outputs} :
    State.MemOk ⟨boot, gov, merr, kamub, eth, ramblers, spaces, queues, xlat, skim, disp, placers, s.mem, core, launches, teams, threads,
      crews, tokens, accesses, resumed, placed, regions, strms, posted, images, scToken, scWaiting, scAt, scLast, seams, cycles, half,
      clock, pollAt, nextId, dawn, masks, brks, freeCtr, turns, late, cur, readData, outputs⟩ := h

/-- Memory that changes in some of its parts, each of which keeps its form. -/
theorem memOk_parts {s : State} {m : Mem} (h : s.MemOk)
    {boot gov merr kamub eth ramblers spaces queues xlat skim disp placers core launches teams threads crews tokens accesses resumed placed
      regions strms posted images scToken scWaiting scAt scLast seams cycles half clock pollAt nextId dawn masks brks freeCtr turns late cur
      readData outputs}
    (home : memWf s.mem.home = true → memWf m.home = true := by exact id)
    (comp : memWf s.mem.comp = true → memWf m.comp = true := by exact id)
    (dirty : tabWf s.mem.dirty = true → tabWf m.dirty = true := by exact id)
    (rsb : tabWf s.mem.rsb = true → tabWf m.rsb = true := by exact id)
    (copies : tabWf s.mem.copies = true → tabWf m.copies = true := by exact id)
    (compCopies : tabWf s.mem.compCopies = true → tabWf m.compCopies = true := by exact id)
    (l1 : tabWf s.mem.l1 = true → tabWf m.l1 = true := by exact id)
    (uses : tabWf s.mem.uses = true → tabWf m.uses = true := by exact id)
    (clean : tabWf s.mem.clean = true → tabWf m.clean = true := by exact id)
    (bad : tabWf s.mem.bad = true → tabWf m.bad = true := by exact id) :
    State.MemOk ⟨boot, gov, merr, kamub, eth, ramblers, spaces, queues, xlat, skim, disp, placers, m, core, launches, teams, threads, crews,
      tokens, accesses, resumed, placed, regions, strms, posted, images, scToken, scWaiting, scAt, scLast, seams, cycles, half, clock,
      pollAt, nextId, dawn, masks, brks, freeCtr, turns, late, cur, readData, outputs⟩ := by
  unfold State.MemOk at h ⊢
  rw [memory_wf_iff] at h ⊢
  obtain ⟨h1, h2, h3, h4, h5, h6, h7, h8, h9, h10⟩ := h
  exact ⟨home h1, comp h2, dirty h3, rsb h4, copies h5, compCopies h6, l1 h7, uses h8, clean h9, bad h10⟩

/-- A state whose memory has the form. -/
theorem memOk_mk {m : Mem} (h : Memory.wf m = true)
    {boot gov merr kamub eth ramblers spaces queues xlat skim disp placers core launches teams threads crews tokens accesses resumed placed
      regions strms posted images scToken scWaiting scAt scLast seams cycles half clock pollAt nextId dawn masks brks freeCtr turns late cur
      readData outputs} :
    State.MemOk ⟨boot, gov, merr, kamub, eth, ramblers, spaces, queues, xlat, skim, disp, placers, m, core, launches, teams, threads, crews,
      tokens, accesses, resumed, placed, regions, strms, posted, images, scToken, scWaiting, scAt, scLast, seams, cycles, half, clock,
      pollAt, nextId, dawn, masks, brks, freeCtr, turns, late, cur, readData, outputs⟩ := h

theorem memOk_getD_map {α : Type} {o : Option α} {f : α → State} {s : State} (hf : ∀ x, (f x).MemOk) (h : s.MemOk) :
    ((o.map f).getD s).MemOk := by
  cases o with
  | none => exact h
  | some x => exact hf x

theorem memOk_ite {c : Prop} [Decidable c] {a b : State} (ha : a.MemOk) (hb : b.MemOk) : (if c then a else b).MemOk := by
  split
  · exact ha
  · exact hb

theorem memOk_ite_pair {α : Type} {c : Prop} [Decidable c] {p q : α × State} (hp : p.2.MemOk) (hq : q.2.MemOk) :
    (if c then p else q).2.MemOk := by
  split
  · exact hp
  · exact hq

theorem keepsMem_ite {c : Prop} [Decidable c] {o p : Out} (ho : KeepsMem o) (hp : KeepsMem p) : KeepsMem (if c then o else p) := by
  split
  · exact ho
  · exact hp

theorem memOk_pair {α : Type} {x : α} {t : State} (h : t.MemOk) : (x, t).2.MemOk := h

theorem memOk_of_pair {α : Type} {p : α × State} {x : α} {t : State} (e : p = (x, t)) (h : p.2.MemOk) : t.MemOk := by
  subst e
  exact h

theorem memOk_foldl {β : Type} {g : State → β → State} {l : List β} {s : State} (hg : ∀ t x, t.MemOk → (g t x).MemOk) (h : s.MemOk) :
    (l.foldl g s).MemOk := foldl_keeps hg l h

theorem memOk_foldl_pair {α β : Type} {g : α × State → β → α × State} {l : List β} {p : α × State}
    (hg : ∀ q x, q.2.MemOk → (g q x).2.MemOk) (h : p.2.MemOk) : (l.foldl g p).2.MemOk :=
  foldl_keeps (P := fun q : α × State => q.2.MemOk) hg l h

theorem memOk_good {α : Type} {x : α} {s : State} (h : s.MemOk) : (good x s).2.MemOk := h

theorem memOk_stop {α : Type} {t : Try} {s : State} (h : s.MemOk) : (stop (α := α) t s).2.MemOk := h

theorem memOk_thenDo {α β : Type} {p : Part α} {k : α → State → Part β} (hp : p.2.MemOk) (hk : ∀ x t, t.MemOk → (k x t).2.MemOk) :
    (thenDo p k).2.MemOk := by
  unfold thenDo
  split
  · exact hk _ _ hp
  · exact hp

theorem memOk_finish {p : Part Nat} (h : p.2.MemOk) : (finish p).2.MemOk := by
  unfold finish
  split <;> exact h

theorem memOk_eachPart {α β : Type} {k : α → State → Part β} (hk : ∀ x t, t.MemOk → (k x t).2.MemOk) {l : List α} {s : State}
    (h : s.MemOk) : (eachPart k l s).2.MemOk := by
  induction l generalizing s with
  | nil => exact h
  | cons x l ih => exact memOk_thenDo (hk x s h) fun _ _ h => memOk_thenDo (ih h) fun _ _ h => h

section
variable {s : State}

/-! ### Looking things up -/

theorem memOk_modLaunch {id : Nat} {f : Launch → Launch} (h : s.MemOk) : (modLaunch id f s).MemOk := memOk_with h

theorem memOk_modTeam {key : Nat} {f : Team → Team} (h : s.MemOk) : (modTeam key f s).MemOk := memOk_with h

theorem memOk_modThread {t : Nat} {f : Thread → Thread} (h : s.MemOk) : (modThread t f s).MemOk := memOk_with h

theorem memOk_modSpace {n : Nat} {f : Space → Space} (h : s.MemOk) : (modSpace n f s).MemOk := memOk_with h

theorem memOk_modQueue {n : Nat} {f : Queue → Queue} (h : s.MemOk) : (modQueue n f s).MemOk := memOk_with h

theorem memOk_modAccess {id : Nat} {f : Access → Access} (h : s.MemOk) : (modAccess id f s).MemOk := memOk_with h

theorem memOk_dropAccess {id : Nat} (h : s.MemOk) : (dropAccess id s).MemOk := memOk_with h

theorem memOk_modTag {vt : Nat} {f : VTag → VTag} (h : s.MemOk) : (modTag vt f s).MemOk := memOk_with h

theorem memOk_modShadow {vt line : Nat} {f : Shadow → Shadow} (h : s.MemOk) : (modShadow vt line f s).MemOk := memOk_with h

/-! ### The L1s of device memory (R208 to R210) -/

theorem memOk_drainDies {dies : List Nat} (h : s.MemOk) : (drainDies dies s).MemOk :=
  memOk_foldl (fun _ _ h => memOk_foldl (fun _ _ h => memOk_rsbDrain _ _ h) h) h

theorem memOk_dropDies {dies : List Nat} (h : s.MemOk) : (dropDies dies s).MemOk :=
  memOk_parts h (copies := tabWf_filter _) (compCopies := tabWf_filter _) (l1 := tabWf_filter _)

theorem memOk_shadowForm {die line : Nat} (h : s.MemOk) : (shadowForm die line s).MemOk :=
  memOk_parts (memOk_rsbDrain _ _ h) (copies := tabWf_del _)

/-! ### Translation (R67 to R75) -/

theorem memOk_fillTlb {core sp va : Nat} (h : s.MemOk) : (fillTlb core sp va s).MemOk := by
  unfold fillTlb
  refine memOk_ite h ?_
  split
  · exact memOk_with h
  · exact h

/-! ### Counters that raise alerts -/

theorem memOk_setAlerts {alert alertEn : BitVec 6} (h : s.MemOk) : (setAlerts alert alertEn s).MemOk :=
  memOk_ite (memOk_with h) (memOk_with (memOk_with h))

theorem memOk_raiseAlert {i : Nat} (h : s.MemOk) : (raiseAlert i s).MemOk := memOk_setAlerts h

theorem memOk_logUe {source die pa : Nat} (h : s.MemOk) : (logUe source die pa s).MemOk := memOk_raiseAlert (memOk_with h)

theorem memOk_logCe (h : s.MemOk) : (logCe s).MemOk := memOk_with h

/-! ### Fault records (R80 to R84) -/

theorem memOk_writeFault {f : FaultRec} {id : Nat} {fatal : Bool} (h : s.MemOk) : (writeFault f id fatal s).MemOk :=
  memOk_with (memOk_writeSys _ _ h)

theorem memOk_fatalFault {f : FaultRec} (h : s.MemOk) : (fatalFault f s).MemOk := memOk_ite (memOk_writeFault h) (memOk_with h)

theorem memOk_parkFault {f : FaultRec} (h : s.MemOk) : (parkFault f s).2.MemOk := by
  unfold parkFault
  split
  · exact memOk_pair h
  · refine memOk_pair (memOk_with ?_)
    split
    · exact memOk_writeFault h
    · exact h

theorem memOk_serveFaults (h : s.MemOk) : (serveFaults s).MemOk := by
  unfold serveFaults
  refine memOk_foldl (fun _ _ h => ?_) h
  refine memOk_ite h ?_
  split
  · exact h
  · exact memOk_with (memOk_writeFault h)

/-! ### Ending a transaction (R109, R125, R127, R163 to R165) -/

theorem memOk_clearTeam {t : Team} (h : s.MemOk) : (clearTeam t s).MemOk := memOk_with h

theorem memOk_freeStacks {t : Team} (h : s.MemOk) : (freeStacks t s).MemOk := memOk_modLaunch h

theorem memOk_stopLaunch {id : Nat} (h : s.MemOk) : (stopLaunch id s).MemOk :=
  memOk_with (memOk_foldl (fun _ _ h => memOk_clearTeam (memOk_freeStacks h)) h)

theorem memOk_countAbort {cause : Nat} (h : s.MemOk) : (countAbort cause s).MemOk := memOk_ite (memOk_with h) (memOk_ite (memOk_with h) h)

theorem memOk_killTag {vt cause : Nat} (h : s.MemOk) : (killTag vt cause s).MemOk := memOk_countAbort (memOk_with h)

theorem memOk_countLink {cause : Nat} (h : s.MemOk) : (countLink cause s).MemOk := memOk_ite (memOk_with h) h

theorem memOk_stampCause {id cause vt : Nat} {rep : Option Report} (h : s.MemOk) : (stampCause id cause vt rep s).MemOk :=
  memOk_stopLaunch (memOk_modLaunch (memOk_ite (memOk_countLink h) h))

theorem memOk_lowerCause {id cause : Nat} {rep : Option Report} (h : s.MemOk) : (lowerCause id cause rep s).MemOk := by
  unfold lowerCause
  split
  · exact h
  · split
    · exact h
    · exact memOk_ite (memOk_with h) h

theorem memOk_abortLaunch {id cause : Nat} {byRelative : Bool} {rep : Option Report} (h : s.MemOk) :
    (abortLaunch id cause byRelative rep s).MemOk := by
  unfold abortLaunch
  split
  · exact h
  · refine memOk_ite (memOk_lowerCause h) ?_
    refine memOk_foldl (fun _ _ h => ?_) (memOk_stampCause (memOk_foldl (fun _ _ h => memOk_killTag h) h))
    split
    · exact memOk_ite h (memOk_stampCause (memOk_foldl (fun _ _ h => memOk_killTag h) h))
    · exact h

theorem memOk_abortVt {vt cause : Nat} {byRelative : Bool} {rep : Option Report} (h : s.MemOk) :
    (abortVt vt cause byRelative rep s).MemOk := by
  unfold abortVt
  split
  · exact memOk_ite (memOk_abortLaunch h) (memOk_lowerCause h)
  · exact h

theorem memOk_ueAbort {id : Nat} {vt : Option Nat} {e : Nat × Nat × Nat} (h : s.MemOk) : (ueAbort id vt e s).MemOk := by
  unfold ueAbort
  dsimp only
  split
  · exact memOk_abortVt (memOk_abortLaunch (memOk_logUe h))
  · exact memOk_abortLaunch (memOk_logUe h)

theorem memOk_trap {f : Firing} {cause addr : Nat} (h : s.MemOk) : (trap f cause addr s).MemOk := memOk_abortLaunch h

theorem memOk_trapNode {f : Firing} {cause : Nat} (h : s.MemOk) : (trapNode f cause s).MemOk := memOk_abortLaunch h

theorem memOk_abortOf {f : Firing} {cause : Nat} (h : s.MemOk) : (abortOf f cause s).MemOk := memOk_abortLaunch h

theorem memOk_fatalOf {f : Firing} {kind reason va : Nat} (h : s.MemOk) : (fatalOf f kind reason va s).MemOk := by
  unfold fatalOf
  split
  · exact h
  · exact memOk_abortLaunch (memOk_fatalFault h)

/-! ### The Skim (R105 to R118) -/

theorem memOk_areaFault {l : Launch} {vt va cause reason : Nat} (h : s.MemOk) : (areaFault l vt va cause reason s).MemOk :=
  memOk_abortLaunch (memOk_fatalFault h)

theorem memOk_areaPage {id vt va n : Nat} {use : AreaUse} (h : s.MemOk) : (areaPage id vt va n use s).2.MemOk := by
  unfold areaPage
  split
  · exact memOk_pair h
  · split
    · refine memOk_ite_pair (memOk_pair (memOk_abortLaunch h)) ?_
      split
      · split
        · exact memOk_pair (memOk_ueAbort h)
        · exact memOk_pair h
      · exact memOk_pair (memOk_healWords _ _ (memOk_ite (memOk_setDirty _ h) h))
    · exact memOk_pair h
    · exact memOk_pair (memOk_areaFault h)
    · exact memOk_pair (memOk_areaFault h)
    · exact memOk_pair (memOk_abortLaunch h)
    · exact memOk_pair (memOk_ueAbort h)

theorem memOk_areaUse {id vt base first n : Nat} {use : AreaUse} (h : s.MemOk) : (areaUse id vt base first n use s).2.MemOk :=
  memOk_ite_pair (memOk_pair h) (memOk_foldl_pair (fun _ _ h => memOk_ite_pair (memOk_areaPage h) h) (memOk_pair h))

theorem memOk_charge {vt amount : Nat} {dirty : Bool} (h : s.MemOk) : (charge vt amount dirty s).2.MemOk := by
  unfold charge
  split
  · exact memOk_pair h
  · refine memOk_ite_pair ?_ (memOk_pair (memOk_abortVt h))
    split
    · exact memOk_pair (memOk_modTag (memOk_of_pair ‹_› (memOk_areaUse h)))
    · exact memOk_pair (memOk_of_pair ‹_› (memOk_areaUse h))

theorem memOk_toLog {l : Shadow} (h : s.MemOk) : (toLog l s).MemOk := by
  unfold toLog
  dsimp only
  split
  · exact h
  · refine memOk_ite h ?_
    refine memOk_ite (memOk_with h) ?_
    split
    · exact memOk_with (memOk_modTag (memOk_of_pair ‹_› (memOk_charge h)))
    · exact memOk_of_pair ‹_› (memOk_charge h)

theorem memOk_makeRoom {die n : Nat} (h : s.MemOk) : (makeRoom die n s).2.MemOk :=
  memOk_pair (memOk_foldl (fun _ _ h => memOk_ite h (memOk_toLog h)) h)

theorem memOk_makeEntryRoom {vt pa : Nat} (h : s.MemOk) : (makeEntryRoom vt pa s).2.MemOk := by
  unfold makeEntryRoom
  split
  exact memOk_pair (memOk_of_pair ‹_› (memOk_makeRoom h))

theorem memOk_modEntry {u : Nat × Nat} {f : SkimEntry → SkimEntry} (h : s.MemOk) : (modEntry u f s).MemOk := memOk_with h

theorem memOk_addWriter {vt : Nat} {u : Nat × Nat} (h : s.MemOk) : (addWriter vt u s).2.MemOk := by
  unfold addWriter
  refine memOk_ite_pair (memOk_pair h) ?_
  split
  · exact memOk_ite_pair (memOk_pair h) (memOk_ite_pair (memOk_pair (memOk_abortVt h)) (memOk_pair (memOk_modEntry h)))
  · split
    · exact memOk_pair (memOk_with (memOk_of_pair ‹_› (memOk_makeEntryRoom h)))
    · exact memOk_pair (memOk_abortVt (memOk_of_pair ‹_› (memOk_makeEntryRoom h)))

theorem memOk_recordRead {vt : Nat} {u : Nat × Nat} (h : s.MemOk) : (recordRead vt u s).2.MemOk := by
  unfold recordRead
  refine memOk_ite_pair (memOk_pair h) ?_
  split
  · exact memOk_pair h
  · refine memOk_ite_pair (memOk_pair h) ?_
    refine memOk_ite_pair (memOk_pair (memOk_modEntry (memOk_with h))) ?_
    split
    · exact memOk_pair (memOk_modEntry (memOk_with h))
    · split
      · exact memOk_pair (memOk_modEntry (memOk_with (memOk_of_pair ‹_› (memOk_makeEntryRoom h))))
      · exact memOk_pair (memOk_abortVt (memOk_of_pair ‹_› (memOk_makeEntryRoom h)))

theorem memOk_readLog {vt line : Nat} (h : s.MemOk) : (readLog vt line s).MemOk := by
  unfold readLog
  split
  · exact h
  · exact memOk_ite (memOk_areaUse h) h

theorem memOk_shadowPut {vt die pa : Nat} {b : Byte} (h : s.MemOk) : (shadowPut vt die pa b s).MemOk := by
  unfold shadowPut
  refine memOk_ite (memOk_readLog (memOk_shadowForm h)) ?_
  split
  · exact memOk_with (memOk_readLog (memOk_shadowForm h))
  · refine memOk_with (memOk_l2Room _ (memOk_recallLine _ ?_))
    exact memOk_ite (memOk_dropCopies _ (memOk_readLog (memOk_shadowForm h))) (memOk_readLog (memOk_shadowForm h))

theorem memOk_conflictWrite {pa : Nat} {sp : Option Nat} (h : s.MemOk) : (conflictWrite pa sp s).MemOk :=
  memOk_foldl (fun _ _ h => memOk_abortVt h) h

theorem memOk_deviceWrite {pa : Nat} {data : List Byte} {sp : Option Nat} (h : s.MemOk) : (deviceWrite pa data sp s).MemOk :=
  memOk_writeSys _ _ (memOk_ite h (memOk_foldl (fun _ _ h => memOk_conflictWrite h) h))

/-! ### Deferred work and discards (R133, R134, R234) -/

theorem memOk_discardLine {line : Nat} (h : s.MemOk) : (discardLine line s).MemOk :=
  memOk_parts (memOk_dropCopies _ h) (dirty := tabWf_clear _ _) (rsb := tabWf_filter _)

theorem memOk_transmit {op sp conn : Nat} {tag : Word32} {data : List Byte} (h : s.MemOk) : (transmit op sp conn tag data s).MemOk :=
  memOk_with h

theorem memOk_doDeferred {d : Deferred} (h : s.MemOk) : (doDeferred d s).MemOk := by
  unfold doDeferred
  split
  · exact memOk_transmit (memOk_with h)
  · exact memOk_foldl (fun _ _ h => memOk_discardLine h) h

/-! ### Tags and entries -/

theorem memOk_unlistTag {vt : Nat} (h : s.MemOk) : (unlistTag vt s).MemOk := memOk_with h

theorem memOk_freeTag {vt : Nat} (h : s.MemOk) : (freeTag vt s).MemOk := memOk_with h

theorem memOk_reapTag {vt : Nat} (h : s.MemOk) : (reapTag vt s).MemOk := by
  unfold reapTag
  split
  · exact memOk_ite (memOk_freeTag h) h
  · exact h

theorem memOk_forgetLaunch {id : Nat} (h : s.MemOk) : (forgetLaunch id s).MemOk := memOk_with h

theorem memOk_retireTeam {key : Nat} (h : s.MemOk) : (retireTeam key s).MemOk := by
  unfold retireTeam
  split
  · exact h
  · refine memOk_ite h ?_
    dsimp only
    split
    · exact memOk_trap (memOk_modLaunch (memOk_modTeam (memOk_clearTeam (memOk_freeStacks h))))
    · exact memOk_modLaunch (memOk_modTeam (memOk_clearTeam (memOk_freeStacks h)))

theorem memOk_endChild {l : Launch} {status : Nat} (h : s.MemOk) : (endChild l status s).MemOk := by
  unfold endChild
  split
  · exact h
  · exact memOk_retireTeam (memOk_forgetLaunch (memOk_modTeam h))

/-! ### Requests (R119, R120) -/

theorem memOk_queueTag {vt : Nat} (h : s.MemOk) : (queueTag vt s).MemOk := memOk_modTag (memOk_with h)

theorem memOk_evCommitRequest {id : Nat} {team : Option Nat} (h : s.MemOk) : (evCommitRequest id team s).MemOk := by
  unfold evCommitRequest
  split
  · exact h
  · refine memOk_ite h ?_
    split
    · exact memOk_ite (memOk_queueTag h) h
    · split
      · split
        · exact memOk_ite (memOk_queueTag h) h
        · exact h
      · exact h
    · exact h

theorem memOk_evCommitStart (h : s.MemOk) : (evCommitStart s).MemOk := by
  unfold evCommitStart
  split
  · exact memOk_ite h (memOk_modTag (memOk_with h))
  · exact h

theorem memOk_walkEntry {vt : Nat} {e : SkimEntry} (h : s.MemOk) : (walkEntry vt e s).MemOk :=
  memOk_foldl (fun _ _ h => memOk_recallLine _ (memOk_dropCopies _ h)) (memOk_foldl (fun _ _ h => memOk_abortVt h) h)

theorem memOk_retag {vt p : Nat} (h : s.MemOk) : (retag vt p s).MemOk := memOk_with h

theorem memOk_mergeLine {p : Nat} {l : Shadow} (h : s.MemOk) : (mergeLine p l s).MemOk := by
  unfold mergeLine
  split
  · exact memOk_modShadow h
  · exact memOk_with h

theorem memOk_mergeChild {vt p : Nat} (h : s.MemOk) : (mergeChild vt p s).MemOk := by
  unfold mergeChild
  dsimp only
  split
  · refine memOk_endChild (memOk_freeTag (memOk_with (memOk_modTag (memOk_retag ?_))))
    exact memOk_foldl (fun _ _ h => memOk_mergeLine h) (memOk_with h)
  · exact memOk_freeTag (memOk_with (memOk_modTag (memOk_retag (memOk_foldl (fun _ _ h => memOk_mergeLine h) (memOk_with h)))))

theorem memOk_markLines {ls : List Shadow} (h : s.MemOk) : (markLines ls s).MemOk := memOk_foldl (fun _ _ h => memOk_setDirty _ h) h

theorem memOk_evCommitWalk {die : Fin 4} (h : s.MemOk) : (evCommitWalk die s).MemOk := by
  unfold evCommitWalk
  split
  · exact h
  · refine memOk_ite h ?_
    dsimp only
    split
    · refine memOk_ite (memOk_mergeChild (memOk_with ?_)) (memOk_with ?_)
      · split
        · exact memOk_markLines (memOk_foldl (fun _ _ h => memOk_walkEntry h) h)
        · exact memOk_foldl (fun _ _ h => memOk_walkEntry h) h
      · split
        · exact memOk_markLines (memOk_foldl (fun _ _ h => memOk_walkEntry h) h)
        · exact memOk_foldl (fun _ _ h => memOk_walkEntry h) h
    · refine memOk_with ?_
      split
      · exact memOk_markLines (memOk_foldl (fun _ _ h => memOk_walkEntry h) h)
      · exact memOk_foldl (fun _ _ h => memOk_walkEntry h) h

theorem memOk_healLine {l : Shadow} (h : s.MemOk) : (healLine l s).MemOk := memOk_healCovered _ _ h

theorem memOk_listWord {id : Nat} (h : s.MemOk) : (listWord id s).MemOk := by
  unfold listWord
  split
  · exact memOk_ite (memOk_with h) h
  · exact h

theorem memOk_evCommitFlip (h : s.MemOk) : (evCommitFlip s).MemOk := by
  unfold evCommitFlip
  split
  · exact h
  · refine memOk_ite ?_ h
    dsimp only
    split
    · refine memOk_listWord (memOk_modLaunch (memOk_with (memOk_unlistTag (memOk_modTag ?_))))
      refine memOk_foldl (fun _ _ h => memOk_healLine (memOk_dropVerdicts _ h)) ?_
      refine memOk_foldl (fun _ _ h => ?_) (memOk_markLines ?_)
      · exact memOk_foldl (fun _ _ h => memOk_supersede _ h) h
      · exact memOk_foldl (fun _ _ h => memOk_recallLine _ (memOk_dropCopies _ h)) h
    · refine memOk_with (memOk_unlistTag (memOk_modTag ?_))
      refine memOk_foldl (fun _ _ h => memOk_healLine (memOk_dropVerdicts _ h)) ?_
      refine memOk_foldl (fun _ _ h => ?_) (memOk_markLines ?_)
      · exact memOk_foldl (fun _ _ h => memOk_supersede _ h) h
      · exact memOk_foldl (fun _ _ h => memOk_recallLine _ (memOk_dropCopies _ h)) h

theorem memOk_evCommitRelease (h : s.MemOk) : (evCommitRelease s).MemOk := by
  unfold evCommitRelease
  split
  · exact h
  · exact memOk_reapTag (memOk_with (memOk_foldl (fun _ _ h => memOk_doDeferred h) (memOk_with h)))

theorem memOk_drainByte {pa : Nat} {b : Byte} (h : s.MemOk) : (drainByte pa b s).MemOk :=
  memOk_parts h (home := memWf_set _ _) (dirty := tabWf_del _)

theorem memOk_evLineDrain {vt line : Nat} (h : s.MemOk) : (evLineDrain vt line s).MemOk := by
  unfold evLineDrain
  split
  · exact memOk_ite (memOk_reapTag (memOk_foldl (fun _ _ h => memOk_foldl (fun _ _ h => memOk_drainByte h) h) (memOk_with h))) h
  · exact h

/-! ### The end of a launch (R91, R124, R125, R127, R164) -/

theorem memOk_writeReport {sp va : Nat} {data : List Byte} (h : s.MemOk) : (writeReport sp va data s).MemOk := by
  unfold writeReport
  split
  · exact memOk_ite (memOk_writeSys _ _ h) h
  · exact h

theorem memOk_requeueRecord {l : Launch} (h : s.MemOk) : (requeueRecord l s).MemOk := memOk_modQueue (memOk_forgetLaunch h)

theorem memOk_evAbortComplete {vt : Nat} (h : s.MemOk) : (evAbortComplete vt s).MemOk := by
  unfold evAbortComplete
  split
  · exact h
  · refine memOk_ite h ?_
    dsimp only
    split
    · exact memOk_freeTag (memOk_unlistTag (memOk_with h))
    · refine memOk_ite (memOk_freeTag (memOk_unlistTag (memOk_with h))) ?_
      exact memOk_ite (memOk_requeueRecord (memOk_freeTag (memOk_unlistTag (memOk_with h)))) (memOk_endChild (memOk_freeTag
          (memOk_unlistTag (memOk_with h))))

theorem memOk_badRec {l : Launch} (h : s.MemOk) : (badRec l s).MemOk := memOk_forgetLaunch (memOk_modQueue h)

theorem memOk_evCompletionWord {id : Nat} (h : s.MemOk) : (evCompletionWord id s).MemOk := by
  unfold evCompletionWord
  split
  · exact h
  · refine memOk_ite h ?_
    refine memOk_ite (memOk_requeueRecord h) ?_
    split
    · refine memOk_ite (memOk_badRec (memOk_fatalFault h)) ?_
      split
      exact memOk_modLaunch (memOk_of_pair ‹_› (memOk_parkFault h))
    · refine memOk_ite (memOk_badRec h) ?_
      refine memOk_ite h (memOk_forgetLaunch (memOk_writeSys _ _ ?_))
      exact memOk_ite (memOk_writeReport (memOk_drainDies h)) (memOk_drainDies h)
    · exact h
    · exact h
    · exact memOk_badRec (memOk_fatalFault h)

theorem memOk_evShadowEvict {vt line : Nat} (h : s.MemOk) : (evShadowEvict vt line s).MemOk := by
  unfold evShadowEvict
  split
  · split
    · split
      · exact memOk_modShadow (memOk_of_pair ‹_› (memOk_makeRoom h))
      · exact memOk_of_pair ‹_› (memOk_makeRoom h)
    · exact h
  · exact h

theorem memOk_evRsbWriteback {die : Fin 4} {line : Nat} (h : s.MemOk) : (evRsbWriteback die line s).MemOk :=
  memOk_ite h (memOk_rsbDrain _ _ h)

theorem memOk_evScTokenHop (h : s.MemOk) : (evScTokenHop s).MemOk := memOk_ite h (memOk_with h)

/-! ### Windows (R186, R187, R189) -/

theorem memOk_setLvs {crew pos lane v : Nat} (h : s.MemOk) : (setLvs crew pos lane v s).MemOk := memOk_with h

theorem memOk_putWord {kreg : Bool} {key node : Nat} {mask val : Word32} (h : s.MemOk) : (putWord kreg key node mask val s).MemOk :=
  memOk_with h

theorem memOk_setSlot {t node k : Nat} {mask val : Word32} (h : s.MemOk) : (setSlot t node k mask val s).MemOk := memOk_putWord h

theorem memOk_writeSlots {t node k n v : Nat} (h : s.MemOk) : (writeSlots t node k n v s).MemOk := by
  induction n generalizing k v s with
  | zero => exact h
  | succ n ih => exact ih (memOk_setSlot h)

theorem memOk_writePred {t node j b : Nat} (h : s.MemOk) : (writePred t node j b s).MemOk := memOk_setSlot h

/-! ### Accesses and parked matches (R191) -/

theorem memOk_addAccess {i : Instr} {f : Firing} {a b c : Nat} {st : AccSt} (h : s.MemOk) : (addAccess i f a b c st s).MemOk :=
  memOk_with h

theorem memOk_parkWindow {i : Instr} {f : Firing} {pos : Nat} (h : s.MemOk) : (parkWindow i f pos s).MemOk :=
  memOk_ite (memOk_with h) (memOk_addAccess h)

/-! ### Waves and results (R177, R178, R261 to R264) -/

theorem memOk_newKeys {t l b w : Nat} (h : s.MemOk) : (newKeys t l b w s).MemOk := memOk_ite h (memOk_with h)

theorem memOk_openWave {f : Firing} {w : Nat} (h : s.MemOk) : (openWave f w s).MemOk := memOk_ite h (memOk_newKeys (memOk_modThread h))

theorem memOk_sendTok {f : Firing} {w : Nat} {net : Net} {v : Word256} {d : Dst} (h : s.MemOk) : (sendTok f w net v d s).MemOk :=
  memOk_with h

theorem memOk_emitBit {n : Node} {f : Firing} {net : Net} {v : Nat} {bit : Bool} (h : s.MemOk) : (emitBit n f net v bit s).MemOk := by
  unfold emitBit
  dsimp only
  split
  · exact h
  · exact memOk_foldl (fun _ _ h => memOk_sendTok h) (memOk_openWave h)

theorem memOk_emit {n : Node} {f : Firing} {net : Net} {v : Nat} (h : s.MemOk) : (emit n f net v s).MemOk := memOk_emitBit h

/-! ### Running a node -/

theorem keepsMem_runNode {n : Node} {i : Instr} {ops : List Opd} {more : List Nat} {go : Firing → List Nat → State → State}
    (hgo : ∀ f v t, t.MemOk → (go f v t).MemOk) (h : s.MemOk) : KeepsMem (runNode n i ops more go s) := by
  refine keepsMem_next ?_
  split
  · exact h
  dsimp only
  split
  · exact memOk_parkWindow (memOk_with h)
  · exact hgo _ _ _ (memOk_with h)

theorem keepsMem_calc1 {n : Node} {i : Instr} {a : Opd} {net : Net} {g : Nat → Nat} (h : s.MemOk) : KeepsMem (calc1 n i a net g s) :=
  keepsMem_runNode (fun _ _ _ h => memOk_emit h) h

theorem keepsMem_calc2 {n : Node} {i : Instr} {a b : Opd} {net : Net} {g : Nat → Nat → Nat} (h : s.MemOk) :
    KeepsMem (calc2 n i a b net g s) :=
  keepsMem_runNode (fun _ _ _ h => memOk_emit h) h

theorem keepsMem_calc3 {n : Node} {i : Instr} {a b c : Opd} {net : Net} {g : Nat → Nat → Nat → Nat} (h : s.MemOk) :
    KeepsMem (calc3 n i a b c net g s) :=
  keepsMem_runNode (fun _ _ _ h => memOk_emit h) h

/-! ### Program order (R215, R216) -/

theorem memOk_ensureEpisode {f : Firing} {pred : Nat} (h : s.MemOk) : (ensureEpisode f pred s).MemOk := by
  unfold ensureEpisode
  split
  · exact h
  · exact memOk_ite h (memOk_modThread h)

theorem memOk_stepEpisode {f : Firing} {seq _pred succ : Nat} (h : s.MemOk) : (stepEpisode f seq _pred succ s).MemOk := memOk_modThread h

/-! ### Waiting vectors (R179, R98) -/

theorem memOk_setWaiting {t b : Nat} (h : s.MemOk) : (setWaiting t b s).MemOk := by
  unfold setWaiting
  split
  · exact h
  · exact memOk_ite (memOk_modThread h) (memOk_abortLaunch h)

/-! ### Barriers (R386, R387) -/

theorem memOk_putBarrier {key : Nat} {b : Barrier} (h : s.MemOk) : (putBarrier key b s).MemOk := memOk_modTeam h

theorem memOk_checkBarrier {key k : Nat} (h : s.MemOk) : (checkBarrier key k s).MemOk := by
  unfold checkBarrier
  split
  · exact h
  · exact memOk_ite (memOk_with (memOk_putBarrier h)) h

theorem memOk_checkBarriers {key : Nat} (h : s.MemOk) : (checkBarriers key s).MemOk := by
  unfold checkBarriers
  split
  · exact memOk_foldl (fun _ _ h => memOk_checkBarrier h) h
  · exact h

/-! ### Departures (R295 to R297) -/

theorem memOk_dropParkedReads {t b : Nat} (h : s.MemOk) : (dropParkedReads t b s).MemOk := memOk_with h

theorem memOk_depart {f : Firing} {target fp : Nat} (h : s.MemOk) : (depart f target fp s).MemOk :=
  memOk_dropParkedReads (memOk_modThread h)

theorem memOk_departTo {f : Firing} {target fp : Nat} (h : s.MemOk) : (departTo f target fp s).MemOk := by
  unfold departTo
  split
  · exact memOk_ite (memOk_depart h) (memOk_abortOf h)
  · exact h

theorem memOk_retireThread {t : Nat} (h : s.MemOk) : (retireThread t s).MemOk := by
  unfold retireThread
  split
  · exact h
  · exact memOk_retireTeam (memOk_checkBarriers (memOk_modThread h))

theorem memOk_leaveMatches {t b : Nat} (h : s.MemOk) : (leaveMatches t b s).MemOk := memOk_with h

theorem memOk_completeDeparture {t : Nat} (h : s.MemOk) : (completeDeparture t s).MemOk := by
  unfold completeDeparture
  split
  · exact h
  · split
    · refine memOk_ite h ?_
      exact memOk_ite (memOk_retireThread (memOk_modThread (memOk_with (memOk_leaveMatches h)))) (memOk_setWaiting (memOk_modThread
          (memOk_with (memOk_leaveMatches h))))
    · exact h

/-! ### How an attempt to perform an access ends -/

theorem memOk_memUe {f : Firing} {e : Nat × Nat × Nat} (h : s.MemOk) : (memUe f e s).MemOk := memOk_ueAbort h

/-! ### Translation (R80, R372) -/

theorem memOk_reach {f : Firing} {kind va : Nat} {need : Need} (h : s.MemOk) : (reach f kind va need s).2.MemOk := by
  unfold reach
  split
  · exact memOk_stop h
  · split
    · exact memOk_good (memOk_fillTlb h)
    · exact memOk_ite_pair (memOk_stop (memOk_parkFault h)) (memOk_stop (memOk_fatalOf h))
    · exact memOk_stop (memOk_fatalOf h)
    · exact memOk_stop (memOk_fatalOf h)
    · exact memOk_stop (memOk_abortOf h)
    · exact memOk_stop (memOk_memUe h)

theorem memOk_holeAt {α : Type} {f : Firing} {kind va : Nat} (h : s.MemOk) : (holeAt (α := α) f kind va s).2.MemOk :=
  memOk_stop (memOk_fatalOf h)

theorem memOk_misaligned {α : Type} {f : Firing} {va : Nat} (h : s.MemOk) : (misaligned (α := α) f va s).2.MemOk :=
  memOk_stop (memOk_trap h)

/-! ### Reads and writes of .G and .L -/

theorem memOk_touchShadow {vt die pa : Nat} (h : s.MemOk) : (touchShadow vt die pa s).MemOk :=
  memOk_ite h (memOk_modShadow (memOk_readLog (memOk_shadowForm h)))

theorem memOk_freshCopy {core pa : Nat} (h : s.MemOk) : (freshCopy core pa s).MemOk :=
  memOk_ite (memOk_parts h (compCopies := tabWf_del _)) (memOk_parts h (copies := tabWf_del _) (l1 := tabWf_filter _))

theorem memOk_touchLine {core pa pte : Nat} (h : s.MemOk) : (touchLine core pa pte s).MemOk :=
  memOk_ite (memOk_l1Own _ _ _ (memOk_countUse _ _ h)) (memOk_l1Fill _ _ _ (memOk_countUse _ _ h))

theorem memOk_storedLine {core pa pte : Nat} (h : s.MemOk) : (storedLine core pa pte s).MemOk :=
  memOk_ite (memOk_l1Own _ _ _ (memOk_countUse _ _ h)) (memOk_countUse _ _ h)

theorem memOk_loadG {f : Firing} {kind : Nat} {home : Bool} {va n : Nat} (h : s.MemOk) : (loadG f kind home va n s).2.MemOk := by
  unfold loadG
  refine memOk_thenDo (memOk_reach h) (fun _ _ h => ?_)
  split
  refine memOk_ite_pair ?_ ?_
  · refine memOk_ite_pair ?_ ?_
    · exact memOk_ite_pair (memOk_good (memOk_freshCopy h)) (memOk_stop (memOk_abortOf h))
    refine memOk_ite_pair ?_ ?_
    · split
      · exact memOk_stop (memOk_memUe h)
      · exact memOk_good h
    · exact memOk_ite_pair (memOk_good (memOk_keepCompCopy _ _ h)) (memOk_stop (memOk_abortOf h))
  refine memOk_ite_pair ?_ ?_
  · split
    · exact memOk_stop (memOk_memUe h)
    · exact memOk_ite_pair (memOk_good (memOk_freshCopy (memOk_countUse _ _ h))) (memOk_good (memOk_touchLine (memOk_keepCopy _ _ h)))
  split
  · exact memOk_stop h
  · dsimp only
    split
    · exact memOk_stop (memOk_memUe h)
    · split
      · exact memOk_good (memOk_touchLine (memOk_keepCopy _ _ (memOk_touchShadow (memOk_of_pair ‹_› (memOk_recordRead h)))))
      · exact memOk_stop (memOk_of_pair ‹_› (memOk_recordRead h))
      · exact memOk_stop (memOk_of_pair ‹_› (memOk_recordRead h))

theorem memOk_writeAtHome {die pa : Nat} {data : List Byte} (h : s.MemOk) : (writeAtHome die pa data s).MemOk :=
  memOk_parts (memOk_l1Invalidate _ _ _ (memOk_healWords _ _ (memOk_writeRun (fun _ _ _ h => memOk_writeHomeByte _ _ h) _ _
      (memOk_rsbDrain _ _ h)))) (copies := tabWf_del _)

theorem memOk_shadowWrite {f : Firing} {pa pte : Nat} {data : List Byte} (h : s.MemOk) : (shadowWrite f pa pte data s).2.MemOk := by
  unfold shadowWrite
  split
  · exact memOk_stop h
  · split
    · refine memOk_good (memOk_l1Invalidate _ _ _ ?_)
      exact memOk_writeRun (fun _ _ _ h => memOk_shadowPut h) _ _ (memOk_of_pair ‹_› (memOk_addWriter h))
    · exact memOk_stop (memOk_of_pair ‹_› (memOk_addWriter h))
    · exact memOk_stop (memOk_of_pair ‹_› (memOk_addWriter h))

theorem memOk_storeG {f : Firing} {kind : Nat} {home : Bool} {va : Nat} {data : List Byte} (h : s.MemOk) :
    (storeG f kind home va data s).2.MemOk := by
  unfold storeG
  refine memOk_thenDo (memOk_reach h) (fun _ _ h => ?_)
  split
  all_goals
    refine memOk_ite_pair ?_ ?_
    · exact memOk_ite_pair (memOk_good (memOk_writeCore _ _ _ h)) (memOk_stop (memOk_abortOf h))
    · refine memOk_ite_pair ?_ ?_
      · exact memOk_ite_pair (memOk_good (memOk_countUse _ _ (memOk_writeAtHome (memOk_conflictWrite h)))) (memOk_good (memOk_storedLine
          (memOk_writeCore _ _ _ (memOk_conflictWrite h))))
      · exact memOk_thenDo (memOk_shadowWrite h) (fun _ _ h => memOk_good (memOk_storedLine h))

theorem memOk_loadRange {f : Firing} {kind : Nat} {home : Bool} {va n : Nat} (h : s.MemOk) :
    (loadRange f kind home va n s).2.MemOk :=
  memOk_thenDo (memOk_eachPart (fun _ _ h => memOk_loadG h) h) (fun _ _ h => memOk_good h)

/-! ### Scratchpads (R202 to R206) -/

theorem memOk_padOf {f : Firing} {kind : Nat} {sp : Sp} {va n : Nat} (h : s.MemOk) : (padOf f kind sp va n s).2.MemOk := by
  unfold padOf
  split
  · exact memOk_stop h
  · refine memOk_ite_pair ?_ ?_
    · exact memOk_ite_pair (memOk_holeAt h) (memOk_good h)
    refine memOk_ite_pair (memOk_holeAt h) ?_
    refine memOk_ite_pair (memOk_good h) ?_
    split
    · exact memOk_ite_pair (memOk_stop (memOk_trap h)) (memOk_good h)
    · exact memOk_stop (memOk_trap h)

theorem memOk_setPresent {key word : Nat} (h : s.MemOk) : (setPresent key word s).MemOk := memOk_with h

theorem memOk_clearPresent {key word : Nat} (h : s.MemOk) : (clearPresent key word s).MemOk := memOk_with h

theorem memOk_padWrite {key off : Nat} {data : List Byte} (h : s.MemOk) : (padWrite key off data s).MemOk :=
  memOk_foldl (fun _ _ h => memOk_setPresent h) (memOk_writeRun (fun _ _ _ h => memOk_with h) _ _ h)

theorem memOk_parkWord {α : Type} {key word : Nat} (h : s.MemOk) : (parkWord (α := α) key word s).2.MemOk := memOk_stop h

theorem memOk_needWords {key off n : Nat} (h : s.MemOk) : (needWords key off n s).2.MemOk := by
  unfold needWords
  split
  · exact memOk_parkWord h
  · exact memOk_good h

/-! ### Releases, acquires and the order of one thread (R216, R220, R230) -/

theorem memOk_fenceOff {m : Access} (h : s.MemOk) : (fenceOff m s).MemOk := memOk_with h

theorem memOk_releaseWork {die : Nat} {sc : Scope} (h : s.MemOk) : (releaseWork die sc s).MemOk := memOk_ite (memOk_drainDies h) h

theorem memOk_acquireWork {die : Nat} {sc : Scope} (h : s.MemOk) : (acquireWork die sc s).MemOk := by
  refine memOk_ite h (memOk_parts h (copies := tabWf_filter _) (l1 := tabWf_filter _) (compCopies := fun w => ?_))
  dsimp only
  split
  · exact tabWf_filter _ w
  · exact w

theorem memOk_releaseFor {a : Access} (h : s.MemOk) : (releaseFor a s).MemOk := by
  unfold releaseFor
  split
  · exact memOk_releaseWork h
  · exact h

theorem memOk_acquireFor {a : Access} (h : s.MemOk) : (acquireFor a s).MemOk := by
  unfold acquireFor
  split
  · exact memOk_acquireWork h
  · exact h

/-! ### Loads and stores (R374, R375) -/

theorem memOk_loadFrom {a : Access} {sp : Sp} {n : Nat} (h : s.MemOk) : (loadFrom a sp n s).2.MemOk := by
  unfold loadFrom
  refine memOk_ite_pair (memOk_misaligned h) ?_
  split
  · exact memOk_loadG h
  · exact memOk_loadG h
  · split
    · exact memOk_ite_pair (memOk_holeAt h) (memOk_good h)
    · exact memOk_stop h
  · exact memOk_thenDo (memOk_padOf h) (fun _ _ h => memOk_thenDo (memOk_needWords h) (fun _ _ h => memOk_good h))

theorem memOk_claimLine {a : Access} {va : Nat} (h : s.MemOk) : (claimLine a va s).MemOk := by
  unfold claimLine
  refine memOk_ite ?_ h
  split
  · exact memOk_ite h (memOk_l1Own _ _ _ h)
  · exact h

theorem memOk_doLoad {a : Access} {sp : Sp} {n : Nat} (h : s.MemOk) : (doLoad a sp n s).2.MemOk :=
  memOk_finish (memOk_thenDo (memOk_loadFrom h) (fun _ _ h => memOk_good (memOk_acquireFor (memOk_ite (memOk_claimLine h) h))))

theorem memOk_doStore {a : Access} {sp : Sp} {n : Nat} (h : s.MemOk) : (doStore a sp n s).2.MemOk := by
  unfold doStore
  refine memOk_ite_pair (memOk_finish (memOk_misaligned h)) (memOk_finish ?_)
  split
  · exact memOk_thenDo (memOk_storeG (memOk_releaseFor h)) (fun _ _ h => memOk_good (memOk_claimLine h))
  · exact memOk_thenDo (memOk_storeG (memOk_releaseFor h)) (fun _ _ h => memOk_good h)
  · exact memOk_thenDo (memOk_padOf (memOk_releaseFor h)) (fun _ _ h => memOk_good (memOk_padWrite h))

/-! ### Presence and write-once cells (R206, R376, R377) -/

theorem memOk_doSpwait {a : Access} {sp : Sp} (h : s.MemOk) : (doSpwait a sp s).2.MemOk :=
  memOk_ite_pair (memOk_pair h) (memOk_finish (memOk_thenDo (memOk_padOf h) (fun _ _ h => memOk_thenDo (memOk_needWords h) (fun _ _ h =>
      memOk_good h))))

theorem memOk_doPresence {a : Access} {sp : Sp} {set : Bool} (h : s.MemOk) : (doPresence a sp set s).2.MemOk :=
  memOk_ite_pair (memOk_finish (memOk_misaligned h)) (memOk_ite_pair (memOk_finish (memOk_misaligned h)) (memOk_finish (memOk_thenDo
      (memOk_padOf h) (fun _ _ h => memOk_good (memOk_foldl (fun _ _ h => memOk_ite (memOk_setPresent h) (memOk_clearPresent h)) h)))))

theorem memOk_doIwrite {a : Access} {sp : Sp} {n : Nat} (h : s.MemOk) : (doIwrite a sp n s).2.MemOk :=
  memOk_ite_pair (memOk_finish (memOk_misaligned h)) (memOk_finish (memOk_thenDo (memOk_padOf h) (fun _ _ h => memOk_ite_pair
      (memOk_good h) (memOk_good (memOk_padWrite h)))))

/-! ### Atomics (R227 to R229, R378 to R380) -/

theorem memOk_scUsed {id : Nat} (h : s.MemOk) : (scUsed id s).MemOk := memOk_with h

theorem memOk_atomicG {a : Access} {home sc : Bool} {scope : Scope} {va n : Nat} {g : Nat → Nat} (h : s.MemOk) :
    (atomicG a home sc scope va n g s).2.MemOk := by
  unfold atomicG
  refine memOk_thenDo (memOk_reach h) (fun _ _ h => ?_)
  split
  refine memOk_ite_pair ?_ ?_
  · exact memOk_ite_pair (memOk_good (memOk_writeCore _ _ _ h)) (memOk_stop (memOk_abortOf h))
  refine memOk_ite_pair (memOk_stop (memOk_with h)) ?_
  refine memOk_ite_pair ?_ ?_
  · split
    · exact memOk_stop (memOk_memUe (memOk_countUse _ _ (memOk_ite (memOk_scUsed h) h)))
    · refine memOk_ite_pair (memOk_good (memOk_writeAtHome (memOk_rsbDrain _ _ (memOk_conflictWrite (memOk_countUse _ _ (memOk_ite
        (memOk_scUsed h) h)))))) (memOk_good ?_)
      exact memOk_ite (memOk_l1Own _ _ _ (memOk_writeCore _ _ _ (memOk_rsbDrain _ _ (memOk_conflictWrite (memOk_countUse _ _ (memOk_ite
          (memOk_scUsed h) h)))))) (memOk_l1Invalidate _ _ _ (memOk_writeCore _ _ _ (memOk_rsbDrain _ _ (memOk_conflictWrite
          (memOk_countUse _ _ (memOk_ite (memOk_scUsed h) h))))))
  split
  · exact memOk_stop (memOk_countUse _ _ (memOk_ite (memOk_scUsed h) h))
  · dsimp only
    split
    · exact memOk_stop (memOk_memUe (memOk_countUse _ _ (memOk_ite (memOk_scUsed h) h)))
    · exact memOk_thenDo (memOk_shadowWrite (memOk_countUse _ _ (memOk_ite (memOk_scUsed h) h))) (fun _ _ h => memOk_good (memOk_ite
        (memOk_l1Own _ _ _ h) h))

theorem memOk_doAtomic {a : Access} {sp : Sp} {m : MemFlags} {n : Nat} {g : Nat → Nat} (h : s.MemOk) :
    (doAtomic a sp m n g s).2.MemOk := by
  unfold doAtomic
  refine memOk_ite_pair (memOk_finish (memOk_misaligned h)) (memOk_finish ?_)
  split
  · exact memOk_thenDo (memOk_atomicG (memOk_releaseFor h)) (fun _ _ h => memOk_good (memOk_acquireFor (memOk_ite (memOk_claimLine h) h)))
  · exact memOk_thenDo (memOk_atomicG (memOk_releaseFor h)) (fun _ _ h => memOk_good (memOk_acquireFor h))
  · refine memOk_thenDo (memOk_padOf (memOk_releaseFor h)) (fun _ _ h => ?_)
    exact memOk_thenDo (memOk_needWords h) (fun _ _ h => memOk_good (memOk_acquireFor (memOk_padWrite h)))

/-! ### Fences, flushes and discards (R382 to R384) -/

theorem memOk_doFence {a : Access} (h : s.MemOk) : (doFence a s).2.MemOk := memOk_pair (memOk_acquireFor (memOk_releaseFor h))

theorem memOk_flushLine {line : Nat} (h : s.MemOk) : (flushLine line s).MemOk :=
  memOk_writeBack _ (memOk_foldl (fun _ _ h => memOk_rsbDrain _ _ h) h)

theorem memOk_flushWalk {a : Access} {wide : Bool} {lo n k va : Nat} (h : s.MemOk) : (flushWalk a wide lo n k va s).2.MemOk := by
  induction k generalizing va s with
  | zero => exact memOk_good h
  | succ k ih =>
    unfold flushWalk
    split
    · next e =>
      have hr := memOk_of_pair e (memOk_reach h)
      extract_lets t next
      have ht : t.MemOk := memOk_ite (memOk_foldl (fun _ _ h => memOk_flushLine h) hr) hr
      exact memOk_ite_pair (memOk_good ht) (ih ht)
    · exact memOk_modAccess (memOk_of_pair ‹_› (memOk_reach h))

theorem memOk_doFlushr {a : Access} {sc : Scope} (h : s.MemOk) : (doFlushr a sc s).2.MemOk :=
  memOk_ite_pair (memOk_pair h) (memOk_ite_pair (memOk_finish (memOk_holeAt h)) (memOk_finish (memOk_flushWalk h)))

theorem memOk_discardWalk {a : Access} {lo n k va : Nat} {ls : List Nat} {op : Bool} (h : s.MemOk) :
    (discardWalk a lo n k va ls op s).2.MemOk := by
  induction k generalizing va ls op s with
  | zero => exact memOk_good h
  | succ k ih =>
    unfold discardWalk
    refine memOk_ite_pair (memOk_stop (memOk_fatalOf h)) ?_
    split
    · next e =>
      have ht := memOk_of_pair e (memOk_reach h)
      exact memOk_ite_pair (memOk_good ht) (ih ht)
    · exact memOk_pair (memOk_of_pair ‹_› (memOk_reach h))

theorem memOk_deferWork {f : Firing} {amount : Nat} {snd : Option (Nat × Word32 × List Byte)} {ls : List Nat} (h : s.MemOk) :
    (deferWork f amount snd ls s).2.MemOk := by
  unfold deferWork
  split
  · exact memOk_stop h
  · split
    · exact memOk_good (memOk_with (memOk_of_pair ‹_› (memOk_charge h)))
    · exact memOk_stop (memOk_of_pair ‹_› (memOk_charge h))

theorem memOk_doDiscr {a : Access} (h : s.MemOk) : (doDiscr a s).2.MemOk := by
  unfold doDiscr
  refine memOk_ite_pair (memOk_finish (memOk_misaligned h)) ?_
  refine memOk_ite_pair (memOk_finish (memOk_misaligned h)) ?_
  refine memOk_ite_pair (memOk_pair h) (memOk_finish ?_)
  refine memOk_thenDo (memOk_discardWalk h) (fun _ _ h => ?_)
  exact memOk_ite_pair (memOk_good (memOk_foldl (fun _ _ h => memOk_discardLine h) h)) (memOk_deferWork h)

/-! ### Barriers and semaphores (R386 to R391) -/

theorem memOk_arriveAt {m : Team} {k count : Nat} (h : s.MemOk) : (arriveAt m k count s).2.MemOk :=
  memOk_pair (memOk_checkBarrier (memOk_putBarrier h))

theorem memOk_doBarrier {a : Access} {n : Node} {arrive wait : Bool} (h : s.MemOk) : (doBarrier a n arrive wait s).2.MemOk := by
  unfold doBarrier
  split
  · exact memOk_pair h
  · refine memOk_ite_pair (memOk_pair h) ?_
    dsimp only
    refine memOk_ite_pair (memOk_pair (memOk_modAccess ?_)) (memOk_pair ?_)
    · exact memOk_ite_pair (memOk_arriveAt (memOk_releaseFor h)) (memOk_pair (memOk_releaseFor h))
    · refine memOk_ite (memOk_acquireFor ?_) ?_
      · exact memOk_ite_pair (memOk_arriveAt (memOk_releaseFor h)) (memOk_pair (memOk_releaseFor h))
      · exact memOk_ite_pair (memOk_arriveAt (memOk_releaseFor h)) (memOk_pair (memOk_releaseFor h))

theorem memOk_openPage {f : Firing} {kind va : Nat} (h : s.MemOk) : (openPage f kind va s).2.MemOk :=
  memOk_thenDo (memOk_reach h) (fun _ _ h => memOk_ite_pair (memOk_reach h) (memOk_stop (memOk_fatalOf h)))

theorem memOk_semPage {a : Access} {va : Nat} (h : s.MemOk) : (semPage a va s).2.MemOk := memOk_openPage h

theorem memOk_doSem {a : Access} {step : Nat → SemStep} (h : s.MemOk) : (doSem a step s).2.MemOk := by
  unfold doSem
  refine memOk_ite_pair (memOk_finish (memOk_misaligned h)) ?_
  dsimp only
  split
  · exact memOk_pair (memOk_of_pair ‹_› (memOk_semPage (memOk_releaseFor h)))
  · have h := memOk_of_pair ‹_› (memOk_semPage (memOk_releaseFor h))
    refine memOk_ite_pair (memOk_pair (memOk_abortOf h)) ?_
    split
    · exact memOk_pair (memOk_memUe (memOk_ite h (memOk_rsbDrain _ _ h)))
    · split
      · exact memOk_pair (memOk_freshCopy (memOk_ite h (memOk_rsbDrain _ _ h)))
      · exact memOk_pair (memOk_trap (memOk_ite h (memOk_rsbDrain _ _ h)))
      · exact memOk_pair (memOk_ite h (memOk_rsbDrain _ _ h))
      · refine memOk_pair (memOk_acquireFor ?_)
        exact memOk_ite (memOk_writeCore _ _ _ (memOk_ite h (memOk_rsbDrain _ _ h))) (memOk_writeAtHome (memOk_conflictWrite (memOk_ite
            h (memOk_rsbDrain _ _ h))))

theorem memOk_doSemp {a : Access} {n : Node} (h : s.MemOk) : (doSemp a n s).2.MemOk := by
  unfold doSemp
  split
  · have h := memOk_of_pair ‹_› (memOk_doSem h)
    split
    · exact memOk_ite_pair (memOk_pair h) (memOk_pair h)
    · exact memOk_pair h
  · exact memOk_doSem h

theorem memOk_doSemv {a : Access} (h : s.MemOk) : (doSemv a s).2.MemOk := memOk_doSem h

theorem memOk_doSemtry {a : Access} (h : s.MemOk) : (doSemtry a s).2.MemOk := memOk_doSem h

theorem memOk_doSemdec {a : Access} (h : s.MemOk) : (doSemdec a s).2.MemOk := memOk_doSem h

/-! ### The network (R133, R395 to R398) -/

theorem memOk_pagesOpen {f : Firing} {lo n k va : Nat} {op : Bool} (h : s.MemOk) : (pagesOpen f lo n k va op s).2.MemOk := by
  induction k generalizing va op s with
  | zero => exact memOk_good h
  | succ k ih => exact memOk_thenDo (memOk_reach h) fun _ _ h => memOk_ite_pair (memOk_good h) (ih h)

theorem memOk_recvPages {f : Firing} {lo n k va : Nat} (h : s.MemOk) : (recvPages f lo n k va s).2.MemOk := by
  induction k generalizing va s with
  | zero => exact memOk_good h
  | succ k ih => exact memOk_thenDo (memOk_openPage h) fun _ _ h => memOk_ite_pair (memOk_good h) (ih h)

theorem memOk_doNsend {a : Access} (h : s.MemOk) : (doNsend a s).2.MemOk := by
  unfold doNsend
  refine memOk_ite_pair (memOk_pair (memOk_abortOf h)) ?_
  split
  · exact memOk_pair (memOk_memUe h)
  · exact memOk_pair (memOk_abortOf h)
  · refine memOk_ite_pair (memOk_pair (memOk_abortOf h)) ?_
    refine memOk_ite_pair (memOk_finish (memOk_misaligned h)) ?_
    refine memOk_ite_pair (memOk_pair h) ?_
    split
    · exact memOk_pair (memOk_of_pair ‹_› (memOk_ite_pair (memOk_good h) (memOk_pagesOpen h)))
    · have h := memOk_of_pair ‹_› (memOk_ite_pair (memOk_good h) (memOk_pagesOpen h))
      split
      · exact memOk_pair (memOk_of_pair ‹_› (memOk_loadRange h))
      · exact memOk_ite_pair (memOk_pair (memOk_transmit (memOk_of_pair ‹_› (memOk_loadRange h)))) (memOk_finish (memOk_deferWork
          (memOk_of_pair ‹_› (memOk_loadRange h))))

theorem memOk_doNrecv {a : Access} (h : s.MemOk) : (doNrecv a s).2.MemOk := by
  unfold doNrecv
  refine memOk_ite_pair (memOk_pair (memOk_abortOf h)) ?_
  split
  · exact memOk_pair (memOk_memUe h)
  · exact memOk_pair (memOk_abortOf h)
  · refine memOk_ite_pair (memOk_pair (memOk_abortOf h)) ?_
    refine memOk_ite_pair (memOk_finish (memOk_misaligned h)) ?_
    split
    · exact memOk_pair (memOk_of_pair ‹_› (memOk_ite_pair (memOk_good h) (memOk_recvPages h)))
    · refine memOk_ite_pair (memOk_pair (memOk_of_pair ‹_› ?_)) (memOk_pair (memOk_with (memOk_of_pair ‹_› ?_)))
      · exact memOk_ite_pair (memOk_good h) (memOk_recvPages h)
      · exact memOk_ite_pair (memOk_good h) (memOk_recvPages h)

theorem memOk_doNfence {a : Access} (h : s.MemOk) : (doNfence a s).2.MemOk := memOk_ite_pair (memOk_pair h) (memOk_pair h)

/-! ### Port markers and special registers (R394, R405) -/

theorem memOk_doPort {a : Access} {n : Node} (h : s.MemOk) : (doPort a n s).2.MemOk := memOk_ite_pair (memOk_pair h) (memOk_pair h)

theorem memOk_issueRdsr {a : Access} (h : s.MemOk) : (issueRdsr a s).MemOk := by
  unfold issueRdsr
  split
  · exact memOk_modAccess h
  · exact h

theorem memOk_doRdsr {a : Access} {k : Nat} (h : s.MemOk) : (doRdsr a k s).2.MemOk := memOk_pair h

/-! ### Values (R24, R30, R35, R37, R41, R51, R65, R69, R76, R85, R137, R146, R149, R162, R395) -/

theorem memOk_readInto {o : Nat} (h : s.MemOk) : (readInto o s).MemOk := memOk_with h

/-! ### Writes -/

theorem memOk_ramblerWrite {n o : Nat} {d : Word32} (h : s.MemOk) : (ramblerWrite n o d s).MemOk := memOk_with h

theorem memOk_spaceWrite {n o : Nat} {d : Word32} (h : s.MemOk) : (spaceWrite n o d s).MemOk :=
  memOk_ite h (memOk_ite (memOk_modSpace h) (memOk_ite (memOk_modSpace h) h))

theorem memOk_mapWrite {n o : Nat} {d : Word32} (h : s.MemOk) : (mapWrite n o d s).MemOk :=
  memOk_ite (memOk_modSpace h) (memOk_ite (memOk_modSpace h) (memOk_ite (memOk_modSpace h) h))

theorem memOk_netWrite {n o : Nat} {d : Word32} (h : s.MemOk) : (netWrite n o d s).MemOk :=
  memOk_ite h (memOk_ite (memOk_modSpace h) (memOk_ite (memOk_modSpace h) (memOk_ite (memOk_modSpace h) h)))

theorem memOk_queueBaseWrite {n o : Nat} {d : Word32} (h : s.MemOk) : (queueBaseWrite n o d s).MemOk :=
  memOk_ite h (memOk_ite (memOk_modQueue h) (memOk_ite (memOk_modQueue h) h))

theorem memOk_xlatWrite {o : Nat} {d : Word32} (h : s.MemOk) : (xlatWrite o d s).MemOk :=
  memOk_ite (memOk_with h) (memOk_ite (memOk_with h) (memOk_ite (memOk_with h) (memOk_ite (memOk_with h) (memOk_ite (memOk_with h)
      (memOk_ite (memOk_with h) (memOk_ite (memOk_with h) h))))))

theorem memOk_dispWrite {o : Nat} {d : Word32} (h : s.MemOk) : (dispWrite o d s).MemOk :=
  memOk_ite (memOk_with h) (memOk_ite (memOk_with h) (memOk_ite (memOk_with h) (memOk_ite (memOk_with h) (memOk_ite h (memOk_ite
      (memOk_with h) (memOk_ite (memOk_with h) (memOk_ite (memOk_with h) h)))))))

theorem memOk_placerWrite {n o : Nat} {d : Word32} (h : s.MemOk) : (placerWrite n o d s).MemOk := memOk_with h

theorem memOk_regWrite {o : Nat} {d : Word32} (h : s.MemOk) : (regWrite o d s).MemOk := by
  unfold regWrite
  refine memOk_ite (memOk_with h) ?_
  refine memOk_ite (memOk_setAlerts h) ?_
  refine memOk_ite (memOk_setAlerts h) ?_
  refine memOk_ite (memOk_with h) ?_
  refine memOk_ite (memOk_with h) ?_
  refine memOk_ite (memOk_with h) ?_
  refine memOk_ite (memOk_with h) ?_
  refine memOk_ite (memOk_with h) ?_
  refine memOk_ite (memOk_with h) ?_
  refine memOk_ite (memOk_with h) ?_
  refine memOk_ite (memOk_parts h) ?_
  refine memOk_ite (memOk_ramblerWrite h) ?_
  refine memOk_ite (memOk_with h) ?_
  refine memOk_ite (memOk_with h) ?_
  refine memOk_ite (memOk_with h) ?_
  refine memOk_ite (memOk_spaceWrite h) ?_
  refine memOk_ite (memOk_queueBaseWrite h) ?_
  refine memOk_ite (memOk_xlatWrite h) ?_
  refine memOk_ite (memOk_dispWrite h) ?_
  exact memOk_ite (memOk_placerWrite h) (memOk_ite (memOk_mapWrite h) (memOk_ite (memOk_netWrite h) h))

theorem keepsMem_execLimitW {d : Word32} (h : s.MemOk) : KeepsMem (execLimitW d s) := keepsMem_next (memOk_ite (memOk_with h) h)

theorem memOk_clearingRead {o : Nat} {clear : State → State} (hc : ∀ t, t.MemOk → (clear t).MemOk) (h : s.MemOk) :
    (clearingRead o clear s).MemOk := memOk_ite (memOk_readInto h) (hc _ (memOk_readInto h))

theorem keepsMem_execGovPowerRead (h : s.MemOk) : KeepsMem (execGovPowerRead s) :=
  keepsMem_next (memOk_clearingRead (fun _ h => memOk_with h) h)

theorem keepsMem_execMerrStatusRead (h : s.MemOk) : KeepsMem (execMerrStatusRead s) :=
  keepsMem_next (memOk_clearingRead (fun _ h => memOk_with h) h)

theorem keepsMem_execKlStatusRead (h : s.MemOk) : KeepsMem (execKlStatusRead s) :=
  keepsMem_next (memOk_clearingRead (fun _ h => memOk_with h) h)

theorem keepsMem_execEthStatusRead {p : Fin 16} (h : s.MemOk) : KeepsMem (execEthStatusRead p s) :=
  keepsMem_next (memOk_clearingRead (fun _ h => memOk_with h) h)

theorem keepsMem_execSkimStatusRead (h : s.MemOk) : KeepsMem (execSkimStatusRead s) :=
  keepsMem_next (memOk_clearingRead (fun _ h => memOk_with h) h)

theorem keepsMem_execSkimAbortsRead (h : s.MemOk) : KeepsMem (execSkimAbortsRead s) :=
  keepsMem_next (memOk_clearingRead (fun _ h => memOk_with h) h)

theorem keepsMem_execSkimShareRead {die : Fin 4} (h : s.MemOk) : KeepsMem (execSkimShareRead die s) :=
  keepsMem_next (memOk_clearingRead (fun _ h => memOk_with h) h)

theorem keepsMem_execDispStatusRead (h : s.MemOk) : KeepsMem (execDispStatusRead s) :=
  keepsMem_next (memOk_clearingRead (fun _ h => memOk_with h) h)

theorem keepsMem_execPlcStatusRead {die : Fin 4} (h : s.MemOk) : KeepsMem (execPlcStatusRead die s) :=
  keepsMem_next (memOk_clearingRead (fun _ h => memOk_with h) h)

theorem keepsMem_execNetStatusRead {n : Fin 64} (h : s.MemOk) : KeepsMem (execNetStatusRead n s) :=
  keepsMem_next (memOk_clearingRead (fun _ h => memOk_modSpace h) h)

theorem memOk_clean {c : Tab Unit} (h : s.MemOk) (hc : tabWf s.mem.clean = true → tabWf c = true) :
    ({ s with mem := { s.mem with clean := c } } : State).MemOk := memOk_parts h (clean := hc)

theorem tabWf_foldl_put {w : Nat} {t : Tab Unit} {ks : List Nat} (h : tabWf t = true) :
    tabWf (ks.foldl (fun t i => tabPut t (64 * w + i) ()) t) = true :=
  foldl_keeps (P := fun c : Tab Unit => tabWf c = true) (fun _ _ => tabWf_put _ _) ks h

theorem keepsMem_execDirtyWordLoRead (h : s.MemOk) : KeepsMem (execDirtyWordLoRead s) :=
  keepsMem_next (memOk_ite (memOk_with h) (memOk_ite (memOk_clean (memOk_parts h) tabWf_foldl_put) (memOk_parts h)))

/-! ### A team becomes ready (R141, R179, R186) -/

theorem memOk_placeTeam {l : Launch} {core : Nat} {vt : Option Nat} (h : s.MemOk) : (placeTeam l core vt s).MemOk :=
  memOk_ite (memOk_modLaunch (memOk_with h)) (memOk_abortLaunch (memOk_modLaunch (memOk_with h)))

theorem memOk_newTag {vt launch : Nat} {team parent : Option Nat} (h : s.MemOk) : (newTag vt launch team parent s).MemOk := memOk_with h

theorem memOk_joinDie {top die : Nat} (h : s.MemOk) : (joinDie top die s).MemOk := memOk_dropDies (memOk_modLaunch h)

theorem memOk_evTeamReady {id : Nat} (h : s.MemOk) : (evTeamReady id s).MemOk := by
  unfold evTeamReady
  split
  · exact h
  · refine memOk_ite h ?_
    split
    · exact h
    · refine memOk_ite (memOk_placeTeam (memOk_joinDie h)) ?_
      refine memOk_ite h ?_
      split
      · exact memOk_placeTeam (memOk_newTag (memOk_joinDie h))
      · exact h

/-! ### Selection (R138, R140) -/

theorem memOk_noteHeads {fits : Launch → Bool} (h : s.MemOk) : (noteHeads fits s).MemOk := memOk_with h

theorem memOk_chargeFair {q teams : Nat} (h : s.MemOk) : (chargeFair q teams s).MemOk :=
  memOk_ite (memOk_with (memOk_modQueue h)) (memOk_modQueue h)

/-! ### Dispatch of one record (R138) -/

theorem memOk_refuseLaunch {l : Launch} (h : s.MemOk) : (refuseLaunch l s).MemOk := by
  unfold refuseLaunch
  refine memOk_modLaunch ?_
  split
  · exact memOk_freeTag h
  · exact h

theorem memOk_dispFails {l : Launch} {e : RdErr} (h : s.MemOk) : (dispFails l e s).MemOk := by
  unfold dispFails
  dsimp only
  split
  · exact memOk_ite (memOk_abortLaunch (memOk_fatalFault h)) (memOk_modLaunch (memOk_parkFault h))
  · exact memOk_abortLaunch (memOk_fatalFault h)
  · exact memOk_abortLaunch (memOk_fatalFault h)
  · exact memOk_abortLaunch h
  · exact memOk_ueAbort h

theorem memOk_goDispatch {id : Nat} (h : s.MemOk) : (goDispatch id s).MemOk := by
  unfold goDispatch
  split
  · exact h
  · refine memOk_ite h ?_
    split
    · exact memOk_dispFails h
    · refine memOk_ite (memOk_refuseLaunch h) ?_
      split
      · exact memOk_dispFails h
      · dsimp only
        split
        · exact memOk_refuseLaunch (memOk_ite h (memOk_writeReport h))
        · refine memOk_ite (memOk_refuseLaunch h) ?_
          split
          · exact memOk_dispFails (memOk_ite h (memOk_writeReport h))
          · exact memOk_ite (memOk_refuseLaunch (memOk_with (memOk_ite h (memOk_writeReport h)))) (memOk_modLaunch (memOk_with
              (memOk_ite h (memOk_writeReport h))))

theorem memOk_dispatchRecord {q : Nat} {w : Waiting} (h : s.MemOk) : (dispatchRecord q w s).MemOk := by
  unfold dispatchRecord
  refine memOk_goDispatch (memOk_chargeFair (memOk_modQueue ?_))
  split
  · exact memOk_newTag (memOk_with h)
  · exact memOk_with h

theorem memOk_evDispatch {fits : Launch → Bool} (h : s.MemOk) : (evDispatch fits s).MemOk := by
  unfold evDispatch
  refine memOk_ite h ?_
  split
  · exact memOk_goDispatch h
  · dsimp only
    split
    · split
      · exact memOk_dispatchRecord (memOk_noteHeads h)
      · exact memOk_noteHeads h
    · exact memOk_noteHeads h

/-! ### Child launches (R128 to R131, R399 to R401) -/

theorem memOk_childParams {a : Access} {raw : List Byte} (h : s.MemOk) : (childParams a raw s).2.MemOk :=
  memOk_thenDo (memOk_loadRange h) (fun _ _ h => memOk_ite_pair (memOk_good h) (memOk_thenDo (memOk_loadRange h) (fun _ _ h =>
      memOk_good h)))

theorem memOk_portNumber {a : Access} {m : Team} (h : s.MemOk) : (portNumber a m s).2.MemOk := by
  unfold portNumber
  split
  · exact memOk_pair h
  · exact memOk_pair (memOk_modAccess (memOk_modTeam h))

theorem memOk_setStatus {m : Team} {n status : Nat} (h : s.MemOk) : (setStatus m n status s).MemOk := memOk_modTeam h

theorem memOk_beginChild {a : Access} {l top : Launch} {m : Team} {n vt : Nat} (h : s.MemOk) : (beginChild a l top m n vt s).MemOk :=
  memOk_modAccess (memOk_newTag (memOk_with h))

theorem memOk_startChild {c l : Launch} {params : List Byte} {i : Image} (h : s.MemOk) : (startChild c l params i s).MemOk :=
  memOk_modLaunch (memOk_with h)

theorem memOk_finishChild {a : Access} {l c : Launch} {m : Team} {n : Nat} {raw : List Byte} (h : s.MemOk) :
    (finishChild a l c m n raw s).2.MemOk := by
  unfold finishChild
  refine memOk_ite_pair (memOk_pair (memOk_setStatus (memOk_forgetLaunch (memOk_getD_map (fun _ => memOk_freeTag h) h)))) ?_
  split
  · exact memOk_pair (memOk_of_pair ‹_› (memOk_childParams h))
  · refine memOk_pair (memOk_setStatus (memOk_forgetLaunch ?_))
    exact memOk_getD_map (fun _ => memOk_freeTag (memOk_of_pair ‹_› (memOk_childParams h))) (memOk_of_pair ‹_› (memOk_childParams h))
  · have h := memOk_of_pair ‹_› (memOk_childParams h)
    split
    · refine memOk_ite_pair (memOk_pair (memOk_setStatus (memOk_forgetLaunch ?_))) ?_
      · exact memOk_getD_map (fun _ => memOk_freeTag (memOk_fatalFault h)) (memOk_fatalFault h)
      · split
        exact memOk_pair (memOk_of_pair ‹_› (memOk_parkFault h))
    · refine memOk_pair (memOk_setStatus (memOk_forgetLaunch ?_))
      exact memOk_getD_map (fun _ => memOk_freeTag (memOk_fatalFault h)) (memOk_fatalFault h)
    · refine memOk_pair (memOk_setStatus (memOk_forgetLaunch ?_))
      exact memOk_getD_map (fun _ => memOk_freeTag (memOk_fatalFault h)) (memOk_fatalFault h)
    · refine memOk_pair (memOk_setStatus (memOk_forgetLaunch ?_))
      exact memOk_getD_map (fun _ => memOk_freeTag (memOk_countLink h)) (memOk_countLink h)
    · dsimp only
      split
      · refine memOk_abortVt (memOk_setStatus (memOk_forgetLaunch ?_))
        exact memOk_getD_map (fun _ => memOk_freeTag (memOk_logUe h)) (memOk_logUe h)
      · exact memOk_setStatus (memOk_forgetLaunch (memOk_getD_map (fun _ => memOk_freeTag (memOk_logUe h)) (memOk_logUe h)))
    · exact memOk_pair (memOk_setStatus (memOk_forgetLaunch (memOk_getD_map (fun _ => memOk_freeTag h) h)))
    · exact memOk_ite_pair (memOk_pair (memOk_setStatus (memOk_forgetLaunch (memOk_getD_map (fun _ => memOk_freeTag h) h)))) (memOk_pair
        (memOk_startChild h))

theorem memOk_readChild {a : Access} {l c : Launch} {m : Team} (h : s.MemOk) : (readChild a l c m s).2.MemOk := by
  unfold readChild
  split
  · exact memOk_pair (memOk_of_pair ‹_› (memOk_loadRange h))
  · exact memOk_finishChild (memOk_modLaunch (memOk_of_pair ‹_› (memOk_loadRange h)))

theorem memOk_doLaunch {a : Access} (h : s.MemOk) : (doLaunch a s).2.MemOk := by
  unfold doLaunch
  dsimp only
  split
  · refine memOk_ite_pair (memOk_pair h) ?_
    refine memOk_ite_pair (memOk_pair (memOk_trapNode h)) ?_
    refine memOk_ite_pair (memOk_finish (memOk_misaligned h)) ?_
    refine memOk_ite_pair (memOk_pair (memOk_abortOf h)) ?_
    split
    · exact memOk_readChild (memOk_releaseFor h)
    · refine memOk_ite_pair (memOk_pair (memOk_releaseFor h)) ?_
      refine memOk_ite_pair (memOk_pair (memOk_releaseFor h)) ?_
      split
      · exact memOk_pair (memOk_releaseFor h)
      · exact memOk_pair (memOk_releaseFor h)
      · split
        · exact memOk_readChild (memOk_beginChild (memOk_portNumber (memOk_releaseFor h)))
        · exact memOk_pair (memOk_beginChild (memOk_portNumber (memOk_releaseFor h)))
  · exact memOk_pair h

theorem memOk_doLwait {a : Access} (h : s.MemOk) : (doLwait a s).2.MemOk := by
  unfold doLwait
  dsimp only
  split
  · exact memOk_pair h
  · refine memOk_ite_pair (memOk_pair (memOk_abortOf h)) ?_
    split
    · exact memOk_pair (memOk_acquireFor h)
    · exact memOk_pair h

/-! ### Deadlines and hangs (R143, R144, R159 to R162) -/

theorem memOk_advanceCounters {dt : Nat} {held : List Nat} (h : s.MemOk) : (advanceCounters dt held s).MemOk := memOk_with h

theorem memOk_clearHang {id : Nat} (h : s.MemOk) : (clearHang id s).MemOk := memOk_modLaunch h

/-! ### The occupancy map (R161, R162) -/

theorem memOk_writeMap {l : Launch} {k va : Nat} {data : List Byte} (h : s.MemOk) : (writeMap l k va data s).2.MemOk := by
  induction k generalizing va data s with
  | zero => exact memOk_pair h
  | succ k ih =>
    unfold writeMap
    refine memOk_ite_pair (memOk_pair h) ?_
    split
    · exact memOk_ite_pair (memOk_pair h) (ih (memOk_writeSys _ _ h))
    · exact memOk_pair (memOk_areaFault h)
    · exact memOk_pair (memOk_logUe h)
    · exact memOk_pair h

theorem memOk_occupancyMap {l : Launch} (h : s.MemOk) : (occupancyMap l s).MemOk := by
  unfold occupancyMap
  extract_lets x size
  refine memOk_ite h ?_
  extract_lets
  split
  exact memOk_modSpace (memOk_of_pair ‹_› (memOk_writeMap h))

/-! ### Making room (R183, R184) -/

theorem memOk_areaWrite {l n : Nat} (h : s.MemOk) : (areaWrite l n s).2.MemOk := by
  unfold areaWrite
  split
  · exact memOk_areaUse h
  · exact memOk_pair h

theorem memOk_areaRead {l : Nat} (h : s.MemOk) : (areaRead l s).2.MemOk := by
  unfold areaRead
  split
  · exact memOk_areaUse h
  · exact memOk_pair h

theorem memOk_removePlaced {p : Placed} (h : s.MemOk) : (removePlaced p s).MemOk := memOk_with h

theorem memOk_modPlaced {p : Placed} {g : Placed → Placed} (h : s.MemOk) : (modPlaced p g s).MemOk := memOk_with h

theorem memOk_dropIdle {core l b n k : Nat} (h : s.MemOk) : (dropIdle core l b n k s).MemOk := by
  induction k generalizing s with
  | zero => exact h
  | succ k ih =>
    unfold dropIdle
    refine memOk_ite h ?_
    split
    · exact ih (memOk_removePlaced h)
    · exact h

theorem memOk_stopLong {core l b need : Nat} {ps : List Placed} (h : s.MemOk) : (stopLong core l b ps need s).MemOk := by
  induction ps generalizing need s with
  | nil => exact h
  | cons p ps ih => exact memOk_ite h (ih (memOk_modPlaced h))

theorem memOk_placeBlock {core l b n : Nat} (h : s.MemOk) : (placeBlock core l b n s).MemOk := memOk_with h

theorem memOk_addReplica {core : Nat} (h : s.MemOk) : (addReplica core s).MemOk := by
  unfold addReplica
  split
  · exact memOk_modPlaced h
  · exact h

theorem memOk_housePlaced {p : Placed} (h : s.MemOk) : (housePlaced p s).MemOk := memOk_with (memOk_removePlaced h)

theorem memOk_evSchedEval {core : Nat} (h : s.MemOk) : (evSchedEval core s).MemOk := by
  unfold evSchedEval
  refine memOk_ite h (memOk_with ?_)
  split
  · exact memOk_ite (memOk_addReplica h) h
  · refine memOk_ite ?_ (memOk_stopLong (memOk_dropIdle h))
    split
    · exact memOk_ite (memOk_housePlaced (memOk_dropIdle h)) (memOk_dropIdle h)
    · exact memOk_ite (memOk_dropIdle h) (memOk_placeBlock (memOk_dropIdle h))

theorem memOk_fetchFails {p : Placed} {e : RdErr} (h : s.MemOk) : (fetchFails p e s).MemOk := by
  unfold fetchFails
  split
  · exact h
  extract_lets rec_ r fatal
  have hfatal {cause r va : Nat} : (fatal cause r va).MemOk := memOk_abortLaunch (memOk_fatalFault h)
  split
  · refine memOk_ite hfatal ?_
    split
    exact memOk_modPlaced (memOk_of_pair ‹_› (memOk_parkFault h))
  · exact hfatal
  · exact hfatal
  · exact memOk_abortLaunch h
  · exact memOk_ueAbort h

theorem memOk_evBlockResident {core l b : Nat} (h : s.MemOk) : (evBlockResident core l b s).MemOk := by
  unfold evBlockResident
  split
  · exact h
  · refine memOk_ite h ?_
    split
    · exact memOk_fetchFails h
    · exact memOk_ite (memOk_modPlaced h) (memOk_with (memOk_modPlaced h))

/-! ### Injection (R183) -/

theorem memOk_enterBlock {t : Nat} {th : Thread} {p : Placed} {entries : List Nat} {r : Nat} (h : s.MemOk) :
    (enterBlock t th p entries r s).MemOk :=
  memOk_modThread (memOk_with (memOk_newKeys h))

theorem memOk_evInject {core l b r : Nat} (h : s.MemOk) : (evInject core l b r s).MemOk := by
  unfold evInject
  split
  · refine memOk_ite h ?_
    dsimp only
    split
    · exact memOk_modPlaced (memOk_enterBlock h)
    · exact h
  · exact h

/-! ### Eviction (R184) -/

theorem memOk_writeOut {p : Placed} (h : s.MemOk) : (writeOut p s).MemOk := by
  unfold writeOut
  split
  · exact memOk_of_pair ‹_› (memOk_areaWrite h)
  · exact memOk_removePlaced (memOk_with (memOk_of_pair ‹_› (memOk_areaWrite h)))

theorem memOk_evEvict {core l b : Nat} (h : s.MemOk) : (evEvict core l b s).MemOk := by
  unfold evEvict
  split
  · exact h
  · exact memOk_ite h (memOk_ite (memOk_modPlaced h) (memOk_writeOut h))

/-! ### The companion's accesses to device memory (R31 to R33, R62) -/

theorem memOk_tell {o : Output} (h : s.MemOk) : (tell o s).MemOk := memOk_with h

theorem memOk_holdRequest {r : CompReq} (h : s.MemOk) : (holdRequest r s).MemOk := memOk_with h

theorem memOk_companionRead {pa len : Nat} {keepIt : Bool} (h : s.MemOk) : (companionRead pa len keepIt s).MemOk :=
  memOk_ite (memOk_tell h) (memOk_ite (memOk_foldl (fun _ _ h => memOk_ite h (memOk_with h)) (memOk_tell h)) (memOk_tell h))

theorem memOk_ownLine {line pa : Nat} {data : List Byte} (h : s.MemOk) : (ownLine line pa data s).MemOk :=
  memOk_with (memOk_healCovered _ _ (memOk_setDirty _ (memOk_dropVerdicts _ h)))

theorem memOk_companionWrite {pa : Nat} {data : List Byte} {own : Bool} (h : s.MemOk) : (companionWrite pa data own s).MemOk :=
  memOk_ite (memOk_tell h) (memOk_ite (memOk_foldl (fun _ _ h => memOk_ownLine h) (memOk_foldl (fun _ _ h => memOk_conflictWrite h) h))
      (memOk_writeSys _ _ (memOk_foldl (fun _ _ h => memOk_conflictWrite h) h)))

theorem memOk_heldRequests (h : s.MemOk) : (heldRequests s).MemOk := by
  unfold heldRequests
  refine memOk_foldl (fun _ _ h => ?_) (memOk_with h)
  refine memOk_ite (memOk_tell h) ?_
  split
  · exact memOk_companionRead h
  · exact memOk_companionWrite h

/-! ### The records of R44 and the context payloads of R154 and R155, as the save pool and the debug window hold -/

theorem keepsMem_execDebugWindowRead {w : Fin 1024} (h : s.MemOk) : KeepsMem (execDebugWindowRead w s) :=
  keepsMem_next (memOk_ite (memOk_with h) (memOk_with h))

/-! ### COPY and COPYS (R203, R205, R392, R393) -/

theorem memOk_copyOk {a : Access} (h : s.MemOk) : (copyOk a s).2.MemOk :=
  memOk_ite_pair (memOk_stop (memOk_abortOf h)) (memOk_ite_pair (memOk_misaligned h) (memOk_ite_pair (memOk_misaligned h)
      (memOk_ite_pair (memOk_misaligned h) (memOk_good h))))

theorem memOk_copyPads {a : Access} (h : s.MemOk) : (copyPads a s).2.MemOk :=
  memOk_thenDo (memOk_ite_pair (memOk_thenDo (memOk_padOf h) (fun _ _ h => memOk_good h)) (memOk_good h)) (fun _ _ h => memOk_ite_pair
      (memOk_thenDo (memOk_padOf h) (fun _ _ h => memOk_good h)) (memOk_good h))

theorem memOk_copyIssue {a : Access} (h : s.MemOk) : (copyIssue a s).MemOk := by
  unfold copyIssue
  split
  · exact memOk_ite (memOk_foldl (fun _ _ h => memOk_clearPresent h) h) h
  · exact h

theorem memOk_copyRead {a : Access} {w : Nat} (h : s.MemOk) : (copyRead a w s).2.MemOk :=
  memOk_ite_pair (memOk_thenDo (memOk_padOf h) (fun _ _ h => memOk_good h)) (memOk_loadG h)

theorem memOk_copyWrite {a : Access} {w : Nat} {l : List Byte} (h : s.MemOk) : (copyWrite a w l s).2.MemOk :=
  memOk_ite_pair (memOk_thenDo (memOk_padOf h) (fun _ _ h => memOk_good (memOk_padWrite h))) (memOk_storeG h)

theorem memOk_captureCopy {id : Nat} (h : s.MemOk) : (captureCopy id s).MemOk := by
  unfold captureCopy
  split
  · exact h
  · refine memOk_ite h ?_
    split
    · exact memOk_modAccess (memOk_of_pair ‹_› (memOk_eachPart (fun _ _ h => memOk_copyRead h) h))
    · exact memOk_of_pair ‹_› (memOk_eachPart (fun _ _ h => memOk_copyRead h) h)

theorem memOk_doCopy {a : Access} (h : s.MemOk) : (doCopy a s).2.MemOk := by
  unfold doCopy
  split
  · exact memOk_pair (memOk_of_pair ‹_› (memOk_copyOk h))
  · have h := memOk_of_pair ‹_› (memOk_copyOk h)
    refine memOk_ite_pair (memOk_pair h) ?_
    split
    · exact memOk_pair (memOk_of_pair ‹_› (memOk_copyPads h))
    · exact memOk_pair (memOk_modAccess (memOk_of_pair ‹_› (memOk_copyPads h)))

theorem memOk_copyWord {id w : Nat} (h : s.MemOk) : (copyWord id w s).MemOk := by
  unfold copyWord
  split
  · exact h
  · split
    · exact h
    · refine memOk_ite h ?_
      split
      · refine memOk_ite h ?_
        split
        dsimp only
        split
        · refine memOk_ite (memOk_of_pair ‹_› ?_) (memOk_modAccess (memOk_of_pair ‹_› ?_))
          · refine memOk_thenDo ?_ (fun _ _ h => ?_)
            · exact memOk_ite_pair (memOk_good h) (memOk_reach h)
            · exact memOk_ite_pair (memOk_good h) (memOk_reach h)
          · refine memOk_thenDo ?_ (fun _ _ h => ?_)
            · exact memOk_ite_pair (memOk_good h) (memOk_reach h)
            · exact memOk_ite_pair (memOk_good h) (memOk_reach h)
        · refine memOk_of_pair ‹_› ?_
          refine memOk_thenDo ?_ (fun _ _ h => ?_)
          · exact memOk_ite_pair (memOk_good h) (memOk_reach h)
          · exact memOk_ite_pair (memOk_good h) (memOk_reach h)
      · dsimp only
        split
        · refine memOk_modAccess (memOk_of_pair ‹_› ?_)
          exact memOk_thenDo (memOk_ite_pair (memOk_copyRead h) (memOk_good h)) (fun _ _ h => memOk_copyWrite h)
        · refine memOk_of_pair ‹_› ?_
          exact memOk_thenDo (memOk_ite_pair (memOk_copyRead h) (memOk_good h)) (fun _ _ h => memOk_copyWrite h)

/-! ### Results -/

theorem keepsMem_fltNode1 {n : Node} {i : Instr} {g : Nat → Nat} (h : s.MemOk) : KeepsMem (fltNode1 n i g s) := keepsMem_calc1 h

theorem keepsMem_fltNode2 {n : Node} {i : Instr} {g : Nat → Nat → Nat} (h : s.MemOk) : KeepsMem (fltNode2 n i g s) := keepsMem_calc2 h

theorem memOk_drawFor {t k : Nat} (h : s.MemOk) : (drawFor t k s).2.MemOk := by
  unfold drawFor
  split
  · split
    exact memOk_pair (memOk_modThread h)
  · exact memOk_pair h

theorem memOk_drawIf {r : Rnd} {t k : Nat} (h : s.MemOk) : (drawIf r t k s).2.MemOk := memOk_ite_pair (memOk_drawFor h) (memOk_pair h)

theorem keepsMem_fltFun {n : Node} {i : Instr} {k : Nat} {g : Nat → Nat → Nat} (h : s.MemOk) : KeepsMem (fltFun n i k g s) :=
  keepsMem_fltNode1 h

/-! ### The nodes -/

theorem keepsMem_execCvt {n : Node} {from_ : Ty} {r : Round} (h : s.MemOk) : KeepsMem (execCvt n from_ r s) := by
  unfold execCvt
  refine keepsMem_runNode (fun _ _ _ h => ?_) h
  split
  exact memOk_emit (memOk_of_pair ‹_› (memOk_drawIf h))

/-! ### Products (R252 to R255, R355) -/

theorem memOk_setTern {f : Firing} (h : s.MemOk) : (setTern f s).MemOk := memOk_modLaunch h

/-! ### Reaching packets (R347 to R349) -/

theorem memOk_badPacket {α : Type} {f : Firing} {toff : Nat} (h : s.MemOk) : (badPacket (α := α) f toff s).2.MemOk :=
  memOk_stop (memOk_trap h)

theorem memOk_aligned {f : Firing} {ts : List Nat} (h : s.MemOk) : (aligned f ts s).2.MemOk := by
  induction ts with
  | nil => exact memOk_good h
  | cons t ts ih => exact memOk_ite_pair (memOk_misaligned h) ih

theorem memOk_spanIn {f : Firing} {toff n : Nat} (h : s.MemOk) : (spanIn f toff n s).2.MemOk :=
  memOk_thenDo (memOk_padOf h) (fun _ _ h => memOk_good h)

theorem memOk_readPacket {f : Firing} {src : Src} {toff : Nat} {elem : Option Ty} {ok : ScaleKind → Bool} (h : s.MemOk) :
    (readPacket f src toff elem ok s).2.MemOk := by
  unfold readPacket
  refine memOk_thenDo (memOk_spanIn h) (fun _ _ h => ?_)
  refine memOk_thenDo (memOk_needWords h) (fun _ _ h => ?_)
  refine memOk_thenDo (memOk_spanIn h) (fun _ _ h => ?_)
  split
  · exact memOk_badPacket h
  · exact memOk_ite_pair (memOk_good h) (memOk_badPacket h)

theorem memOk_needEmpty {f : Firing} {toff : Nat} {sources : List Nat} {span : Nat} (h : s.MemOk) :
    (needEmpty f toff sources span s).2.MemOk :=
  memOk_thenDo (memOk_spanIn h) (fun _ _ h => memOk_ite_pair (memOk_parkWord h) (memOk_good h))

theorem memOk_consume {key toff : Nat} {yes : Bool} (h : s.MemOk) : (consume key toff yes s).MemOk := memOk_ite (memOk_clearPresent h) h

theorem memOk_putPacket {key toff : Nat} {p : Packet} (h : s.MemOk) : (putPacket key toff p s).MemOk := memOk_padWrite h

/-! ### Moving and reshaping (R350 to R352) -/

theorem memOk_tloadRows {a : Access} {d : TileDesc} {h' : Head} {home : Bool} (h : s.MemOk) : (tloadRows a d h' home s).2.MemOk :=
  memOk_thenDo (memOk_eachPart (fun _ _ h => memOk_loadRange h) h) (fun _ _ h => memOk_good h)

theorem memOk_doTload {a : Access} {n : Node} {sc : ScaleKind} {home : Bool} (h : s.MemOk) : (doTload a n sc home s).2.MemOk := by
  unfold doTload
  refine memOk_ite_pair (memOk_finish (memOk_misaligned h)) (memOk_finish ?_)
  refine memOk_thenDo (memOk_aligned h) (fun _ _ h => ?_)
  refine memOk_thenDo (memOk_needEmpty h) (fun _ _ h => ?_)
  exact memOk_thenDo (memOk_ite_pair (memOk_tloadRows h) (memOk_good h)) (fun _ _ h => memOk_good (memOk_putPacket h))

theorem memOk_tstoreFrom {a : Access} {home : Bool} {qs : List (Nat × List Byte)} {k : Nat} (h : s.MemOk) :
    (tstoreFrom a home qs k s).2.MemOk := by
  induction qs generalizing k s with
  | nil => exact memOk_good h
  | cons q qs ih =>
    unfold tstoreFrom
    split
    · exact ih (memOk_of_pair ‹_› (memOk_storeG h))
    · exact memOk_modAccess (memOk_of_pair ‹_› (memOk_storeG h))

theorem memOk_doTstore {a : Access} {n : Node} {sc : ScaleKind} {home ca : Bool} (h : s.MemOk) :
    (doTstore a n sc home ca s).2.MemOk := by
  unfold doTstore
  refine memOk_ite_pair (memOk_finish (memOk_misaligned h)) ?_
  refine memOk_ite_pair (memOk_finish ?_) (memOk_finish ?_)
  · refine memOk_thenDo (memOk_aligned h) (fun _ _ h => ?_)
    refine memOk_thenDo (memOk_readPacket h) (fun _ _ h => ?_)
    refine memOk_ite_pair (memOk_badPacket h) ?_
    refine memOk_thenDo (memOk_spanIn h) (fun _ _ h => ?_)
    exact memOk_thenDo (memOk_tstoreFrom (memOk_modAccess (memOk_consume h))) (fun _ _ h => memOk_good h)
  · exact memOk_thenDo (memOk_tstoreFrom h) (fun _ _ h => memOk_good h)

theorem memOk_doTfill {a : Access} {n : Node} (h : s.MemOk) : (doTfill a n s).2.MemOk :=
  memOk_finish (memOk_thenDo (memOk_aligned h) (fun _ _ h => memOk_ite_pair (memOk_badPacket h) (memOk_thenDo (memOk_needEmpty h) (fun _
      _ h => memOk_good (memOk_putPacket h)))))

theorem memOk_reshape {a : Access} {src : Src} {toff dst : Nat} {elem : Ty} {ok : ScaleKind → Bool} {ca : Bool} {fits : Packet → Bool}
    {g : Packet → State → Packet × State} (hg : ∀ p t, t.MemOk → (g p t).2.MemOk) (h : s.MemOk) :
    (reshape a src toff dst elem ok ca fits g s).2.MemOk :=
  memOk_finish (memOk_thenDo (memOk_aligned h) fun _ _ h => memOk_thenDo (memOk_readPacket h) fun p _ h =>
    memOk_ite_pair (memOk_badPacket h) (memOk_thenDo (memOk_needEmpty h) fun _ t h =>
      memOk_good (memOk_putPacket (memOk_consume (hg p t h)))))

theorem memOk_doTcvt {a : Access} {n : Node} {from_ : Ty} {r : Round} {ca : Bool} (h : s.MemOk) :
    (doTcvt a n from_ r ca s).2.MemOk := by
  unfold doTcvt
  refine memOk_reshape (fun _ _ h => ?_) h
  split
  exact memOk_pair (memOk_of_pair ‹_› (memOk_drawIf h))

theorem memOk_doTtrans {a : Access} {n : Node} {ca : Bool} (h : s.MemOk) : (doTtrans a n ca s).2.MemOk :=
  memOk_reshape (fun _ _ h => memOk_pair h) h

theorem memOk_doTscale {a : Access} {n : Node} {sc : ScaleKind} {r : Round} {ca : Bool} (h : s.MemOk) :
    (doTscale a n sc r ca s).2.MemOk :=
  memOk_reshape (fun _ _ h => memOk_pair h) h

/-! ### Tile products (R355, R356) -/

theorem memOk_readC {a : Access} {src : Src} {toff : Nat} {ta : Ty} (h : s.MemOk) : (readC a src toff ta s).2.MemOk := memOk_readPacket h

theorem memOk_doTmma {a : Access} {n : Node} {tb : Ty} {ca cb : Bool} (h : s.MemOk) : (doTmma a n tb ca cb s).2.MemOk := by
  unfold doTmma
  split
  all_goals
    refine memOk_finish ?_
    refine memOk_thenDo (memOk_aligned h) (fun _ _ h => ?_)
    refine memOk_thenDo (memOk_readPacket h) (fun _ _ h => ?_)
    refine memOk_thenDo (memOk_readPacket h) (fun _ _ h => ?_)
    refine memOk_thenDo (memOk_readC h) (fun _ _ h => ?_)
    refine memOk_ite_pair (memOk_badPacket h) ?_
    refine memOk_ite_pair (memOk_badPacket h) ?_
    exact memOk_thenDo (memOk_spanIn h) (fun _ _ h => memOk_good (memOk_putPacket (memOk_consume (memOk_consume (memOk_ite
        (memOk_setTern h) h)))))

theorem memOk_doTgrp {a : Access} {n : Node} {tb : Ty} {ca cb : Bool} (h : s.MemOk) : (doTgrp a n tb ca cb s).2.MemOk := by
  unfold doTgrp
  split
  all_goals
    refine memOk_finish ?_
    refine memOk_thenDo (memOk_aligned h) (fun _ _ h => ?_)
    refine memOk_thenDo (memOk_readPacket h) (fun _ _ h => ?_)
    refine memOk_thenDo (memOk_readC h) (fun _ _ h => ?_)
    refine memOk_thenDo (memOk_spanIn h) (fun _ _ h => ?_)
    refine memOk_thenDo (memOk_needWords h) (fun _ _ h => ?_)
    refine memOk_thenDo (memOk_spanIn h) (fun _ _ h => ?_)
    refine memOk_thenDo (memOk_needWords h) (fun _ _ h => ?_)
    refine memOk_ite_pair (memOk_stop (memOk_abortOf h)) ?_
    refine memOk_ite_pair (memOk_stop (memOk_trap h)) ?_
    refine memOk_ite_pair (memOk_badPacket h) ?_
    refine memOk_thenDo (memOk_aligned h) (fun _ _ h => ?_)
    refine memOk_thenDo ?_ (fun _ _ h => memOk_good (memOk_putPacket ?_))
    · refine memOk_eachPart (fun _ _ h => ?_) h
      exact memOk_thenDo (memOk_readPacket h) (fun _ _ h => memOk_ite_pair (memOk_badPacket h) (memOk_good h))
    · exact memOk_foldl (fun _ _ h => memOk_consume h) (memOk_consume (memOk_ite (memOk_setTern h) h))

/-! ### Systolic regions (R357 to R359) -/

theorem memOk_modRegion {r : Region} {g : Region → Region} (h : s.MemOk) : (modRegion r g s).MemOk := memOk_with h

theorem memOk_formatAbort {f : Firing} (h : s.MemOk) : (formatAbort f s).2.MemOk := memOk_pair (memOk_abortOf h)

theorem memOk_doSyscfg {a : Access} {n : Node} {w : Ty} (h : s.MemOk) : (doSyscfg a n w s).2.MemOk := by
  unfold doSyscfg
  split
  · exact memOk_formatAbort h
  · exact memOk_ite_pair (memOk_pair h) (memOk_ite_pair (memOk_formatAbort h) (memOk_pair (memOk_modRegion h)))

theorem memOk_doSysw {a : Access} {n : Node} {ca : Bool} (h : s.MemOk) : (doSysw a n ca s).2.MemOk := by
  unfold doSysw
  dsimp only
  split
  · exact memOk_formatAbort h
  · refine memOk_ite_pair (memOk_formatAbort h) ?_
    refine memOk_ite_pair (memOk_pair h) (memOk_finish ?_)
    refine memOk_thenDo (memOk_aligned h) (fun _ _ h => ?_)
    refine memOk_thenDo (memOk_readPacket h) (fun _ _ h => ?_)
    refine memOk_ite_pair (memOk_badPacket h) ?_
    exact memOk_thenDo (memOk_spanIn h) (fun _ _ h => memOk_good (memOk_consume (memOk_modRegion h)))

theorem memOk_doSysa {a : Access} {n : Node} {ca : Bool} (h : s.MemOk) : (doSysa a n ca s).2.MemOk := by
  unfold doSysa
  dsimp only
  split
  · exact memOk_formatAbort h
  · refine memOk_ite_pair (memOk_formatAbort h) ?_
    refine memOk_ite_pair (memOk_pair h) (memOk_finish ?_)
    refine memOk_thenDo (memOk_aligned h) (fun _ _ h => ?_)
    refine memOk_thenDo (memOk_readPacket h) (fun _ _ h => ?_)
    refine memOk_ite_pair (memOk_badPacket h) ?_
    exact memOk_thenDo (memOk_spanIn h) (fun _ _ h => memOk_good (memOk_consume (memOk_modRegion h)))

theorem memOk_doSysd {a : Access} {n : Node} (h : s.MemOk) : (doSysd a n s).2.MemOk := by
  unfold doSysd
  dsimp only
  split
  · exact memOk_formatAbort h
  · refine memOk_ite_pair (memOk_formatAbort h) ?_
    split
    · exact memOk_pair h
    · refine memOk_finish ?_
      refine memOk_thenDo (memOk_aligned h) (fun _ _ h => ?_)
      refine memOk_thenDo (memOk_readC h) (fun _ _ h => ?_)
      refine memOk_ite_pair (memOk_badPacket h) ?_
      exact memOk_thenDo (memOk_spanIn h) (fun _ _ h => memOk_good (memOk_putPacket (memOk_modRegion (memOk_ite (memOk_setTern h) h))))

/-! ### Lanes (R367, R369) -/

theorem memOk_deliver {id i v w : Nat} (h : s.MemOk) : (deliver id i v w s).MemOk := memOk_modAccess h

theorem memOk_readLanes {id w : Nat} {ready : Nat → State → Bool} {get : Nat → State → Part Nat} {is : List Nat} {t : Option Try}
    (hg : ∀ i t, t.MemOk → (get i t).2.MemOk) (h : s.MemOk) : (readLanes id w ready get is t s).2.MemOk := by
  induction is generalizing t s with
  | nil => exact memOk_pair h
  | cons i is ih =>
    unfold readLanes
    refine memOk_ite_pair (ih h) ?_
    split
    · exact ih (memOk_deliver (memOk_of_pair ‹_› (hg i s h)))
    · exact memOk_pair (memOk_of_pair ‹_› (hg i s h))
    · exact ih (memOk_of_pair ‹_› (hg i s h))

theorem memOk_writeLanes {id : Nat} {put : Nat → State → Part Nat} {is : List Nat} (hp : ∀ i t, t.MemOk → (put i t).2.MemOk)
    (h : s.MemOk) : (writeLanes id put is s).2.MemOk := by
  induction is generalizing s with
  | nil => exact memOk_pair h
  | cons i is ih =>
    unfold writeLanes
    split
    · exact ih (memOk_deliver (memOk_of_pair ‹_› (hp i s h)))
    · exact memOk_pair (memOk_of_pair ‹_› (hp i s h))

theorem memOk_laneEnd {id : Nat} {v : Access → Nat} {r : Option Try × State} (h : r.2.MemOk) : (laneEnd id v r).2.MemOk := by
  unfold laneEnd
  split
  · exact h
  · split <;> exact h

theorem memOk_readRun {f : Firing} {sp : Sp} {va n : Nat} (h : s.MemOk) : (readRun f sp va n s).2.MemOk := by
  unfold readRun
  split
  · exact memOk_loadRange h
  · exact memOk_loadRange h
  · exact memOk_thenDo (memOk_padOf h) (fun _ _ h => memOk_thenDo (memOk_needWords h) (fun _ _ h => memOk_good h))

/-! ### Gather and scatter (R366 to R369) -/

theorem memOk_doGather {a : Access} {n : Node} {sp : Sp} {sx : Bool} (h : s.MemOk) : (doGather a n sp sx s).2.MemOk := by
  unfold doGather
  refine memOk_ite_pair (memOk_finish (memOk_misaligned h)) (memOk_laneEnd ?_)
  refine memOk_readLanes (fun _ _ h => ?_) h
  split
  · exact memOk_good h
  · exact memOk_thenDo (memOk_readRun h) (fun _ _ h => memOk_good h)

theorem memOk_doScatter {a : Access} {n : Node} {sp : Sp} {sx : Bool} (h : s.MemOk) : (doScatter a n sp sx s).2.MemOk := by
  unfold doScatter
  refine memOk_ite_pair (memOk_finish (memOk_misaligned h)) (memOk_laneEnd ?_)
  refine memOk_writeLanes (fun _ _ h => ?_) h
  split
  · exact memOk_good h
  · dsimp only
    split
    · exact memOk_thenDo (memOk_storeG h) (fun _ _ h => memOk_good h)
    · exact memOk_thenDo (memOk_storeG h) (fun _ _ h => memOk_good h)
    · exact memOk_thenDo (memOk_padOf h) (fun _ _ h => memOk_good (memOk_padWrite h))

theorem memOk_doScatadd {a : Access} {n : Node} {sp : Sp} {sx : Bool} {m : MemFlags} (h : s.MemOk) :
    (doScatadd a n sp sx m s).2.MemOk := by
  unfold doScatadd
  refine memOk_ite_pair (memOk_finish (memOk_misaligned h)) (memOk_laneEnd ?_)
  refine memOk_writeLanes (fun _ _ h => ?_) h
  split
  · exact memOk_good h
  · dsimp only
    split
    · exact memOk_good (memOk_of_pair ‹_› (memOk_doAtomic h))
    · exact memOk_stop (memOk_of_pair ‹_› (memOk_doAtomic h))

theorem memOk_gatherRows {a : Access} {h' : Head} {sp : Sp} {sx : Bool} (h : s.MemOk) : (gatherRows a h' sp sx s).2.MemOk := by
  unfold gatherRows
  refine memOk_readLanes (fun _ _ h => ?_) h
  split
  · exact memOk_good (memOk_modAccess h)
  · exact memOk_ite_pair (memOk_misaligned h) (memOk_thenDo (memOk_readRun h) (fun _ _ h => memOk_good (memOk_modAccess h)))

theorem memOk_doGathert {a : Access} {n : Node} {sp : Sp} {sx : Bool} {sc : ScaleKind} (h : s.MemOk) :
    (doGathert a n sp sx sc s).2.MemOk := by
  unfold doGathert
  refine memOk_ite_pair (memOk_formatAbort h) ?_
  refine memOk_ite_pair (memOk_finish (memOk_misaligned h)) ?_
  split
  · exact memOk_pair (memOk_of_pair ‹_› (memOk_aligned h))
  · have h := memOk_of_pair ‹_› (memOk_aligned h)
    split
    · exact memOk_pair (memOk_of_pair ‹_› (memOk_needEmpty h))
    · have h := memOk_of_pair ‹_› (memOk_needEmpty h)
      dsimp only
      split
      · exact memOk_pair (memOk_of_pair ‹_› (memOk_gatherRows h))
      · exact memOk_pair (memOk_putPacket (memOk_of_pair ‹_› (memOk_gatherRows h)))

theorem memOk_captureRead {id : Nat} (h : s.MemOk) : (captureRead id s).MemOk := by
  unfold captureRead
  split
  · exact h
  · refine memOk_ite h ?_
    split
    · refine memOk_ite h ?_
      split
      · exact memOk_modAccess (memOk_of_pair ‹_› (memOk_tloadRows h))
      · exact h
    · refine memOk_ite h ?_
      split
      · exact memOk_of_pair ‹_› (memOk_gatherRows h)
      · exact h
    · exact h

/-! ### Streams (R360 to R363) -/

theorem memOk_streamRef {f : Firing} {v : Nat} (h : s.MemOk) : (streamRef f v s).2.MemOk := by
  unfold streamRef
  split
  · exact memOk_stop h
  · refine memOk_ite_pair (memOk_holeAt h) ?_
    dsimp only
    split
    · exact memOk_ite_pair (memOk_stop (memOk_trapNode h)) (memOk_good h)
    · exact memOk_stop (memOk_trapNode h)

theorem memOk_streamOwn {f : Firing} {v : Nat} (h : s.MemOk) : (streamOwn f v s).2.MemOk := by
  unfold streamOwn
  split
  · exact memOk_stop h
  · exact memOk_ite_pair (memOk_holeAt h) (memOk_good h)

theorem memOk_modStrm {k : Nat × Nat} {g : Strm → Strm} (h : s.MemOk) : (modStrm k g s).MemOk := memOk_with h

theorem memOk_doStrmOpen {a : Access} (h : s.MemOk) : (doStrmOpen a s).2.MemOk := by
  unfold doStrmOpen
  dsimp only
  split
  · exact memOk_pair (memOk_of_pair ‹_› (memOk_streamOwn h))
  · refine memOk_ite_pair (memOk_formatAbort (memOk_of_pair ‹_› (memOk_streamOwn h))) ?_
    exact memOk_ite_pair (memOk_pair (memOk_of_pair ‹_› (memOk_streamOwn h))) (memOk_pair (memOk_with (memOk_of_pair ‹_›
        (memOk_streamOwn h))))

theorem memOk_doStrmSub {a : Access} (h : s.MemOk) : (doStrmSub a s).2.MemOk := by
  unfold doStrmSub
  dsimp only
  split
  · exact memOk_pair (memOk_of_pair ‹_› (memOk_streamRef h))
  · have h := memOk_of_pair ‹_› (memOk_streamRef h)
    refine memOk_ite_pair (memOk_finish (memOk_holeAt h)) ?_
    split
    · exact memOk_pair (memOk_of_pair ‹_› (memOk_aligned h))
    · have h := memOk_of_pair ‹_› (memOk_aligned h)
      split
      · exact memOk_ite_pair (memOk_pair h) (memOk_pair (memOk_modStrm h))
      · exact memOk_pair h

theorem memOk_endPub {id : Nat} (h : s.MemOk) : (endPub id s).MemOk := by
  unfold endPub
  split
  · refine memOk_ite ?_ h
    split
    · exact memOk_modAccess (memOk_consume h)
    · exact h
  · exact h

theorem memOk_doStrmPub {a : Access} {ca : Bool} (h : s.MemOk) : (doStrmPub a ca s).2.MemOk := by
  unfold doStrmPub
  dsimp only
  split
  · exact memOk_pair (memOk_of_pair ‹_› (memOk_streamOwn h))
  · have h := memOk_of_pair ‹_› (memOk_streamOwn h)
    split
    · exact memOk_pair h
    · refine memOk_ite_pair (memOk_pair h) ?_
      split
      · exact memOk_pair (memOk_of_pair ‹_› (memOk_thenDo (memOk_aligned h) (fun _ _ h => memOk_readPacket h)))
      · refine memOk_ite_pair (memOk_pair (memOk_consume (memOk_of_pair ‹_› ?_))) (memOk_pair (memOk_modAccess (memOk_of_pair ‹_› ?_)))
        · exact memOk_thenDo (memOk_aligned h) (fun _ _ h => memOk_readPacket h)
        · exact memOk_thenDo (memOk_aligned h) (fun _ _ h => memOk_readPacket h)

theorem memOk_copyToSub {id sub : Nat} (h : s.MemOk) : (copyToSub id sub s).MemOk := by
  unfold copyToSub
  split
  · exact h
  · refine memOk_ite h ?_
    split
    · dsimp only
      split
      · exact memOk_endPub (memOk_modAccess h)
      · exact memOk_ite h (memOk_ite (memOk_fatalOf h) (memOk_endPub (memOk_modAccess (memOk_modStrm (memOk_padWrite h)))))
    · exact h

theorem memOk_doCloseEnd {a : Access} (h : s.MemOk) : (doCloseEnd a s).2.MemOk := by
  unfold doCloseEnd
  split
  · exact memOk_pair (memOk_of_pair ‹_› (memOk_streamOwn h))
  · exact memOk_ite_pair (memOk_pair (memOk_of_pair ‹_› (memOk_streamOwn h))) (memOk_pair (memOk_with (memOk_of_pair ‹_›
      (memOk_streamOwn h))))

theorem memOk_doCloseLeave {a : Access} (h : s.MemOk) : (doCloseLeave a s).2.MemOk := by
  unfold doCloseLeave
  split
  · exact memOk_pair (memOk_of_pair ‹_› (memOk_streamRef h))
  · have h := memOk_of_pair ‹_› (memOk_streamRef h)
    split
    · exact memOk_pair h
    · exact memOk_pair (memOk_foldl (fun _ _ h => memOk_endPub (memOk_modAccess h)) (memOk_modStrm h))

/-! ### Temperatures, governor, alerts (R20 to R24) -/

theorem memOk_setTemps {temps : List Nat} (h : s.MemOk) : (setTemps temps s).MemOk :=
  memOk_ite (memOk_raiseAlert (memOk_with (memOk_with h))) (memOk_with h)

/-! ### Ending every transaction (R57, R26) -/

theorem memOk_finishWords (h : s.MemOk) : (finishWords s).MemOk :=
  memOk_foldl (fun _ _ h => memOk_evCompletionWord h) (memOk_foldl (fun _ _ h => memOk_evLineDrain h) h)

theorem memOk_endTransactions (h : s.MemOk) : (endTransactions s).MemOk :=
  memOk_finishWords (memOk_foldl (fun _ _ h => memOk_evCommitRelease h) (memOk_evCommitFlip (memOk_foldl (fun _ _ h =>
      memOk_evCommitWalk h) h)))

theorem memOk_drainHbm (h : s.MemOk) : (drainHbm s).MemOk :=
  memOk_parts (memOk_foldl (fun _ _ h => memOk_writeBack _ h) (memOk_foldl (fun _ _ h => memOk_rsbDrain _ _ h) h)) (home := memWf_filter
      _)

/-- After a start or a trip the caches are empty; memory and its words in error stay. -/
theorem wf_lostCaches (h : s.MemOk) : Memory.wf { Mem.reset with home := s.mem.home, comp := s.mem.comp, bad := s.mem.bad } = true := by
  unfold State.MemOk at h
  rw [memory_wf_iff] at h ⊢
  obtain ⟨hhome, hcomp, -, -, -, -, -, -, -, hbad⟩ := h
  exact ⟨hhome, hcomp, rfl, rfl, rfl, rfl, rfl, rfl, rfl, hbad⟩

theorem memOk_startFrom {warm : Bool} {stage : Nat} (h : s.MemOk) : (startFrom s warm stage).MemOk := memOk_mk (wf_lostCaches h)

theorem memOk_coldStart (h : s.MemOk) : (coldStart s).MemOk := memOk_startFrom (memOk_endTransactions h)

theorem keepsMem_execCold {d : Word32} (h : s.MemOk) : KeepsMem (execCold d s) := keepsMem_next (memOk_coldStart (memOk_regWrite h))

theorem keepsMem_execWarm {d : Word32} (h : s.MemOk) : KeepsMem (execWarm d s) :=
  keepsMem_next (memOk_ite (memOk_coldStart (memOk_regWrite h)) (memOk_ite (memOk_regWrite h) (memOk_startFrom (memOk_drainHbm
      (memOk_endTransactions (memOk_regWrite h))))))

/-! ### The stages (R53 to R59) -/

theorem memOk_bootFail {code unit_ : Nat} (h : s.MemOk) : (bootFail code unit_ s).MemOk := memOk_raiseAlert (memOk_with h)

theorem memOk_toStage {n : Nat} (h : s.MemOk) : (toStage n s).MemOk := memOk_with h

theorem memOk_extendMeas {i : Nat} {d : List Byte} (h : s.MemOk) : (extendMeas i d s).MemOk := memOk_with h

theorem memOk_acceptImage {m : FwImage} {b : Bool} (h : s.MemOk) : (acceptImage m b s).MemOk :=
  memOk_toStage (memOk_extendMeas (memOk_with h))

theorem keepsMem_execImage {a b : FwImage} (h : s.MemOk) : KeepsMem (execImage a b s) := by
  unfold execImage
  refine keepsMem_next ?_
  refine memOk_ite h ?_
  split
  · exact memOk_acceptImage h
  · split
    · exact memOk_acceptImage h
    · exact memOk_bootFail (memOk_with h)

theorem keepsMem_execFuse {ecc : Bool} {differs : Option (Fin 4)} (h : s.MemOk) : KeepsMem (execFuse ecc differs s) := by
  unfold execFuse
  refine keepsMem_next ?_
  refine memOk_ite h ?_
  refine memOk_ite (memOk_bootFail h) ?_
  split
  · exact memOk_bootFail h
  · exact memOk_toStage (memOk_extendMeas h)

theorem keepsMem_execRails {bad : Option (Fin 6)} {temps : List Nat} (h : s.MemOk) : KeepsMem (execRails bad temps s) := by
  unfold execRails
  refine keepsMem_next ?_
  refine memOk_ite h ?_
  split
  · exact memOk_bootFail h
  · exact memOk_ite (memOk_setTemps h) (memOk_toStage (memOk_with (memOk_setTemps h)))

theorem keepsMem_execHbm {failed : Option (Fin 12)} {temps : List Nat} (h : s.MemOk) : KeepsMem (execHbm failed temps s) := by
  unfold execHbm
  refine keepsMem_next ?_
  refine memOk_ite h ?_
  split
  · exact memOk_ite (memOk_bootFail h) h
  · exact memOk_toStage (memOk_with h)

theorem keepsMem_execBist {llc bond : Option (Fin 4)} (h : s.MemOk) : KeepsMem (execBist llc bond s) := by
  unfold execBist
  refine keepsMem_next ?_
  refine memOk_ite h ?_
  refine memOk_ite (memOk_toStage h) ?_
  split
  · exact memOk_bootFail h
  · exact memOk_bootFail h
  · exact memOk_toStage h

theorem keepsMem_execFill {bad : Option (Fin 12)} (h : s.MemOk) : KeepsMem (execFill bad s) := by
  unfold execFill
  refine keepsMem_next ?_
  refine memOk_ite h ?_
  split
  · exact memOk_ite h (memOk_bootFail h)
  · exact memOk_toStage (memOk_parts h (home := memWf_filter _) (bad := tabWf_filter _))

theorem keepsMem_execInit {bad : Option (Fin 4)} (h : s.MemOk) : KeepsMem (execInit bad s) := by
  unfold execInit
  refine keepsMem_next ?_
  refine memOk_ite h ?_
  split
  · exact memOk_bootFail h
  · refine memOk_toStage (memOk_extendMeas ?_)
    exact memOk_parts h (home := memWf_filter _) (dirty := fun _ => rfl) (rsb := fun _ => rfl) (copies := fun _ => rfl) (compCopies :=
        fun _ => rfl) (clean := fun _ => rfl)

/-! ### Freeze (R61, R62) -/

theorem memOk_freezeCmd (h : s.MemOk) : (freezeCmd s).MemOk := memOk_with h

theorem memOk_unfreeze (h : s.MemOk) : (unfreeze s).MemOk := memOk_ite h (memOk_heldRequests (memOk_with h))

theorem keepsMem_execFreeze {d : Word32} (h : s.MemOk) : KeepsMem (execFreeze d s) := keepsMem_next (memOk_freezeCmd (memOk_regWrite h))

theorem keepsMem_execThaw {d : Word32} (h : s.MemOk) : KeepsMem (execThaw d s) :=
  keepsMem_next (memOk_ite (memOk_regWrite h) (memOk_unfreeze (memOk_with (memOk_regWrite h))))

/-! ### Attestation and measurement (R59, R60) -/

theorem keepsMem_execAttest {d : Word32} (h : s.MemOk) : KeepsMem (execAttest d s) := keepsMem_next (memOk_ite h (memOk_with h))

theorem keepsMem_execExtend {d : Word32} (h : s.MemOk) : KeepsMem (execExtend d s) :=
  keepsMem_next (memOk_ite h (memOk_ite (memOk_with h) (memOk_with h)))

theorem keepsMem_execExtendDone (h : s.MemOk) : KeepsMem (execExtendDone s) := by
  unfold execExtendDone
  refine keepsMem_next ?_
  split
  · exact memOk_with (memOk_extendMeas h)
  · exact h

/-! ### Ethernet (R36, R37, R395 to R397) -/

theorem memOk_modEth {p : Nat} {f : EthPort → EthPort} (h : s.MemOk) : (modEth p f s).MemOk := memOk_with h

theorem memOk_refuse {p : Nat} {why : NoTarget} (h : s.MemOk) : (refuse p why s).MemOk := memOk_tell (memOk_ite (memOk_modEth h) h)

theorem memOk_inbound {sp : Nat} {pas : List Nat} {data : List Byte} (h : s.MemOk) : (inbound sp pas data s).MemOk :=
  memOk_foldl (fun _ _ h => memOk_deviceWrite h) h

theorem memOk_receive {p : Nat} {r : Posted} {data : List Byte} (h : s.MemOk) : (receive p r data s).MemOk := by
  unfold receive
  split
  · exact h
  · dsimp only
    split
    · exact memOk_refuse h
    · exact memOk_tell (memOk_modAccess (memOk_with (memOk_inbound h)))

theorem keepsMem_execEthRx {p : Fin 16} {sp : Fin 64} {conn : Nat} {kind : EthKind} (h : s.MemOk) :
    KeepsMem (execEthRx p sp conn kind s) := by
  unfold execEthRx
  refine keepsMem_next ?_
  refine memOk_ite h ?_
  split
  · exact memOk_modEth h
  · exact memOk_modEth h
  · exact memOk_ite (memOk_tell (memOk_modEth h)) (memOk_refuse h)
  · exact memOk_ite (memOk_tell h) (memOk_refuse h)
  · refine memOk_ite (memOk_refuse h) ?_
    split
    · exact memOk_tell (memOk_inbound h)
    · exact memOk_refuse h
  · refine memOk_ite (memOk_refuse h) ?_
    split
    · exact memOk_receive h
    · exact memOk_tell h

theorem keepsMem_execUetReadRequest {p : Fin 16} {sp : Fin 64} {conn : Nat} {va : Word64} {len : Nat} (h : s.MemOk) :
    KeepsMem (execUetReadRequest p sp conn va len s) := by
  unfold execUetReadRequest
  refine keepsMem_next ?_
  refine memOk_ite h ?_
  refine memOk_ite (memOk_tell h) ?_
  dsimp only
  split <;> exact memOk_tell h

theorem keepsMem_execEthTrimNack {op : Nat} (h : s.MemOk) : KeepsMem (execEthTrimNack op s) := by
  unfold execEthTrimNack
  refine keepsMem_next ?_
  refine memOk_ite h ?_
  split
  · exact memOk_tell h
  · exact h

theorem keepsMem_execNsendAck {op : Nat} {ok : Bool} (h : s.MemOk) : KeepsMem (execNsendAck op ok s) := by
  unfold execNsendAck
  refine keepsMem_next ?_
  refine memOk_ite h ?_
  split
  · exact memOk_modAccess (memOk_ite (memOk_with h) (memOk_ite (memOk_modSpace (memOk_with h)) (memOk_modSpace (memOk_with h))))
  · exact h

/-! ### Performing -/

theorem memOk_perform {a : Access} (h : s.MemOk) : (perform a s).2.MemOk := by
  unfold perform
  split
  · exact memOk_doLoad h
  · exact memOk_doLoad h
  · exact memOk_doLoad h
  · exact memOk_doLoad h
  · exact memOk_doStore h
  · exact memOk_doStore h
  · exact memOk_doStore h
  · exact memOk_doIwrite h
  · exact memOk_doSpwait h
  · exact memOk_doPresence h
  · exact memOk_doPresence h
  · exact memOk_doAtomic h
  · exact memOk_doAtomic h
  · exact memOk_doAtomic h
  · exact memOk_doAtomic h
  · exact memOk_doAtomic h
  · exact memOk_doAtomic h
  · exact memOk_doAtomic h
  · exact memOk_doAtomic h
  · exact memOk_doAtomic h
  · exact memOk_doAtomic h
  · exact memOk_doAtomic h
  · exact memOk_doFence h
  · exact memOk_doFlushr h
  · exact memOk_doDiscr h
  · exact memOk_doBarrier h
  · exact memOk_doBarrier h
  · exact memOk_doBarrier h
  · exact memOk_doSemp h
  · exact memOk_doSemv h
  · exact memOk_doSemtry h
  · exact memOk_doSemdec h
  · exact memOk_doCopy h
  · exact memOk_doCopy h
  · exact memOk_doPort h
  · exact memOk_doNsend h
  · exact memOk_doNrecv h
  · exact memOk_doNfence h
  · exact memOk_doLaunch h
  · exact memOk_doLwait h
  · exact memOk_doRdsr h
  · exact memOk_doTload h
  · exact memOk_doTstore h
  · exact memOk_doTfill h
  · exact memOk_doTmma h
  · exact memOk_doTmma h
  · exact memOk_doTgrp h
  · exact memOk_doTcvt h
  · exact memOk_doTtrans h
  · exact memOk_doTscale h
  · exact memOk_doSyscfg h
  · exact memOk_doSysw h
  · exact memOk_doSysa h
  · exact memOk_doSysd h
  · exact memOk_doStrmOpen h
  · exact memOk_doStrmSub h
  · exact memOk_doStrmPub h
  · exact memOk_doCloseEnd h
  · exact memOk_doCloseLeave h
  · exact memOk_doGather h
  · exact memOk_doGathert h
  · exact memOk_doScatter h
  · exact memOk_doScatadd h
  · exact memOk_pair h

theorem memOk_settle {id : Nat} {r : Try × State} (h : r.2.MemOk) : (settle id r).MemOk := by
  unfold settle
  split
  · exact h
  · exact memOk_modAccess h
  · exact memOk_modAccess h
  · exact memOk_modAccess h
  · exact memOk_modAccess h
  · split
    · exact memOk_ite (memOk_dropAccess h) (memOk_ite (memOk_modAccess h) (memOk_modAccess h))
    · exact h

theorem memOk_forceReads {a : Access} (h : s.MemOk) : (forceReads a s).MemOk := by
  unfold forceReads
  split
  · exact memOk_ite h (memOk_foldl (fun _ _ h => memOk_captureRead (memOk_captureCopy h)) h)
  · exact h

theorem memOk_attempt {id : Nat} (h : s.MemOk) : (attempt id s).MemOk := by
  unfold attempt
  split
  · exact h
  · exact memOk_ite h (memOk_ite (memOk_settle (memOk_perform (memOk_forceReads h))) (memOk_forceReads h))

theorem memOk_issueAccess {id : Nat} (h : s.MemOk) : (issueAccess id s).MemOk := by
  unfold issueAccess
  split
  · exact h
  · dsimp only
    split
    · refine memOk_dropAccess ?_
      split
      · exact memOk_stepEpisode h
      · exact h
    · refine memOk_ite (memOk_issueRdsr (memOk_copyIssue (memOk_modAccess (memOk_with ?_)))) (memOk_captureCopy (memOk_attempt
        (memOk_issueRdsr (memOk_copyIssue (memOk_modAccess (memOk_with ?_))))))
      · split
        · exact memOk_stepEpisode h
        · exact h
      · split
        · exact memOk_stepEpisode h
        · exact h

theorem memOk_submit {i : Instr} {f : Firing} {a b c : Nat} (h : s.MemOk) : (submit i f a b c s).MemOk := by
  unfold submit
  dsimp only
  split
  · split
    · exact memOk_ite (memOk_issueAccess (memOk_addAccess (memOk_ensureEpisode h))) (memOk_addAccess (memOk_ensureEpisode h))
    · exact memOk_addAccess (memOk_ensureEpisode h)
  · refine memOk_ite ?_ (memOk_captureCopy (memOk_attempt ?_))
    · split
      · exact memOk_copyIssue (memOk_addAccess h)
      · exact memOk_addAccess h
    · split
      · exact memOk_copyIssue (memOk_addAccess h)
      · exact memOk_addAccess h

/-! ### Events -/

theorem memOk_evOrderedIssue {t : Nat} (h : s.MemOk) : (evOrderedIssue t s).MemOk := by
  unfold evOrderedIssue
  split
  · exact memOk_ite h (memOk_issueAccess h)
  · exact h

theorem memOk_fromPort {since : Nat} (h : s.MemOk) : (fromPort since s).MemOk := memOk_with h

theorem memOk_toArea {since core l : Nat} (h : s.MemOk) : (toArea since core l s).MemOk := memOk_with (memOk_areaWrite h)

theorem memOk_eccEffect {a : Access} {ecc : Ecc} (h : s.MemOk) : (eccEffect a ecc s).MemOk := by
  unfold eccEffect
  split
  · exact h
  · exact h
  · exact memOk_logCe h
  · exact memOk_memUe (memOk_parts h (bad := tabWf_put _ _))
  · exact memOk_abortOf (memOk_logUe h)

theorem memOk_respond {a : Access} (h : s.MemOk) : (respond a s).MemOk := by
  unfold respond
  refine memOk_ite (memOk_retireTeam ?_) ?_
  · refine memOk_ite (memOk_fenceOff ?_) ?_
    · exact memOk_ite (memOk_acquireFor (memOk_clearHang (memOk_dropAccess h))) (memOk_clearHang (memOk_dropAccess h))
    · exact memOk_ite (memOk_acquireFor (memOk_clearHang (memOk_dropAccess h))) (memOk_clearHang (memOk_dropAccess h))
  split
  · refine memOk_ite (memOk_fromPort (memOk_emit ?_)) (memOk_toArea (memOk_emit ?_))
    · refine memOk_ite (memOk_fenceOff ?_) ?_
      · exact memOk_ite (memOk_acquireFor (memOk_clearHang (memOk_dropAccess h))) (memOk_clearHang (memOk_dropAccess h))
      · exact memOk_ite (memOk_acquireFor (memOk_clearHang (memOk_dropAccess h))) (memOk_clearHang (memOk_dropAccess h))
    · refine memOk_ite (memOk_fenceOff ?_) ?_
      · exact memOk_ite (memOk_acquireFor (memOk_clearHang (memOk_dropAccess h))) (memOk_clearHang (memOk_dropAccess h))
      · exact memOk_ite (memOk_acquireFor (memOk_clearHang (memOk_dropAccess h))) (memOk_clearHang (memOk_dropAccess h))
  · refine memOk_ite (memOk_fenceOff ?_) ?_
    · exact memOk_ite (memOk_acquireFor (memOk_clearHang (memOk_dropAccess h))) (memOk_clearHang (memOk_dropAccess h))
    · exact memOk_ite (memOk_acquireFor (memOk_clearHang (memOk_dropAccess h))) (memOk_clearHang (memOk_dropAccess h))

theorem memOk_evAccessResponse {id : Nat} {ecc : Ecc} (h : s.MemOk) : (evAccessResponse id ecc s).MemOk := by
  unfold evAccessResponse
  split
  · exact h
  · refine memOk_ite h ?_
    dsimp only
    split
    · refine memOk_ite (memOk_captureCopy (memOk_attempt h)) ?_
      exact memOk_ite (memOk_respond (memOk_eccEffect (memOk_captureCopy (memOk_attempt h)))) (memOk_eccEffect (memOk_captureCopy
          (memOk_attempt h)))
    · exact memOk_captureCopy (memOk_attempt h)

theorem memOk_evCopyWordArrival {id w : Nat} (h : s.MemOk) : (evCopyWordArrival id w s).MemOk := by
  unfold evCopyWordArrival
  split
  · exact memOk_ite (memOk_copyWord h) h
  · exact h

theorem memOk_evStrmCopy {id sub : Nat} (h : s.MemOk) : (evStrmCopy id sub s).MemOk := by
  unfold evStrmCopy
  split
  · exact memOk_ite (memOk_copyToSub h) h
  · exact h

theorem memOk_evSemWake {core launch team sem : Nat} (h : s.MemOk) : (evSemWake core launch team sem s).MemOk :=
  memOk_ite h (memOk_foldl (fun _ _ h => memOk_attempt (memOk_modAccess h)) h)

theorem memOk_resumeAccess {id : Nat} (h : s.MemOk) : (resumeAccess id s).MemOk := by
  unfold resumeAccess
  split
  · exact h
  · split
    · exact memOk_ite (memOk_attempt (memOk_modAccess h)) (memOk_modAccess h)
    · exact memOk_ite (memOk_attempt (memOk_modAccess h)) (memOk_modAccess h)
    · exact memOk_attempt (memOk_modAccess h)

theorem memOk_evParkResume {id : Nat} (h : s.MemOk) : (evParkResume id s).MemOk := by
  unfold evParkResume
  split
  · exact h
  · split
    · exact memOk_ite h (memOk_ite (memOk_with (memOk_dropAccess h)) (memOk_resumeAccess h))
    · exact h

/-! ### The Hamper -/

theorem memOk_stackFails {key : Nat} {l : Launch} {va : Nat} {x : Xl} (h : s.MemOk) : (stackFails key l va x s).MemOk := by
  unfold stackFails
  extract_lets vt fr r fatal
  have hfatal {cause r : Nat} : (fatal cause r).MemOk := memOk_abortLaunch (memOk_fatalFault h)
  split
  · exact h
  · refine memOk_ite hfatal ?_
    split
    exact memOk_with (memOk_of_pair ‹_› (memOk_parkFault h))
  · exact hfatal
  · exact hfatal
  · exact memOk_abortLaunch h
  · exact memOk_ueAbort h

theorem memOk_setRingRow {key pos : Nat} {row : List Byte} (h : s.MemOk) : (setRingRow key pos row s).MemOk :=
  memOk_foldl (fun _ _ h => memOk_setLvs h) (memOk_with h)

theorem memOk_stackUe {key id : Nat} {e : Nat × Nat × Nat} (h : s.MemOk) : (stackUe key id e s).MemOk := memOk_ueAbort h

theorem memOk_exchange {key pos : Nat} {c : Crew} {l : Launch} (h : s.MemOk) : (exchange key pos c l s).2.MemOk := by
  unfold exchange
  dsimp only
  split
  · split
    · split
      · exact memOk_pair (memOk_stackUe h)
      · exact memOk_pair (memOk_with (memOk_setRingRow (memOk_writeSys _ _ h)))
    · exact memOk_pair (memOk_stackFails h)
  · exact memOk_pair (memOk_stackFails h)

theorem memOk_moveRows {key k : Nat} (h : s.MemOk) : (moveRows key k s).MemOk := by
  induction k generalizing s with
  | zero => exact h
  | succ k ih =>
    unfold moveRows
    split
    · exact h
    split
    · exact memOk_with h
    split
    · exact h
    split
    · exact ih (memOk_of_pair ‹_› (memOk_exchange h))
    · exact memOk_of_pair ‹_› (memOk_exchange h)

theorem memOk_wakeWindow {key : Nat} (h : s.MemOk) : (wakeWindow key s).MemOk := memOk_with h

theorem memOk_evHamperMove {core : Nat} (h : s.MemOk) : (evHamperMove core s).MemOk := by
  unfold evHamperMove
  refine memOk_ite h ?_
  dsimp only
  split
  · exact memOk_wakeWindow (memOk_moveRows h)
  · split
    · exact h
    · split
      · exact h
      · exact memOk_wakeWindow (memOk_moveRows (memOk_with h))

/-! ### Reading a lane's word wherever it stands (R193) -/

theorem memOk_stackBars {key : Nat} {l : Launch} {b : StackBar} (h : s.MemOk) : (stackBars key l b s).MemOk := by
  unfold stackBars
  split
  · exact h
  · exact memOk_stackFails h
  · exact memOk_stackUe h

/-! ### Lanes -/

theorem keepsMem_vecNode2 {n : Node} {i : Instr} {g : Nat → Nat → Nat} (h : s.MemOk) : KeepsMem (vecNode2 n i g s) := keepsMem_calc2 h

/-! ### Scaling and converting (R334 to R336) -/

theorem keepsMem_execSrnd {n : Node} {r : Round} (h : s.MemOk) : KeepsMem (execSrnd n r s) := by
  unfold execSrnd
  refine keepsMem_runNode (fun _ _ _ h => ?_) h
  split
  exact memOk_emit (memOk_of_pair ‹_› (memOk_drawIf h))

theorem keepsMem_execVcvt {n : Node} {from_ : Ty} {r : Round} {pos : Fin 8} (h : s.MemOk) : KeepsMem (execVcvt n from_ r pos s) := by
  unfold execVcvt
  refine keepsMem_runNode (fun _ _ _ h => ?_) h
  split
  exact memOk_emit (memOk_of_pair ‹_› (memOk_drawIf h))

/-! ### Crew collectives CPOLL to KWR and the crew joins CBAR and CSYNC (R192 to R194, R338 to R345, R388, R428) -/

theorem memOk_holdDue {since : Nat} (h : s.MemOk) : (holdDue since s).MemOk := memOk_with h

theorem memOk_emitAll {n : Node} {net : Net} {f : Firing} {rs : List (Member × Nat)} (h : s.MemOk) : (emitAll n net f rs s).MemOk :=
  memOk_holdDue (memOk_foldl (fun _ _ h => memOk_emit h) h)

theorem keepsMem_joinNode {go : Firing → List Member → State → State} (hgo : ∀ f ms t, t.MemOk → (go f ms t).MemOk) (h : s.MemOk) :
    KeepsMem (joinNode go s) := by
  refine keepsMem_next ?_
  split
  · exact h
  · exact hgo _ _ _ (memOk_with h)

theorem keepsMem_sourceNode {slot : Nat} {t : Ty} {go : Firing → List Member → List Nat → State → State}
    (hgo : ∀ f ms vs t, t.MemOk → (go f ms vs t).MemOk) (h : s.MemOk) : KeepsMem (sourceNode slot t go s) := by
  refine keepsMem_joinNode (fun f ms t h => ?_) h
  split
  · exact hgo _ _ _ _ h
  · split
    · exact memOk_stackBars (memOk_with h)
    · exact h

/-! ### KWR (R428) -/

theorem memOk_writeK {f : Firing} {k v : Nat} (h : s.MemOk) : (writeK f k v s).MemOk := memOk_foldl (fun _ _ h => memOk_putWord h) h

/-! ### Shootdown (R76, R77) -/

theorem memOk_startInv {sp scope size va : Nat} (h : s.MemOk) : (startInv sp scope size va s).MemOk := memOk_with h

theorem keepsMem_execShootdown {d : Word32} (h : s.MemOk) : KeepsMem (execShootdown d s) :=
  keepsMem_next (memOk_ite h (memOk_ite (memOk_with (memOk_with h)) (memOk_startInv (memOk_with h))))

/-! ### The fault ring and the driver's answers (R81 to R84) -/

theorem keepsMem_execXlatFqEnable {d : Word32} (h : s.MemOk) : KeepsMem (execXlatFqEnable d s) :=
  keepsMem_next (memOk_ite h (memOk_serveFaults (memOk_with h)))

theorem keepsMem_execXlatFqConsWrite {d : Word32} (h : s.MemOk) : KeepsMem (execXlatFqConsWrite d s) :=
  keepsMem_next (memOk_ite (memOk_serveFaults (memOk_with h)) h)

theorem memOk_wakeFault {key : Nat} (h : s.MemOk) : (wakeFault key s).MemOk := memOk_with h

theorem memOk_dropFault {key : Nat} (h : s.MemOk) : (dropFault key s).MemOk := memOk_with h

theorem memOk_badResponse (h : s.MemOk) : (badResponse s).MemOk := memOk_with h

theorem keepsMem_execRetry (h : s.MemOk) : KeepsMem (execRetry s) := by
  unfold execRetry
  refine keepsMem_next ?_
  refine memOk_ite h ?_
  split
  · exact memOk_badResponse h
  · exact memOk_serveFaults (memOk_wakeFault (memOk_dropFault h))

theorem memOk_stopQueue {q err : Nat} (h : s.MemOk) : (stopQueue q err s).MemOk := memOk_modQueue h

theorem memOk_endRecord {q : Nat} {w : Waiting} {cause : Nat} (h : s.MemOk) : (endRecord q w cause s).MemOk :=
  memOk_modQueue (memOk_with h)

theorem keepsMem_execFatal (h : s.MemOk) : KeepsMem (execFatal s) := by
  unfold execFatal
  refine keepsMem_next ?_
  refine memOk_ite h ?_
  split
  · exact memOk_badResponse h
  · refine memOk_serveFaults (memOk_dropFault ?_)
    refine memOk_foldl (fun _ _ h => ?_) ?_
    · exact memOk_ite (memOk_abortLaunch h) (memOk_badRec h)
    · refine memOk_foldl (fun _ _ h => ?_) ?_
      · exact memOk_ite (memOk_stopQueue h) (memOk_foldl (fun _ _ h => memOk_endRecord h) h)
      · exact memOk_foldl (fun _ _ h => memOk_abortLaunch h) h

/-! ### Spaces (R69, R49) -/

theorem keepsMem_execAsCtrlWrite {n : Fin 64} {d : Word32} (h : s.MemOk) : KeepsMem (execAsCtrlWrite n d s) :=
  keepsMem_next (memOk_ite h (memOk_ite (memOk_modSpace h) (memOk_ite h (memOk_modSpace h))))

/-! ### Queues (R85 to R90) -/

theorem memOk_queueMem {q va : Nat} (h : s.MemOk) : (queueMem q va s).2.MemOk := by
  unfold queueMem
  extract_lets sp rec_
  have hstop {r : Nat} : (stopQueue q 3 (fatalFault (rec_ r) s)).MemOk := memOk_stopQueue (memOk_fatalFault h)
  split
  · exact memOk_ite_pair (memOk_pair (memOk_stopQueue h)) (memOk_ite_pair (memOk_pair h) (memOk_pair h))
  · exact memOk_pair h
  · exact memOk_pair h
  · refine memOk_ite_pair (memOk_pair hstop) ?_
    split
    exact memOk_pair (memOk_modQueue (memOk_of_pair ‹_› (memOk_parkFault h)))
  · exact memOk_pair hstop
  · exact memOk_pair hstop

theorem memOk_readHead {q : Nat} (h : s.MemOk) : (readHead q s).MemOk := by
  unfold readHead
  refine memOk_ite h ?_
  split
  · exact memOk_modQueue (memOk_of_pair ‹_› (memOk_queueMem h))
  · exact memOk_of_pair ‹_› (memOk_queueMem h)

theorem memOk_readTail {q : Nat} (h : s.MemOk) : (readTail q s).MemOk := by
  unfold readTail
  refine memOk_ite (memOk_readHead h) ?_
  split
  · refine memOk_ite (memOk_stopQueue (memOk_of_pair ‹_› (memOk_queueMem (memOk_readHead h)))) ?_
    exact memOk_ite (memOk_stopQueue (memOk_of_pair ‹_› (memOk_queueMem (memOk_readHead h)))) (memOk_modQueue (memOk_of_pair ‹_›
        (memOk_queueMem (memOk_readHead h))))
  · exact memOk_of_pair ‹_› (memOk_queueMem (memOk_readHead h))

theorem keepsMem_execQueueEnable {q : Fin 64} {d : Word32} (h : s.MemOk) : KeepsMem (execQueueEnable q d s) :=
  keepsMem_next (memOk_ite h (memOk_ite (memOk_readTail (memOk_modQueue h)) (memOk_modQueue h)))

theorem keepsMem_execQueueDisable {q : Fin 64} {d : Word32} (h : s.MemOk) : KeepsMem (execQueueDisable q d s) :=
  keepsMem_next (memOk_ite h (memOk_ite (memOk_modQueue h) (memOk_modQueue h)))

/-! ### Dependency words (R139) -/

theorem memOk_readDep {q index i : Nat} (h : s.MemOk) : (readDep q index i s).MemOk := by
  unfold readDep
  split
  · exact h
  extract_lets sp va rec_ setW
  split
  · exact h
  · exact h
  · exact memOk_ite h (memOk_modQueue h)
  · refine memOk_ite (memOk_endRecord (memOk_fatalFault h)) ?_
    split
    exact memOk_modQueue (memOk_of_pair ‹_› (memOk_parkFault h))
  · exact memOk_endRecord (memOk_fatalFault h)
  · exact memOk_endRecord (memOk_fatalFault h)

theorem keepsMem_execRecordTake {q : Fin 64} (h : s.MemOk) : KeepsMem (execRecordTake q s) := by
  unfold execRecordTake
  refine keepsMem_next (memOk_ite h ?_)
  extract_lets q x i
  split
  · exact memOk_of_pair ‹_› (memOk_queueMem h)
  next e =>
  have ht := memOk_of_pair e (memOk_queueMem h)
  refine memOk_ite (memOk_stopQueue ht) ?_
  split
  · exact memOk_of_pair ‹_› (memOk_queueMem ht)
  next e =>
  have hu := memOk_of_pair e (memOk_queueMem ht)
  exact memOk_ite (memOk_endRecord (memOk_modQueue (memOk_writeSys _ _ hu)))
    (memOk_foldl (fun _ _ h => memOk_ite h (memOk_readDep h)) (memOk_modQueue (memOk_writeSys _ _ hu)))

/-! ### Placer rings (R149) -/

theorem keepsMem_execPlcRingEnable {die : Fin 4} {log : Bool} {d : Word32} (h : s.MemOk) :
    KeepsMem (execPlcRingEnable die log d s) :=
  keepsMem_next (memOk_ite h (memOk_with h))

/-! ### Hangs (R159, R160) -/

theorem memOk_attemptSc {id : Nat} (h : s.MemOk) : (attemptSc id s).MemOk := by
  unfold attemptSc
  split
  · exact h
  · exact memOk_with (memOk_attempt (memOk_with h))

theorem memOk_finishFlight {ids : List Nat} (h : s.MemOk) : (finishFlight ids s).MemOk := by
  unfold finishFlight
  refine memOk_foldl (fun _ _ h => ?_) h
  dsimp only
  split
  · split
    · exact memOk_foldl (fun _ _ h => memOk_copyWord h) (memOk_captureCopy (memOk_attemptSc (memOk_attempt h)))
    · exact memOk_foldl (fun _ _ h => memOk_copyWord h) (memOk_captureCopy (memOk_attemptSc (memOk_attempt h)))
    · exact memOk_captureCopy (memOk_attemptSc (memOk_attempt h))
  · exact memOk_captureCopy (memOk_attemptSc (memOk_attempt h))

theorem memOk_evHang {id : Nat} (h : s.MemOk) : (evHang id s).MemOk := by
  unfold evHang
  split
  · exact memOk_ite (memOk_abortLaunch (memOk_occupancyMap (memOk_finishFlight h))) h
  · exact h

theorem memOk_hangFirst {id : Nat} (h : s.MemOk) : (hangFirst id s).MemOk := memOk_evHang h

/-! ### Deadlines (R143) -/

theorem memOk_evDeadline {id : Nat} (h : s.MemOk) : (evDeadline id s).MemOk := by
  unfold evDeadline
  split
  · exact h
  · exact memOk_ite (memOk_abortLaunch (memOk_hangFirst h)) h

/-! ### Kills (R144, R145) -/

theorem memOk_killRecord {q index : Nat} (h : s.MemOk) : (killRecord q index s).MemOk := by
  unfold killRecord
  dsimp only
  split
  · exact memOk_endRecord (memOk_with h)
  · split
    · exact memOk_ite (memOk_with (memOk_abortLaunch (memOk_hangFirst h))) (memOk_abortLaunch (memOk_hangFirst h))
    · exact h

theorem memOk_startKill {d : Word32} {act : State → State} (ha : ∀ t, t.MemOk → (act t).MemOk) (h : s.MemOk) : (startKill d act s).MemOk :=
  memOk_ite h (ha _ (memOk_with h))

theorem keepsMem_execKill {d : Word32} (h : s.MemOk) : KeepsMem (execKill d s) :=
  keepsMem_next (memOk_startKill (fun _ h => memOk_killRecord h) h)

theorem keepsMem_execKillAll {d : Word32} (h : s.MemOk) : KeepsMem (execKillAll d s) :=
  keepsMem_next (memOk_startKill (fun _ h => memOk_foldl (fun _ _ h => memOk_killRecord h) h) h)

/-! ### Cluster reset (R200) -/

theorem memOk_clearFabrics {c : Nat} (h : s.MemOk) : (clearFabrics c s).MemOk := memOk_with h

theorem memOk_evClusterReset {c : Nat} (h : s.MemOk) : (evClusterReset c s).MemOk :=
  memOk_ite h (memOk_clearFabrics (memOk_foldl (fun _ _ h => memOk_abortLaunch (memOk_hangFirst h)) h))

theorem memOk_seamUnit {link : Nat} (h : s.MemOk) : (seamUnit link s).MemOk := memOk_ite (memOk_evClusterReset h) (memOk_with h)

/-! ### Kamub ports (R35) -/

theorem memOk_portFails {p : Nat} (h : s.MemOk) : (portFails p s).MemOk :=
  memOk_raiseAlert (memOk_foldl (fun _ _ h => memOk_abortOf (memOk_hangFirst h)) (memOk_with h))

/-! ### Tokens and firing (R167, R170 to R178, R192, R381) -/

theorem memOk_modToken {seq : Nat} {g : Token → Token} (h : s.MemOk) : (modToken seq g s).MemOk := memOk_with h

theorem memOk_dropToken {seq : Nat} (h : s.MemOk) : (dropToken seq s).MemOk := memOk_with h

/-! ### Into the store (R170, R174) -/

theorem memOk_stayOut {k : Token} (h : s.MemOk) : (stayOut k s).MemOk := memOk_ite (memOk_modToken h) h

theorem memOk_enterStore {i : Instr} {k : Token} (h : s.MemOk) : (enterStore i k s).MemOk := by
  unfold enterStore
  refine memOk_ite ?_ ?_
  · exact memOk_ite (memOk_modToken h) (memOk_stayOut h)
  refine memOk_ite (memOk_modToken h) ?_
  refine memOk_ite (memOk_stayOut h) ?_
  dsimp only
  split
  · exact memOk_ite (memOk_modToken (memOk_modToken (memOk_areaWrite h))) (memOk_modToken (memOk_areaWrite h))
  · exact memOk_modToken (memOk_areaWrite h)

theorem memOk_takeJoin {n : Node} {k : Token} {enter : Token → State → State} (he : ∀ k t, t.MemOk → (enter k t).MemOk) (h : s.MemOk) :
    (takeJoin n k enter s).MemOk := by
  unfold takeJoin
  extract_lets mask t
  have ht : t.MemOk := memOk_ite h (memOk_with h)
  exact memOk_ite (memOk_dropToken ht) (memOk_ite (memOk_trapNode ht) (he _ _ ht))

theorem memOk_takeCombine {n : Node} {op : CombOp} {k : Token} {enter : Token → State → State} (he : ∀ k t, t.MemOk → (enter k t).MemOk)
    (h : s.MemOk) : (takeCombine n op k enter s).MemOk := by
  unfold takeCombine
  dsimp only
  split
  · exact memOk_modToken (memOk_dropToken h)
  · exact memOk_ite (memOk_abortOf h) (he _ _ h)

theorem memOk_takeIn {i : Instr} {k : Token} {enter : Token → State → State} (he : ∀ k t, t.MemOk → (enter k t).MemOk) (h : s.MemOk) :
    (takeIn i k enter s).MemOk := by
  refine memOk_ite h ?_
  split
  · exact memOk_ite (he _ _ h) (memOk_takeCombine he h)
  · split
    · exact memOk_ite (he _ _ h) (memOk_takeJoin he h)
    · exact he _ _ h

theorem memOk_returnUnit {k : Token} (h : s.MemOk) : (returnUnit k s).MemOk := by
  unfold returnUnit
  split
  · exact memOk_seamUnit h
  · exact h

theorem memOk_crossSeam {k : Token} (h : s.MemOk) : (crossSeam k s).MemOk := memOk_ite h (memOk_returnUnit (memOk_with h))

theorem memOk_takePlace {k : Token} (h : s.MemOk) : (takePlace k s).MemOk := memOk_ite h (memOk_modToken h)

theorem memOk_evTokenArrive {ix : Nat} (h : s.MemOk) : (evTokenArrive ix s).MemOk := by
  unfold evTokenArrive
  split
  · exact h
  · refine memOk_ite (memOk_ite (memOk_takePlace h) h) ?_
    refine memOk_ite h ?_
    split
    · exact memOk_dropToken h
    · refine memOk_ite (memOk_crossSeam h) ?_
      refine memOk_ite ?_ (memOk_returnUnit ?_)
      · exact memOk_takeIn (fun _ _ h => memOk_enterStore h) h
      · exact memOk_takeIn (fun _ _ h => memOk_enterStore h) h

/-! ### Back from the overflow area (R175) -/

theorem memOk_returnStore {i : Instr} {k : Token} (h : s.MemOk) : (returnStore i k s).MemOk := by
  unfold returnStore
  refine memOk_ite (memOk_modToken h) ?_
  refine memOk_ite (memOk_ite (memOk_modToken h) h) ?_
  refine memOk_ite ?_ h
  split
  · exact memOk_modToken (memOk_modToken (memOk_areaWrite h))
  · exact h

theorem memOk_evTokenReturn {ix : Nat} (h : s.MemOk) : (evTokenReturn ix s).MemOk := by
  unfold evTokenReturn
  split
  · exact h
  · refine memOk_ite h ?_
    split
    · exact memOk_dropToken h
    · split
      · exact memOk_takeIn (fun _ _ h => memOk_returnStore h) (memOk_of_pair ‹_› (memOk_areaRead h))
      · exact memOk_of_pair ‹_› (memOk_areaRead h)

/-! ### Ages (R170) -/

theorem memOk_evAgeRenumber {core : Nat} (h : s.MemOk) : (evAgeRenumber core s).MemOk := by
  unfold evAgeRenumber
  dsimp only
  split
  · exact h
  · exact memOk_ite h (memOk_with h)

theorem keepsMem_execDepartureComplete {t : Nat} (h : s.MemOk) : KeepsMem (execDepartureComplete t s) := by
  unfold execDepartureComplete
  refine keepsMem_next ?_
  split
  · exact memOk_ite (memOk_completeDeparture h) h
  · exact h

/-! ### Candidates (R172, R173, R178, R306, R307) -/

theorem memOk_usePe {pe : Nat} {held : Bool} (h : s.MemOk) : (usePe pe held s).MemOk := memOk_with h

theorem memOk_beginFire {pe : Nat} {i : Instr} {f : Firing} (h : s.MemOk) : (beginFire pe i f s).MemOk :=
  memOk_with (memOk_clearHang (memOk_usePe (memOk_with h)))

/-! ### Choosing victims (R150) -/

theorem memOk_replayVictim {id : Nat} (h : s.MemOk) : (replayVictim id s).MemOk :=
  memOk_ite (memOk_evHang h) (memOk_abortLaunch (memOk_modLaunch (memOk_with h)))

theorem memOk_takeVictim {id : Nat} (h : s.MemOk) : (takeVictim id s).MemOk := by
  unfold takeVictim
  split
  · exact h
  · dsimp only
    split
    · exact memOk_ite (memOk_replayVictim h) (memOk_modLaunch h)
    · exact memOk_replayVictim h

theorem memOk_evPreempt {id : Nat} (h : s.MemOk) : (evPreempt id s).MemOk := by
  unfold evPreempt
  split
  · exact h
  · exact memOk_ite h (memOk_foldl (fun _ _ h => memOk_takeVictim h) h)

/-! ### Moving a unit between homes -/

theorem memOk_moveUnit {teams : List Nat} {m : CrewMap} {core : Nat} (h : s.MemOk) : (moveUnit teams m core s).MemOk := memOk_with h

theorem memOk_toAreaOrArc {l : Nat} {p : Token → Bool} (h : s.MemOk) : (toAreaOrArc l p s).MemOk :=
  memOk_with (memOk_areaWrite (memOk_with h))

theorem memOk_leaveBlock {mine : Nat → Bool} {l b : Nat} (h : s.MemOk) : (leaveBlock mine l b s).MemOk := memOk_with (memOk_toAreaOrArc h)

/-! ### Saving (R152, R154) -/

theorem memOk_takeBack {l : Nat} {mine : Nat → Bool} (h : s.MemOk) : (takeBack l mine s).MemOk := memOk_toAreaOrArc (memOk_with h)

theorem memOk_writeLstart {at_ : Nat} {u : SavedUnit} {units : List SavedUnit} (h : s.MemOk) : (writeLstart at_ u units s).MemOk := by
  unfold writeLstart
  split
  · exact memOk_writeSys _ _ h
  · exact h

theorem memOk_writeLstarts {units us : List SavedUnit} {at_ : Nat} (h : s.MemOk) : (writeLstarts units us at_ s).MemOk := by
  induction us generalizing at_ s with
  | nil => exact h
  | cons u us ih => exact ih (memOk_ite (memOk_writeLstart h) h)

theorem memOk_finishSave {top : Nat} (h : s.MemOk) : (finishSave top s).MemOk := by
  unfold finishSave
  split
  · exact h
  · exact memOk_with (memOk_writeSys _ _ (memOk_writeLstarts h))

theorem memOk_fitStream {l : Launch} {t : State} (e : fitStream l s = some t) (h : s.MemOk) : t.MemOk := by
  unfold fitStream at e
  dsimp only at e
  split at e
  · cases e; exact h
  · obtain ⟨o, -, rfl⟩ := Option.map_eq_some_iff.mp e
    exact memOk_modLaunch h

theorem memOk_evSave {id : Nat} (h : s.MemOk) : (evSave id s).MemOk := by
  unfold evSave
  split
  · exact h
  · refine memOk_ite h ?_
    refine memOk_ite (memOk_modLaunch h) ?_
    refine memOk_ite (memOk_replayVictim h) ?_
    split
    · exact memOk_replayVictim h
    · exact memOk_ite (memOk_finishSave (memOk_with (memOk_fitStream ‹_› h))) (memOk_with (memOk_fitStream ‹_› h))

theorem memOk_saveUnit {top id core : Nat} (h : s.MemOk) : (saveUnit top id core s).MemOk := by
  unfold saveUnit
  split
  · exact h
  · dsimp only
    refine memOk_modLaunch (memOk_with (memOk_moveUnit (memOk_writeSys _ _ (memOk_writeLstarts ?_))))
    exact memOk_foldl (fun _ _ h => memOk_leaveBlock h) (memOk_takeBack (memOk_drainDies h))

theorem memOk_evSaveDone {id core : Nat} (h : s.MemOk) : (evSaveDone id core s).MemOk := by
  unfold evSaveDone
  dsimp only
  split
  · exact h
  · refine memOk_ite h ?_
    split
    · exact memOk_finishSave h
    · exact memOk_ite h (memOk_ite (memOk_finishSave (memOk_saveUnit h)) (memOk_saveUnit h))

/-! ### Restoring (R45, R156) -/

theorem memOk_readCrews {p : List Byte} {crews : List Nat} (h : s.MemOk) : (readCrews p crews s).MemOk := memOk_with h

theorem memOk_readLvs {p : List Byte} {crews : List Nat} (h : s.MemOk) : (readLvs p crews s).MemOk := memOk_with h

theorem memOk_readUniform {p : List Byte} {crews : List Nat} (h : s.MemOk) : (readUniform p crews s).MemOk := memOk_with h

theorem memOk_readThreads {crews : List Nat} {g : Nat → Thread → Thread} (h : s.MemOk) : (readThreads crews g s).MemOk := memOk_with h

theorem memOk_readMatch {p : List Byte} {l : Nat} {crews : List Nat} (h : s.MemOk) : (readMatch p l crews s).MemOk := memOk_with h

theorem memOk_readScratch {p : List Byte} {teams : List Nat} {size : Nat} (h : s.MemOk) : (readScratch p teams size s).MemOk :=
  memOk_foldl (fun _ _ h => memOk_foldl (fun _ _ h => memOk_ite h (memOk_clearPresent h)) (memOk_padWrite h)) h

theorem memOk_readUnit {p : List Byte} {keys crews : List Nat} (h : s.MemOk) : (readUnit p keys crews s).MemOk :=
  memOk_foldl (fun _ _ h => memOk_modTeam h) h

theorem memOk_readParked {p : List Byte} {crews : List Nat} (h : s.MemOk) : (readParked p crews s).MemOk := memOk_with h

theorem memOk_readOverflow {p : List Byte} {core : Nat} (h : s.MemOk) : (readOverflow p core s).MemOk := memOk_with h

theorem memOk_readConfig {p : List Byte} {id : Nat} (h : s.MemOk) : (readConfig p id s).MemOk :=
  memOk_foldl (fun _ _ h => memOk_modLaunch h) h

theorem memOk_readSync {p : List Byte} {teams : List Nat} (h : s.MemOk) : (readSync p teams s).MemOk := by
  unfold readSync
  refine memOk_foldl (fun _ _ h => ?_) (memOk_with h)
  split
  · split
    · exact memOk_putBarrier h
    · exact h
  · exact h

theorem memOk_readRecord {id core : Nat} {teams : List Team} {tag : Nat} {p : List Byte} (h : s.MemOk) :
    (readRecord id core teams tag p s).MemOk := by
  unfold readRecord
  refine memOk_ite (memOk_readUnit h) ?_
  refine memOk_ite (memOk_readCrews h) ?_
  refine memOk_ite (memOk_readLvs h) ?_
  refine memOk_ite (memOk_readUniform h) ?_
  refine memOk_ite (memOk_readThreads h) ?_
  refine memOk_ite (memOk_readThreads h) ?_
  refine memOk_ite (memOk_readThreads h) ?_
  refine memOk_ite (memOk_readMatch h) ?_
  refine memOk_ite (memOk_readParked h) ?_
  refine memOk_ite (memOk_readOverflow h) ?_
  exact memOk_ite (memOk_readSync h) (memOk_ite (memOk_readScratch h) (memOk_ite (memOk_readConfig h) h))

theorem memOk_readStarts {recs : List (Nat × Nat × List Byte)} {units : List SavedUnit} (h : s.MemOk) :
    (readStarts recs units s).MemOk :=
  memOk_foldl (fun _ _ h => memOk_modLaunch h) h

theorem memOk_readUnits {recs : List (Nat × Nat × List Byte)} {us : List (SavedUnit × Nat)} {number : Nat} (h : s.MemOk) :
    (readUnits recs us number s).MemOk := by
  induction us generalizing number s with
  | nil => exact h
  | cons u us ih => exact ih (memOk_foldl (fun _ _ h => memOk_readRecord h) h)

theorem memOk_joinPlaced {mine : Nat → Bool} {p : Placed} (h : s.MemOk) : (joinPlaced mine p s).MemOk := by
  unfold joinPlaced
  dsimp only
  split
  · exact memOk_housePlaced h
  · exact memOk_ite h (memOk_housePlaced (memOk_with h))

theorem memOk_restoreUnit {top : Nat} {u : SavedUnit} {core : Nat} (h : s.MemOk) : (restoreUnit top u core s).MemOk :=
  memOk_foldl (fun _ _ h => memOk_joinPlaced h) (memOk_joinDie (memOk_acquireWork (memOk_moveUnit (memOk_with h))))

theorem memOk_evRestore {id : Nat} (h : s.MemOk) : (evRestore id s).MemOk := by
  unfold evRestore
  refine memOk_ite h ?_
  dsimp only
  split
  · refine memOk_ite (memOk_noteHeads h) ?_
    split
    · exact memOk_noteHeads h
    · split
      · exact memOk_ueAbort (memOk_noteHeads h)
      · refine memOk_ite (memOk_abortLaunch (memOk_noteHeads h)) (memOk_chargeFair (memOk_with ?_))
        exact memOk_foldl (fun _ _ h => memOk_restoreUnit h) (memOk_readUnits (memOk_readStarts (memOk_noteHeads h)))
  · exact memOk_noteHeads h

theorem memOk_evRestoreDone {id : Nat} (h : s.MemOk) : (evRestoreDone id s).MemOk := by
  unfold evRestoreDone
  split
  · exact h
  · exact memOk_ite h (memOk_with h)

/-! ### Page migration (R135, R147 to R149) -/

theorem memOk_modPlacer {die : Nat} {f : Placer → Placer} (h : s.MemOk) : (modPlacer die f s).MemOk := memOk_with h

theorem memOk_takeFrame {sp va die leaf : Nat} (h : s.MemOk) : (takeFrame sp va die leaf s).MemOk :=
  memOk_ite h (memOk_ite (memOk_modPlacer h) (memOk_modPlacer h))

theorem memOk_settlePage {frame : Nat} (h : s.MemOk) : (settlePage frame s).MemOk := memOk_foldl (fun _ _ h => memOk_rsbDrain _ _ h) h

theorem memOk_writeMoveLog {die : Nat} {j : Move} (h : s.MemOk) : (writeMoveLog die j s).MemOk := memOk_modPlacer (memOk_writeSys _ _ h)

theorem memOk_copyPage {old frame : Nat} (h : s.MemOk) : (copyPage old frame s).MemOk :=
  memOk_foldl (fun _ _ h => memOk_dropCopies _ h) (memOk_writeSys _ _ (memOk_settlePage h))

theorem memOk_finishMove {die : Nat} {j : Move} (h : s.MemOk) : (finishMove die j s).MemOk := by
  unfold finishMove
  extract_lets old abandon c
  have hc : c.MemOk := memOk_copyPage h
  have habandon : (abandon c).MemOk := memOk_modPlacer hc
  refine memOk_ite h ?_
  split
  · exact habandon
  · exact memOk_ite habandon (memOk_writeMoveLog (memOk_with (memOk_writeSys _ _ hc)))

/-- The base of the large page that an address lies in, as `evPageMigrate` takes it. -/
def vaPage (va : Word64) : Nat := va.toNat % 2 ^ 54 / 2 ^ 21 * 2 ^ 21

theorem evPageMigrate_of_job {sp : Fin 64} {va : Word64} {die : Fin 4} {j : Move} (hj : (placer s die.val).job = some j) :
    evPageMigrate sp va die s =
      if !coresRun s || !s.disp.migrate then s else if j.space = sp.val ∧ j.va = vaPage va then finishMove die.val j s else s := by
  unfold evPageMigrate
  extract_lets page p
  rw [show p.job = _ from hj]
  rfl

theorem evPageMigrate_of_leaf {sp : Fin 64} {va : Word64} {die : Fin 4} {level leaf : Nat} (hj : (placer s die.val).job = none)
    (hw : walk s sp.val (vaPage va) = .leaf level leaf) :
    evPageMigrate sp va die s =
      if !coresRun s || !s.disp.migrate then s
      else if movable s die.val level leaf && (placer s die).freeOn && (placer s die).freeProd != (placer s die).freeCons &&
        logRoom (placer s die) then takeFrame sp.val (vaPage va) die.val leaf s else s := by
  unfold vaPage at hw ⊢
  unfold evPageMigrate
  extract_lets page p
  generalize walk s sp.val page = w at hw ⊢
  subst hw
  rw [show p.job = _ from hj]

theorem evPageMigrate_of_noLeaf {sp : Fin 64} {va : Word64} {die : Fin 4} (hj : (placer s die.val).job = none)
    (hw : ∀ level leaf, walk s sp.val (vaPage va) ≠ .leaf level leaf) : evPageMigrate sp va die s = s := by
  unfold vaPage at hw
  unfold evPageMigrate
  extract_lets page p
  generalize walk s sp.val page = w at hw ⊢
  rw [show p.job = _ from hj]
  cases w with
  | leaf level leaf => exact absurd rfl (hw level leaf)
  | _ => exact ite_self s

theorem memOk_evPageMigrate {sp : Fin 64} {va : Word64} {die : Fin 4} (h : s.MemOk) : (evPageMigrate sp va die s).MemOk := by
  rcases hj : (placer s die.val).job with _ | j
  · by_cases hw : ∃ level leaf, walk s sp.val (vaPage va) = .leaf level leaf
    · obtain ⟨level, leaf, hw⟩ := hw
      rw [evPageMigrate_of_leaf hj hw]
      exact memOk_ite h (memOk_ite (memOk_takeFrame h) h)
    · rw [evPageMigrate_of_noLeaf hj fun level leaf e => hw ⟨level, leaf, e⟩]
      exact h
  · rw [evPageMigrate_of_job hj]
    exact memOk_ite h (memOk_ite (memOk_finishMove h) h)

/-! ### Slots -/

theorem memOk_modRambler {n : Nat} {f : Rambler → Rambler} (h : s.MemOk) : (modRambler n f s).MemOk := memOk_with h

theorem memOk_failSession {n err : Nat} (h : s.MemOk) : (failSession n err s).MemOk := memOk_modRambler h

/-! ### Handshake (R42) -/

theorem memOk_deriveKeys {n : Nat} {peerPub : List Byte} {hello reply : Hello} (h : s.MemOk) :
    (deriveKeys n peerPub hello reply s).MemOk := by
  unfold deriveKeys
  exact memOk_ite (memOk_failSession h) (memOk_modRambler h)

theorem memOk_startSlot {n : Nat} {src : Bool} {f : Fresh} (h : s.MemOk) : (startSlot n src f s).MemOk :=
  memOk_ite h (memOk_ite (memOk_failSession (memOk_modRambler h)) (memOk_modRambler h))

theorem memOk_evSend {n : Nat} {f : Fresh} (h : s.MemOk) : (evSend n f s).MemOk :=
  memOk_ite (memOk_modRambler (memOk_with (memOk_startSlot h))) (memOk_startSlot h)

theorem keepsMem_execSend {slot : Fin 4} {f : Fresh} (h : s.MemOk) : KeepsMem (execSend slot f s) := keepsMem_next (memOk_evSend h)

theorem keepsMem_execRecv {slot : Fin 4} {f : Fresh} (h : s.MemOk) : KeepsMem (execRecv slot f s) := keepsMem_next (memOk_startSlot h)

theorem memOk_evHello {n : Nat} {m : Hello} (h : s.MemOk) : (evHello n m s).MemOk :=
  memOk_ite h (memOk_ite (memOk_failSession h) (memOk_modRambler (memOk_with h)))

theorem memOk_evFinish {n : Nat} {sig : List Byte} (h : s.MemOk) : (evFinish n sig s).MemOk := by
  unfold evFinish
  dsimp only
  split
  · exact memOk_ite h (memOk_ite (memOk_failSession h) (memOk_deriveKeys h))
  · exact h

/-! ### Sending (R43, R44, R46, R47) -/

theorem memOk_sendRecord {n : Nat} {rec_ : List Byte} (h : s.MemOk) : (sendRecord n rec_ s).MemOk := memOk_modRambler (memOk_with h)

theorem memOk_sendPage {n : Nat} {e : Nat × Nat} (h : s.MemOk) : (sendPage n e s).MemOk :=
  memOk_sendRecord (memOk_modRambler (memOk_parts h (clean := tabWf_put _ _)))

theorem memOk_walkSpace {n : Nat} {every : Bool} (h : s.MemOk) : (walkSpace n every s).MemOk :=
  memOk_foldl (fun _ _ h => memOk_ite (memOk_sendPage h) h) h

theorem memOk_sendRoundEnd {n : Nat} (h : s.MemOk) : (sendRoundEnd n s).MemOk := memOk_modRambler (memOk_sendRecord h)

theorem memOk_evReply {n : Nat} {m : Hello} (h : s.MemOk) : (evReply n m s).MemOk := by
  unfold evReply
  dsimp only
  split
  · exact h
  · refine memOk_ite h ?_
    refine memOk_ite (memOk_failSession h) ?_
    refine memOk_ite (memOk_failSession h) ?_
    exact memOk_ite (memOk_walkSpace (memOk_sendRecord (memOk_deriveKeys (memOk_modRambler (memOk_with h))))) (memOk_deriveKeys
        (memOk_modRambler (memOk_with h)))

theorem memOk_evAck {n seq : Nat} (h : s.MemOk) : (evAck n seq s).MemOk :=
  memOk_ite h (memOk_ite (memOk_modRambler h) (memOk_ite (memOk_modRambler (memOk_modRambler h)) (memOk_ite (memOk_modRambler h)
      (memOk_ite (memOk_modRambler (memOk_modRambler h)) (memOk_sendRoundEnd (memOk_modRambler h))))))

theorem memOk_sendQueue {n q : Nat} (h : s.MemOk) : (sendQueue n q s).MemOk :=
  memOk_foldl (fun _ _ h => memOk_sendRecord h) (memOk_sendRecord h)

theorem memOk_closeFinal {n : Nat} (h : s.MemOk) : (closeFinal n s).MemOk :=
  memOk_modRambler (memOk_sendRecord (memOk_foldl (fun _ _ h => memOk_sendQueue h) (memOk_sendRoundEnd h)))

theorem memOk_walkFinal {n : Nat} (h : s.MemOk) : (walkFinal n s).MemOk :=
  memOk_ite (memOk_walkSpace h) (memOk_ite h (memOk_closeFinal h))

theorem memOk_evRound {n : Nat} (h : s.MemOk) : (evRound n s).MemOk :=
  memOk_ite h (memOk_ite (memOk_walkFinal h) (memOk_ite h (memOk_ite (memOk_walkFinal (memOk_modRambler h)) (memOk_ite
      (memOk_sendRoundEnd (memOk_walkSpace (memOk_modRambler h))) (memOk_walkSpace (memOk_modRambler h))))))

/-! ### Cut-over (R48, R49, R51) -/

theorem memOk_evCut {n : Nat} (h : s.MemOk) : (evCut n s).MemOk := memOk_ite h (memOk_modSpace (memOk_modRambler h))

theorem keepsMem_execCut {slot : Fin 4} (h : s.MemOk) : KeepsMem (execCut slot s) := keepsMem_next (memOk_evCut h)

theorem memOk_cutLaunch {id : Nat} (h : s.MemOk) : (cutLaunch id s).MemOk := by
  unfold cutLaunch
  split
  · exact h
  · refine memOk_ite (memOk_evHang h) ?_
    refine memOk_ite (memOk_abortLaunch h) ?_
    dsimp only
    split
    · exact memOk_ite (memOk_modLaunch (memOk_abortLaunch h)) (memOk_abortLaunch h)
    · exact memOk_abortLaunch h

theorem memOk_evGraceExpiry {n : Nat} (h : s.MemOk) : (evGraceExpiry n s).MemOk := by
  unfold evGraceExpiry
  dsimp only
  split
  · exact h
  · exact memOk_ite h (memOk_modSpace (memOk_modRambler (memOk_foldl (fun _ _ h => memOk_cutLaunch h) h)))

theorem memOk_evResume {n : Nat} (h : s.MemOk) : (evResume n s).MemOk :=
  memOk_ite h (memOk_ite (memOk_modRambler h) (memOk_modSpace (memOk_modRambler h)))

theorem keepsMem_execResume {slot : Fin 4} (h : s.MemOk) : KeepsMem (execResume slot s) := keepsMem_next (memOk_evResume h)

theorem keepsMem_execCancel {slot : Fin 4} (h : s.MemOk) : KeepsMem (execCancel slot s) :=
  keepsMem_next (memOk_ite (memOk_failSession h) h)

/-! ### Receiving (R43 to R46, R50) -/

theorem memOk_writeLog {n : Nat} {data : List Byte} (h : s.MemOk) : (writeLog n data s).MemOk := by
  unfold writeLog
  refine memOk_ite (memOk_failSession h) ?_
  split
  · exact memOk_failSession h
  · exact memOk_modRambler (memOk_foldl (fun _ _ h => memOk_deviceWrite h) h)

theorem memOk_writePage {n key : Nat} {data : List Byte} (h : s.MemOk) : (writePage n key data s).MemOk := by
  unfold writePage
  dsimp only
  split
  · exact memOk_ite (memOk_deviceWrite h) (memOk_failSession h)
  · exact memOk_failSession h

theorem memOk_takeEnd {n seq : Nat} {r : Rec} (h : s.MemOk) : (takeEnd n seq r s).MemOk :=
  memOk_ite (memOk_modRambler h) (memOk_failSession h)

theorem memOk_takeRecord {n seq : Nat} {r : Rec} (h : s.MemOk) : (takeRecord n seq r s).MemOk :=
  memOk_ite (memOk_failSession h) (memOk_ite h (memOk_ite (memOk_writePage h) (memOk_ite (memOk_writePage h) (memOk_ite (memOk_writeLog
      h) (memOk_ite (memOk_modRambler (memOk_writeLog h)) (memOk_ite (memOk_takeEnd (memOk_writeLog h)) (memOk_writeLog h)))))))

theorem memOk_receiveFrame {n : Nat} {ours : Nat → Bool} {f : List Byte} (h : s.MemOk) : (receiveFrame n ours f s).MemOk := by
  unfold receiveFrame
  refine memOk_ite h ?_
  refine memOk_ite h ?_
  split
  · exact memOk_failSession h
  · exact memOk_ite h (memOk_takeRecord (memOk_modRambler h))

/-! ### The meanings of the device's own events on the Skim, memory and the dispatcher (R91, R109 to R136, R138, R211, -/

theorem keepsMem_whileRunning {f : State → State} (hf : ∀ t, t.MemOk → (f t).MemOk) (h : s.MemOk) : KeepsMem (whileRunning f s) :=
  keepsMem_next (memOk_ite (hf s h) h)

/-! ### Flow, call, loop and predicate nodes (R282 to R309), port-return and the nodes of an emulation handler (R195 to -/

theorem keepsMem_unlessHandler {k : Out} (hk : KeepsMem k) (h : s.MemOk) : KeepsMem (unlessHandler s k) := by
  unfold unlessHandler
  split
  · exact keepsMem_ite (keepsMem_next (memOk_with h)) hk
  · exact hk

/-! ### Bringing values in and out (R285 to R288) -/

theorem memOk_writeLive {t node : Nat} {o : Opd} {v : Nat} (h : s.MemOk) : (writeLive t node o v s).MemOk := by
  unfold writeLive
  split
  · exact memOk_ite (memOk_writePred h) (memOk_writeSlots h)
  · exact h

/-! ### Leaving a block (R295 to R304) -/

theorem memOk_callTo {i : Instr} {f : Firing} {k word : Nat} (h : s.MemOk) : (callTo i f k word s).MemOk := by
  unfold callTo
  dsimp only
  split
  · exact h
  · refine memOk_ite (memOk_abortOf h) ?_
    refine memOk_ite (memOk_trapNode h) ?_
    split
    · exact memOk_parkWindow h
    · exact memOk_depart (memOk_setSlot h)

theorem keepsMem_execRet {n : Node} (h : s.MemOk) : KeepsMem (execRet n s) := by
  unfold execRet
  refine keepsMem_unlessHandler ?_ h
  refine keepsMem_runNode (fun _ _ _ h => ?_) h
  refine memOk_ite (memOk_depart h) ?_
  refine memOk_ite (memOk_parkWindow h) ?_
  split
  · exact memOk_depart h
  · exact memOk_abortOf h

/-! ### Waves (R305 to R307) -/

theorem memOk_passBarrier {f : Firing} (h : s.MemOk) : (passBarrier f s).MemOk := memOk_modThread h

/-! ### Emulation (R195, R196) -/

theorem memOk_sendTo {f : Firing} {b r inv : Nat} {area : Bool} {items : List (Nat × Nat × Net × Nat)} (h : s.MemOk) :
    (sendTo f b r inv area items s).MemOk := by
  unfold sendTo
  dsimp only
  split
  · exact memOk_of_pair ‹_› (memOk_ite_pair (memOk_areaWrite h) (memOk_pair h))
  · exact memOk_foldl (fun _ _ h => memOk_with h) (memOk_of_pair ‹_› (memOk_ite_pair (memOk_areaWrite h) (memOk_pair h)))

theorem keepsMem_execUndef {w : NodeWord} (h : s.MemOk) : KeepsMem (execUndef w s) := by
  unfold execUndef
  refine keepsMem_next ?_
  split
  · exact h
  · refine memOk_ite (memOk_trapNode (memOk_with h)) ?_
    split
    · exact memOk_with h
    · exact memOk_ite (memOk_sendTo (memOk_with h)) (memOk_with (memOk_with h))

/-! ### Nodes of one, two and three operands of the node's type -/

theorem keepsMem_intNode1 {n : Node} {i : Instr} {g : Nat → Nat} (h : s.MemOk) : KeepsMem (intNode1 n i g s) := keepsMem_calc1 h

theorem keepsMem_intNode2 {n : Node} {i : Instr} {g : Nat → Nat → Nat} (h : s.MemOk) : KeepsMem (intNode2 n i g s) := keepsMem_calc2 h

theorem keepsMem_intNode3 {n : Node} {i : Instr} {g : Nat → Nat → Nat → Nat} (h : s.MemOk) : KeepsMem (intNode3 n i g s) :=
  keepsMem_calc3 h

/-! ### The memory, atomic, synchronisation, engine, network and child-launch nodes as they fire (R370 to R401) -/

theorem keepsMem_mem0 {n : Node} {i : Instr} (h : s.MemOk) : KeepsMem (mem0 n i s) := keepsMem_runNode (fun _ _ _ h => memOk_submit h) h

theorem keepsMem_mem1 {n : Node} {i : Instr} {a : Opd} (h : s.MemOk) : KeepsMem (mem1 n i a s) :=
  keepsMem_runNode (fun _ _ _ h => memOk_submit h) h

theorem keepsMem_mem2 {n : Node} {i : Instr} {a b : Opd} (h : s.MemOk) : KeepsMem (mem2 n i a b s) :=
  keepsMem_runNode (fun _ _ _ h => memOk_submit h) h

theorem keepsMem_mem3 {n : Node} {i : Instr} {a b c : Opd} (h : s.MemOk) : KeepsMem (mem3 n i a b c s) :=
  keepsMem_runNode (fun _ _ _ h => memOk_submit h) h

/-! ### Fences, flushes, prefetch (R382 to R385) -/

theorem memOk_prefLine {f : Firing} {l2 : Bool} {va : Nat} (h : s.MemOk) : (prefLine f l2 va s).MemOk := by
  unfold prefLine
  split
  · refine memOk_ite h ?_
    refine memOk_ite (memOk_ite h (memOk_keepCompCopy _ _ h)) ?_
    exact memOk_ite h (memOk_ite (memOk_keepCopy _ _ h) (memOk_l1Take _ _ _ _ (memOk_keepCopy _ _ h)))
  · exact h

/-! ### The system nodes ABORT to PROBE (R402 to R407) -/

theorem memOk_breakAt {f : Firing} {n : Node} {v : Nat} (h : s.MemOk) : (breakAt f n v s).MemOk :=
  memOk_ite (memOk_with h) (memOk_with (memOk_with h))

theorem keepsMem_execYield {n : Node} (h : s.MemOk) : KeepsMem (execYield n s) := by
  unfold execYield
  refine keepsMem_runNode (fun _ _ _ h => memOk_emit ?_) h
  split
  · exact memOk_modPlaced h
  · exact h

theorem keepsMem_execHalt {n : Node} (h : s.MemOk) : KeepsMem (execHalt n s) := by
  unfold execHalt
  refine keepsMem_runNode (fun _ _ _ h => ?_) h
  split
  · exact h
  · exact memOk_with h

/-! ### One register -/

theorem memOk_after {o : Out} (ho : KeepsMem o) (h : s.MemOk) : (after o s).MemOk := by
  unfold after
  split
  · exact ho _ rfl
  · exact h

theorem memOk_writeBoot {d : Word32} (h : s.MemOk) : (writeBoot d s).MemOk :=
  memOk_ite (memOk_after (keepsMem_execCold h) h) (memOk_ite (memOk_after (keepsMem_execWarm h) h) (memOk_ite (memOk_after
      (keepsMem_execFreeze h) h) (memOk_after (keepsMem_execThaw h) h)))

theorem memOk_writeRmbl {n : Fin 4} {d : Word32} (h : s.MemOk) : (writeRmbl n d s).MemOk := by
  unfold writeRmbl
  refine memOk_ite ?_ ?_
  · exact memOk_after (keepsMem_execSend (memOk_with h)) (memOk_with h)
  · refine memOk_ite ?_ ?_
    · exact memOk_after (keepsMem_execRecv (memOk_with h)) (memOk_with h)
    · refine memOk_ite (memOk_after (keepsMem_execCut h) h) ?_
      exact memOk_ite (memOk_after (keepsMem_execResume h) h) (memOk_after (keepsMem_execCancel h) h)

theorem memOk_writeAny {o : Nat} {d : Word32} (h : s.MemOk) : (writeAny o d s).MemOk := by
  unfold writeAny
  refine memOk_ite (memOk_ite (memOk_regWrite h) h) ?_
  refine memOk_ite (memOk_writeBoot h) ?_
  refine memOk_ite (memOk_after (keepsMem_execLimitW h) h) ?_
  refine memOk_ite ?_ ?_
  · exact memOk_ite (memOk_after (keepsMem_execAttest h) h) (memOk_after (keepsMem_execExtend h) h)
  refine memOk_ite (memOk_writeRmbl h) ?_
  refine memOk_ite (memOk_after (keepsMem_execShootdown h) h) ?_
  refine memOk_ite (memOk_after (keepsMem_execXlatFqEnable h) h) ?_
  refine memOk_ite ?_ ?_
  · exact memOk_after (keepsMem_execXlatFqConsWrite h) h
  refine memOk_ite ?_ ?_
  · exact memOk_ite (memOk_after (keepsMem_execRetry h) h) (memOk_after (keepsMem_execFatal h) h)
  refine memOk_ite (memOk_after (keepsMem_execAsCtrlWrite h) h) ?_
  refine memOk_ite ?_ ?_
  · exact memOk_ite (memOk_after (keepsMem_execQueueEnable h) h) (memOk_after (keepsMem_execQueueDisable h) h)
  · refine memOk_ite ?_ (memOk_after (keepsMem_execPlcRingEnable h) h)
    exact memOk_ite (memOk_after (keepsMem_execKillAll h) h) (memOk_after (keepsMem_execKill h) h)

theorem memOk_readAny {o : Nat} (h : s.MemOk) : (readAny o s).MemOk := by
  unfold readAny
  refine memOk_ite (memOk_after (keepsMem_execGovPowerRead h) h) ?_
  refine memOk_ite ?_ ?_
  · exact memOk_after (keepsMem_execMerrStatusRead h) h
  refine memOk_ite (memOk_after (keepsMem_execKlStatusRead h) h) ?_
  refine memOk_ite (memOk_after (keepsMem_execEthStatusRead h) h) ?_
  refine memOk_ite ?_ ?_
  · exact memOk_after (keepsMem_execDirtyWordLoRead h) h
  refine memOk_ite ?_ ?_
  · exact memOk_after (keepsMem_execDebugWindowRead h) h
  refine memOk_ite ?_ ?_
  · exact memOk_after (keepsMem_execSkimStatusRead h) h
  refine memOk_ite ?_ ?_
  · exact memOk_after (keepsMem_execSkimAbortsRead h) h
  refine memOk_ite (memOk_after (keepsMem_execSkimShareRead h) h) ?_
  refine memOk_ite ?_ ?_
  · exact memOk_after (keepsMem_execDispStatusRead h) h
  · refine memOk_ite (memOk_after (keepsMem_execPlcStatusRead h) h) ?_
    exact memOk_ite (memOk_after (keepsMem_execNetStatusRead h) h) (memOk_readInto h)

/-! ### The paths -/

theorem memOk_accessReg {o : Nat} {data : Option Word32} (h : s.MemOk) : (accessReg o data s).MemOk := by
  unfold accessReg
  refine memOk_ite ?_ ?_
  · split
    · exact h
    · exact memOk_with h
  · split
    · exact memOk_writeAny h
    · exact memOk_readAny h

theorem memOk_mgmtAccess {r : MgmtReq} (h : s.MemOk) : (mgmtAccess r s).MemOk := by
  unfold mgmtAccess
  dsimp only
  split
  · refine memOk_ite h ?_
    refine memOk_ite (memOk_accessReg h) ?_
    split
    · exact h
    · exact memOk_with h
  · exact memOk_ite (memOk_accessReg h) h
  · exact memOk_ite (memOk_accessReg h) h
  · exact memOk_accessReg h

theorem memOk_mgmtCycle {reqs : List MgmtReq} (h : s.MemOk) : (mgmtCycle reqs s).MemOk := memOk_foldl (fun _ _ h => memOk_mgmtAccess h) h

/-! ### The schedule and time -/

theorem memOk_takeTurn (h : s.MemOk) : (takeTurn s).2.MemOk := by
  unfold takeTurn
  split <;> exact memOk_pair (memOk_with h)

theorem memOk_stopBroken (h : s.MemOk) : (stopBroken s).MemOk := memOk_ite h (memOk_with (memOk_freezeCmd h))

theorem memOk_sendBroken (h : s.MemOk) : (sendBroken s).MemOk := by
  unfold sendBroken
  refine memOk_ite h ?_
  refine memOk_foldl (fun _ _ h => ?_) (memOk_with h)
  split
  · exact memOk_ite h (memOk_ite (memOk_emit h) (memOk_toArea (memOk_emit h)))
  · exact h

theorem memOk_passTime {dt : Nat} {half : Bool} (h : s.MemOk) : (passTime dt half s).MemOk :=
  memOk_ite (memOk_ite (memOk_with h) (memOk_stopBroken (memOk_with h))) (memOk_advanceCounters (memOk_with (memOk_ite (memOk_with h)
      (memOk_stopBroken (memOk_with h)))))

/-! ### What happens on its own -/

theorem memOk_eccEvent {source die x : Nat} (h : s.MemOk) : (eccEvent source die x s).MemOk := by
  unfold eccEvent
  refine memOk_ite ?_ ?_
  · split
    · exact memOk_abortLaunch (memOk_logUe (memOk_hangFirst h))
    · exact h
  · exact memOk_ite (memOk_logCe h) (memOk_ite (memOk_parts h (bad := tabWf_put _ _)) h)

theorem memOk_compStore {pa : Nat} {data : List Byte} (h : s.MemOk) : (compStore pa data s).MemOk :=
  memOk_ite (memOk_foldl (fun _ _ h => memOk_ite (memOk_parts (memOk_dropVerdicts _ h) (comp := memWf_set _ _)) h) h) h

theorem memOk_dropCopy {die line : Nat} (h : s.MemOk) : (dropCopy die line s).MemOk :=
  memOk_parts h (copies := tabWf_del _) (l1 := tabWf_filter _)

theorem memOk_ambient {x : Ambient} (h : s.MemOk) : (ambient x s).MemOk := by
  unfold ambient
  split
  · exact memOk_with h
  · exact memOk_compStore h
  · exact memOk_mgmtCycle h
  · exact memOk_with h
  · exact memOk_ite h (memOk_writeBack _ h)
  · exact memOk_ite h (memOk_dropCopy h)
  · exact memOk_ite h (memOk_parts h (l1 := tabWf_del _))
  · exact memOk_ite h (memOk_evClusterReset h)
  · exact memOk_ite h (memOk_seamUnit h)
  · exact memOk_ite h (memOk_parts h (compCopies := tabWf_del _))
  · exact memOk_ite h (memOk_with h)
  · exact memOk_ite h (memOk_recallLine _ h)
  · exact memOk_ite h (memOk_with h)
  · exact memOk_ite h (memOk_eccEvent h)

theorem memOk_startTurn {t : Turn} (h : s.MemOk) : (startTurn t s).MemOk :=
  memOk_foldl (fun _ _ h => memOk_ambient h) (memOk_ite (memOk_noteHeads (memOk_sendBroken (memOk_with (memOk_passTime h))))
      (memOk_sendBroken (memOk_with (memOk_passTime h))))

/-! ### A step -/

theorem keepsMem_exec {i : Instr} (h : s.MemOk) : KeepsMem (exec i s) := by
  unfold exec
  cases i <;> dsimp only
  case tload | tstore | tfill | tcvt | ttrans | strmOpen | strmSub | strmPub | gather | st | stu | stw | spwait | spset | spclr | iwrite |
    aadd | afadd | amin | amax | aand | aor | axor | axchg | ainc | adec | flushr | discr =>
    exact keepsMem_mem2 h
  case add | sub | mul | mulhi | mulw | div | rem | min | max | and | or | xor | andn | shl | shr | sar | rol | ror =>
    exact keepsMem_intNode2 h
  case syscfg | sysw | sysa | sysd | strmCloseEnd | strmCloseLeave | ld | ldu | ldw | iread | barWait | semp | semv | semtry | semdec |
    launch | lwait =>
    exact keepsMem_mem1 h
  case pand | por | pxor | ptest | bfx | cmp | fcmp | vpack | vperm | vscale | vcmp | scan | isect | union | repeat_ | sred =>
    exact keepsMem_calc2 h
  case tmma | ttern | tgrp | tscale | gathert | scatter | scatadd | acas | copy | copys | nsend | nrecv => exact keepsMem_mem3 h
  case const | gate | dup | pass | pnot | vunpack | vbcast | vred | nop => exact keepsMem_calc1 h
  case neg | abs | not | popc | clz | ctz | brev | bswap | ext => exact keepsMem_intNode1 h
  case govPowerRead | merrStatusRead | klStatusRead | ethStatusRead | skimStatusRead | skimAbortsRead | skimShareRead | dispStatusRead |
    plcStatusRead =>
    exact keepsMem_next (memOk_clearingRead (fun _ h => memOk_with h) h)
  case rmblBegin | rmblPage | rmblZero | rmblRoundEnd | rmblQueue | rmblLaunch | rmblEnd | rmblUnknownTag =>
    exact keepsMem_next (memOk_receiveFrame h)
  case fadd | fsub | fmul | fdiv | fmin | fmax | fcpys => exact keepsMem_fltNode2 h
  case frcp | frsq | fexp2 | flog2 | fsin | fcos | ftanh => exact keepsMem_fltFun h
  case limitW | attestDone | shootdownDone | portUp | ethLinkUp | ready | killDone => exact keepsMem_next (memOk_ite (memOk_with h) h)
  case cpoll | cpull | cred | cscan | cseg | cmatch => exact keepsMem_sourceNode (fun _ _ _ _ h => memOk_emitAll h) h
  case fence | barArrive | barSync | port | nfence | rdsr => exact keepsMem_mem0 h
  case constw | merge | select | cmb | probe => exact keepsMem_runNode (fun _ _ _ h => memOk_emit h) h
  case lea | bfi | ffma | vfma | vdot => exact keepsMem_calc3 h
  case fsqrt | fabs | fneg | fclass | frint => exact keepsMem_fltNode1 h
  case vadd | vsub | vmul | vmin | vmax => exact keepsMem_vecNode2 h
  case mad | xtr | dotb | sad => exact keepsMem_intNode3 h
  case attest | plcRingEnable | portTrainRetry | ethLinkDown => exact keepsMem_next (memOk_ite h (memOk_with h))
  case livein | wave | loopx => exact keepsMem_unlessHandler (keepsMem_calc1 h) h
  case exit | exitc => exact keepsMem_unlessHandler (keepsMem_runNode (fun _ _ _ h => memOk_departTo h) h) h
  case call | calli => exact keepsMem_unlessHandler (keepsMem_runNode (fun _ _ _ h => memOk_callTo h) h) h
  case abort | trap => exact keepsMem_runNode (fun _ _ _ h => memOk_trap h) h
  case i3cEntdaa | freezeNLow => exact keepsMem_next (memOk_with h)
  case cancel | rmblNetFail => exact keepsMem_next (memOk_ite (memOk_failSession h) h)
  case liveout => exact keepsMem_unlessHandler (keepsMem_runNode (fun _ _ _ h => memOk_emit (memOk_writeLive h)) h) h
  case steer => exact keepsMem_runNode (fun _ _ _ h => memOk_emitBit h) h
  case sink => exact keepsMem_runNode (fun _ _ _ h => memOk_ite h (memOk_submit h)) h
  case ret => exact keepsMem_execRet h
  case waveb => exact keepsMem_unlessHandler (keepsMem_runNode (fun _ _ _ h => memOk_emit (memOk_passBarrier h)) h) h
  case passPret => exact keepsMem_runNode (fun _ _ _ h => memOk_ite (memOk_sendTo h) (memOk_ite (memOk_sendTo h) (memOk_with h))) h
  case cvt => exact keepsMem_execCvt h
  case srnd => exact keepsMem_execSrnd h
  case vcvt => exact keepsMem_execVcvt h
  case cmask =>
    exact keepsMem_ite (keepsMem_joinNode (fun _ _ _ h => memOk_emitAll h) h) (keepsMem_sourceNode (fun _ _ _ _ h => memOk_emitAll h) h)
  case celect =>
    exact keepsMem_ite (keepsMem_sourceNode (fun _ _ _ _ h => memOk_emitAll h) h) (keepsMem_joinNode (fun _ _ _ h => memOk_emitAll h) h)
  case kwr => exact keepsMem_joinNode (fun _ _ _ h => memOk_emitAll (memOk_ite (memOk_writeK (memOk_writeK h)) (memOk_writeK h))) h
  case pref => exact keepsMem_runNode (fun _ _ _ h => memOk_emit (memOk_prefLine h)) h
  case cbar => exact keepsMem_joinNode (fun _ _ _ h => memOk_emitAll h) h
  case csync =>
    exact keepsMem_joinNode (fun _ _ _ h => memOk_ite (memOk_emitAll (memOk_foldl (fun _ _ h => memOk_acquireFor (memOk_releaseFor h))
      (memOk_foldl (fun _ _ h => memOk_forceReads h) h))) (memOk_with (memOk_foldl (fun _ _ h => memOk_forceReads h) h))) h
  case brk => exact keepsMem_runNode (fun _ _ _ h => memOk_ite (memOk_breakAt h) (memOk_emit h)) h
  case assert_ => exact keepsMem_runNode (fun _ _ _ h => memOk_ite (memOk_emit h) (memOk_trap h)) h
  case yield => exact keepsMem_execYield h
  case halt => exact keepsMem_execHalt h
  case undef => exact keepsMem_execUndef h
  case registerWrite => exact keepsMem_next (memOk_ite (memOk_regWrite h) h)
  case netStatusRead => exact keepsMem_next (memOk_clearingRead (fun _ h => memOk_modSpace h) h)
  case dirtyWordLoRead => exact keepsMem_execDirtyWordLoRead h
  case debugWindowRead => exact keepsMem_next (memOk_ite (memOk_with h) (memOk_with h))
  case send => exact keepsMem_next (memOk_evSend h)
  case recv => exact keepsMem_next (memOk_startSlot h)
  case cut => exact keepsMem_next (memOk_evCut h)
  case resume => exact keepsMem_next (memOk_evResume h)
  case cold => exact keepsMem_next (memOk_coldStart (memOk_regWrite h))
  case warm =>
    exact keepsMem_next (memOk_ite (memOk_coldStart (memOk_regWrite h)) (memOk_ite (memOk_regWrite h) (memOk_startFrom (memOk_drainHbm
      (memOk_endTransactions (memOk_regWrite h))))))
  case freeze => exact keepsMem_next (memOk_freezeCmd (memOk_regWrite h))
  case thaw => exact keepsMem_next (memOk_ite (memOk_regWrite h) (memOk_unfreeze (memOk_with (memOk_regWrite h))))
  case extend => exact keepsMem_next (memOk_ite h (memOk_ite (memOk_with h) (memOk_with h)))
  case extendDone => exact keepsMem_execExtendDone h
  case shootdown => exact keepsMem_next (memOk_ite h (memOk_ite (memOk_with (memOk_with h)) (memOk_startInv (memOk_with h))))
  case xlatFqEnable => exact keepsMem_next (memOk_ite h (memOk_serveFaults (memOk_with h)))
  case xlatFqConsWrite => exact keepsMem_next (memOk_ite (memOk_serveFaults (memOk_with h)) h)
  case retry => exact keepsMem_execRetry h
  case fatal => exact keepsMem_execFatal h
  case asCtrlWrite => exact keepsMem_next (memOk_ite h (memOk_ite (memOk_modSpace h) (memOk_ite h (memOk_modSpace h))))
  case queueEnable => exact keepsMem_next (memOk_ite h (memOk_ite (memOk_readTail (memOk_modQueue h)) (memOk_modQueue h)))
  case queueDisable => exact keepsMem_next (memOk_ite h (memOk_ite (memOk_modQueue h) (memOk_modQueue h)))
  case kill => exact keepsMem_next (memOk_startKill (fun _ h => memOk_killRecord h) h)
  case killAll => exact keepsMem_next (memOk_startKill (fun _ h => memOk_foldl (fun _ _ h => memOk_killRecord h) h) h)
  case powerOn => exact keepsMem_next (memOk_startFrom (memOk_with h))
  case freezeNHigh => exact keepsMem_next (memOk_ite h (memOk_unfreeze (memOk_with h)))
  case governorSample => exact keepsMem_next (memOk_ite (memOk_setTemps h) (memOk_setTemps (memOk_with h)))
  case powerHold => exact keepsMem_next (memOk_ite (memOk_raiseAlert (memOk_with h)) h)
  case hot => exact keepsMem_next (memOk_ite (memOk_raiseAlert (memOk_setTemps (memOk_with h))) h)
  case thermalTrip =>
    exact keepsMem_next (memOk_ite h (memOk_raiseAlert (memOk_mk (wf_lostCaches (memOk_drainHbm (memOk_endTransactions (memOk_setTemps
      h)))))))
  case flitCrcError => exact keepsMem_next (memOk_ite h (memOk_ite (memOk_with h) (memOk_portFails h)))
  case portDown => exact keepsMem_next (memOk_ite (memOk_portFails h) h)
  case companionRead => exact keepsMem_next (memOk_ite h (memOk_ite (memOk_holdRequest h) (memOk_companionRead h)))
  case companionWrite => exact keepsMem_next (memOk_ite h (memOk_ite (memOk_holdRequest h) (memOk_companionWrite h)))
  case ethRx => exact keepsMem_execEthRx h
  case uetReadRequest => exact keepsMem_execUetReadRequest h
  case ethTrimNack => exact keepsMem_execEthTrimNack h
  case nsendAck => exact keepsMem_execNsendAck h
  case rom => exact keepsMem_next (memOk_ite (memOk_toStage (memOk_with h)) h)
  case image => exact keepsMem_execImage h
  case fuse => exact keepsMem_execFuse h
  case rails => exact keepsMem_execRails h
  case railsTimeout => exact keepsMem_next (memOk_ite (memOk_bootFail h) h)
  case hbm => exact keepsMem_execHbm h
  case bist => exact keepsMem_execBist h
  case fill => exact keepsMem_execFill h
  case init => exact keepsMem_execInit h
  case rmblHello => exact keepsMem_next (memOk_evHello h)
  case rmblReply => exact keepsMem_next (memOk_evReply h)
  case rmblFinish => exact keepsMem_next (memOk_evFinish h)
  case rmblAck => exact keepsMem_next (memOk_evAck h)
  case rmblRound => exact keepsMem_next (memOk_evRound h)
  case rmblGraceExpiry => exact keepsMem_next (memOk_evGraceExpiry h)
  case queueTailRead => exact keepsMem_next (memOk_ite (memOk_readTail h) h)
  case recordTake => exact keepsMem_execRecordTake h
  case depWordRead => exact keepsMem_next (memOk_ite (memOk_readDep h) h)
  case depPoll => exact keepsMem_next (memOk_ite (memOk_readDep (memOk_with h)) h)
  case dispatch => exact keepsMem_whileRunning (fun _ h => memOk_evDispatch h) h
  case teamReady => exact keepsMem_next (memOk_evTeamReady h)
  case completionWord => exact keepsMem_whileRunning (fun _ h => memOk_evCompletionWord h) h
  case preempt => exact keepsMem_next (memOk_evPreempt h)
  case save => exact keepsMem_next (memOk_evSave h)
  case saveDone => exact keepsMem_next (memOk_evSaveDone h)
  case restore => exact keepsMem_next (memOk_evRestore h)
  case deadline => exact keepsMem_next (memOk_evDeadline h)
  case hang => exact keepsMem_next (memOk_evHang h)
  case pageMigrate => exact keepsMem_next (memOk_evPageMigrate h)
  case commitRequest => exact keepsMem_whileRunning (fun _ h => memOk_evCommitRequest h) h
  case commitStart => exact keepsMem_whileRunning (fun _ h => memOk_evCommitStart h) h
  case commitWalk => exact keepsMem_whileRunning (fun _ h => memOk_evCommitWalk h) h
  case commitFlip => exact keepsMem_whileRunning (fun _ h => memOk_evCommitFlip h) h
  case commitRelease => exact keepsMem_whileRunning (fun _ h => memOk_evCommitRelease h) h
  case lineDrain => exact keepsMem_whileRunning (fun _ h => memOk_evLineDrain h) h
  case abortComplete => exact keepsMem_whileRunning (fun _ h => memOk_evAbortComplete h) h
  case shadowEvict => exact keepsMem_whileRunning (fun _ h => memOk_evShadowEvict h) h
  case rsbWriteback => exact keepsMem_whileRunning (fun _ h => memOk_evRsbWriteback h) h
  case scTokenHop => exact keepsMem_whileRunning (fun _ h => memOk_evScTokenHop h) h
  case orderedIssue => exact keepsMem_next (memOk_evOrderedIssue h)
  case accessResponse => exact keepsMem_next (memOk_evAccessResponse h)
  case copyWordArrival => exact keepsMem_next (memOk_evCopyWordArrival h)
  case strmCopy => exact keepsMem_next (memOk_evStrmCopy h)
  case semWake => exact keepsMem_next (memOk_evSemWake h)
  case parkResume => exact keepsMem_next (memOk_evParkResume h)
  case tokenArrive => exact keepsMem_next (memOk_evTokenArrive h)
  case tokenReturn => exact keepsMem_next (memOk_evTokenReturn h)
  case ageRenumber => exact keepsMem_next (memOk_ite h (memOk_evAgeRenumber h))
  case schedEval => exact keepsMem_next (memOk_evSchedEval h)
  case blockResident => exact keepsMem_next (memOk_evBlockResident h)
  case inject => exact keepsMem_next (memOk_evInject h)
  case evict => exact keepsMem_next (memOk_evEvict h)
  case hamperMove => exact keepsMem_next (memOk_evHamperMove h)
  case departureComplete => exact keepsMem_execDepartureComplete h
  case clusterReset => exact keepsMem_next (memOk_ite h (memOk_evClusterReset h))
  case restoreDone => exact keepsMem_next (memOk_evRestoreDone h)

theorem memOk_takeFire {pe : Nat} {i : Instr} {t : State} (e : takeFire pe s = some (i, t)) (h : s.MemOk) : t.MemOk := by
  rw [takeFire] at e
  split_ifs at e with hc
  · obtain ⟨c, -, e⟩ := Option.map_eq_some_iff.1 e
    cases e
    exact memOk_beginFire h

theorem keepsMem_step (h : s.MemOk) : KeepsMem (step s) := by
  unfold step
  split
  · exact keepsMem_next (memOk_of_pair ‹_› (memOk_takeTurn h))
  next t _ e =>
  have hs := memOk_startTurn (t := t) (memOk_of_pair e (memOk_takeTurn h))
  dsimp only
  split
  · split
    · exact keepsMem_exec (memOk_takeFire ‹_› hs)
    · exact keepsMem_next hs
  · exact keepsMem_ite (keepsMem_exec hs) (keepsMem_next hs)

end
end Sys2Proof.Machine

section
open Sys2Proof Sys2Proof.Machine

/-- Settles O7: what a turn runs is a firing or an event, and each arm of `exec` keeps the form, as does the passing of time. -/
theorem everyStepKeepsMemoryCanonical : Obligations.EveryStepKeepsMemoryCanonical := by
  unfold Obligations.EveryStepKeepsMemoryCanonical
  intro s t h e
  exact keepsMem_step h t e

end

/-! ## Shootdowns, faults and spaces (R69, R76, R77, R81 to R83) -/

namespace Sys2Proof.Machine

/-! ### Shootdowns -/

/-- The bytes that a shootdown's SIZE stands for (R76). -/
def invBytes (size : Nat) : Nat := [0x1000, 0x4000, 0x10000, 0x200000, 0x2000000, 0x40000000].getD size 0

theorem invMatches_eq {size : Nat} (h : size < 6) (sp scope va esp eva : Nat) :
    invMatches sp scope size va esp eva = (scope == 2 || (esp == sp && (scope == 1 || eva / invBytes size == va / invBytes size))) := by
  interval_cases size <;> simp [invMatches, invBytes, beq_eq_decide]

theorem invVa_eq (s : State) : invVa s = s.xlat.invLo.toNat / 4096 * 4096 + s.xlat.invHi.toNat % 2 ^ 22 * 2 ^ 32 := by
  have hlo : s.xlat.invLo.toNat / 2 ^ 12 < 2 ^ 20 := by
    have := s.xlat.invLo.isLt
    omega
  simp only [invVa, bits_eq, Nat.reduceSub, Nat.reduceAdd, Nat.pow_zero, Nat.div_one]
  rw [Nat.mod_eq_of_lt hlo, show (2 : Nat) ^ 12 = 4096 by norm_num]

section
variable {s : State} {d : Word32}

theorem execShootdown_refused (hf : s.boot.failed = false) (hz : frozen s = false)
    (h : s.xlat.invBusy = true ∨ d.toNat / 64 % 4 = 3 ∨ 6 ≤ d.toNat / 256 % 8) :
    execShootdown d s = .next { s with xlat := { s.xlat with invCtrl := keep d 0x7FF, invErr := true } } := by
  have hb : (s.xlat.invBusy || bits d.toNat 7 6 = 3 || 6 ≤ bits d.toNat 10 8) = true := by
    simpa [bits_eq, or_assoc] using h
  simp [execShootdown, answers_of_not_failed hf, hz, hb]

theorem execShootdown_starts (hf : s.boot.failed = false) (hz : frozen s = false) (hb : s.xlat.invBusy = false)
    (hc : d.toNat / 64 % 4 ≠ 3) (hn : d.toNat / 256 % 8 < 6) :
    execShootdown d s = .next (startInv (d.toNat % 64) (d.toNat / 64 % 4) (d.toNat / 256 % 8) (invVa s)
      { s with xlat := { s.xlat with invCtrl := keep d 0x7FF, invErr := s.xlat.invErr && !d.getLsbD 18 } }) := by
  simp [execShootdown, answers_of_not_failed hf, hz, hb, bits_eq, hc, hn, invVa]

theorem execShootdownDone_waits {e : TlbEntry} (he : e ∈ s.xlat.tlb) (hit : invHits s.xlat e.space e.vpn = true) :
    execShootdownDone s = .next s := by
  have hall : s.xlat.tlb.all (fun e => !invHits s.xlat e.space e.vpn) = false :=
    List.all_eq_false.mpr ⟨e, he, by simp [hit]⟩
  simp [execShootdownDone, hall]

theorem execShootdownDone_ends (hz : frozen s = false) (hb : s.xlat.invBusy = true)
    (hheld : ∀ i ∈ s.xlat.invHeld, ∀ a, access? s i = some a → a.st ≠ .flight ∧ a.st ≠ .held)
    (hlines : ∀ e ∈ s.mem.rsb, ∀ k ∈ s.xlat.invLines, e.1 / 2 ^ 52 * 2 ^ 45 + e.1 % 2 ^ 52 / 128 ≠ k)
    (htlb : ∀ e ∈ s.xlat.tlb, invHits s.xlat e.space e.vpn = false) :
    execShootdownDone s = .next { s with xlat := { s.xlat with invBusy := false, invHeld := [], invLines := [] } } := by
  refine congrArg Host.Outcome.next (if_pos ?_)
  simp only [Bool.and_eq_true, List.all_eq_true]
  refine ⟨⟨⟨⟨hb, by simp [hz]⟩, fun i hi => ?_⟩, fun k hk => ?_⟩, fun e he => by simp [htlb e he]⟩
  · cases ha : access? s i with
    | none => rfl
    | some a => simpa using hheld i hi a ha
  · simpa [bufferedLines] using fun a b hm => hlines (a, b) hm k hk

/-! ### The fault ring -/

theorem writeFault_xlat (f : FaultRec) (id : Nat) (fatal : Bool) (s : State) :
    (writeFault f id fatal s).xlat = { s.xlat with prod := (s.xlat.prod + 1) % 2 ^ 32 } := by
  have hx : ∀ pa data, (writeSys pa data s).xlat = s.xlat := fun pa data => by
    simpa only [withoutBytes] using congrArg State.xlat (withoutBytes_writeSys pa data s)
  simp only [writeFault, hx]

/-- The ring's fields that serving it leaves, and the faults that are outstanding, are those of another state. -/
def SameFaults (s t : State) : Prop :=
  t.xlat.fqEnable = s.xlat.fqEnable ∧ t.xlat.fqLog = s.xlat.fqLog ∧ t.xlat.cons = s.xlat.cons ∧
    t.xlat.faults.map FaultRec.key = s.xlat.faults.map FaultRec.key

theorem sameFaults_numbered {s t : State} (f : FaultRec) (i : Nat) (h : SameFaults s t) :
    SameFaults s { t with xlat := { t.xlat with
      faults := modWhere (·.key == f.key) (fun g => { g with id := some i }) t.xlat.faults } } := by
  obtain ⟨he, hl, hc, hk⟩ := h
  exact ⟨he, hl, hc, (map_modWhere (f := fun g : FaultRec => { g with id := some i }) (fun _ => rfl) _ _).trans hk⟩

theorem sameFaults_writeFault {s t : State} (f : FaultRec) (id : Nat) (fatal : Bool) (h : SameFaults s t) :
    SameFaults s (writeFault f id fatal t) := by
  unfold SameFaults
  rw [writeFault_xlat]
  exact h

/-- Serving the ring writes records and gives numbers to faults; it lists and ends none. -/
theorem sameFaults_serveFaults (s : State) : SameFaults s (serveFaults s) := by
  refine foldl_keeps (P := SameFaults s) (fun t f ht => ?_) _ ⟨rfl, rfl, rfl, rfl⟩
  split
  · exact ht
  · split
    · exact ht
    · exact sameFaults_numbered f _ (sameFaults_writeFault f _ false ht)

theorem serveFaults_of_numbered {s : State} (h : ∀ g ∈ s.xlat.faults, g.id.isSome = true) : serveFaults s = s := by
  have hnone : s.xlat.faults.filter (fun f => f.id.isNone) = [] :=
    List.filter_eq_nil_iff.mpr fun g hg => by simp [Option.isSome_iff_ne_none.mp (h g hg)]
  simp [serveFaults, hnone]

theorem serveFaults_dropFault {s : State} {key : Nat} {g : FaultRec} (hg : g ∈ (serveFaults (dropFault key s)).xlat.faults) :
    g.key ≠ key := by
  have hk := List.mem_map_of_mem (f := FaultRec.key) hg
  obtain ⟨-, -, -, hkeys⟩ := sameFaults_serveFaults (dropFault key s)
  rw [hkeys] at hk
  obtain ⟨f, hf, hfg⟩ := List.mem_map.mp hk
  rw [← hfg]
  simpa using (List.mem_filter.mp hf).2

/-- What enabling the ring stores, before it is served (R76). -/
def enableRing (d : Word32) (s : State) : State :=
  { s with xlat := { s.xlat with
      fqLog := d.setWidth 4, fqEnable := true, prod := if s.xlat.fqEnable then s.xlat.prod else 0
      badId := s.xlat.badId && !d.getLsbD 10, lost := s.xlat.lost && !d.getLsbD 11 } }

theorem execXlatFqEnable_eq (hf : s.boot.failed = false) (hz : frozen s = false) :
    execXlatFqEnable d s = .next (serveFaults (enableRing d s)) := by
  simp [execXlatFqEnable, enableRing, answers_of_not_failed hf, hz]

/-- What a write of CONS stores, before the ring is served. -/
def storeCons (d : Word32) (s : State) : State := { s with xlat := { s.xlat with cons := d } }

theorem execXlatFqConsWrite_eq (hf : s.boot.failed = false) (hz : frozen s = false) :
    execXlatFqConsWrite d s = .next (serveFaults (storeCons d s)) := by
  simp [execXlatFqConsWrite, storeCons, answers_of_not_failed hf, hz]

/-! ### The driver's answers -/

theorem execRetry_unnamed (hf : s.boot.failed = false) (hz : frozen s = false) (h : answered s = none) :
    execRetry s = .next (badResponse s) := by
  simp [execRetry, answers_of_not_failed hf, hz, h]

theorem execFatal_unnamed (hf : s.boot.failed = false) (hz : frozen s = false) (h : answered s = none) :
    execFatal s = .next (badResponse s) := by
  simp [execFatal, answers_of_not_failed hf, hz, h]

theorem execRetry_named {f : FaultRec} (hf : s.boot.failed = false) (hz : frozen s = false) (h : answered s = some f) :
    execRetry s = .next (serveFaults (wakeFault f.key (dropFault f.key s))) := by
  simp [execRetry, answers_of_not_failed hf, hz, h]

theorem execFatal_named {f : FaultRec} (hf : s.boot.failed = false) (hz : frozen s = false) (h : answered s = some f) :
    ∃ u, execFatal s = .next (serveFaults (dropFault f.key u)) := by
  simp only [execFatal, answers_of_not_failed hf, hz, h, Bool.not_true, Bool.or_self, Bool.false_eq_true, if_false]
  exact ⟨_, rfl⟩

/-- What waits on a fault does not once that fault is woken. -/
theorem woken_ne {key : Nat} (f : Option Nat) : (if f == some key then none else f) ≠ some key := by
  split
  · exact nofun
  next h => simpa using h

theorem wakeFault_accesses {key : Nat} {a : Access} (ha : a ∈ (wakeFault key s).accesses) (k x : Nat) : a.st ≠ .parked k x (some key) := by
  obtain ⟨b, -, rfl⟩ := List.mem_map.mp ha
  split
  · intro h
    injection h with _ _ hw
    exact woken_ne _ hw
  · next hb => exact hb k x (some key)

theorem wakeFault_queues {key : Nat} {q : Queue} (hq : q ∈ (wakeFault key s).queues) : q.fault ≠ some key := by
  obtain ⟨p, -, rfl⟩ := List.mem_map.mp hq
  exact woken_ne _

/-! ### Spaces -/

theorem execAsCtrlWrite_eq (hf : s.boot.failed = false) (n : Fin 64) :
    execAsCtrlWrite n d s = .next (if d.getLsbD 0 then modSpace n.val (fun p => { p with enable := true }) s
      else if live s n.val ≠ 0 then s else modSpace n.val (fun p => { p with enable := false, dropEth := false, cutOver := false }) s) := by
  simp [execAsCtrlWrite, answers_of_not_failed hf]

end
end Sys2Proof.Machine

section
open Sys2Proof Sys2Proof.Machine

/-- Settles O47: each register's row, past what it answers and the freeze, is one change of the translation's state; serving the ring
afterwards lists and ends no fault. -/
theorem translationRegistersActAsStated : Obligations.TranslationRegistersActAsStated := by
  unfold Obligations.TranslationRegistersActAsStated
  intro s d n f hf hcmd hpin _ v space_ scope size va bytes hit
  have hz := frozen_of_no_cause hcmd hpin
  refine ⟨fun hb hc hn => ?_, fun _ e he => execShootdownDone_waits he, fun h => ?_,
    fun hb hh hl ht => execShootdownDone_ends hz hb hh hl ht, ?_, ?_,
    fun h => ⟨execRetry_unnamed hf hz h, execFatal_unnamed hf hz h⟩, fun h hg => ?_, fun h => ?_,
    fun h => ?_, fun h hl => ?_, fun h hl => ?_⟩
  · refine ⟨_, execShootdown_starts hf hz hb hc hn, List.filter_congr fun e _ => ?_, rfl, rfl, rfl⟩
    rw [invMatches_eq hn, invVa_eq]
    rfl
  · exact ⟨_, execShootdown_refused hf hz h, rfl, rfl, rfl⟩
  · obtain ⟨he, hlog, -, -⟩ := sameFaults_serveFaults (enableRing d s)
    refine ⟨_, execXlatFqEnable_eq hf hz, he, hlog, fun hg => ?_⟩
    rw [serveFaults_of_numbered (s := enableRing d s) hg]
    exact ⟨fun hoff => if_neg (by simp [hoff]), rfl⟩
  · obtain ⟨-, -, hcons, -⟩ := sameFaults_serveFaults (storeCons d s)
    refine ⟨_, execXlatFqConsWrite_eq hf hz, hcons, fun hg => ?_⟩
    rw [serveFaults_of_numbered (s := storeCons d s) hg]
    exact ⟨rfl, rfl⟩
  · have hserved : serveFaults (wakeFault f.key (dropFault f.key s)) = wakeFault f.key (dropFault f.key s) :=
      serveFaults_of_numbered fun g h => hg g (List.mem_of_mem_filter h)
    exact ⟨_, (execRetry_named hf hz h).trans (congrArg _ hserved), rfl, rfl, fun a ha => wakeFault_accesses ha,
      fun q hq => wakeFault_queues hq⟩
  · obtain ⟨u, hu⟩ := execFatal_named hf hz h
    exact ⟨_, hu, fun g hg => serveFaults_dropFault hg⟩
  · exact (execAsCtrlWrite_eq hf n).trans (congrArg _ (if_pos h))
  · exact (execAsCtrlWrite_eq hf n).trans (congrArg _ ((if_neg (ne_true_of_eq_false h)).trans (if_pos hl)))
  · exact (execAsCtrlWrite_eq hf n).trans (congrArg _ ((if_neg (ne_true_of_eq_false h)).trans (if_neg (not_not.mpr hl))))

end

/-! ## A kill of a launch whose number is another's too (R125, R144, R145) -/

namespace Sys2Proof.Machine

/-- A top-level launch of queue 0 that waits for its dispatch: launch 1, of record 1. -/
def firstKilled : Launch :=
  { id := 1, raw := List.replicate 256 0, queue := 0, index := 1, space := 0, prio := 0, order := 0, parent := none, parentTeam := 0,
    number := 0, depth := 0, vt := none, phase := .dispatching,
    image := { pa := 0, frames := [], creww := 0, emulate := false, stitch := false, entry := 0, emuh := 0xFFFF, width := 32, scratch := 0,
               teamMax := 0, cpool := [], blocks := [] },
    params := [], nextTeam := 0, retired := 0, teamCommits := 0, cause := none, causeAt := 0, causeVt := 0, report := none, tern := false,
    deadline := 0, hang := 0, freeStacks := [], fault := none, faultVa := 0, requeue := false, ran := false, dies := [], stream := none,
    units := [] }

/-- A top-level launch of queue 0 that runs under tag 0: launch 0, of record 0. -/
def laterKilled : Launch := { firstKilled with id := 0, index := 0, vt := some 0, phase := .running }

/-- The tag of that launch. -/
def laterTag : VTag := { st := .active, launch := 0, team := none, parent := none, cause := 0, charge := 0, logged := [] }

/-- Both launches, and a child of launch 1 that bears the number 0 as well. -/
def sharedNumber : State :=
  { State.reset with launches := [firstKilled, laterKilled, { laterKilled with parent := some 1 }]
                     skim := { Skim.reset with tags := [(0, laterTag)] } }

/-- The launches that a step lists as killed. -/
def killedAfter (o : Out) : List Nat := match o with
  | .next t => t.disp.killed
  | _ => []

/-- Record 1 goes first and takes what bears the number of its child with it; record 0 then finds its launch ended, and lists none. -/
theorem killedAfter_sharedNumber : killedAfter (exec (.killAll 0) sharedNumber) = [1] := by decide +kernel

end Sys2Proof.Machine

section
open Sys2Proof Sys2Proof.Machine

/-- Refutes O49: where a child of one top-level launch bears the number of another one that runs (the statement asks for no distinct
numbers), KILL_ALL ends the latter with the former, does not count it as killed, and KILL_DONE does not wait for it. -/
theorem not_killsPlacersAndPageMigration : ¬ Obligations.KillsPlacersAndPageMigration := by
  unfold Obligations.KillsPlacersAndPageMigration
  intro h
  obtain ⟨-, hkill, -⟩ := h.1 sharedNumber 0 0 false
    { index := 0, raw := [], sat := [], monitored := [], faults := [], wasElig := false } 0 laterTag laterKilled (by decide)
  obtain ⟨t, u, -, hu, -, -, -, -, -, -, -, hstruck⟩ := hkill (by decide)
  obtain ⟨-, -, -, -, -, -, -, -, -, hlisted⟩ := hstruck (by decide +kernel) (by decide +kernel)
    ⟨rfl, rfl, rfl, rfl, rfl, rfl, rfl, fun m hm => nomatch hm⟩
  have hkilled : u.disp.killed = [1] := by
    have h := killedAfter_sharedNumber
    rwa [hu] at h
  rw [hkilled] at hlisted
  exact absurd hlisted (by decide)

end

/-! ## A load at the home of a line that a die lists twice (R211, R221, R374) -/

namespace Sys2Proof.Machine

/-- A load in .L of four bytes at address 0, in flight. -/
def homeLoad : Access :=
  { id := 5
    i := .ld { ty := .b32, ari := 1, tag := .keep, a := .port 0, b := .none, low := .imm 0, d0 := none, d1 := none } .l
      { unord := false, scope := .crew, acq := false, rel := false, sc := false }
    f := { thread := 0, core := 0, launch := 0, block := 0, replica := 0, node := 0, wave := 0, toks := [] }
    a := 0, b := 0, c := 0, st := .flight, order := 5, left := [], got := [], result := 0, drop := false, age := 0, fence := none, issued := 0 }

/-- The machine with that load under way in an open page, and with two clean copies of line 0 listed for die 0, of which a read finds
the first. -/
def twiceCopied : State :=
  { fetchState State.reset 0 with
    accesses := [homeLoad]
    xlat := { State.reset.xlat with tlb := [{ core := 0, space := 0, vpn := 0, pte := 0x17, level := 5 }] }
    mem := { Mem.reset with copies := [(0, [0]), (0, [1])] } }

/-- The load takes the first copy away, and the die then reads the second. -/
theorem dieByte_attempt_twiceCopied : dieByte (attempt 5 twiceCopied) 0 0 = 1 := by decide +kernel

end Sys2Proof.Machine

section
open Sys2Proof Sys2Proof.Machine

/-- Refutes O39: its clause on loads of .L asks for no canonical memory. Where the table of clean copies lists one line twice, the load
drops one of the two entries, and what the die then sees is the other and not the byte at the home. -/
theorem not_globalLoadsAndStores : ¬ Obligations.GlobalLoadsAndStores := by
  unfold Obligations.GlobalLoadsAndStores
  intro h
  obtain ⟨hopen, -, -⟩ := h
  obtain ⟨hloads, -⟩ := hopen twiceCopied homeLoad _ _ (fetchLaunch 0) 0 0x17 5 4
    (by unfold InFlight; decide +kernel) (by decide +kernel) (by decide) (by decide)
  obtain ⟨-, hhome⟩ := hloads (by decide) (by decide) (by decide +kernel) (by decide +kernel)
  obtain ⟨v, u, hattempt, -, hbytes⟩ := hhome (.inl ⟨List.mem_cons_self, by decide⟩) (by decide +kernel)
  have hsees : dieByte (attempt 5 twiceCopied) 0 0 = dieByte u 0 0 := by
    rw [show attempt 5 twiceCopied = _ from hattempt]
    rfl
  have hbuffered : dieByte u 0 0 = 0 := (hbytes 0 (by decide)).2.trans (by decide +kernel)
  exact absurd (dieByte_attempt_twiceCopied.symm.trans (hsees.trans hbuffered)) (by decide)

end

/-! ## Shadow lines, buffered stores and completion words (R91, R112, R124, R211, R229, R231) -/

namespace Sys2Proof.Machine

/-! ### Values as bytes (R5) -/

@[simp] theorem toBytes_length (n v : Nat) : (toBytes n v).length = n := by
  induction n generalizing v with
  | zero => rfl
  | succ n ih => simp [toBytes, ih]

theorem ofBytes_toBytes (n v : Nat) : ofBytes (toBytes n v) = v % 256 ^ n := by
  induction n generalizing v with
  | zero => simp [toBytes, ofBytes, Nat.mod_one]
  | succ n ih => simp [toBytes, ofBytes, ih, pow_succ', Nat.mod_mul]

/-! ### Tables by their entries -/

theorem lt_of_tabAbove {α : Type} {t : Tab α} {b : Nat} (h : tabAbove b t = true) {e : Nat × α} (he : e ∈ t) : b < e.1 := by
  induction t generalizing b with
  | nil => cases he
  | cons f t ih =>
    obtain ⟨k, v⟩ := f
    simp only [tabAbove, Bool.and_eq_true, decide_eq_true_eq] at h
    rcases List.mem_cons.mp he with rfl | he
    · exact h.1
    · exact h.1.trans (ih h.2 he)

theorem pairwise_of_tabAbove {α : Type} {t : Tab α} {b : Nat} (h : tabAbove b t = true) : t.Pairwise (fun e f => e.1 < f.1) := by
  induction t generalizing b with
  | nil => exact .nil
  | cons f t ih =>
    obtain ⟨k, v⟩ := f
    simp only [tabAbove, Bool.and_eq_true] at h
    exact .cons (fun e he => lt_of_tabAbove h.2 he) (ih h.2)

/-- The keys of a table in its form rise. -/
theorem pairwise_of_tabWf {α : Type} {t : Tab α} (h : tabWf t = true) : t.Pairwise (fun e f => e.1 < f.1) := by
  cases t with
  | nil => exact .nil
  | cons f t => exact .cons (fun e he => lt_of_tabAbove h he) (pairwise_of_tabAbove h)

theorem mem_of_tabFind {α : Type} {t : Tab α} {k : Nat} {v : α} (h : tabFind t k = some v) : (k, v) ∈ t := by
  induction t with
  | nil => cases h
  | cons e t ih =>
    obtain ⟨j, w⟩ := e
    unfold tabFind at h
    split at h
    next hj => subst hj; cases h; exact List.mem_cons_self
    next =>
      split at h
      · cases h
      · exact List.mem_cons_of_mem _ (ih h)

theorem tabFind_of_mem {α : Type} {t : Tab α} (ht : tabWf t = true) {e : Nat × α} (he : e ∈ t) : tabFind t e.1 = some e.2 := by
  have hp := pairwise_of_tabWf ht
  clear ht
  induction t with
  | nil => cases he
  | cons f t ih =>
    obtain ⟨k, v⟩ := f
    obtain ⟨hk, hp⟩ := List.pairwise_cons.mp hp
    rcases List.mem_cons.mp he with rfl | he
    · simp [tabFind]
    · have hlt := hk e he
      have hne : ¬ k = e.1 := by omega
      have hge : ¬ e.1 < k := by omega
      rw [tabFind, if_neg hne, if_neg hge, ih he hp]

/-! ### What a write leaves of the store buffers -/

theorem writeRun_same {τ : Type} (p : State → τ) {w : Nat → Byte → State → State} (hw : ∀ pa b s, p (w pa b s) = p s) (pa : Nat)
    (data : List Byte) (s : State) : p (writeRun w pa data s) = p s := by
  induction data generalizing pa s with
  | nil => rfl
  | cons b data ih => exact (ih _ _).trans (hw pa b s)

theorem rsb_storeLine (line : Nat) (l : List Byte) (s : State) : (storeLine line l s).mem.rsb = s.mem.rsb := by
  unfold storeLine
  exact foldl_same (fun u : State => u.mem.rsb)
    (fun u i => show (setDirty (128 * line) (storeByte (128 * line + i) (l.getD i 0) u)).mem.rsb = u.mem.rsb from rfl) _ s

theorem rsb_healCovered (line : Nat) (covered : Nat → Bool) (s : State) : (healCovered line covered s).mem.rsb = s.mem.rsb := by
  unfold healCovered
  exact foldl_same (fun u : State => u.mem.rsb) (fun u w => show (healWords (128 * line + 32 * w) 32 u).mem.rsb = u.mem.rsb from rfl) _ s

theorem rsb_recallLine (line : Nat) (s : State) : (recallLine line s).mem.rsb = s.mem.rsb := by
  rw [recallLine_eq]
  split
  · rfl
  · split
    · rfl
    · exact rsb_storeLine line _ (dropCompLine line s)

theorem rsb_writeHomeByte (pa : Nat) (b : Byte) (s : State) : (writeHomeByte pa b s).mem.rsb = s.mem.rsb :=
  (rsb_recallLine _ _).trans (congrArg Mem.rsb (dropVerdicts_same pa (supersede pa s)).1)

theorem rsb_writeCompByte (pa : Nat) (b : Byte) (s : State) : (writeCompByte pa b s).mem.rsb = s.mem.rsb :=
  (congrArg Mem.rsb (dropVerdicts_same pa s).1 :)

theorem rsb_writeSys (pa : Nat) (data : List Byte) (s : State) : (writeSys pa data s).mem.rsb = s.mem.rsb := by
  unfold writeSys
  split
  · rfl
  split
  · exact writeRun_same (fun u => u.mem.rsb) rsb_writeCompByte pa data s
  · exact writeRun_same (fun u => u.mem.rsb) rsb_writeHomeByte pa data s

/-! ### Buffered stores take their place at the home (R211) -/

/-- The entries of a die's store buffer that belong to one line. -/
def bufferedOf (s : State) (die line : Nat) : List (Nat × Byte) :=
  s.mem.rsb.filter (fun e => decide (die * 2 ^ 52 + 128 * line ≤ e.1 ∧ e.1 < die * 2 ^ 52 + 128 * line + 128))

/-- The state in which a die's store buffer, its copies and the L1s have given a line up, before its bytes are written at the home. -/
def releaseLine (die line : Nat) (s : State) : State :=
  l1Invalidate (fun c => dieOf c == die || dieOf c == homeDie (128 * line)) (128 * line) 128
    { s with mem := { s.mem with rsb := tabClear s.mem.rsb (die * 2 ^ 52 + 128 * line) 128
                                 copies := tabDel s.mem.copies (die * 2 ^ 45 + line) } }

theorem rsbDrain_eq (die line : Nat) (s : State) :
    rsbDrain die line s =
      if (bufferedOf s die line).isEmpty then s
      else healCovered line (fun i => (bufferedOf s die line).any (fun e => e.1 == die * 2 ^ 52 + 128 * line + i))
        ((bufferedOf s die line).foldl (fun s e => writeHomeByte (e.1 % 2 ^ 52) e.2 s) (releaseLine die line s)) := rfl

theorem memOk_releaseLine {s : State} (die line : Nat) (h : s.MemOk) : (releaseLine die line s).MemOk :=
  memOk_l1Invalidate _ _ _ (memOk_parts h (rsb := tabWf_clear _ _) (copies := tabWf_del _))

theorem rsb_rsbDrain (die line : Nat) (s : State) :
    (rsbDrain die line s).mem.rsb = tabClear s.mem.rsb (die * 2 ^ 52 + 128 * line) 128 := by
  rw [rsbDrain_eq]
  split
  next h =>
    have hnone := List.filter_eq_nil_iff.mp (List.isEmpty_iff.mp h)
    refine (List.filter_eq_self.mpr fun e he => ?_).symm
    have := hnone e he
    simp only [decide_eq_true_eq, Bool.or_eq_true] at this ⊢
    omega
  next =>
    refine (rsb_healCovered _ _ _).trans ?_
    exact foldl_same (fun u : State => u.mem.rsb) (fun _ _ => rsb_writeHomeByte _ _ _) _ (releaseLine die line s)

/-- Bytes written at different addresses of the home are read there, and no other committed byte changes. -/
theorem homeByte_foldl_write {es : List (Nat × Byte)} (hn : es.Pairwise (fun e f => e.1 % 2 ^ 52 ≠ f.1 % 2 ^ 52)) {s : State}
    (hm : s.MemOk) (hl : LinesWf s) :
    let t := es.foldl (fun s e => writeHomeByte (e.1 % 2 ^ 52) e.2 s) s
    LinesWf t ∧ (∀ e ∈ es, homeByte t (e.1 % 2 ^ 52) = e.2) ∧ ∀ x, (∀ e ∈ es, e.1 % 2 ^ 52 ≠ x) → homeByte t x = homeByte s x := by
  induction es generalizing s with
  | nil => exact ⟨hl, fun _ he => absurd he List.not_mem_nil, fun _ _ => rfl⟩
  | cons e es ih =>
    obtain ⟨he, hn⟩ := List.pairwise_cons.mp hn
    obtain ⟨hl', hin, hout⟩ := ih hn (memOk_writeHomeByte (e.1 % 2 ^ 52) e.2 hm) (linesWf_writeHomeByte (e.1 % 2 ^ 52) e.2 hm hl)
    have hone := fun x => homeByte_writeHomeByte (e.1 % 2 ^ 52) x e.2 hm hl
    refine ⟨hl', fun f hf => ?_, fun x hx => ?_⟩
    · rcases List.mem_cons.mp hf with rfl | hf
      · exact (hout _ fun g hg => (he g hg).symm).trans ((hone _).trans (if_pos rfl))
      · exact hin f hf
    · exact (hout x fun f hf => hx f (List.mem_cons_of_mem _ hf)).trans ((hone x).trans (if_neg (hx e List.mem_cons_self).symm))

/-- The buffered bytes of a line become the committed ones, and no other committed byte changes. -/
theorem homeByte_rsbDrain {die line : Nat} {s : State} (hm : s.MemOk) (hl : LinesWf s) (hline : 128 * line + 128 ≤ 2 ^ 52) :
    LinesWf (rsbDrain die line s) ∧ ∀ x, homeByte (rsbDrain die line s) x =
      if x / 128 = line then (tabFind s.mem.rsb (die * 2 ^ 52 + x)).getD (homeByte s x) else homeByte s x := by
  obtain ⟨-, -, -, hrsb, -⟩ := (memory_wf_iff _).mp hm
  have hkey : ∀ e ∈ bufferedOf s die line, e ∈ s.mem.rsb ∧ e.1 % 2 ^ 52 / 128 = line ∧ e.1 = die * 2 ^ 52 + e.1 % 2 ^ 52 := fun e he => by
    obtain ⟨hmem, hin⟩ := List.mem_filter.mp he
    simp only [decide_eq_true_eq] at hin
    exact ⟨hmem, by omega, by omega⟩
  have hfound : ∀ x, x / 128 = line → ∀ b, tabFind s.mem.rsb (die * 2 ^ 52 + x) = some b →
      (die * 2 ^ 52 + x, b) ∈ bufferedOf s die line := fun x hx b hb =>
    List.mem_filter.mpr ⟨mem_of_tabFind hb, by simp only [decide_eq_true_eq]; omega⟩
  rw [rsbDrain_eq]
  split
  next h =>
    refine ⟨hl, fun x => ?_⟩
    split
    next hx =>
      cases hb : tabFind s.mem.rsb (die * 2 ^ 52 + x) with
      | none => rfl
      | some b => exact absurd (hfound x hx b hb) (by rw [List.isEmpty_iff.mp h]; exact List.not_mem_nil)
    next => rfl
  next =>
    have hn : (bufferedOf s die line).Pairwise (fun e f => e.1 % 2 ^ 52 ≠ f.1 % 2 ^ 52) := by
      refine ((pairwise_of_tabWf hrsb).filter _).imp_of_mem fun {e f} he hf hlt => ?_
      have := (hkey e he).2.2
      have := (hkey f hf).2.2
      omega
    obtain ⟨hl', hin, hout⟩ := homeByte_foldl_write hn (s := releaseLine die line s) (memOk_releaseLine die line hm) hl
    obtain ⟨-, hkamub, hskim, hhome, hdirty⟩ := healCovered_same line
      (fun i => (bufferedOf s die line).any (fun e => e.1 == die * 2 ^ 52 + 128 * line + i))
      ((bufferedOf s die line).foldl (fun s e => writeHomeByte (e.1 % 2 ^ 52) e.2 s) (releaseLine die line s))
    refine ⟨by unfold LinesWf; rw [hskim]; exact hl', fun x => ?_⟩
    rw [homeByte_congr (congrArg (·.copies) hkamub) (congrArg (·.lines) hskim) (fun v => by simp only [isDraining, tag?, hskim]) hdirty hhome]
    by_cases hx : x / 128 = line
    · rw [if_pos hx]
      cases hb : tabFind s.mem.rsb (die * 2 ^ 52 + x) with
      | none =>
        refine hout x fun e he hex => ?_
        obtain ⟨hmem, -, hk⟩ := hkey e he
        rw [hex] at hk
        rw [← hk, tabFind_of_mem hrsb hmem] at hb
        cases hb
      | some b =>
        have hmod : (die * 2 ^ 52 + x) % 2 ^ 52 = x := by omega
        have h := hin _ (hfound x hx b hb)
        rwa [hmod] at h
    · rw [if_neg hx]
      exact hout x fun e he hex => hx (hex ▸ (hkey e he).2.1)

theorem linesWf_of_none {s : State} (h : s.skim.lines = []) : LinesWf s := by
  unfold LinesWf
  rw [h]
  exact fun _ hk => nomatch hk

/-! ### Every store that a die has buffered (R220, R231) -/

/-- Lines of one die's buffer that go to their homes. -/
def drainLines (die : Nat) (ls : List Nat) (s : State) : State := ls.foldl (fun s l => rsbDrain die l s) s

theorem mem_rsb_drainLines {die : Nat} {ls : List Nat} {s : State} {e : Nat × Byte} :
    e ∈ (drainLines die ls s).mem.rsb ↔
      e ∈ s.mem.rsb ∧ ∀ l ∈ ls, ¬(die * 2 ^ 52 + 128 * l ≤ e.1 ∧ e.1 < die * 2 ^ 52 + 128 * l + 128) := by
  unfold drainLines
  induction ls generalizing s with
  | nil => simp
  | cons l ls ih =>
    rw [List.foldl_cons, ih, rsb_rsbDrain, tabClear, List.mem_filter, List.forall_mem_cons, and_assoc]
    simp only [Bool.or_eq_true, decide_eq_true_eq, not_and, not_lt, and_congr_right_iff, and_congr_left_iff]
    omega

theorem mem_rsb_drainDies {dies : List Nat} {s : State} {e : Nat × Byte} (h : e ∈ (drainDies dies s).mem.rsb) :
    e ∈ s.mem.rsb ∧ e.1 / 2 ^ 52 ∉ dies := by
  unfold drainDies at h
  induction dies generalizing s with
  | nil => exact ⟨h, List.not_mem_nil⟩
  | cons d dies ih =>
    obtain ⟨he, hd⟩ := ih h
    obtain ⟨hmem, hlines⟩ := mem_rsb_drainLines.mp (show e ∈ (drainLines d (rsbLines s d) s).mem.rsb from he)
    refine ⟨hmem, fun hin => ?_⟩
    rcases List.mem_cons.mp hin with hdie | hin
    · refine hlines (e.1 % 2 ^ 52 / 128) ?_ (by omega)
      exact List.mem_eraseDups.mpr (List.mem_map.mpr ⟨e, List.mem_filter.mpr ⟨hmem, beq_iff_eq.mpr hdie⟩, rfl⟩)
    · exact hd hin

theorem linesWf_drainDies {dies : List Nat} {s : State} (hm : s.MemOk) (hl : LinesWf s) : LinesWf (drainDies dies s) := by
  unfold drainDies
  refine (foldl_keeps (P := fun s => s.MemOk ∧ LinesWf s) (fun u d hu => ?_) dies ⟨hm, hl⟩).2
  have hlines : ∀ l ∈ rsbLines u d, 128 * l + 128 ≤ 2 ^ 52 := fun l hl => by
    obtain ⟨e, -, rfl⟩ := List.mem_map.mp (List.mem_eraseDups.mp hl)
    omega
  generalize rsbLines u d = ls at hlines
  induction ls generalizing u with
  | nil => exact hu
  | cons l ls ih =>
    exact ih _ ⟨memOk_rsbDrain d l hu.1, (homeByte_rsbDrain hu.1 hu.2 (hlines l List.mem_cons_self)).1⟩
      fun k hk => hlines k (List.mem_cons_of_mem l hk)

/-- What the system writes below the companion's memory is read there. -/
theorem readHome_writeSys {pa : Nat} {data : List Byte} {s : State} (hp : pa + data.length ≤ 2 ^ 51) (hm : s.MemOk) (hl : LinesWf s) :
    readHome (writeSys pa data s) pa data.length = data := by
  refine List.ext_getElem (by simp [readHome]) fun i _ h2 => ?_
  have hpa : ¬ 2 ^ 51 ≤ pa := by omega
  simp only [readHome, List.getElem_map, List.getElem_range, if_neg hpa]
  rw [homeByte_writeSys data (by omega) hm hl, written, if_pos (by omega), Nat.add_sub_cancel_left, List.getD_eq_getElem _ _ h2]

/-! ### The events -/

theorem whileRunning_runs {s : State} (h : coresRun s = true) (f : State → State) : whileRunning f s = .next (f s) := by
  unfold whileRunning
  rw [if_pos h]

theorem evShadowEvict_l2 {s : State} {vt line d : Nat} {x : Shadow} (hx : s.skim.lines.find? (fun l => l.vt == vt && l.line == line) = some x)
    (hp : x.place = .l2 d) (hr : makeRoom (homeDie (128 * line)) 128 s = (true, s)) :
    evShadowEvict vt line s = modShadow vt line (fun x => { x with place := .llc }) s := by
  simp [evShadowEvict, hx, hp, hr]

theorem find?_modShadow {vt line : Nat} {f : Shadow → Shadow} (hf : ∀ x, (f x).vt = x.vt ∧ (f x).line = x.line) {s : State} {x : Shadow}
    (hx : s.skim.lines.find? (fun l => l.vt == vt && l.line == line) = some x) :
    (modShadow vt line f s).skim.lines.find? (fun l => l.vt == vt && l.line == line) = some (f x) := by
  refine (find?_modWhere (fun l => by rw [(hf l).1, (hf l).2]) _ _).trans ?_
  rw [hx, Option.map_some, if_pos (List.find?_some (p := fun l : Shadow => l.vt == vt && l.line == line) hx)]

/-- Without shadow lines none drains first, and a buffered line takes its place at once (R110, R211). -/
theorem evRsbWriteback_unshadowed {s : State} (h : s.skim.lines = []) (die : Fin 4) (line : Nat) :
    evRsbWriteback die line s = rsbDrain die.val line s := by
  simp [evRsbWriteback, drainFirst, h]

theorem launch?_forgetLaunch_same (id : Nat) (s : State) : launch? (forgetLaunch id s) id = none := by
  unfold launch? forgetLaunch
  rw [List.find?_filter]
  exact List.find?_eq_none.mpr (by simp)

/-- The word of a launch that has committed (R91). -/
theorem doneWord_committed {l : Launch} (h : l.cause = none) :
    doneWord l = (if l.tern then 2 ^ 8 else 0) + 2 ^ 15 + 2 ^ 32 * (lrCookie l.raw % 2 ^ 32) := by
  simp [doneWord, h, boolBit]

theorem wordReady_committed {s : State} {l : Launch} {v : Nat} (hp : l.parent = none) (hf : l.fault = none) (hv : l.vt = some v)
    (hc : l.phase = .committed) (hw : wordsTurn s l.id = true) (hg : ∀ g, tag? s v = some g → g.launch = l.id → g.st = .draining)
    (hr : v ∉ s.skim.releasing) (hl : ∀ x ∈ s.skim.lines, x.vt = v → x.place ≠ .log) : wordReady s l = true := by
  have hlog : ∀ x ∈ s.skim.lines, ¬x.vt = v ∨ ¬x.place = .log := fun x hx => not_or_of_imp (hl x hx)
  unfold wordReady
  cases htag : tag? s v with
  | none => simp [hp, hf, hv, hc, hw, htag]
  | some g =>
    by_cases hlaunch : g.launch = l.id
    · simpa [hp, hf, hv, hc, hw, htag, hlaunch, hg g htag hlaunch, hr] using hlog
    · simp [hp, hf, hv, hc, hw, htag, hlaunch]

/-- The completion word of a committed launch in an open page, with the stores of its dies performed before it (R91, R231). -/
theorem evCompletionWord_committed {s : State} {id pa p lvl : Nat} {l : Launch} (hl : launch? s id = some l) (hw : wordReady s l = true)
    (hq : l.requeue = false) (hc : l.cause = none) (ht : translate s 160 l.space (lrDone l.raw) .devWrite = .ok pa p lvl)
    (ho : pteOpen p = true) (hs : pteSys p = false) (hp : pa < 2 ^ 51) :
    evCompletionWord id s = forgetLaunch id (writeSys pa (toBytes 8 (doneWord l)) (drainDies l.dies s)) := by
  have hpos (b : Bool) : (decide (2 ^ 51 ≤ pa) && b) = false := by rw [decide_eq_false (by omega), Bool.false_and]
  simp only [evCompletionWord, hl, hw, hq, hc, ht, ho, hs, hpos, reachable_of_device s hp, Bool.not_true, Bool.false_and, Bool.or_self,
    Bool.false_eq_true, if_false, Option.isSome_none, Bool.and_false]

theorem evScTokenHop_stays {s : State} (h : netCycle s < s.scAt) : evScTokenHop s = s := by
  simp [evScTokenHop, h]

theorem evScTokenHop_hops {s : State} (h : s.scAt ≤ netCycle s)
    (hw : (∀ w ∈ s.scWaiting, w % 4 ≠ s.scToken) ∨ s.scAt + 16 ≤ netCycle s) :
    evScTokenHop s = { s with scToken := (s.scToken + 1) % 4, scAt := netCycle s + 5 } := by
  refine if_neg ?_
  rw [Bool.or_eq_true, not_or]
  refine ⟨by simpa using h, fun hb => ?_⟩
  simp only [Bool.and_eq_true, List.any_eq_true, beq_iff_eq, decide_eq_true_eq] at hb
  obtain ⟨⟨w, hmem, hat⟩, hlt⟩ := hb
  rcases hw with hw | hw
  · exact hw w hmem hat
  · omega

end Sys2Proof.Machine

section
open Sys2Proof Sys2Proof.Machine

/-- Settles O51: each movement is one change of the lines, the buffer or the token; a completion word is written in memory whose buffered
stores have been drained, and is read there as it was written. -/
theorem shadowMovementsAndCompletionWord : Obligations.ShadowMovementsAndCompletionWord := by
  unfold Obligations.ShadowMovementsAndCompletionWord
  constructor
  · intro s die d vt line x hrun
    refine ⟨fun hx hp hr => ?_, fun hm hline hlines _ => ?_, fun h => ?_, fun h hw => ?_⟩
    · exact ⟨_, (whileRunning_runs hrun _).trans (congrArg _ (evShadowEvict_l2 hx hp hr)), rfl,
        find?_modShadow (f := fun x => { x with place := .llc }) (fun _ => ⟨rfl, rfl⟩) hx⟩
    · obtain ⟨-, hbytes⟩ := homeByte_rsbDrain (die := die.val) hm (linesWf_of_none hlines) (show 128 * line + 128 ≤ 2 ^ 52 by omega)
      refine ⟨_, (whileRunning_runs hrun _).trans (congrArg _ (evRsbWriteback_unshadowed hlines die line)), fun e he => ?_,
        fun i _ => hbytes i⟩
      rw [rsb_rsbDrain] at he
      have hout := (List.mem_filter.mp he).2
      simp only [Bool.or_eq_true, decide_eq_true_eq] at hout
      omega
    · exact (whileRunning_runs hrun _).trans (congrArg _ (evScTokenHop_stays h))
    · exact (whileRunning_runs hrun _).trans (congrArg _ (evScTokenHop_hops h hw))
  · intro s id v pa p lvl l hrun hl hp hf hv hc hw hg hr hlog hq hcause ht ho hs hpa hm hlines
    obtain rfl := launch?_id hl
    have hready := wordReady_committed hp hf hv hc hw hg hr hlog
    have hword : doneWord l < 256 ^ 8 := by
      rw [doneWord_committed hcause]
      split <;> omega
    have hbytes := readHome_writeSys (data := toBytes 8 (doneWord l)) (by rwa [toBytes_length]) (memOk_drainDies (dies := l.dies) hm)
      (linesWf_drainDies hm (linesWf_of_none hlines))
    rw [toBytes_length] at hbytes
    refine ⟨_, (whileRunning_runs hrun _).trans (congrArg _ (evCompletionWord_committed hl hready hq hcause ht ho hs (by omega))),
      launch?_forgetLaunch_same l.id _, fun e he => ?_, ?_⟩
    · have he' : e ∈ (writeSys pa (toBytes 8 (doneWord l)) (drainDies l.dies s)).mem.rsb := he
      rw [rsb_writeSys] at he'
      exact (mem_rsb_drainDies he').2
    · refine (congrArg ofBytes hbytes).trans ?_
      rw [ofBytes_toBytes, Nat.mod_eq_of_lt hword, doneWord_committed hcause]

end

/-! ## The chain of a commit and the end of an abort (R117 to R125, R129) -/

namespace Sys2Proof.Machine

/-! ### What an abort leaves of the Skim and of the teams (R125) -/

/-- The parts of memory and of the Skim that no abort and no retirement changes. -/
def skimFrame (s : State) : Mem × List Shadow × List Deferred × List SkimEntry × Tab (List Nat) :=
  (s.mem, s.skim.lines, s.skim.deferred, s.skim.entries, s.skim.groups)

/-- A team but for whether it has retired. -/
def asRetired (m : Team) : Team := { m with retired := true }

/-- Of two states the second is the first with tags and teams ended: those parts stay, no tag comes, goes or changes its parent, and the
teams change in nothing but that they retire. -/
structure EndsTags (s t : State) : Prop where
  frame : skimFrame t = skimFrame s
  parents : ∀ v, (tag? t v).map (·.parent) = (tag? s v).map (·.parent)
  teams : t.teams.map asRetired = s.teams.map asRetired

theorem EndsTags.refl (s : State) : EndsTags s s := ⟨rfl, fun _ => rfl, rfl⟩

theorem EndsTags.trans {s t u : State} (h : EndsTags s t) (k : EndsTags t u) : EndsTags s u :=
  ⟨k.frame.trans h.frame, fun v => (k.parents v).trans (h.parents v), k.teams.trans h.teams⟩

theorem EndsTags.foldl {β : Type} {s : State} {g : State → β → State} (hg : ∀ u x, EndsTags u (g u x)) (l : List β) {t : State}
    (h : EndsTags s t) : EndsTags s (l.foldl g t) :=
  foldl_keeps (P := EndsTags s) (fun u x hu => hu.trans (hg u x)) l h

theorem endsTags_retireThem (p : Team → Bool) {f : Team → Team} (hf : ∀ m, asRetired (f m) = asRetired m) {s t : State}
    (hs : skimFrame t = skimFrame s) (hg : t.skim.tags = s.skim.tags) (ht : t.teams = modWhere p f s.teams) : EndsTags s t :=
  ⟨hs, fun v => by simp only [tag?, hg], by rw [ht, map_modWhere hf]⟩

theorem endsTags_clearTeam (m : Team) (s : State) : EndsTags s (clearTeam m s) := ⟨rfl, fun _ => rfl, rfl⟩

theorem endsTags_freeStacks (m : Team) (s : State) : EndsTags s (freeStacks m s) := ⟨rfl, fun _ => rfl, rfl⟩

theorem endsTags_stopLaunch (id : Nat) (s : State) : EndsTags s (stopLaunch id s) :=
  (EndsTags.foldl (fun u m => (endsTags_freeStacks m u).trans (endsTags_clearTeam m _)) _ (EndsTags.refl s)).trans
    (endsTags_retireThem (fun m => m.launch == id) (f := asRetired) (fun _ => rfl) rfl rfl rfl)

theorem skimFrame_countAbort (cause : Nat) (s : State) : skimFrame (countAbort cause s) = skimFrame s := by
  unfold countAbort
  split
  · rfl
  · split <;> rfl

theorem endsTags_killTag (w cause : Nat) (s : State) : EndsTags s (killTag w cause s) := by
  refine ⟨skimFrame_countAbort _ _, fun v => ?_, congrArg _ (killTag_same w cause s).2⟩
  rw [tag?_killTag]
  split
  · cases tag? s v <;> rfl
  · rfl

theorem endsTags_stampCause (id cause vt : Nat) (rep : Option Report) (s : State) : EndsTags s (stampCause id cause vt rep s) := by
  unfold stampCause
  refine EndsTags.trans (t := if (launch? s id).any (·.cause.isNone) then countLink cause s else s) ?_ ?_
  · split
    · unfold countLink
      split <;> exact ⟨rfl, fun _ => rfl, rfl⟩
    · exact EndsTags.refl s
  · refine EndsTags.trans ?_ (endsTags_stopLaunch id _)
    exact ⟨rfl, fun _ => rfl, rfl⟩

theorem endsTags_lowerCause (id cause : Nat) (rep : Option Report) (s : State) : EndsTags s (lowerCause id cause rep s) := by
  unfold lowerCause
  split
  · exact EndsTags.refl s
  split
  · exact EndsTags.refl s
  split
  · refine ⟨rfl, fun v => ?_, rfl⟩
    unfold tag?
    dsimp only
    rw [tabFind_map _ (fun e => by split <;> rfl)]
    cases tabFind s.skim.tags v with
    | none => rfl
    | some g => simp only [Option.map_some]; split <;> rfl
  · exact EndsTags.refl s

theorem endsTags_strike (id cause vt : Nat) (rep : Option Report) (vs : List Nat) (s : State) : EndsTags s (strike id cause vt rep vs s) :=
  (EndsTags.foldl (fun u w => endsTags_killTag w cause u) vs (EndsTags.refl s)).trans (endsTags_stampCause _ _ _ _ _)

theorem endsTags_abortDescendant (cause d : Nat) (s : State) : EndsTags s (abortDescendant cause s d) := by
  unfold abortDescendant
  split
  · split
    · exact EndsTags.refl s
    · exact endsTags_strike _ _ _ _ _ _
  · exact EndsTags.refl s

theorem endsTags_abortLaunch (id cause : Nat) (byRelative : Bool) (rep : Option Report) (s : State) :
    EndsTags s (abortLaunch id cause byRelative rep s) := by
  cases hl : launch? s id with
  | none => unfold abortLaunch; rw [hl]; exact EndsTags.refl s
  | some l =>
    rw [abortLaunch_eq hl]
    split
    · exact endsTags_lowerCause _ _ _ _
    · exact EndsTags.foldl (fun u d => endsTags_abortDescendant cause d u) _ (endsTags_strike _ _ _ _ _ _)

theorem endsTags_abortVt (vt cause : Nat) (byRelative : Bool) (rep : Option Report) (s : State) :
    EndsTags s (abortVt vt cause byRelative rep s) := by
  unfold abortVt
  split
  · split
    · exact endsTags_abortLaunch _ _ _ _ _
    · exact endsTags_lowerCause _ _ _ _
  · exact EndsTags.refl s

/-- A tag that is free stays free. -/
theorem EndsTags.tag?_none {s t : State} (h : EndsTags s t) {v : Nat} (hv : tag? s v = none) : tag? t v = none := by
  have := h.parents v
  rwa [hv, Option.map_none, Option.map_eq_none_iff] at this

/-- A team keeps what others have told it. -/
theorem EndsTags.team?_status {s t : State} (h : EndsTags s t) {key : Nat} {m : Team} (hm : team? s key = some m) :
    ∃ x, team? t key = some x ∧ x.status = m.status := by
  have hf (l : List Team) : (l.find? (·.key == key)).map asRetired = (l.map asRetired).find? (·.key == key) := by
    rw [List.find?_map]; rfl
  have hs : (team? t key).map asRetired = (team? s key).map asRetired := by
    unfold team?
    rw [hf, hf, h.teams]
  rw [hm] at hs
  obtain ⟨x, hx, he⟩ := Option.map_eq_some_iff.mp hs
  exact ⟨x, hx, (congrArg Team.status he :)⟩

/-! ### Requests and their order (R119, R120) -/

/-- A commit request of a launch that is quiet stands in the queue. -/
theorem evCommitRequest_quiet {s : State} {id vt : Nat} {l : Launch} {g : VTag} (hl : launch? s id = some l) (hp : l.phase = .running)
    (hv : l.vt = some vt) (hn : l.nextTeam = lrTeams l.raw) (hg : tag? s vt = some g) (hst : g.st = .active)
    (ht : ∀ m ∈ s.teams, m.launch = id → m.retired = true) (hk : ∀ k ∈ s.launches, k.parent ≠ some id)
    (ha : ∀ a ∈ s.accesses, a.f.launch ≠ id) : evCommitRequest id none s = queueTag vt s := by
  have hq : quiet s l (s.teams.filter (·.launch == id)) = true := by
    unfold quiet
    simp only [Bool.and_eq_true, List.all_eq_true, launch?_id hl]
    refine ⟨⟨fun m hm => ?_, fun k hk' => ?_⟩, fun a ha' => ?_⟩
    · obtain ⟨hm, hlaunch⟩ := List.mem_filter.mp hm
      exact ht m hm (by simpa using hlaunch)
    · simp [hk k hk']
    · simp [ha a ha']
  simp [evCommitRequest, hl, hp, hv, hn, hq, hg, hst]

theorem tag?_modTag_same {s : State} {v : Nat} {g : VTag} (f : VTag → VTag) (hg : tag? s v = some g) : tag? (modTag v f s) v = some (f g) := by
  unfold tag? at hg ⊢
  refine (tabFind_mod _ _ _ _).trans ?_
  rw [if_pos rfl, hg, Option.map_some]

/-- Does a request that stands in the queue go before one of a tag that arrives now (R120)? -/
def aheadOf (s : State) (vt v : Nat) : Bool := tabGet 0 s.skim.reqAt v < netCycle s || v < vt

theorem queueTag_requests (vt : Nat) (s : State) :
    (queueTag vt s).skim.requests = s.skim.requests.takeWhile (aheadOf s vt) ++ vt :: s.skim.requests.dropWhile (aheadOf s vt) := rfl

/-- A number put before the first that is not smaller keeps a rising list rising. -/
theorem pairwise_le_insert {n : Nat} {p : Nat → Bool} {l : List Nat} (hl : l.Pairwise (· ≤ ·)) (hp : ∀ v ∈ l, p v = decide (v < n)) :
    (l.takeWhile p ++ n :: l.dropWhile p).Pairwise (· ≤ ·) := by
  induction l with
  | nil => exact List.pairwise_singleton _ _
  | cons v l ih =>
    obtain ⟨hv, hl'⟩ := List.pairwise_cons.mp hl
    have hpv := hp v List.mem_cons_self
    by_cases hlt : v < n
    · rw [List.takeWhile_cons_of_pos (by simp [hpv, hlt]), List.dropWhile_cons_of_pos (by simp [hpv, hlt]), List.cons_append]
      refine .cons (fun w hw => ?_) (ih hl' fun w hw => hp w (List.mem_cons_of_mem v hw))
      rcases List.mem_append.mp hw with hw | hw
      · exact hv w ((List.takeWhile_sublist p).subset hw)
      · rcases List.mem_cons.mp hw with rfl | hw
        · omega
        · exact hv w ((List.dropWhile_sublist p).subset hw)
    · rw [List.takeWhile_cons_of_neg (by simp [hpv, hlt]), List.dropWhile_cons_of_neg (by simp [hpv, hlt]), List.nil_append]
      refine .cons (fun w hw => ?_) hl
      rcases List.mem_cons.mp hw with rfl | hw
      · omega
      · have := hv w hw
        omega

theorem queueTag_perm (vt : Nat) (s : State) : (queueTag vt s).skim.requests.Perm (vt :: s.skim.requests) := by
  rw [queueTag_requests]
  refine List.perm_middle.trans ?_
  rw [List.takeWhile_append_dropWhile]

theorem queueTag_last {vt : Nat} {s : State} (h : ∀ v ∈ s.skim.requests, tabGet 0 s.skim.reqAt v < netCycle s) :
    (queueTag vt s).skim.requests = s.skim.requests ++ [vt] := by
  have hall : ∀ v ∈ s.skim.requests, aheadOf s vt v = true := fun v hv => by simp [aheadOf, h v hv]
  rw [queueTag_requests, List.takeWhile_eq_self_iff.mpr hall, List.dropWhile_eq_nil_iff.mpr hall]

theorem queueTag_rising {vt : Nat} {s : State} (h : ∀ v ∈ s.skim.requests, tabGet 0 s.skim.reqAt v = netCycle s)
    (hs : s.skim.requests.Pairwise (· ≤ ·)) : (queueTag vt s).skim.requests.Pairwise (· ≤ ·) := by
  rw [queueTag_requests]
  exact pairwise_le_insert hs fun v hv => by simp [aheadOf, h v hv]

/-! ### The request that is taken (R121 step 1) -/

theorem evCommitStart_waits {s : State} {vt : Nat} {rest : List Nat} (hc : s.skim.current = none) (hr : s.skim.requests = vt :: rest)
    (h : netCycle s ≤ tabGet 0 s.skim.reqAt vt) : evCommitStart s = s := by
  simp [evCommitStart, hc, hr, h]

theorem evCommitStart_takes {s : State} {vt : Nat} {rest : List Nat} (hc : s.skim.current = none) (hr : s.skim.requests = vt :: rest)
    (h : tabGet 0 s.skim.reqAt vt < netCycle s) :
    evCommitStart s = modTag vt (fun g => { g with st := .committing })
      { s with skim := { s.skim with current := some { vt := vt, walked := [] }, requests := rest } } := by
  simp [evCommitStart, hc, hr, Nat.not_le.mpr h]

/-! ### The walk of one home (R117, R118, R121 step 2) -/

/-- A tag and its launch that a conflict has ended. -/
def Struck (id v : Nat) (s : State) : Prop :=
  ∃ g k, tag? s v = some g ∧ launch? s id = some k ∧ g.launch = id ∧ Conflicted g k

theorem Struck.abortDescendant {id v : Nat} {s : State} (h : Struck id v s) (d : Nat) : Struck id v (abortDescendant 0x09 s d) := by
  obtain ⟨g, k, hg, hk, hgl, hst, hcause, hphase, hkc⟩ := h
  unfold Machine.abortDescendant
  split
  next j hd =>
    split
    · exact ⟨g, k, hg, hk, hgl, hst, hcause, hphase, hkc⟩
    · have hnot : v ∉ fallingTags s j 0x09 := fun hm => by
        have ha := (List.mem_filter.mp hm).2
        simp [abortable, hg, hst] at ha
      obtain ⟨k', hk', -, hcp⟩ := launch?_stampCause (s := (fallingTags s j 0x09).foldl (fun s w => killTag w 0x09 s) s) d 0x09
        (namedTag s j) none (j := id) (k := k) (by unfold launch? at hk ⊢; rw [(killTags_same 0x09 _ s).1, hk])
      rw [if_neg (by simp [hkc])] at hcp
      obtain ⟨hc', hp'⟩ := Prod.mk.inj hcp
      refine ⟨g, k', ?_, hk', hgl, hst, hcause, hp'.trans hphase, hc'.trans hkc⟩
      unfold Machine.strike
      rw [tag?, stampCause_tags, ← tag?, tag?_killTags, if_neg hnot, hg]
  next => exact ⟨g, k, hg, hk, hgl, hst, hcause, hphase, hkc⟩

/-- A second conflict finds nothing to end. -/
theorem Struck.abortVt {id v : Nat} {s : State} (h : Struck id v s) : abortVt v 0x09 false none s = s := by
  obtain ⟨g, k, hg, hk, rfl, hst, -, -, hkc⟩ := h
  simp [Machine.abortVt, abortable, hg, hst, lowerCause, hk, hkc]

/-- A conflict ends the transaction of a launch that holds its own tag. -/
theorem struck_abortVt {s : State} {v : Nat} {h : VTag} {k : Launch} (hg : tag? s v = some h) (hk : launch? s h.launch = some k)
    (hv : k.vt = some v) (hrun : Running h k) : Struck k.id v (abortVt v 0x09 false none s) := by
  have hid := launch?_id hk
  have habort : abortable s v 0x09 false = true := by
    unfold abortable
    rw [hg]
    rcases hrun.1 with e | e <;> simp [e]
  have hlive : v ∈ liveTags s k 0x09 false := by
    refine mem_liveTags_of_running ?_ hg hrun
    simp [endTags, hv, hg, hid]
  obtain ⟨k', hk', -, hcp⟩ := launch?_stampCause (s := (liveTags s k 0x09 false).foldl (fun s w => killTag w 0x09 s) s) h.launch 0x09
    (namedTag s k) none (j := h.launch) (k := k) (by unfold launch? at hk ⊢; rw [(killTags_same 0x09 _ s).1, hk])
  rw [if_pos ⟨rfl, hrun.2⟩] at hcp
  obtain ⟨hc', hp'⟩ := Prod.mk.inj hcp
  have hstruck : Struck k.id v (strike h.launch 0x09 (namedTag s k) none (liveTags s k 0x09 false) s) := by
    refine ⟨{ h with st := .aborting, cause := 0x09 }, k', ?_, by rw [hid]; exact hk', hid.symm, rfl, rfl, hp', hc'⟩
    unfold Machine.strike
    rw [tag?, stampCause_tags, ← tag?, tag?_killTags, if_pos hlive, hg]
    rfl
  unfold Machine.abortVt
  rw [hg]
  dsimp only
  rw [if_pos habort, abortLaunch_eq hk, if_neg (by rw [List.isEmpty_eq_false_iff.mpr (List.ne_nil_of_mem hlive)]; simp)]
  exact foldl_keeps (P := Struck k.id v) (fun u d hu => hu.abortDescendant d) _ hstruck

/-- Does an entry name a tag: as a writer, a reader, or in the reader set of its group (R114)? -/
def namesTag (s : State) (e : SkimEntry) (w : Nat) : Prop :=
  w ∈ e.writers ∨ w ∈ e.readers ∨ (e.overflow = true ∧ w ∈ (tabFind s.skim.groups (e.unit_ / 4096)).getD [])

/-- The space of the launch that holds a tag. -/
def tagSpace (s : State) (v : Nat) : Option Nat := ((tag? s v).bind (fun g => launch? s g.launch)).map (·.space)

theorem tagChain_top {s : State} {v : Nat} {g : VTag} (hg : tag? s v = some g) (hp : g.parent = none) : tagChain s v = [v] := by
  simp [tagChain, tagChain.go, hg, hp]

/-- Of a tag at the top, the tags that conflict with its commit of an entry (R117, R118). -/
theorem mem_conflictsOf {s : State} {vt : Nat} {g : VTag} (hg : tag? s vt = some g) (hp : g.parent = none) (e : SkimEntry) (v : Nat) :
    v ∈ conflictsOf s vt e ↔ namesTag s e v ∧ v ≠ vt ∧ tagSpace s v = tagSpace s vt ∧ conflictable s v = true := by
  have hover : v ∈ (if e.overflow then (tabFind s.skim.groups (e.unit_ / 4096)).getD [] else []) ↔
      e.overflow = true ∧ v ∈ (tabFind s.skim.groups (e.unit_ / 4096)).getD [] := by
    cases e.overflow <;> simp
  unfold conflictsOf
  rw [List.mem_filter, List.mem_eraseDups, List.mem_append, List.mem_append, hover, or_assoc, tagChain_top hg hp, hg, Option.bind_some, hp]
  simp only [Bool.and_true, Bool.and_eq_true, bne_iff_ne, ne_eq, List.contains_eq_mem, List.mem_singleton, Bool.not_eq_true',
    decide_eq_false_iff_not, beq_iff_eq]
  unfold namesTag tagSpace
  tauto

/-- A tag that is neither ACTIVE nor QUEUED, and whose launch no cause has reached, is past every conflict. -/
theorem conflictable_iff {s : State} {v : Nat} {h : VTag} {k : Launch} (hg : tag? s v = some h) (hk : launch? s h.launch = some k)
    (hc : k.cause = none) : conflictable s v = true ↔ h.st = .active ∨ h.st = .queued := by
  simp [conflictable, hg, hk, abortedNow, hc]

/-- What a home's work on a unit leaves but for its conflicts. -/
theorem withoutBytes_walkEntry (vt : Nat) (e : SkimEntry) (s : State) :
    withoutBytes (walkEntry vt e s) = withoutBytes ((conflictsOf s vt e).foldl (fun s v => abortVt v 0x09 false none s) s) := by
  unfold walkEntry
  exact foldl_same withoutBytes (fun u i => (withoutBytes_recallLine _ _).trans
    (show withoutBytes (dropCopies (e.unit_ / 128 + i) u) = withoutBytes u from rfl)) _ _

theorem markLines_mem (ls : List Shadow) (s : State) :
    markLines ls s = { s with mem := { s.mem with clean := (markLines ls s).mem.clean } } := by
  unfold markLines
  refine foldl_keeps (P := fun u : State => u = { s with mem := { s.mem with clean := u.mem.clean } }) (fun u l hu => ?_) ls rfl
  rw [hu]
  rfl

/-- The lines of a tag at one home. -/
def linesAt (vt die : Nat) (s : State) : List Shadow := s.skim.lines.filter (fun l => l.vt == vt && homeDie (128 * l.line) == die)

/-- A home that a commit at the top has walked. -/
def walkedBy (c : Commit) (die : Nat) (s : State) : State :=
  { s with skim := { s.skim with current := some { c with walked := c.walked ++ [die] } } }

/-- What one home's work on the entries of a tag's writes leaves. -/
def walkHome (vt die : Nat) (s : State) : State :=
  (s.skim.entries.filter (fun e => e.writers.contains vt && homeDie e.unit_ == die)).foldl (fun s e => walkEntry vt e s) s

/-- The walk of one home for a tag at the top (R121 step 2). -/
theorem evCommitWalk_top {s : State} {die : Fin 4} {c : Commit} (hc : s.skim.current = some c) (hd : die.val ∉ c.walked)
    (hp : (tag? (walkHome c.vt die.val s) c.vt).bind (·.parent) = none) :
    evCommitWalk die s = walkedBy c die.val (markLines (linesAt c.vt die.val (walkHome c.vt die.val s)) (walkHome c.vt die.val s)) := by
  have hno : ¬c.walked.contains die.val = true := by simpa using hd
  unfold walkHome at hp ⊢
  simp only [evCommitWalk, hc, if_neg hno, hp]
  rfl

theorem parent_of_endsTags {s t : State} (h : EndsTags s t) {v : Nat} {g : VTag} (hg : tag? s v = some g) (hp : g.parent = none) :
    (tag? t v).bind (·.parent) = none := by
  have hv := h.parents v
  rw [hg, Option.map_some, hp] at hv
  obtain ⟨x, hx, he⟩ := Option.map_eq_some_iff.mp hv
  rw [hx, Option.bind_some, he]

/-- What the walk of one entry leaves of tags and launches is what its conflicts leave. -/
theorem evCommitWalk_entry {s : State} {die : Fin 4} {c : Commit} {g : VTag} {e : SkimEntry} (hc : s.skim.current = some c)
    (hd : die.val ∉ c.walked) (hg : tag? s c.vt = some g) (hp : g.parent = none)
    (he : s.skim.entries.filter (fun x => x.writers.contains c.vt && homeDie x.unit_ == die.val) = [e]) :
    let u := (conflictsOf s c.vt e).foldl (fun s v => abortVt v 0x09 false none s) s
    (evCommitWalk die s).launches = u.launches ∧ (evCommitWalk die s).skim.tags = u.skim.tags := by
  intro u
  have hw : withoutBytes (walkEntry c.vt e s) = withoutBytes u := withoutBytes_walkEntry c.vt e s
  have htags : (walkEntry c.vt e s).skim.tags = u.skim.tags := (congrArg (fun t : State => t.skim.tags) hw :)
  have hpar : (tag? (walkEntry c.vt e s) c.vt).bind (·.parent) = none := by
    have hu : EndsTags s u := EndsTags.foldl (fun t v => endsTags_abortVt v 0x09 false none t) _ (EndsTags.refl s)
    rw [tag?, htags]
    exact parent_of_endsTags hu hg hp
  have hhome : walkHome c.vt die.val s = walkEntry c.vt e s := by
    unfold walkHome
    rw [he]
    rfl
  rw [evCommitWalk_top hc hd (by rw [hhome]; exact hpar), hhome, markLines_mem]
  exact ⟨(congrArg State.launches hw :), htags⟩

/-- A home with no unit of the tag's writes changes nothing but dirty bits and that it has walked. -/
theorem evCommitWalk_nothing {s : State} {die : Fin 4} {c : Commit} {g : VTag} (hc : s.skim.current = some c) (hd : die.val ∉ c.walked)
    (hg : tag? s c.vt = some g) (hp : g.parent = none) (he : ∀ e ∈ s.skim.entries, c.vt ∈ e.writers → homeDie e.unit_ ≠ die.val) :
    evCommitWalk die s = walkedBy c die.val (markLines (linesAt c.vt die.val s) s) := by
  have hnone : s.skim.entries.filter (fun e => e.writers.contains c.vt && homeDie e.unit_ == die.val) = [] :=
    List.filter_eq_nil_iff.mpr fun e hm hb => by
      simp only [List.contains_eq_mem, Bool.and_eq_true, decide_eq_true_eq, beq_iff_eq] at hb
      exact he e hm hb.1 hb.2
  have hhome : walkHome c.vt die.val s = s := by
    unfold walkHome
    rw [hnone]
    rfl
  rw [evCommitWalk_top hc hd (by rw [hhome, hg, Option.bind_some, hp]), hhome]

/-- Where a conflict names one tag alone, each of the conflicts' aborts is of that tag. -/
theorem foldl_abortVt_of_forall {s : State} {id v : Nat} {vs : List Nat} (hs : Struck id v (abortVt v 0x09 false none s)) (hv : v ∈ vs)
    (hall : ∀ w ∈ vs, w = v) : Struck id v (vs.foldl (fun s w => abortVt w 0x09 false none s) s) := by
  cases vs with
  | nil => cases hv
  | cons w vs =>
    obtain rfl := hall w List.mem_cons_self
    rw [List.foldl_cons]
    refine List.foldlRecOn (motive := Struck id w) vs _ hs fun u hu x hx => ?_
    rw [hall x (List.mem_cons_of_mem _ hx), hu.abortVt]
    exact hu

/-! ### The flip (R121 step 5, R122) -/

/-- The bytes of these addresses are superseded, one after the other. -/
def supersedeAll (pas : List Nat) (s : State) : State := pas.foldl (fun s pa => supersede pa s) s

/-- What is superseded drains no more; nothing changes but the bytes of lines that drain. -/
theorem supersedeAll_keeps (pas : List Nat) {s : State} (hl : LinesWf s) :
    let t := supersedeAll pas s
    (t.skim = { s.skim with lines := t.skim.lines } ∧ t.kamub = s.kamub ∧ t.mem = s.mem) ∧ (∀ x, drainingByte s x = none ∨ x ∈ pas → drainingByte t x = none) ∧
      ∀ l, isDraining s l.vt = false → (l ∈ t.skim.lines ↔ l ∈ s.skim.lines) := by
  induction pas generalizing s with
  | nil => exact ⟨⟨rfl, rfl, rfl⟩, fun x hx => hx.elim id fun h => absurd h List.not_mem_nil, fun _ _ => Iff.rfl⟩
  | cons pa pas ih =>
    obtain ⟨⟨hskim, hkamub, hm⟩, hnone, hmem⟩ := ih (linesWf_supersede pa hl)
    refine ⟨⟨hskim.trans rfl, hkamub, hm⟩, fun x hx => hnone x ?_, fun l hd => (hmem l hd).trans ?_⟩
    · rw [drainingByte_supersede pa x hl]
      rcases hx with hx | hx
      · left; rw [hx, ite_self]
      · exact (List.mem_cons.mp hx).imp (fun h => by rw [if_pos h]) fun h => h
    · rw [supersede_lines, List.mem_map]
      have hsame : ∀ k : Shadow, isDraining s k.vt = false → supersededLine pa s k = k := fun k hk => by simp [supersededLine, hk]
      have hvt : ∀ k : Shadow, (supersededLine pa s k).vt = k.vt := fun k => by unfold supersededLine; split <;> rfl
      constructor
      · rintro ⟨k, hk, rfl⟩
        rw [hvt] at hd
        rwa [hsame k hd]
      · exact fun h => ⟨l, h, hsame l hd⟩

/-- The lines of a tag. -/
def linesOfTag (vt : Nat) (s : State) : List Shadow := s.skim.lines.filter (·.vt == vt)

/-- The addresses of a line's bytes. -/
def addrsOf (l : Shadow) : List Nat := l.bytes.map (fun e => 128 * l.line + e.1)

theorem foldl_supersede_lines (ls : List Shadow) (s : State) :
    ls.foldl (fun s l => l.bytes.foldl (fun s e => supersede (128 * l.line + e.1) s) s) s = supersedeAll (ls.flatMap addrsOf) s := by
  unfold supersedeAll addrsOf
  rw [List.foldl_flatMap]
  simp only [List.foldl_map]

/-- What gives way to a commit's lines before the flip (R32, R33, R40). -/
def makeWay (ls : List Shadow) (s : State) : State :=
  markLines ls (ls.foldl (fun s l => recallLine l.line (dropCopies l.line s)) s)

/-- What the lines leave as they become committed values (R29, R79). -/
def healAll (ls : List Shadow) (s : State) : State := ls.foldl (fun s l => healLine l (dropVerdicts (128 * l.line) s)) s

/-- The parts of a state that the committed bytes are read from, but for the home dies' caches. -/
def byteFrame (s : State) : Skim × List CompCopy × List Host.Cell := (s.skim, s.kamub.copies, s.mem.home)

theorem byteFrame_makeWay {s : State} (hc : s.kamub.copies = []) (ls : List Shadow) : byteFrame (makeWay ls s) = byteFrame s := by
  have hdrop : byteFrame (ls.foldl (fun s l => recallLine l.line (dropCopies l.line s)) s) = byteFrame s := by
    refine foldl_keeps (P := fun u => byteFrame u = byteFrame s) (fun u l hu => ?_) ls rfl
    have hcu : u.kamub.copies = [] := (congrArg (fun f : Skim × List CompCopy × List Host.Cell => f.2.1) hu :).trans hc
    have hr : recallLine l.line (dropCopies l.line u) = dropCopies l.line u := by
      rw [recallLine_eq, show (dropCopies l.line u).kamub.copies = [] from hcu, List.find?_nil]
    rw [hr]
    exact hu
  unfold makeWay
  rw [markLines_mem]
  exact hdrop

theorem byteFrame_healAll (ls : List Shadow) (s : State) : byteFrame (healAll ls s) = byteFrame s := by
  unfold healAll
  refine foldl_same byteFrame (fun u l => ?_) ls s
  obtain ⟨hm, hk, hs⟩ := dropVerdicts_same (128 * l.line) u
  obtain ⟨-, hk', hs', hh', -⟩ := healCovered_same l.line (fun i => (tabFind l.bytes i).isSome) (dropVerdicts (128 * l.line) u)
  unfold byteFrame healLine
  rw [hs', hk', hh', hs, hk, hm]

/-- The committed lines of a tag as the flip finds them: what stood before them has given way. -/
def readyLines (vt : Nat) (s : State) : State :=
  healAll (linesOfTag vt s) (supersedeAll ((linesOfTag vt s).flatMap addrsOf) (makeWay (linesOfTag vt s) s))

/-- The flip itself: the tag drains, no entry names it, and its deferred work is due. -/
def flipTag (vt : Nat) (s : State) : State :=
  let t := unlistTag vt (modTag vt (fun g => { g with st := .draining }) s)
  { t with skim := { t.skim with current := none, releasing := t.skim.releasing ++ [vt], commits := satAdd 65535 t.skim.commits 1 } }

/-- The launch of a tag that has flipped: committed, or one more of its teams is (R127). -/
def commitLaunch (id : Nat) (s : State) : State :=
  listWord id (modLaunch id (fun l => if l.vt.isSome then { l with phase := .committed } else { l with teamCommits := l.teamCommits + 1 }) s)

theorem evCommitFlip_top {s : State} {c : Commit} {g : VTag} (hc : s.skim.current = some c) (hw : c.walked.length = 4)
    (hg : tag? s c.vt = some g) (hp : g.parent = none) :
    evCommitFlip s = match tag? (flipTag c.vt (readyLines c.vt s)) c.vt with
      | some g => commitLaunch g.launch (flipTag c.vt (readyLines c.vt s))
      | none => flipTag c.vt (readyLines c.vt s) := by
  have hgo : (decide (c.walked.length = 4) && ((tag? s c.vt).bind (·.parent)).isNone) = true := by
    rw [hw, hg, Option.bind_some, hp]
    rfl
  simp only [evCommitFlip, hc, if_pos hgo]
  rw [foldl_supersede_lines]
  rfl

theorem drainingByte_of_skim {s t : State} (h : t.skim = s.skim) (x : Nat) : drainingByte t x = drainingByte s x :=
  drainingByte_congr (congrArg (·.lines) h) (fun v => by simp only [isDraining, tag?, h]) x

theorem mem_addrs {vt : Nat} {s : State} {l : Shadow} (hl : l ∈ s.skim.lines) (hv : l.vt = vt) {e : Nat × Byte} (he : e ∈ l.bytes) :
    128 * l.line + e.1 ∈ (linesOfTag vt s).flatMap addrsOf :=
  List.mem_flatMap.mpr ⟨l, List.mem_filter.mpr ⟨hl, beq_iff_eq.mpr hv⟩, List.mem_map.mpr ⟨e, he, rfl⟩⟩

/-- Before the flip the tag's own lines stand as they stood, and of other committed lines nothing drains at their bytes any more. -/
theorem readyLines_keeps {vt : Nat} {s : State} (hc : s.kamub.copies = []) (hl : LinesWf s) (hd : isDraining s vt = false) :
    let r := readyLines vt s
    r.skim = { s.skim with lines := r.skim.lines } ∧ r.kamub.copies = [] ∧ r.mem.home = s.mem.home ∧
      (∀ l ∈ s.skim.lines, l.vt = vt → ∀ e ∈ l.bytes, drainingByte r (128 * l.line + e.1) = none) ∧
      ∀ l, l.vt = vt → (l ∈ r.skim.lines ↔ l ∈ s.skim.lines) := by
  intro r
  have hway := byteFrame_makeWay hc (linesOfTag vt s)
  have hskim : (makeWay (linesOfTag vt s) s).skim = s.skim := congrArg (·.1) hway
  obtain ⟨⟨hsup, hkamub, hm⟩, hnone, hmem⟩ := supersedeAll_keeps ((linesOfTag vt s).flatMap addrsOf) (s := makeWay (linesOfTag vt s) s)
    (by unfold LinesWf; rw [hskim]; exact hl)
  have hr := byteFrame_healAll (linesOfTag vt s) (supersedeAll ((linesOfTag vt s).flatMap addrsOf) (makeWay (linesOfTag vt s) s))
  have hrskim : r.skim = (supersedeAll ((linesOfTag vt s).flatMap addrsOf) (makeWay (linesOfTag vt s) s)).skim := congrArg (·.1) hr
  have hdrain : isDraining (makeWay (linesOfTag vt s) s) vt = false := by
    simp only [isDraining, tag?, hskim]
    exact hd
  refine ⟨by rw [hrskim, hsup, hskim], ?_, ?_, fun l hm hv e he => ?_, fun l hv => ?_⟩
  · refine (congrArg (fun f => f.2.1) hr).trans ?_
    unfold byteFrame
    rw [hkamub]
    exact (congrArg (fun f => f.2.1) hway).trans hc
  · refine (congrArg (fun f => f.2.2) hr).trans ?_
    unfold byteFrame
    rw [hm]
    exact congrArg (fun f => f.2.2) hway
  · rw [drainingByte_of_skim hrskim]
    exact hnone _ (.inr (mem_addrs hm hv he))
  · rw [hrskim, hmem l (by rw [hv]; exact hdrain), hskim]

theorem commitLaunch_same (id : Nat) (s : State) :
    let t := commitLaunch id s
    t.mem = s.mem ∧ t.kamub = s.kamub ∧ t.skim = { s.skim with words := t.skim.words } := by
  unfold commitLaunch listWord
  dsimp only
  split
  · split <;> exact ⟨rfl, rfl, rfl⟩
  · exact ⟨rfl, rfl, rfl⟩

/-- Of lines of one tag each stands for another line of memory. -/
def LinesApart (s : State) : Prop := s.skim.lines.Pairwise (fun x y => x.vt ≠ y.vt ∨ x.line ≠ y.line)

theorem filter_line_eq {ls : List Shadow} (hp : ls.Pairwise (fun x y => x.vt ≠ y.vt ∨ x.line ≠ y.line)) {x : Shadow} (hx : x ∈ ls) :
    ls.filter (fun l => l.vt == x.vt && l.line == x.line) = [x] := by
  induction ls with
  | nil => cases hx
  | cons y ls ih =>
    obtain ⟨hy, hp⟩ := List.pairwise_cons.mp hp
    rcases List.mem_cons.mp hx with rfl | hx
    · rw [List.filter_cons_of_pos (by simp), List.filter_eq_nil_iff.mpr]
      intro l hl hb
      simp only [Bool.and_eq_true, beq_iff_eq] at hb
      exact (hy l hl).elim (fun h => h hb.1.symm) fun h => h hb.2.symm
    · rw [List.filter_cons_of_neg, ih hp hx]
      intro hb
      simp only [Bool.and_eq_true, beq_iff_eq] at hb
      exact (hy x hx).elim (fun h => h hb.1) fun h => h hb.2

theorem eq_of_line {s : State} (hp : LinesApart s) {x y : Shadow} (hx : x ∈ s.skim.lines) (hy : y ∈ s.skim.lines) (hv : y.vt = x.vt)
    (hl : y.line = x.line) : y = x := by
  have hm : y ∈ s.skim.lines.filter (fun l => l.vt == x.vt && l.line == x.line) := List.mem_filter.mpr ⟨hy, by simp [hv, hl]⟩
  rw [filter_line_eq hp hx] at hm
  exact List.mem_singleton.mp hm

theorem findSome?_eq_some_of_forall {α β : Type} {f : α → Option β} {l : List α} {b : β} (hall : ∀ x ∈ l, f x = none ∨ f x = some b) {a : α}
    (ha : a ∈ l) (hb : f a = some b) : l.findSome? f = some b := by
  induction l with
  | nil => cases ha
  | cons x l ih =>
    rw [List.findSome?_cons]
    rcases hall x List.mem_cons_self with h | h
    · rw [h]
      rcases List.mem_cons.mp ha with rfl | ha
      · rw [h] at hb; cases hb
      · exact ih (fun y hy => hall y (List.mem_cons_of_mem x hy)) ha
    · rw [h]

/-- Where nothing else drains at a byte, a tag that has come to drain gives it from its one line. -/
theorem drainingByte_joined {s t : State} {l : Shadow} {e : Nat × Byte} (hls : t.skim.lines = s.skim.lines)
    (hd : ∀ w, isDraining t w = if w = l.vt then true else isDraining s w) (hnone : drainingByte s (128 * l.line + e.1) = none)
    (hl : l ∈ s.skim.lines) (hone : ∀ k ∈ s.skim.lines, k.vt = l.vt → k.line = l.line → k = l) (he : e.1 < 128)
    (hb : tabFind l.bytes e.1 = some e.2) : drainingByte t (128 * l.line + e.1) = some e.2 := by
  have hdiv : (128 * l.line + e.1) / 128 = l.line := by omega
  have hmod : (128 * l.line + e.1) % 128 = e.1 := by omega
  have hfrom : drainedFrom t (128 * l.line + e.1) l = some e.2 := by
    simp [drainedFrom, hdiv, hmod, hd, hb]
  rw [drainingByte_eq_findSome?, hls]
  refine findSome?_eq_some_of_forall (fun k hk => ?_) hl hfrom
  by_cases hv : k.vt = l.vt
  · by_cases hline : k.line = l.line
    · rw [hone k hk hv hline]
      exact .inr hfrom
    · left
      simp [drainedFrom, hdiv, hline]
  · left
    rw [drainingByte_eq_findSome?, List.findSome?_eq_none_iff] at hnone
    rw [← hnone k hk]
    simp [drainedFrom, hd, hv]

/-- What the flip does (R122): the tag drains and waits for its release, its bytes are the committed ones, and home memory is as it
was. -/
theorem evCommitFlip_publishes {s : State} {c : Commit} {g : VTag} (hc : s.skim.current = some c) (hw : c.walked.length = 4)
    (hg : tag? s c.vt = some g) (hst : g.st = .committing) (hp : g.parent = none) (hcopies : s.kamub.copies = []) (hapart : LinesApart s)
    (hl : LinesWf s) :
    let t := evCommitFlip s
    t.skim.current = none ∧ t.skim.releasing = s.skim.releasing ++ [c.vt] ∧ tag? t c.vt = some { g with st := .draining } ∧
      t.skim.commits = satAdd 65535 s.skim.commits 1 ∧
      (∀ x ∈ s.skim.lines, x.vt = c.vt → ∀ e ∈ x.bytes, e.1 < 128 → homeByte t (128 * x.line + e.1) = e.2) ∧ t.mem.home = s.mem.home := by
  have hd : isDraining s c.vt = false := by simp [isDraining, hg, hst]
  obtain ⟨hskim, hrc, hrh, hnone, hmem⟩ := readyLines_keeps (vt := c.vt) hcopies hl hd
  rw [evCommitFlip_top hc hw hg hp]
  generalize readyLines c.vt s = r at hskim hrc hrh hnone hmem ⊢
  have hrtag (v : Nat) : tag? r v = tag? s v := by simp only [tag?]; rw [hskim]
  have hftag (v : Nat) : tag? (flipTag c.vt r) v = if v = c.vt then (tag? s v).map (fun g => { g with st := .draining }) else tag? s v := by
    rw [← hrtag]
    exact tabFind_mod _ _ _ _
  have hfc := hftag c.vt
  rw [if_pos rfl, hg, Option.map_some] at hfc
  rw [hfc]
  dsimp only
  obtain ⟨hm, hk, hs⟩ := commitLaunch_same g.launch (flipTag c.vt r)
  generalize commitLaunch g.launch (flipTag c.vt r) = t at hm hk hs ⊢
  have htag (v : Nat) : tag? t v = tag? (flipTag c.vt r) v := by simp only [tag?]; rw [hs]
  refine ⟨by rw [hs]; rfl, ?_, by rw [htag, hfc], ?_, fun x hx hv e he hlt => ?_, by rw [hm]; exact hrh⟩
  · rw [hs]
    show r.skim.releasing ++ [c.vt] = _
    rw [hskim]
  · rw [hs]
    show satAdd 65535 r.skim.commits 1 = _
    rw [hskim]
  · have hline : t.skim.lines = r.skim.lines := by rw [hs]; rfl
    have hxr : x ∈ r.skim.lines := (hmem x hv).mpr hx
    have hdr : drainingByte t (128 * x.line + e.1) = some e.2 := by
      refine drainingByte_joined hline (fun w => ?_) (hnone x hx hv e he) hxr (fun k hk' hkv hkl => ?_) hlt (tabFind_of_mem (hl x hx) he)
      · simp only [isDraining, htag, hftag, hrtag, hv]
        split
        next hwv => subst hwv; rw [hg]; rfl
        next => rfl
      · exact eq_of_line hapart hx ((hmem k (hkv.trans hv)).mp hk') hkv hkl
    have hcomp : compDirtyByte t (128 * x.line + e.1) = none := by
      unfold compDirtyByte
      rw [hk, show (flipTag c.vt r).kamub.copies = [] from hrc, List.find?_nil]
    rw [homeByte_eq, hcomp, Option.getD_none, storedByte, hdr, Option.getD_some]

/-! ### Releases and drains (R121 step 6, R123) -/

theorem reapTag_same (vt : Nat) (s : State) :
    let t := reapTag vt s
    t.mem = s.mem ∧ t.skim.lines = s.skim.lines ∧ t.skim.releasing = s.skim.releasing := by
  unfold reapTag
  split
  · split <;> exact ⟨rfl, rfl, rfl⟩
  · exact ⟨rfl, rfl, rfl⟩

/-- A flipped commit with no deferred work is released without an effect on memory. -/
theorem evCommitRelease_undeferred {s : State} {vt : Nat} {rest : List Nat} (hr : s.skim.releasing = vt :: rest)
    (hd : ∀ d ∈ s.skim.deferred, d.vt ≠ vt) :
    (evCommitRelease s).skim.releasing = rest ∧ (evCommitRelease s).mem = s.mem := by
  have hnone : s.skim.deferred.filter (fun d => d.vt == vt) = [] := List.filter_eq_nil_iff.mpr fun d hm => by simp [hd d hm]
  unfold evCommitRelease
  rw [hr]
  dsimp only
  rw [hnone]
  obtain ⟨hm, -, hrel⟩ := reapTag_same vt _
  exact ⟨hrel, hm⟩

/-- Bytes put in home memory at different offsets of a line are read there. -/
theorem home_foldl_drainByte {es : List (Nat × Byte)} (hn : es.Pairwise (fun e f => e.1 < f.1)) (base : Nat) {s : State}
    (hm : memWf s.mem.home = true) :
    let t := es.foldl (fun s e => drainByte (base + e.1) e.2 s) s
    (∀ e ∈ es, tabGet 0 t.mem.home (base + e.1) = e.2) ∧
      ∀ x, (∀ e ∈ es, base + e.1 ≠ x) → tabGet 0 t.mem.home x = tabGet 0 s.mem.home x := by
  induction es generalizing s with
  | nil => exact ⟨fun _ he => absurd he List.not_mem_nil, fun _ _ => rfl⟩
  | cons e es ih =>
    obtain ⟨he, hn⟩ := List.pairwise_cons.mp hn
    obtain ⟨hin, hout⟩ := ih hn (s := drainByte (base + e.1) e.2 s) (memWf_set _ _ hm)
    refine ⟨fun f hf => ?_, fun x hx => ?_⟩
    · rcases List.mem_cons.mp hf with rfl | hf
      · refine (hout _ fun g hg => ?_).trans (tabGet_set_same _ _ hm)
        have := he g hg
        omega
      · exact hin f hf
    · exact (hout x fun f hf => hx f (List.mem_cons_of_mem _ hf)).trans
        (tabGet_set_other _ hm (hx e List.mem_cons_self).symm)

theorem drainBytes_lines (base : Nat) (es : List (Nat × Byte)) (s : State) :
    (es.foldl (fun s e => drainByte (base + e.1) e.2 s) s).skim = s.skim :=
  foldl_same (fun u : State => u.skim) (fun u (e : Nat × Byte) => show (drainByte (base + e.1) e.2 u).skim = u.skim from rfl) es s

/-- A line of a tag that is no more, before its bytes are in their place. -/
def dropLine (vt line : Nat) (s : State) : State :=
  { s with skim := { s.skim with lines := s.skim.lines.filter (fun l => !(l.vt == vt && l.line == line)) } }

theorem evLineDrain_draining {s : State} {vt : Nat} {g : VTag} (hg : tag? s vt = some g) (hst : g.st = .draining) (line : Nat) :
    evLineDrain vt line s = reapTag vt ((s.skim.lines.filter (fun l => l.vt == vt && l.line == line)).foldl
      (fun s l => l.bytes.foldl (fun s e => drainByte (128 * line + e.1) e.2 s) s) (dropLine vt line s)) := by
  simp only [evLineDrain, hg, hst]
  rfl

/-- A line that drains is gone from the Skim and stands in home memory (R123). -/
theorem evLineDrain_drains {s : State} {vt : Nat} {g : VTag} (hg : tag? s vt = some g) (hst : g.st = .draining) (line : Nat)
    (hm : s.MemOk) (hapart : LinesApart s) (hl : LinesWf s) :
    (∀ x ∈ (evLineDrain vt line s).skim.lines, ¬(x.vt = vt ∧ x.line = line)) ∧
      ∀ x ∈ s.skim.lines, x.vt = vt → x.line = line → ∀ e ∈ x.bytes, tabGet 0 (evLineDrain vt line s).mem.home (128 * line + e.1) = e.2 := by
  obtain ⟨hhome, -⟩ := (memory_wf_iff _).mp hm
  rw [evLineDrain_draining hg hst]
  obtain ⟨hmem, hlines, -⟩ := reapTag_same vt ((s.skim.lines.filter (fun l => l.vt == vt && l.line == line)).foldl
      (fun s l => l.bytes.foldl (fun s e => drainByte (128 * line + e.1) e.2 s) s) (dropLine vt line s))
  refine ⟨fun x hx hb => ?_, fun x hx hv hline e he => ?_⟩
  · have hskim := foldl_same (fun u : State => u.skim) (fun u l => drainBytes_lines (128 * line) (Shadow.bytes l) u)
      (s.skim.lines.filter (fun l => l.vt == vt && l.line == line)) (dropLine vt line s)
    rw [hlines, congrArg Skim.lines hskim] at hx
    simpa [hb.1, hb.2] using (List.mem_filter.mp hx).2
  · subst hv hline
    rw [hmem, filter_line_eq hapart hx]
    exact (home_foldl_drainByte (pairwise_of_tabWf (hl x hx)) (128 * x.line) (s := dropLine x.vt x.line s) hhome).1 e he

/-! ### The end of an abort (R125, R127) -/

/-- A tag that has aborted, its lines, records and deferred work gone (R125). -/
def clearTag (vt : Nat) (s : State) : State :=
  freeTag vt (unlistTag vt { s with skim := { s.skim with lines := s.skim.lines.filter (·.vt != vt)
                                                          deferred := s.skim.deferred.filter (·.vt != vt) } })

/-- The end of the launch whose tag has been freed, where it holds no other. -/
def endAborted (id : Nat) (s : State) : State :=
  match launch? s id with
  | none => s
  | some l =>
    if (endTags s l none).any (fun v => (tag? s v).isSome) then s
    else if l.requeue && l.teamCommits = 0 then requeueRecord l s
    else endChild l (l.cause.getD 0) s

theorem evAbortComplete_parent {s : State} {vt : Nat} {g : VTag} (hg : tag? s vt = some g) (hc : ∃ e ∈ s.skim.tags, e.2.parent = some vt) : evAbortComplete vt s = s := by
  obtain ⟨e, he, hp⟩ := hc
  have hno : childless s vt = false := List.all_eq_false.mpr ⟨e, he, by simp [hp]⟩
  simp [evAbortComplete, hg, hno]

theorem evAbortComplete_childless {s : State} {vt : Nat} {g : VTag} (hg : tag? s vt = some g) (hst : g.st = .aborting) (hc : ∀ e ∈ s.skim.tags, e.2.parent ≠ some vt) :
    evAbortComplete vt s = endAborted g.launch (clearTag vt s) := by
  have hno : childless s vt = true := List.all_eq_true.mpr fun e he => by simp [hc e he]
  simp only [evAbortComplete, hg, hst, hno]
  rfl

section
variable {s : State} {vt : Nat}

theorem tag?_clearTag_same (hw : tabWf s.skim.tags = true) : tag? (clearTag vt s) vt = none := tabFind_del_same hw

theorem tag?_clearTag_other (hw : tabWf s.skim.tags = true) {v : Nat} (hv : v ≠ vt) : tag? (clearTag vt s) v = tag? s v :=
  tabFind_del_other hw hv

theorem clearTag_lines : ∀ x ∈ (clearTag vt s).skim.lines, x.vt ≠ vt := fun x hx => by simpa using (List.mem_filter.mp hx).2

theorem clearTag_deferred : ∀ x ∈ (clearTag vt s).skim.deferred, x.vt ≠ vt := fun x hx => by simpa using (List.mem_filter.mp hx).2

theorem clearTag_entries : ∀ x ∈ (clearTag vt s).skim.entries, vt ∉ x.writers ∧ vt ∉ x.readers := fun x hx => by
  obtain ⟨e, -, rfl⟩ := List.mem_map.mp (List.mem_filter.mp hx).1
  exact ⟨fun h => by simpa using (List.mem_filter.mp h).2, fun h => by simpa using (List.mem_filter.mp h).2⟩

theorem clearTag_groups : ∀ x ∈ (clearTag vt s).skim.groups, vt ∉ x.2 := fun x hx h => by
  obtain ⟨e, -, rfl⟩ := List.mem_map.mp (List.mem_filter.mp hx).1
  simpa using (List.mem_filter.mp h).2

end

/-- A team that retires ends its own threads and, of a reader that it leaves parked, the launch (R141, R202). -/
theorem retireTeam_cases (key : Nat) (s : State) :
    retireTeam key s = s ∨ ∃ m, ∃ u : State, u = modLaunch m.launch (fun l => { l with retired := l.retired + 1 })
        (modTeam key asRetired (clearTeam m (freeStacks m s))) ∧
      (retireTeam key s = u ∨ ∃ f x, retireTeam key s = trap f 0x07 x u) := by
  unfold retireTeam
  split
  · exact .inl rfl
  next m hm =>
    dsimp only
    split
    · exact .inl rfl
    · refine .inr ⟨m, _, rfl, ?_⟩
      split
      next a ha => exact .inr ⟨a.f, _, rfl⟩
      next => exact .inl rfl

theorem endsTags_retireTeam (key : Nat) (s : State) : EndsTags s (retireTeam key s) := by
  rcases retireTeam_cases key s with h | ⟨m, u, hu, h⟩
  · rw [h]; exact EndsTags.refl s
  · have hbase : EndsTags s u := by
      rw [hu]
      exact endsTags_retireThem (fun k => k.key == key) (f := asRetired) (fun _ => rfl) rfl rfl rfl
    rcases h with h | ⟨f, x, h⟩
    · rw [h]; exact hbase
    · rw [h]; exact hbase.trans (endsTags_abortLaunch _ _ _ _ _)

theorem endsOnly_retireTeam (key : Nat) (s : State) : EndsOnly s (retireTeam key s) := by
  rcases retireTeam_cases key s with h | ⟨m, u, hu, h⟩
  · rw [h]; exact EndsOnly.refl s
  · have hteam (t : State) : EndsOnly t (modTeam key asRetired t) :=
      ⟨rfl, rfl, rfl, rfl, rfl, rfl, rfl, fun _ => rfl, rfl, map_modWhere (by exact fun _ => rfl) _ _⟩
    have hbase : EndsOnly s u := by
      rw [hu]
      exact (((endsOnly_freeStacks m s).trans (endsOnly_clearTeam m _)).trans (hteam _)).trans (endsOnly_modLaunch _ (by exact fun _ => rfl) _)
    rcases h with h | ⟨f, x, h⟩
    · rw [h]; exact hbase
    · rw [h]; exact hbase.trans (endsOnly_abortLaunch _ _ _ _ _)

/-- No launch comes back with the end of another. -/
theorem EndsOnly.launch?_none {s t : State} (h : EndsOnly s t) {i : Nat} (hi : launch? s i = none) : launch? t i = none := by
  have hf (l : List Launch) : (l.find? (·.id == i)).map launchKey = (l.map launchKey).find? (·.1 == i) := by
    rw [List.find?_map]; rfl
  have hk : (launch? t i).map launchKey = (launch? s i).map launchKey := by
    unfold launch?
    rw [hf, hf, h.launches]
  rwa [hi, Option.map_none, Option.map_eq_none_iff] at hk

/-- The state in which a child's end has reached its parent's team and the child is gone, before that team retires (R401). -/
def toldParent (l : Launch) (status : Nat) (s : State) : State :=
  forgetLaunch l.id (modTeam l.parentTeam (fun t => { t with status := tabPut t.status l.number status }) s)

theorem endChild_top {l : Launch} (h : l.parent = none) (status : Nat) (s : State) : endChild l status s = s := by
  unfold endChild
  rw [h]

theorem endChild_child {l : Launch} {p : Nat} (h : l.parent = some p) (status : Nat) (s : State) :
    endChild l status s = retireTeam l.parentTeam (toldParent l status s) := by
  unfold endChild
  rw [h]
  rfl

theorem find?_filter_of_find? {α : Type} {p q : α → Bool} {l : List α} {x : α} (h : l.find? q = some x) (hx : p x = true) :
    (l.filter p).find? q = some x := by
  induction l with
  | nil => cases h
  | cons y l ih =>
    rw [List.find?_cons] at h
    cases hq : q y with
    | true =>
      rw [hq] at h
      obtain rfl : y = x := Option.some.inj h
      rw [List.filter_cons_of_pos hx, List.find?_cons_of_pos hq]
    | false =>
      rw [hq] at h
      by_cases hp : p y = true
      · rw [List.filter_cons_of_pos hp, List.find?_cons_of_neg (by simp [hq])]
        exact ih h
      · rw [List.filter_cons_of_neg hp]
        exact ih h

/-- The parent's team holds the child's status (R401). -/
theorem endChild_tells {l : Launch} {p : Nat} {m : Team} {s : State} (hp : l.parent = some p) (hm : team? s l.parentTeam = some m)
    (hne : m.launch ≠ l.id) (status : Nat) :
    launch? (endChild l status s) l.id = none ∧
      ∃ x, team? (endChild l status s) l.parentTeam = some x ∧ tabFind x.status l.number = some status := by
  rw [endChild_child hp]
  have htold : team? (toldParent l status s) l.parentTeam = some { m with status := tabPut m.status l.number status } := by
    have hkey : (m.key == l.parentTeam) = true := List.find?_some (p := fun t : Team => t.key == l.parentTeam) hm
    refine find?_filter_of_find? ((find?_modWhere (by exact fun _ => rfl) _ _).trans ?_) (by simpa using hne)
    rw [show s.teams.find? (fun t => t.key == l.parentTeam) = some m from hm, Option.map_some, if_pos hkey]
  obtain ⟨x, hx, hs⟩ := (endsTags_retireTeam l.parentTeam (toldParent l status s)).team?_status htold
  exact ⟨(endsOnly_retireTeam _ _).launch?_none (launch?_forgetLaunch_same l.id _), x, hx, by rw [hs, tabFind_put_same]⟩

/-- A launch's end frees no line, record or tag beyond those of the tag that has been freed. -/
theorem endAborted_keeps (id : Nat) (s : State) :
    skimFrame (endAborted id s) = skimFrame s ∧ ∀ v, tag? s v = none → tag? (endAborted id s) v = none := by
  unfold endAborted
  split
  · exact ⟨rfl, fun _ h => h⟩
  next l hl =>
    split
    · exact ⟨rfl, fun _ h => h⟩
    · split
      · exact ⟨rfl, fun _ h => h⟩
      · cases hp : l.parent with
        | none => rw [endChild_top hp]; exact ⟨rfl, fun _ h => h⟩
        | some p =>
          rw [endChild_child hp]
          have he := endsTags_retireTeam l.parentTeam (toldParent l (l.cause.getD 0) s)
          exact ⟨he.frame, fun v hv => he.tag?_none hv⟩

/-- The end of a launch at the top changes no tag. -/
theorem tags_endAborted_top {id : Nat} {s : State} (h : ∀ x, launch? s id = some x → x.parent = none) :
    (endAborted id s).skim.tags = s.skim.tags := by
  unfold endAborted
  split
  · rfl
  next l hl =>
    split
    · rfl
    · split
      · rfl
      · rw [endChild_top (h l hl)]

section
variable {id : Nat} {s : State} {l : Launch} (hl : launch? s id = some l)
include hl

/-- A launch that still holds a tag stays as it is. -/
theorem endAborted_holds (h : (endTags s l none).any (fun v => (tag? s v).isSome) = true) : endAborted id s = s := by
  simp only [endAborted, hl, if_pos h]

theorem endAborted_requeues (h : (endTags s l none).any (fun v => (tag? s v).isSome) = false) (hr : l.requeue = true)
    (ht : l.teamCommits = 0) : endAborted id s = requeueRecord l s := by
  simp [endAborted, hl, h, hr, ht]

theorem endAborted_ends (h : (endTags s l none).any (fun v => (tag? s v).isSome) = false) (hr : l.requeue = false) :
    endAborted id s = endChild l (l.cause.getD 0) s := by
  simp [endAborted, hl, h, hr]

end

/-- A launch whose own tag is free holds none. -/
theorem endTags_of_free {s : State} {l : Launch} {v : Nat} (hv : l.vt = some v) (h : tag? s v = none) :
    (endTags s l none).any (fun v => (tag? s v).isSome) = false := by
  simp [endTags, hv, h]

theorem mem_insertBy {α : Type} (key : α → Nat) (x : α) (l : List α) : x ∈ insertBy key x l := by
  induction l with
  | nil => exact List.mem_cons_self
  | cons y l ih =>
    unfold insertBy
    split
    · exact List.mem_cons_self
    · exact List.mem_cons_of_mem y ih

/-- A requeued launch is gone, and its record waits in its queue again (R48, R151). -/
theorem requeueRecord_waits {l : Launch} {s : State} (hq : l.queue < s.queues.length) :
    launch? (requeueRecord l s) l.id = none ∧
      ∃ w ∈ (queue (requeueRecord l s) l.queue).waiting, w.index = l.index ∧ w.raw = l.raw ∧ w.wasElig = true := by
  refine ⟨launch?_forgetLaunch_same l.id s, ?_⟩
  unfold requeueRecord
  dsimp only
  rw [queue_modQueue (show l.queue < (forgetLaunch l.id s).queues.length from hq)]
  exact ⟨_, mem_insertBy _ _ _, rfl, rfl, rfl⟩

/-- A team that lists the tag lists none after the tag is cleared, and every other stays as it is. -/
theorem team?_clearTag {vt : Nat} {key : Nat} {m : Team} {s : State} (h : team? s key = some m) :
    team? (clearTag vt s) key = some (if m.vt == some vt then { m with vt := none } else m) := by
  have hfind : s.teams.find? (fun t : Team => t.key == key) = some m := h
  refine (find?_modWhere (f := fun t : Team => { t with vt := none }) (by exact fun _ => rfl) (fun t => t.vt == some vt) s.teams).trans ?_
  exact congrArg (Option.map _) hfind

end Sys2Proof.Machine

section
open Sys2Proof Sys2Proof.Machine

/-- Settles O50: each event of the chain is one change of the Skim; a conflict's aborts are followed to the launch that they end, and the
committed bytes after the flip are read off the tag's lines, of which nothing else that drains stands before them. -/
theorem commitChainPublishesAtTheFlip : Obligations.CommitChainPublishesAtTheFlip := by
  unfold Obligations.CommitChainPublishesAtTheFlip
  intro s die id vt line l g c rest hrun hg
  have hruns (f : State → State) : whileRunning f s = .next (f s) := whileRunning_runs hrun f
  refine ⟨fun hl hp hv hn hst ht hk ha => ?_, fun hc hr hw => ?_, fun hc hr hw => ?_, fun hc hv hp hd he => ?_,
    fun e v h k hc hv hp hd he hh hk hkv hkp hkc hwf => ?_, fun hc hv hst hp hw hcopies hapart hl => ?_, fun hr hd => ?_,
    fun hst hm hapart hl => ?_, fun hst hc => ?_, fun hst hc hwf => ?_⟩
  · refine ⟨_, (hruns _).trans (congrArg _ (evCommitRequest_quiet hl hp hv hn hg hst ht hk ha)), ?_, rfl, fun _ => queueTag_perm vt s,
      queueTag_last, queueTag_rising⟩
    exact tag?_modTag_same _ hg
  · exact (hruns _).trans (congrArg _ (evCommitStart_waits hc hr hw))
  · exact ⟨_, (hruns _).trans (congrArg _ (evCommitStart_takes hc hr hw)), rfl, rfl, tag?_modTag_same _ hg, rfl⟩
  · subst hv
    refine ⟨_, (hruns _).trans (congrArg _ (evCommitWalk_nothing hc hd hg hp he)), ?_, ?_⟩
    · rw [markLines_mem]
      rfl
    · rw [markLines_mem]
      rfl
  · subst hv
    obtain ⟨hlaunches, htags⟩ := evCommitWalk_entry hc hd hg hp he
    have hmem := mem_conflictsOf hg hp e
    have hconf := conflictable_iff hh hk hkc
    refine ⟨fun ⟨hnamed, hne, hspace, hst⟩ honly => ?_, fun hno honly => ?_⟩
    · have hstruck : Struck k.id v ((conflictsOf s c.vt e).foldl (fun s v => abortVt v 0x09 false none s) s) := by
        refine foldl_abortVt_of_forall (struck_abortVt hh hk hkv ⟨hst, hkc⟩) ((hmem v).mpr ⟨hnamed, hne, hspace, hconf.mpr hst⟩) fun w hw => ?_
        obtain ⟨hwn, hwne, -, -⟩ := (hmem w).mp hw
        exact (honly w hwn).resolve_right hwne
      obtain ⟨g', k', hg', hk', -, hst', hcause, hphase, hkc'⟩ := hstruck
      refine ⟨_, g', k', hruns _, ?_, hst', hcause, ?_, hphase, hkc'⟩
      · rw [tag?, htags]; exact hg'
      · rw [launch?, hlaunches]; exact hk'
    · have hnone : conflictsOf s c.vt e = [] := List.eq_nil_iff_forall_not_mem.mpr fun w hw => by
        obtain ⟨hwn, hwne, hspace, hwc⟩ := (hmem w).mp hw
        obtain rfl := (honly w hwn).resolve_right hwne
        exact hno ⟨hwn, hwne, hspace, hconf.mp hwc⟩
      rw [hnone] at hlaunches htags
      exact ⟨_, hruns _, hlaunches, htags⟩
  · subst hv
    obtain ⟨hcur, hrel, htag, hcommits, hbytes, hhome⟩ :=
      evCommitFlip_publishes hc hw hg hst hp hcopies hapart fun x hx => (hl x hx).1
    exact ⟨_, hruns _, hcur, hrel, htag, hcommits, fun x hx hxv e he => hbytes x hx hxv e he ((hl x hx).2 e he), hhome⟩
  · obtain ⟨hrel, hmem⟩ := evCommitRelease_undeferred hr hd
    exact ⟨_, hruns _, hrel, hmem⟩
  · obtain ⟨hgone, hbytes⟩ := evLineDrain_drains hg hst line hm hapart fun x hx => (hl x hx).1
    exact ⟨_, hruns _, hgone, hbytes⟩
  · exact (hruns _).trans (congrArg _ (evAbortComplete_parent hg hc))
  · have hfree := tag?_clearTag_same (vt := vt) hwf
    obtain ⟨hframe, htags⟩ := endAborted_keeps g.launch (clearTag vt s)
    have hlines : (endAborted g.launch (clearTag vt s)).skim.lines = (clearTag vt s).skim.lines := congrArg (·.2.1) hframe
    have hdeferred : (endAborted g.launch (clearTag vt s)).skim.deferred = (clearTag vt s).skim.deferred := congrArg (·.2.2.1) hframe
    have hentries : (endAborted g.launch (clearTag vt s)).skim.entries = (clearTag vt s).skim.entries := congrArg (·.2.2.2.1) hframe
    have hgroups : (endAborted g.launch (clearTag vt s)).skim.groups = (clearTag vt s).skim.groups := congrArg (·.2.2.2.2) hframe
    refine ⟨_, (hruns _).trans (congrArg _ (evAbortComplete_childless hg hst hc)), htags vt hfree, fun htop v hv => ?_,
      fun x hx => clearTag_lines x (hlines ▸ hx), fun x hx => clearTag_deferred x (hdeferred ▸ hx),
      fun x hx => clearTag_entries x (hentries ▸ hx), fun x hx => clearTag_groups x (hgroups ▸ hx), congrArg (·.1) hframe, fun hnone => ?_,
      fun hl hv => ⟨fun hr ht hq => ?_, fun hr hp => ?_, fun p m hr hp hm hne => ?_⟩, fun hl hv ⟨m, hm, hml, v, hmv, hne, hsome⟩ => ?_⟩
    · rw [tag?, tags_endAborted_top (s := clearTag vt s) htop]
      exact tag?_clearTag_other hwf hv
    · have h : launch? (clearTag vt s) g.launch = none := hnone
      simp only [endAborted, h]
      rfl
    · rw [endAborted_requeues (s := clearTag vt s) hl (endTags_of_free hv hfree) hr ht]
      exact requeueRecord_waits hq
    · rw [endAborted_ends (s := clearTag vt s) hl (endTags_of_free hv hfree) hr, endChild_top hp]
      rfl
    · rw [endAborted_ends (s := clearTag vt s) hl (endTags_of_free hv hfree) hr]
      exact endChild_tells hp (team?_clearTag hm) (by split <;> exact hne) _
    · have hheld : (endTags (clearTag vt s) l none).any (fun v => (tag? (clearTag vt s) v).isSome) = true := by
        refine List.any_eq_true.mpr ⟨v, ?_, by rw [tag?_clearTag_other hwf hne]; exact hsome⟩
        unfold endTags
        rw [hv]
        refine List.mem_filterMap.mpr ⟨m, List.mem_filter.mpr ⟨List.mem_map.mpr ⟨m, hm, ?_⟩, by simp [hml]⟩, hmv⟩
        rw [if_neg (by simp [hmv, hne])]
      rw [endAborted_holds (s := clearTag vt s) hl hheld]
      rfl

end

/-! ## The save of a launch that is listed twice (R152, R154) -/

namespace Sys2Proof.Machine

/-- A top-level launch that is being saved: launch 0, under tag 0, with the first bytes of the pool for its stream. -/
def savingLaunch : Launch :=
  { id := 0, raw := List.replicate 256 0, queue := 0, index := 0, space := 0, prio := 0, order := 0, parent := none, parentTeam := 0,
    number := 0, depth := 0, vt := some 0, phase := .saving,
    image := { pa := 0, frames := [], creww := 0, emulate := false, stitch := false, entry := 0, emuh := 0xFFFF, width := 32, scratch := 0,
               teamMax := 1, cpool := [], blocks := [] },
    params := [], nextTeam := 1, retired := 0, teamCommits := 0, cause := none, causeAt := 0, causeVt := 0, report := none, tern := false,
    deadline := 0, hang := 0, freeStacks := [], fault := none, faultVa := 0, requeue := false, ran := true, dies := [0],
    stream := some (0, 2 ^ 20), units := [] }

/-- Its one team, which has no crew left. -/
def savingTeam : Team :=
  { key := 0, launch := 0, num := 0, core := 0, crews := [], size := 1, vt := none, retired := false, requested := false, barriers := [],
    children := [], status := [] }

/-- The machine at READY with two launches numbered 0, so that the units of launch 0 are listed twice. The save pool lies in the
companion's memory. -/
def savedTwice : State :=
  { State.reset with
    boot := { State.reset.boot with stage := 8, released := true, frozenCmd := false, frozenPin := false }
    disp := { Disp.reset with saveHi := 2 ^ 19 }
    launches := [savingLaunch, savingLaunch], teams := [savingTeam] }

/-- The phase of launch 0 after a step. -/
def phaseAfter (o : Out) : Option Phase := match o with
  | .next t => (launch? t 0).map (·.phase)
  | _ => none

/-- The one unit's save holds the launch: no team of it is on a core any more. -/
theorem phaseAfter_savedTwice : phaseAfter (exec (.saveDone 0 0) savedTwice) = some .held := by decide +kernel

end Sys2Proof.Machine

section
open Sys2Proof Sys2Proof.Machine

/-- Refutes O54: where two launches bear the number of the one that is saved (the statement asks for no distinct numbers), its units
are listed twice, and SAVE_DONE holds the launch with a unit still listed after the one it writes. -/
theorem not_preemptionSavesAndRestores : ¬ Obligations.PreemptionSavesAndRestores := by
  unfold Obligations.PreemptionSavesAndRestores
  intro h
  obtain ⟨-, -, -, hsaveDone, -⟩ := h savedTwice 0 0 0 0 savingLaunch savingLaunch [(0, 0)] [] (by decide +kernel) (by decide +kernel)
  obtain ⟨t, k, ht, -, hk, hphase, -⟩ := hsaveDone (by decide +kernel) (by decide +kernel) (by decide +kernel) (fun a ha => nomatch ha) (fun e he => nomatch he)
    (List.pairwise_singleton _ _)
  have hheld : k.phase = .held := by
    have h := phaseAfter_savedTwice
    rw [ht] at h
    simpa [phaseAfter, hk] using h
  simp [hheld] at hphase

end

/-! ## What the abort of a running launch leaves (R125, R163 to R165) -/

namespace Sys2Proof.Machine

/-! ### What an abort keeps of every launch -/

/-- A launch but for its free window stacks and for how it ends. -/
def unended (l : Launch) : Launch :=
  { l with freeStacks := [], phase := .dispatching, cause := none, causeAt := 0, causeVt := 0, report := none, fault := none, requeue := false }

/-- The second state is the first with launches ended: their records and the dispatcher's own state stay. -/
structure EndsLaunches (s t : State) : Prop where
  launches : t.launches.map unended = s.launches.map unended
  disp : t.disp = s.disp

theorem EndsLaunches.refl (s : State) : EndsLaunches s s := ⟨rfl, rfl⟩

theorem EndsLaunches.trans {s t u : State} (h : EndsLaunches s t) (k : EndsLaunches t u) : EndsLaunches s u :=
  ⟨k.launches.trans h.launches, k.disp.trans h.disp⟩

theorem EndsLaunches.foldl {β : Type} {g : State → β → State} (hg : ∀ u x, EndsLaunches u (g u x)) (l : List β) (s : State) :
    EndsLaunches s (l.foldl g s) :=
  foldl_keeps (P := EndsLaunches s) (fun u x hu => hu.trans (hg u x)) l (EndsLaunches.refl s)

theorem endsLaunches_modLaunch (id : Nat) {f : Launch → Launch} (h : ∀ l, unended (f l) = unended l) (s : State) :
    EndsLaunches s (modLaunch id f s) := ⟨map_modWhere h _ _, rfl⟩

theorem endsLaunches_stopLaunch (id : Nat) (s : State) : EndsLaunches s (stopLaunch id s) :=
  (EndsLaunches.foldl (g := fun u m => clearTeam m (freeStacks m u))
    (fun u m => ⟨(endsLaunches_modLaunch m.launch (by exact fun _ => rfl) u).launches, rfl⟩) _ s).trans ⟨rfl, rfl⟩

theorem endsLaunches_killTag (w cause : Nat) (s : State) : EndsLaunches s (killTag w cause s) := by
  refine ⟨congrArg _ (killTag_same w cause s).1, ?_⟩
  unfold killTag countAbort
  split
  · rfl
  · split <;> rfl

theorem unended_stamped (cause causeAt vt : Nat) (rep : Option Report) (l : Launch) :
    unended (stamped cause causeAt vt rep l) = unended l := by
  unfold stamped
  cases l.cause <;> rfl

/-- A stamp is the stop of the launch once the cause is on its record. -/
theorem stampCause_eq (id cause vt : Nat) (rep : Option Report) (s : State) :
    ∃ u, (u = s ∨ u = countLink cause s) ∧ stampCause id cause vt rep s = stopLaunch id (modLaunch id (stamped cause s.cycles vt rep) u) := by
  have hcycles : (countLink cause s).cycles = s.cycles := by unfold countLink; split <;> rfl
  by_cases h : (launch? s id).any (·.cause.isNone) = true
  · refine ⟨countLink cause s, .inr rfl, ?_⟩
    unfold stampCause
    rw [if_pos h, ← hcycles]
    rfl
  · refine ⟨s, .inl rfl, ?_⟩
    unfold stampCause
    rw [if_neg h]
    rfl

theorem countLink_disp (cause : Nat) (s : State) : (countLink cause s).disp = s.disp := by
  unfold countLink
  split <;> rfl

theorem endsLaunches_stampCause (id cause vt : Nat) (rep : Option Report) (s : State) : EndsLaunches s (stampCause id cause vt rep s) := by
  obtain ⟨u, hu, h⟩ := stampCause_eq id cause vt rep s
  have hsame : EndsLaunches s u := by
    rcases hu with rfl | rfl
    · exact EndsLaunches.refl _
    · exact ⟨congrArg _ (countLink_same cause s).1, countLink_disp cause s⟩
  rw [h]
  exact (hsame.trans (endsLaunches_modLaunch id (unended_stamped _ _ _ _) u)).trans (endsLaunches_stopLaunch id _)

theorem endsLaunches_lowerCause (id cause : Nat) (rep : Option Report) (s : State) : EndsLaunches s (lowerCause id cause rep s) := by
  unfold lowerCause
  split
  · exact EndsLaunches.refl s
  split
  · exact EndsLaunches.refl s
  split
  · exact ⟨map_modWhere (by exact fun _ => rfl) _ _, rfl⟩
  · exact EndsLaunches.refl s

theorem endsLaunches_strike (id cause vt : Nat) (rep : Option Report) (vs : List Nat) (s : State) :
    EndsLaunches s (strike id cause vt rep vs s) :=
  (EndsLaunches.foldl (fun u w => endsLaunches_killTag w cause u) vs s).trans (endsLaunches_stampCause _ _ _ _ _)

theorem endsLaunches_abortDescendant (cause d : Nat) (s : State) : EndsLaunches s (abortDescendant cause s d) := by
  unfold abortDescendant
  split
  · split
    · exact EndsLaunches.refl s
    · exact endsLaunches_strike _ _ _ _ _ _
  · exact EndsLaunches.refl s

theorem endsLaunches_abortLaunch (id cause : Nat) (byRelative : Bool) (rep : Option Report) (s : State) :
    EndsLaunches s (abortLaunch id cause byRelative rep s) := by
  cases hl : launch? s id with
  | none => unfold abortLaunch; rw [hl]; exact EndsLaunches.refl s
  | some l =>
    rw [abortLaunch_eq hl]
    split
    · exact endsLaunches_lowerCause _ _ _ _
    · exact (endsLaunches_strike _ _ _ _ _ _).trans (EndsLaunches.foldl (fun u d => endsLaunches_abortDescendant cause d u) _ _)

theorem endsLaunches_abortVt (vt cause : Nat) (byRelative : Bool) (rep : Option Report) (s : State) :
    EndsLaunches s (abortVt vt cause byRelative rep s) := by
  unfold abortVt
  split
  · split
    · exact endsLaunches_abortLaunch _ _ _ _ _
    · exact endsLaunches_lowerCause _ _ _ _
  · exact EndsLaunches.refl s

/-- A launch is found again under its number, ended or not. -/
theorem EndsLaunches.launch? {s t : State} (h : EndsLaunches s t) (i : Nat) :
    (launch? t i).map unended = (launch? s i).map unended := by
  have hf (l : List Launch) : (l.find? (·.id == i)).map unended = (l.map unended).find? (·.id == i) := by
    rw [List.find?_map]; rfl
  unfold Sys2Proof.Machine.launch?
  rw [hf, hf, h.launches]

/-- Was a launch created by one of these? -/
def createdBy (ids : List Nat) (l : Launch) : Bool := match l.parent with | some p => ids.contains p | none => false

theorem descendants_go_succ (s : State) (k : Nat) (ids : List Nat) :
    descendants.go s (k + 1) ids =
      if ((s.launches.filter (createdBy ids)).map (·.id)).isEmpty then []
      else (s.launches.filter (createdBy ids)).map (·.id) ++ descendants.go s k ((s.launches.filter (createdBy ids)).map (·.id)) := rfl

/-- The launches that were created, and by which, stay. -/
theorem EndsLaunches.descendants {s t : State} (h : EndsLaunches s t) (id : Nat) : descendants t id = descendants s id := by
  have hmap (ids : List Nat) (l : List Launch) :
      (l.filter (createdBy ids)).map (·.id) = ((l.map unended).filter (createdBy ids)).map (·.id) := by
    rw [List.filter_map, List.map_map]; rfl
  have hkids (ids : List Nat) : (t.launches.filter (createdBy ids)).map (·.id) = (s.launches.filter (createdBy ids)).map (·.id) := by
    rw [hmap, h.launches, ← hmap]
  have hgo (k : Nat) (ids : List Nat) : descendants.go t k ids = descendants.go s k ids := by
    induction k generalizing ids with
    | zero => rfl
    | succ k ih => rw [descendants_go_succ, descendants_go_succ, hkids, ih]
  exact hgo 11 [id]

/-! ### The launch, its tags and its teams -/

theorem stopLaunch_teams (id : Nat) (s : State) :
    (stopLaunch id s).teams = modWhere (fun t => t.launch == id) (fun t => { t with retired := true }) s.teams := by
  unfold stopLaunch
  exact congrArg _ (foldl_same (·.teams) (g := fun u m => clearTeam m (freeStacks m u)) (fun _ _ => rfl) _ s)

theorem stampCause_teams (id cause vt : Nat) (rep : Option Report) (s : State) :
    (stampCause id cause vt rep s).teams = modWhere (fun t => t.launch == id) (fun t => { t with retired := true }) s.teams := by
  obtain ⟨u, hu, h⟩ := stampCause_eq id cause vt rep s
  rw [h, stopLaunch_teams, modLaunch_teams]
  rcases hu with rfl | rfl
  · rfl
  · rw [(countLink_same cause s).2.2]

theorem strike_teams (id cause vt : Nat) (rep : Option Report) (vs : List Nat) (s : State) :
    (strike id cause vt rep vs s).teams = modWhere (fun t => t.launch == id) (fun t => { t with retired := true }) s.teams := by
  unfold strike
  rw [stampCause_teams, (killTags_same cause vs s).2]

/-- The record of a launch on which a cause has taken effect. -/
theorem launch?_strike {id : Nat} {l : Launch} (cause vt : Nat) (rep : Option Report) (vs : List Nat) {s : State} (h : launch? s id = some l) :
    ∃ k at_, launch? (strike id cause vt rep vs s) id = some k ∧ withoutStacks k = withoutStacks (stamped cause at_ vt rep l) := by
  unfold strike
  obtain ⟨u, hu, he⟩ := stampCause_eq id cause vt rep (vs.foldl (fun s v => killTag v cause s) s)
  have hk : launch? u id = some l := by
    have hs : (vs.foldl (fun s v => killTag v cause s) s).launches = s.launches := (killTags_same cause vs s).1
    rcases hu with rfl | rfl
    · unfold launch? at h ⊢; rw [hs, h]
    · unfold launch? at h ⊢; rw [(countLink_same _ _).1, hs, h]
  rw [he]
  generalize hat : (vs.foldl (fun s v => killTag v cause s) s).cycles = at_
  obtain ⟨k, hk, hs⟩ := launch?_stopLaunch id hk (f := stamped cause at_ vt rep) (fun l => (stamped_keeps _ _ _ _ l).1)
  exact ⟨k, at_, hk, hs.trans (by rw [if_pos rfl])⟩

theorem tag?_strike (id cause vt : Nat) (rep : Option Report) (vs : List Nat) (s : State) (x : Nat) :
    tag? (strike id cause vt rep vs s) x =
      if x ∈ vs then (tag? s x).map (fun g => { g with st := .aborting, cause := cause }) else tag? s x := by
  rw [← tag?_killTags]
  unfold strike tag?
  rw [stampCause_tags]

/-- A launch with an ACTIVE tag that no cause has reached: its abort ends its live tags and its record, and goes on to its descendants. -/
theorem abortLaunch_of_topActive {id : Nat} {s : State} {l : Launch} (hl : launch? s id = some l) (hc : l.cause = none)
    (ha : topActive s l = true) (cause : Nat) (byRelative : Bool) (rep : Option Report) :
    abortLaunch id cause byRelative rep s =
      (descendants s id).foldl (abortDescendant cause) (strike id cause (namedTag s l) rep (liveTags s l cause byRelative) s) := by
  rw [abortLaunch_eq hl]
  have hid := launch?_id hl
  have hlive {v : Nat} {g : VTag} (hv : v ∈ endTags s l none) (hg : tag? s v = some g) (hst : g.st = .active) :
      (liveTags s l cause byRelative).isEmpty = false := by
    rw [List.isEmpty_eq_false_iff_exists_mem]
    exact ⟨v, List.mem_filter.mpr ⟨hv, by simp [tagIn, hg, hst]⟩⟩
  have hgoes : ¬((liveTags s l cause byRelative).isEmpty && !((l.vt.isNone && l.phase == .dispatching) || unready l)) = true := by
    unfold topActive at ha
    dsimp only at ha
    split at ha
    next v hv =>
      split at ha
      next g hg =>
        obtain ⟨hst, hgl⟩ : g.st = .active ∧ g.launch = l.id := by simpa using ha
        rw [hlive (v := v) (by simp [endTags, hv, hg, hgl]) hg hst]
        simp
      next => cases ha
    next hv =>
      rcases Bool.or_eq_true_iff.mp ha with hrun | hteam
      · by_cases hd : l.phase = .dispatching
        · simp [hv, hd]
        · have hn : l.nextTeam < lrTeams l.raw := by simpa using (Bool.and_eq_true_iff.mp hrun).2
          simp [unready, hv, hc, hd, hn]
      · obtain ⟨m, hm, hact⟩ := List.any_eq_true.mp hteam
        obtain ⟨hml, hact⟩ := Bool.and_eq_true_iff.mp hact
        split at hact
        next w hw =>
          split at hact
          next g hg =>
            obtain ⟨hst, -⟩ : g.st = .active ∧ g.launch = l.id := by simpa using hact
            rw [hlive (v := w) ?_ hg hst]
            · simp
            · unfold endTags
              rw [hv]
              exact List.mem_filterMap.mpr ⟨m, List.mem_filter.mpr ⟨hm, hml⟩, hw⟩
          next => cases hact
        next => cases hact
  rw [if_neg hgoes]
  dsimp only
  rw [(endsLaunches_strike _ _ _ _ _ _).descendants]

/-! ### A launch that stands aborted -/

/-- A launch has ended with a cause, and none of its teams runs. -/
structure AbortedWith (id cause : Nat) (s : State) : Prop where
  launch : ∃ k, launch? s id = some k ∧ k.phase = .aborted ∧ k.cause = some cause
  teams : ∀ m ∈ s.teams, m.launch = id → m.retired = true

section
variable {id cause : Nat} {s : State}

/-- A strike of any launch leaves one that stands aborted as it is. -/
theorem AbortedWith.strike (h : AbortedWith id cause s) (i c vt : Nat) (rep : Option Report) (vs : List Nat) :
    AbortedWith id cause (strike i c vt rep vs s) := by
  obtain ⟨⟨k, hk, hphase, hcause⟩, hteams⟩ := h
  constructor
  · have hs : launch? (vs.foldl (fun s v => killTag v c s) s) id = some k := by
      unfold launch? at hk ⊢
      rw [(killTags_same c vs s).1, hk]
    obtain ⟨k', hk', -, hcp⟩ := launch?_stampCause i c vt rep hs
    rw [if_neg (by simp [hcause]), hphase, hcause] at hcp
    exact ⟨k', hk', congrArg Prod.snd hcp, congrArg Prod.fst hcp⟩
  · intro m hm hml
    rw [strike_teams] at hm
    obtain ⟨x, hx, rfl⟩ := List.mem_map.mp hm
    by_cases hi : (x.launch == i) = true
    · rw [if_pos hi]
    · rw [if_neg hi] at hml ⊢
      exact hteams x hx hml

theorem AbortedWith.abortDescendant (h : AbortedWith id cause s) (c d : Nat) : AbortedWith id cause (abortDescendant c s d) := by
  unfold Sys2Proof.Machine.abortDescendant
  split
  · split
    · exact h
    · exact h.strike _ _ _ _ _
  · exact h

/-- A later cause of no lower code leaves a launch that stands aborted as it is (R165). -/
theorem AbortedWith.abortLaunch (h : AbortedWith id cause s) {c : Nat} (hle : cause ≤ c) (byRelative : Bool) (rep : Option Report) :
    AbortedWith id cause (abortLaunch id c byRelative rep s) := by
  obtain ⟨k, hk, -, hcause⟩ := h.launch
  rw [abortLaunch_eq hk]
  split
  · unfold lowerCause
    rw [hk]
    dsimp only
    rw [hcause]
    dsimp only
    rw [if_neg (fun hlt => absurd hlt.1 (Nat.not_lt.mpr hle))]
    exact h
  · exact foldl_keeps (P := AbortedWith id cause) (fun u d hu => hu.abortDescendant c d) _ (h.strike _ _ _ _ _)

/-- The abort of a launch with an ACTIVE tag that no cause has reached leaves it aborted with the cause. -/
theorem abortedWith_abortLaunch {l : Launch} (hl : launch? s id = some l) (hc : l.cause = none) (ha : topActive s l = true)
    (byRelative : Bool) (rep : Option Report) : AbortedWith id cause (abortLaunch id cause byRelative rep s) := by
  rw [abortLaunch_of_topActive hl hc ha]
  refine foldl_keeps (P := AbortedWith id cause) (fun u d hu => hu.abortDescendant cause d) _ ⟨?_, fun m hm hml => ?_⟩
  · obtain ⟨k, at_, hk, he⟩ := launch?_strike cause (namedTag s l) rep (liveTags s l cause byRelative) hl
    obtain ⟨-, -, hcp⟩ := stamped_keeps cause at_ (namedTag s l) rep l
    rw [if_pos hc] at hcp
    exact ⟨k, hk, (congrArg Launch.phase he).trans (congrArg Prod.snd hcp), (congrArg Launch.cause he).trans (congrArg Prod.fst hcp)⟩
  · rw [strike_teams] at hm
    obtain ⟨x, -, rfl⟩ := List.mem_map.mp hm
    by_cases hx : (x.launch == id) = true
    · rw [if_pos hx]
    · rw [if_neg hx] at hml
      exact absurd (beq_iff_eq.mpr hml) hx

end

/-- Whether a launch has an ACTIVE tag rests on the tags and the teams. -/
theorem topActive_congr {s t : State} (ht : t.teams = s.teams) (hg : t.skim.tags = s.skim.tags) (l : Launch) :
    topActive t l = topActive s l := by
  unfold topActive tag?
  rw [ht, hg]

end Sys2Proof.Machine

/-! ## Hangs and deadlines (R143, R159, R160, R165) -/

namespace Sys2Proof.Machine

/-! ### What a fault's record leaves as it was (R81) -/

/-- A write by the system changes no launch, team, tag or space. -/
theorem writeSys_same (pa : Nat) (data : List Byte) (s : State) :
    (writeSys pa data s).launches = s.launches ∧ (writeSys pa data s).teams = s.teams ∧ (writeSys pa data s).skim.tags = s.skim.tags ∧
      (writeSys pa data s).spaces = s.spaces ∧ (writeSys pa data s).disp = s.disp := by
  have h := withoutBytes_writeSys pa data s
  exact ⟨(congrArg (·.launches) h :), (congrArg (·.teams) h :), (congrArg (·.skim.tags) h :), (congrArg (·.spaces) h :),
    (congrArg (·.disp) h :)⟩

/-- A fault's record is a write by the system, and the ring's PROD goes on. -/
theorem writeFault_eq (f : FaultRec) (id : Nat) (fatal : Bool) (s : State) :
    ∃ pa data x, writeFault f id fatal s = { writeSys pa data s with xlat := x } := by
  unfold writeFault
  exact ⟨_, _, _, rfl⟩

/-- A fatal fault changes none of them either. -/
theorem fatalFault_same (f : FaultRec) (s : State) :
    (fatalFault f s).launches = s.launches ∧ (fatalFault f s).teams = s.teams ∧ (fatalFault f s).skim.tags = s.skim.tags ∧
      (fatalFault f s).spaces = s.spaces ∧ (fatalFault f s).disp = s.disp := by
  unfold fatalFault
  by_cases h : (s.xlat.fqEnable && !fqFull s) = true
  · rw [if_pos h]
    obtain ⟨pa, data, x, he⟩ := writeFault_eq f 0 true s
    rw [he]
    exact writeSys_same pa data s
  · rw [if_neg h]
    exact ⟨rfl, rfl, rfl, rfl, rfl⟩

theorem launch?_congr {s t : State} (h : t.launches = s.launches) (i : Nat) : launch? t i = launch? s i := by
  unfold launch?
  rw [h]

/-! ### The family of a top-level launch -/

/-- A launch that no launch created is its own top-level launch. -/
theorem topOf_top {s : State} {id : Nat} {l : Launch} (hl : launch? s id = some l) (hp : l.parent = none) : topOf s id = id := by
  unfold topOf topOf.go
  rw [hl]
  dsimp only
  rw [hp]

/-- With nothing of a family in flight there is nothing to complete (R160). -/
theorem finishFlight_settled {ids : List Nat} {s : State}
    (h : ∀ a ∈ s.accesses, a.st ≠ .flight ∧ a.st ≠ .held ∧ (a.st = .blocked → a.left = [])) : finishFlight ids s = s := by
  have hnone : s.accesses.filter (fun a => ids.contains a.f.launch &&
      (a.st == .flight || a.st == .held || (a.st == .blocked && !a.left.isEmpty))) = [] := by
    refine List.filter_eq_nil_iff.mpr fun a ha => ?_
    obtain ⟨hf, hh, hb⟩ := h a ha
    by_cases hst : a.st = .blocked
    · simp [hst, hb hst]
    · simp [hf, hh, hst]
  unfold finishFlight
  rw [hnone]
  rfl

/-- A hang that is due, in the terms of R159. -/
theorem hangDue_iff {s : State} {id : Nat} {l : Launch} (hl : launch? s id = some l) (hp : l.parent = none) (ha : topActive s l = true) :
    hangDue s id = true ↔ hangPaused s id = false ∧ lrHang l.raw ≤ l.hang ∧ holdsWork s id = true := by
  unfold hangDue
  rw [hl]
  simp [hp, ha, and_assoc]

theorem evHang_due {s : State} {id : Nat} {l : Launch} (hl : launch? s id = some l) (h : hangDue s id = true)
    (hq : ∀ a ∈ s.accesses, a.st ≠ .flight ∧ a.st ≠ .held ∧ (a.st = .blocked → a.left = [])) :
    evHang id s = abortLaunch id 0x0C false none (occupancyMap l s) := by
  unfold evHang
  rw [hl]
  dsimp only
  rw [if_pos h, finishFlight_settled hq]

theorem evHang_notDue {s : State} {id : Nat} (h : hangDue s id = false) : evHang id s = s := by
  unfold evHang
  split
  · exact if_neg (by simp [h])
  · rfl

theorem hangFirst_top {s : State} {id : Nat} {l : Launch} (hl : launch? s id = some l) (hp : l.parent = none) : hangFirst id s = evHang id s := by
  unfold hangFirst
  rw [topOf_top hl hp]

/-! ### The occupancy map (R161, R162) -/

/-- A space without a map area gets no map. -/
theorem occupancyMap_off {s : State} {l : Launch} (h : (space s l.space).hmSize = 0) : occupancyMap l s = s := by
  unfold occupancyMap
  exact if_pos (congrArg BitVec.toNat h)

/-- Where the occupancy map of a space lies. -/
def mapBase (x : Space) : Nat := bits x.hmLo.toNat 31 12 * 4096 + bits x.hmHi.toNat 21 0 * 2 ^ 32

theorem writeMap_perm {l : Launch} {k va : Nat} {data : List Byte} {s : State} (hd : data ≠ [])
    (hw : translate s 160 l.space va .sysWrite = .perm) :
    writeMap l (k + 1) va data s = (false, areaFault l (namedTag s l) va 0x02 3 s) := by
  unfold writeMap
  rw [if_neg (by simpa using hd), hw]

/-- A map whose first page the system may not write ends the launch, and the space says so. -/
theorem occupancyMap_perm {s : State} {l : Launch} (h : 0 < (space s l.space).hmSize.toNat)
    (hw : translate s 160 l.space (mapBase (space s l.space)) .sysWrite = .perm) :
    ∃ va f, (∀ x, (f x).hmErr = true) ∧ occupancyMap l s = modSpace l.space f (areaFault l (namedTag s l) va 0x02 3 s) := by
  obtain ⟨t, ht⟩ : ∃ t, t = occupancyMap l s := ⟨_, rfl⟩
  rw [← ht]
  delta occupancyMap at ht
  extract_lets x size ids cores recs kept body seq head base at ht
  rw [if_neg (Nat.ne_of_gt h)] at ht
  rw [writeMap_perm (by exact fun hnil => by simpa [head] using congrArg List.length hnil) (va := base) hw] at ht
  exact ⟨base, _, fun _ => rfl, ht⟩

/-- A fatal fault of the device's own use of an area ends the launch with its cause (R72, R80). -/
theorem abortedWith_areaFault {s : State} {l : Launch} (hl : launch? s l.id = some l) (hc : l.cause = none) (ha : topActive s l = true)
    (vt va cause reason : Nat) : AbortedWith l.id cause (areaFault l vt va cause reason s) := by
  obtain ⟨hlaunches, hteams, htags, -, -⟩ := fatalFault_same
    { key := 0, id := none, space := l.space, va := va, kind := 5, reason := reason, vt := vt, core := 0xFFFF,
      cookie := BitVec.ofNat 64 (lrCookie l.raw) } s
  unfold areaFault
  exact abortedWith_abortLaunch ((launch?_congr hlaunches _).trans hl) hc ((topActive_congr hteams htags l).trans ha) _ _

theorem areaFault_spaces (l : Launch) (vt va cause reason : Nat) (s : State) : (areaFault l vt va cause reason s).spaces = s.spaces := by
  unfold areaFault
  rw [(endsOnly_abortLaunch _ _ _ _ _).spaces, (fatalFault_same _ s).2.2.2.1]

/-! ### The events -/

section
variable {s : State} {id : Nat} {l : Launch}

/-- A hang of a launch whose space has no map (R160). -/
theorem abortedWith_evHang (hl : launch? s id = some l) (hc : l.cause = none) (ha : topActive s l = true) (h : hangDue s id = true)
    (hq : ∀ a ∈ s.accesses, a.st ≠ .flight ∧ a.st ≠ .held ∧ (a.st = .blocked → a.left = [])) (hm : (space s l.space).hmSize = 0) :
    AbortedWith id 0x0C (evHang id s) := by
  rw [evHang_due hl h hq, occupancyMap_off hm]
  exact abortedWith_abortLaunch hl hc ha _ _

/-- A hang whose map may not be written: the fault of the map comes first, with the lower code (R72, R165). -/
theorem evHang_perm (hl : launch? s id = some l) (hc : l.cause = none) (ha : topActive s l = true) (h : hangDue s id = true)
    (hq : ∀ a ∈ s.accesses, a.st ≠ .flight ∧ a.st ≠ .held ∧ (a.st = .blocked → a.left = [])) (hm : 0 < (space s l.space).hmSize.toNat)
    (hsp : l.space < s.spaces.length)
    (hw : translate s 160 l.space (mapBase (space s l.space)) .sysWrite = .perm) :
    AbortedWith id 0x02 (evHang id s) ∧ (space (evHang id s) l.space).hmErr = true := by
  obtain rfl := launch?_id hl
  obtain ⟨va, f, hf, hmap⟩ := occupancyMap_perm hm hw
  rw [evHang_due hl h hq, hmap]
  obtain ⟨hrecord, hteams⟩ := abortedWith_areaFault hl hc ha (namedTag s l) va 0x02 3
  have hfaulted : AbortedWith l.id 0x02 (modSpace l.space f (areaFault l (namedTag s l) va 0x02 3 s)) := ⟨hrecord, hteams⟩
  refine ⟨hfaulted.abortLaunch (by decide) _ _, ?_⟩
  unfold space
  rw [(endsOnly_abortLaunch _ _ _ _ _).spaces]
  unfold modSpace
  dsimp only
  rw [getD_listMod_same (by rw [areaFault_spaces]; exact hsp)]
  exact hf _

/-- A deadline that has passed, where nothing hangs before it (R143, R165). -/
theorem evDeadline_due (hl : launch? s id = some l) (hp : l.parent = none) (ha : topActive s l = true) (hz : frozen s = false)
    (hd : 0 < lrDeadline l.raw) (ht : 700 * lrDeadline l.raw ≤ l.deadline) :
    evDeadline id s = abortLaunch id 0x0D false none (evHang id s) := by
  unfold evDeadline
  rw [hl]
  dsimp only
  rw [if_pos, hangFirst_top hl hp]
  have hcycles : lrDeadline l.raw * cyclesPerUs ≤ l.deadline := by unfold cyclesPerUs; omega
  simp [hp, hz, ha, hcycles, Nat.ne_of_gt hd]

theorem evDeadline_idle (hl : launch? s id = some l) (hc : l.cause = none)
    (h : ¬(0 < lrDeadline l.raw ∧ 700 * lrDeadline l.raw ≤ l.deadline) ∨ topActive s l = false) : evDeadline id s = s := by
  unfold evDeadline
  rw [hl]
  dsimp only
  refine if_neg fun hgo => ?_
  simp only [Bool.and_eq_true, Bool.or_eq_true, decide_eq_true_eq, bne_iff_ne, ne_eq, abortedNow, hc, Option.isSome_none, Bool.false_and,
    Bool.false_eq_true, or_false] at hgo
  obtain ⟨⟨⟨-, hne⟩, hle⟩, hact⟩ := hgo
  rcases h with hlate | hidle
  · unfold cyclesPerUs at hle
    exact hlate ⟨Nat.pos_of_ne_zero hne, by omega⟩
  · rw [hidle] at hact
    cases hact

theorem hangDue_idle (hl : launch? s id = some l) (h : hangPaused s id = true ∨ l.hang < lrHang l.raw) : hangDue s id = false := by
  unfold hangDue
  rw [hl]
  rcases h with hp | hlt
  · simp [hp]
  · simp [Nat.not_le.mpr hlt]

end

end Sys2Proof.Machine

/-! ## The dispatcher takes and starts launches (R138, R140) -/

namespace Sys2Proof.Machine

/-! ### What the start of a launch keeps of every launch -/

/-- What a dispatch gives a launch for good: its number, record, queue and place in it, parent, priority and tag. -/
def placeKey (l : Launch) : Nat × List Byte × Nat × Nat × Option Nat × Nat × Option Nat :=
  (l.id, l.raw, l.queue, l.index, l.parent, l.prio, l.vt)

/-- The second state has the launches of the first, in whatever phase, and its dispatcher and queues. -/
structure KeepsPlaces (s t : State) : Prop where
  launches : t.launches.map placeKey = s.launches.map placeKey
  disp : t.disp = s.disp
  queues : t.queues = s.queues

theorem KeepsPlaces.refl (s : State) : KeepsPlaces s s := ⟨rfl, rfl, rfl⟩

theorem KeepsPlaces.trans {s t u : State} (h : KeepsPlaces s t) (k : KeepsPlaces t u) : KeepsPlaces s u :=
  ⟨k.launches.trans h.launches, k.disp.trans h.disp, k.queues.trans h.queues⟩

theorem KeepsPlaces.withXlat {s t : State} (h : KeepsPlaces s t) (x : Xlat) : KeepsPlaces s { t with xlat := x } :=
  ⟨h.launches, h.disp, h.queues⟩

theorem KeepsPlaces.withImages {s t : State} (h : KeepsPlaces s t) (x : List (Nat × Image)) : KeepsPlaces s { t with images := x } :=
  ⟨h.launches, h.disp, h.queues⟩

theorem keepsPlaces_modLaunch (id : Nat) {f : Launch → Launch} (h : ∀ l, placeKey (f l) = placeKey l) (s : State) :
    KeepsPlaces s (modLaunch id f s) := ⟨map_modWhere h _ _, rfl, rfl⟩

/-- The end of launches leaves them where they are. -/
theorem keepsPlaces_of_ends {s t : State} (h : EndsOnly s t) (k : EndsLaunches s t) : KeepsPlaces s t := by
  refine ⟨?_, k.disp, h.queues⟩
  have hkey (l : List Launch) : l.map placeKey = (l.map unended).map placeKey := by rw [List.map_map]; rfl
  rw [hkey, k.launches, ← hkey]

theorem keepsPlaces_abortLaunch (id cause : Nat) (byRelative : Bool) (rep : Option Report) (s : State) :
    KeepsPlaces s (abortLaunch id cause byRelative rep s) :=
  keepsPlaces_of_ends (endsOnly_abortLaunch _ _ _ _ _) (endsLaunches_abortLaunch _ _ _ _ _)

theorem keepsPlaces_abortVt (vt cause : Nat) (byRelative : Bool) (rep : Option Report) (s : State) :
    KeepsPlaces s (abortVt vt cause byRelative rep s) :=
  keepsPlaces_of_ends (endsOnly_abortVt _ _ _ _ _) (endsLaunches_abortVt _ _ _ _ _)

theorem keepsPlaces_writeSys (pa : Nat) (data : List Byte) (s : State) : KeepsPlaces s (writeSys pa data s) :=
  ⟨congrArg _ (writeSys_same pa data s).1, (writeSys_same pa data s).2.2.2.2, (congrArg (·.queues) (withoutBytes_writeSys pa data s) :)⟩

theorem keepsPlaces_writeFault (f : FaultRec) (id : Nat) (fatal : Bool) (s : State) : KeepsPlaces s (writeFault f id fatal s) := by
  obtain ⟨pa, data, x, h⟩ := writeFault_eq f id fatal s
  rw [h]
  exact (keepsPlaces_writeSys pa data s).trans ⟨rfl, rfl, rfl⟩

theorem keepsPlaces_fatalFault (f : FaultRec) (s : State) : KeepsPlaces s (fatalFault f s) := by
  unfold fatalFault
  by_cases h : (s.xlat.fqEnable && !fqFull s) = true
  · rw [if_pos h]
    exact keepsPlaces_writeFault f 0 true s
  · rw [if_neg h]
    exact ⟨rfl, rfl, rfl⟩

theorem keepsPlaces_parkFault (f : FaultRec) (s : State) : KeepsPlaces s (parkFault f s).2 := by
  unfold parkFault
  split
  · exact KeepsPlaces.refl s
  · refine KeepsPlaces.withXlat ?_ _
    split
    · exact keepsPlaces_writeFault f _ false s
    · exact KeepsPlaces.refl s

theorem keepsPlaces_logUe (source die pa : Nat) (s : State) : KeepsPlaces s (logUe source die pa s) := by
  unfold logUe raiseAlert
  rw [setAlerts_eq]
  exact ⟨rfl, rfl, rfl⟩

theorem keepsPlaces_ueAbort (id : Nat) (vt : Option Nat) (e : Nat × Nat × Nat) (s : State) : KeepsPlaces s (ueAbort id vt e s) := by
  have habort := (keepsPlaces_logUe e.2.1 e.2.2 (32 * e.1) s).trans (keepsPlaces_abortLaunch id 0x0E false none _)
  unfold ueAbort
  dsimp only
  split
  · exact habort.trans (keepsPlaces_abortVt _ _ _ _ _)
  · exact habort

theorem keepsPlaces_dispFails (l : Launch) (e : RdErr) (s : State) : KeepsPlaces s (dispFails l e s) := by
  have hfatal (f : FaultRec) (cause : Nat) (rep : Option Report) : KeepsPlaces s (abortLaunch l.id cause false rep (fatalFault f s)) :=
    (keepsPlaces_fatalFault f s).trans (keepsPlaces_abortLaunch _ _ _ _ _)
  unfold dispFails
  dsimp only
  split
  · split
    · exact hfatal _ _ _
    · exact (keepsPlaces_parkFault _ s).trans (keepsPlaces_modLaunch l.id (by exact fun _ => rfl) _)
  · exact hfatal _ _ _
  · exact hfatal _ _ _
  · exact keepsPlaces_abortLaunch _ _ _ _ _
  · exact keepsPlaces_ueAbort _ _ _ _

theorem keepsPlaces_refuseLaunch (l : Launch) (s : State) : KeepsPlaces s (refuseLaunch l s) := by
  unfold refuseLaunch
  split
  · exact (⟨rfl, rfl, rfl⟩ : KeepsPlaces s (freeTag _ s)).trans (keepsPlaces_modLaunch l.id (by exact fun _ => rfl) _)
  · exact keepsPlaces_modLaunch l.id (by exact fun _ => rfl) s

theorem keepsPlaces_writeReport (sp va : Nat) (data : List Byte) (s : State) : KeepsPlaces s (writeReport sp va data s) := by
  unfold writeReport
  split
  · split
    · exact keepsPlaces_writeSys _ _ _
    · exact KeepsPlaces.refl s
  · exact KeepsPlaces.refl s

/-- However far the checks of a launch's record go, every launch keeps its place. -/
theorem keepsPlaces_goDispatch (id : Nat) (s : State) : KeepsPlaces s (goDispatch id s) := by
  have hreport (sp va : Nat) (data : List Byte) : KeepsPlaces s (if va = 0 then s else writeReport sp va data s) := by
    split
    · exact KeepsPlaces.refl s
    · exact keepsPlaces_writeReport _ _ _ _
  unfold goDispatch
  split
  · exact KeepsPlaces.refl s
  split
  · exact KeepsPlaces.refl s
  split
  · exact keepsPlaces_dispFails _ _ _
  split
  · exact keepsPlaces_refuseLaunch _ _
  split
  · exact keepsPlaces_dispFails _ _ _
  dsimp only
  split
  · exact (hreport _ _ _).trans (keepsPlaces_refuseLaunch _ _)
  split
  · exact keepsPlaces_refuseLaunch _ _
  split
  · exact (hreport _ _ _).trans (keepsPlaces_dispFails _ _ _)
  split
  · exact ((hreport _ _ _).withImages _).trans (keepsPlaces_refuseLaunch _ _)
  · exact ((hreport _ _ _).withImages _).trans (keepsPlaces_modLaunch id (by exact fun _ => rfl) _)

/-! ### A new launch (R138) -/

/-- What the dispatcher notes at a queue changes neither its priority nor its space. -/
theorem queue_noteHeads (fits : Launch → Bool) (s : State) (q : Nat) :
    (queue (noteHeads fits s) q).prio = (queue s q).prio ∧ (queue (noteHeads fits s) q).space = (queue s q).space := by
  unfold queue noteHeads
  simp only [List.getD_eq_getElem?_getD, List.getElem?_map]
  by_cases hq : q < s.queues.length
  · have hz : ((List.range s.queues.length).zip s.queues)[q]? = some (q, s.queues[q]) := by
      rw [List.getElem?_eq_some_iff]
      exact ⟨by simpa using hq, by simp⟩
    rw [hz, List.getElem?_eq_getElem hq]
    exact ⟨rfl, rfl⟩
  · have hz : ((List.range s.queues.length).zip s.queues)[q]? = none := by
      rw [List.getElem?_eq_none_iff]
      simpa using hq
    rw [hz, List.getElem?_eq_none_iff.mpr (Nat.le_of_not_lt hq)]
    exact ⟨rfl, rfl⟩

theorem noteHeads_same (fits : Launch → Bool) (s : State) :
    (noteHeads fits s).launches = s.launches ∧ (noteHeads fits s).disp = s.disp ∧ (noteHeads fits s).skim = s.skim := ⟨rfl, rfl, rfl⟩

theorem map_listMod {α β : Type} {g : α → β} {f : α → α} (h : ∀ x, g (f x) = g x) (l : List α) (n : Nat) :
    (listMod l n f).map g = l.map g := by
  induction l generalizing n with
  | nil => rfl
  | cons x l ih =>
    cases n with
    | zero => exact congrArg (· :: l.map g) (h x)
    | succ n => exact congrArg (g x :: ·) (ih n)

theorem queue_waiting_congr {s t : State} (h : t.queues.map (·.waiting) = s.queues.map (·.waiting)) (k : Nat) :
    (queue t k).waiting = (queue s k).waiting := by
  unfold queue
  rw [← List.getD_map (f := Queue.waiting), ← List.getD_map (f := Queue.waiting), h]

/-- FAIR alone changes as a queue is charged. -/
theorem chargeFair_same (q teams : Nat) (s : State) :
    (chargeFair q teams s).launches = s.launches ∧ (chargeFair q teams s).disp = s.disp ∧
      ∀ k, (queue (chargeFair q teams s) k).waiting = (queue s k).waiting := by
  have hcharged : (modQueue q (fun x => { x with fair := Nat.min (2 ^ 32 - 1) (x.fair + teams) }) s).queues.map (·.waiting) =
      s.queues.map (·.waiting) := map_listMod (by exact fun _ => rfl) _ _
  unfold chargeFair
  dsimp only
  split
  · exact ⟨rfl, rfl, queue_waiting_congr ((map_modWhere (by exact fun _ => rfl) _ _).trans hcharged)⟩
  · exact ⟨rfl, rfl, queue_waiting_congr hcharged⟩

/-- A queue that has a record has a place. -/
theorem lt_of_queueHead {s : State} {q : Nat} {w : Waiting} (h : queueHead s q = some w) : q < s.queues.length := by
  by_contra hq
  have hnone : (queue s q).waiting = [] := by
    unfold queue
    rw [List.getD_eq_default _ _ (Nat.le_of_not_lt hq)]
    rfl
  unfold queueHead at h
  rw [hnone] at h
  cases h

/-- The state with a new launch, and its tag where it has one. -/
def entered (l : Launch) (s : State) : State :=
  let s := { s with
    launches := s.launches ++ [l]
    disp := { s.disp with nextLaunch := s.disp.nextLaunch + 1, nextOrder := s.disp.nextOrder + 1 } }
  match l.vt with | some v => newTag v l.id none none s | none => s

theorem entered_same (l : Launch) (s : State) :
    (entered l s).launches = s.launches ++ [l] ∧ (entered l s).disp.nextLaunch = s.disp.nextLaunch + 1 ∧ (entered l s).queues = s.queues := by
  unfold entered
  cases l.vt <;> exact ⟨rfl, rfl, rfl⟩

/-- The queue without the record of an index. -/
def takenFrom (q index : Nat) (s : State) : State := modQueue q (fun x => { x with waiting := x.waiting.filter (·.index != index) }) s

theorem dispatchRecord_eq (q : Nat) (w : Waiting) (s : State) :
    dispatchRecord q w s =
      let l := newLaunch s q w (if lrTeamGran w.raw then none else pickTag s)
      goDispatch l.id (chargeFair q (lrTeams w.raw) (takenFrom q w.index (entered l s))) := rfl

/-- A dispatch takes a record off its queue and begins its launch, which keeps what the dispatch has given it. -/
theorem dispatchRecord_takes {s : State} {q : Nat} {w : Waiting} (hq : q < s.queues.length) :
    (dispatchRecord q w s).disp.nextLaunch = s.disp.nextLaunch + 1 ∧
      (∀ x ∈ (queue (dispatchRecord q w s) q).waiting, x.index ≠ w.index) ∧
      ∃ k ∈ (dispatchRecord q w s).launches, placeKey k = placeKey (newLaunch s q w (if lrTeamGran w.raw then none else pickTag s)) := by
  rw [dispatchRecord_eq]
  dsimp only
  generalize newLaunch s q w (if lrTeamGran w.raw then none else pickTag s) = l
  obtain ⟨hlaunches, hnext, hqueues⟩ := entered_same l s
  obtain ⟨hclaunches, hcdisp, hcwaiting⟩ := chargeFair_same q (lrTeams w.raw) (takenFrom q w.index (entered l s))
  generalize chargeFair q (lrTeams w.raw) (takenFrom q w.index (entered l s)) = u at *
  obtain ⟨hkeys, hdisp, hkept⟩ := keepsPlaces_goDispatch l.id u
  refine ⟨?_, fun x hx => ?_, ?_⟩
  · rw [hdisp, hcdisp]
    exact hnext
  · have hwaiting : (queue (goDispatch l.id u) q).waiting = (queue s q).waiting.filter (·.index != w.index) := by
      have hsame : queue (goDispatch l.id u) q = queue u q := by unfold queue; rw [hkept]
      have hentered : queue (entered l s) q = queue s q := by unfold queue; rw [hqueues]
      rw [hsame, hcwaiting, takenFrom, queue_modQueue (by rw [hqueues]; exact hq), hentered]
    rw [hwaiting] at hx
    simpa using (List.mem_filter.mp hx).2
  · have hmem : placeKey l ∈ (goDispatch l.id u).launches.map placeKey := by
      rw [hkeys, hclaunches]
      refine List.mem_map_of_mem ?_
      rw [takenFrom, modQueue_launches, hlaunches]
      simp
    obtain ⟨k, hk, he⟩ := List.mem_map.mp hmem
    exact ⟨k, hk, he⟩

/-- DISPATCH of a new record (R138, R140). -/
theorem evDispatch_new {fits : Launch → Bool} {s : State} {q : Nat} {w : Waiting} (hr : coresRun s = true) (hres : resumable s = none)
    (hsel : selection (noteHeads fits s) fits = some (q, none)) (hw : queueHead (noteHeads fits s) q = some w) :
    evDispatch fits s = dispatchRecord q w (noteHeads fits s) := by
  unfold evDispatch
  rw [hr, hres]
  dsimp only [Bool.not_true, Bool.false_eq_true, if_false]
  rw [hsel]
  dsimp only
  rw [hw]
  rfl

/-! ### The checks of a launch (R138, R90, R97) -/

theorem evDispatch_resumed {fits : Launch → Bool} {s : State} {l : Launch} (hr : coresRun s = true) (hres : resumable s = some l) :
    evDispatch fits s = goDispatch l.id s := by
  unfold evDispatch
  rw [hr, hres]
  rfl

section
variable {s : State} {l : Launch} {h ps : List Byte}

/-- A launch whose parameter block is not one is refused. -/
theorem goDispatch_refused (hl : launch? s l.id = some l) (hd : l.phase = .dispatching) (hf : l.fault = none)
    (hp : readParams s l.space l.raw = .ok (h, ps)) (hb : pbOk h = false) : goDispatch l.id s = refuseLaunch l s := by
  unfold goDispatch
  rw [hl]
  dsimp only
  rw [hd, hf, hp]
  simp [hb]

theorem launch?_refuseLaunch (hl : launch? s l.id = some l) :
    ∃ k, launch? (refuseLaunch l s) l.id = some k ∧ k.phase = .aborted ∧ k.cause = some 0x06 ∧ k.ran = false := by
  have hfree : ∀ u, launch? u l.id = some l → ∃ k, launch? (modLaunch l.id (fun l => { l with
      phase := .aborted, cause := some 0x06, causeAt := u.cycles, ran := false }) u) l.id = some k ∧
      k.phase = .aborted ∧ k.cause = some 0x06 ∧ k.ran = false := by
    intro u hu
    rw [launch?_modLaunch (by exact fun _ => rfl), if_pos rfl, hu]
    exact ⟨_, rfl, rfl, rfl, rfl⟩
  unfold refuseLaunch
  split
  · exact hfree _ hl
  · exact hfree _ hl

theorem refuseLaunch_mem : (refuseLaunch l s).mem = s.mem := by
  unfold refuseLaunch
  split <;> rfl

/-- A launch that passes its checks starts with its image and parameters. -/
theorem goDispatch_starts {im : Image} (hl : launch? s l.id = some l) (hd : l.phase = .dispatching) (hf : l.fault = none)
    (hp : readParams s l.space l.raw = .ok (h, ps)) (hb : pbOk h = true) (hv : verdictFor s l.space l.raw = .ok (.image im))
    (hpre : prefOk h im.blocks.length = true) (hrep : lrReport l.raw = 0)
    (htok : areaPages s l.space (lrTokBase l.raw) (lrTokBytes l.raw / 4096) 0 = .ok ())
    (hlog : areaPages s l.space (lrShLog l.raw) (lrShBudget l.raw / 4096) 0 = .ok ())
    (hws : hwCrews im.width (lrTeamSz l.raw) ≤ lrWsSlots l.raw) :
    (goDispatch l.id s).mem = s.mem ∧ launch? (goDispatch l.id s) l.id = some { l with
      phase := .running, image := im, params := ps, deadline := 0, hang := 0, freeStacks := List.range (lrWsSlots l.raw) } := by
  have hgo : ∃ x, goDispatch l.id s = modLaunch l.id (fun l => { l with
      phase := .running, image := im, params := ps, deadline := 0, hang := 0, freeStacks := List.range (lrWsSlots l.raw) })
      { s with images := x } := by
    unfold goDispatch
    rw [hl]
    dsimp only
    rw [hd, hf, hp]
    simp only [hb, hv, hpre, hrep, htok, hlog, Nat.not_lt.mpr hws, Option.isSome_none, Bool.or_false, bne_self_eq_false, Bool.not_true,
      Bool.false_eq_true, if_false, if_true, bind, Except.bind]
    exact ⟨_, rfl⟩
  obtain ⟨x, hgo⟩ := hgo
  rw [hgo]
  refine ⟨rfl, ?_⟩
  rw [launch?_modLaunch (by exact fun _ => rfl), if_pos rfl, show launch? { s with images := x } l.id = some l from hl]
  rfl

end

end Sys2Proof.Machine

/-! ## Teams are placed (R141, R142, R179, R231) -/

namespace Sys2Proof.Machine

/-! ### The core and its free slots (R141, R142) -/

/-- The core that the placer chooses has room for the team. -/
theorem coreRoom_of_chooseCore {s : State} {l : Launch} {n core : Nat} (h : chooseCore s l n = some core) :
    coreRoom s l.id l.image n core = true := by
  have hopen {c : Nat} (hc : c ∈ (List.range 160).filter (fun c => coreRoom s l.id l.image n c)) : coreRoom s l.id l.image n c = true :=
    (List.mem_filter.mp hc).2
  unfold chooseCore at h
  dsimp only at h
  split at h
  · exact hopen (List.mem_of_head? h)
  · obtain ⟨d, -, hbest⟩ := Option.bind_eq_some_iff.mp h
    exact hopen (List.mem_filter.mp (leastBy_mem hbest)).1

theorem freeSlots_of_readyCore {s : State} {l : Launch} {core : Nat} (h : readyCore s l = some core) :
    hwCrews l.image.width (lrTeamSz l.raw) ≤ (freeSlots s core).length := by
  unfold readyCore at h
  dsimp only at h
  split at h
  · have hroom := coreRoom_of_chooseCore h
    simp only [coreRoom, Bool.and_eq_true, decide_eq_true_eq] at hroom
    exact hroom.1.1
  · cases h

/-- The crew slots that a new team takes. -/
def teamSlots (s : State) (l : Launch) (core : Nat) : List Nat :=
  ((freeSlots s core).take (hwCrews l.image.width (lrTeamSz l.raw))).map (core * 256 + ·)

theorem nodup_teamSlots (s : State) (l : Launch) (core : Nat) : (teamSlots s l core).Nodup :=
  ((List.nodup_range.filter _).sublist (List.take_sublist _ _)).map (fun _ _ h => Nat.add_left_cancel h)

theorem length_teamSlots {s : State} {l : Launch} {core : Nat} (h : readyCore s l = some core) :
    (teamSlots s l core).length = hwCrews l.image.width (lrTeamSz l.raw) := by
  unfold teamSlots
  rw [List.length_map, List.length_take, Nat.min_eq_left (freeSlots_of_readyCore h)]

/-- Every thread of a team has a crew slot. -/
theorem crewIndex_lt {width n tid : Nat} (h : tid < n) : tid / 32 < hwCrews width n := by
  unfold hwCrews
  split <;> omega

/-! ### Threads (R179) -/

theorem tabFind_foldl_put_of_mem {α : Type} {es : List (Nat × α)} (hk : (es.map (·.1)).Nodup) {e : Nat × α} (he : e ∈ es) (t : Tab α) :
    tabFind (es.foldl (fun t e => tabPut t e.1 e.2) t) e.1 = some e.2 := by
  induction es using List.reverseRecOn with
  | nil => cases he
  | append_singleton es x ih =>
    rw [List.foldl_append, List.foldl_cons, List.foldl_nil]
    rw [List.map_append, List.map_singleton, List.nodup_append] at hk
    obtain ⟨hnodup, -, hdis⟩ := hk
    rcases List.mem_append.mp he with hmem | hlast
    · have hne : e.1 ≠ x.1 := hdis _ (List.mem_map_of_mem hmem) _ (List.mem_singleton_self _)
      rw [tabFind_put_other _ _ hne]
      exact ih hnodup hmem
    · rw [List.mem_singleton.mp hlast]
      exact tabFind_put_same _ _ _

/-- The threads of a team stand at different places. -/
theorem nodup_newThreads {l : Launch} {key num since : Nat} {crews : List Nat} (hc : crews.Nodup)
    (hn : ∀ tid < lrTeamSz l.raw, tid / 32 < crews.length) : ((newThreads l key num crews since).map (·.1)).Nodup := by
  unfold newThreads
  rw [List.map_map]
  refine List.Nodup.map_on (fun x hx y hy hxy => ?_) List.nodup_range
  have hx32 := hn x (List.mem_range.mp hx)
  have hy32 := hn y (List.mem_range.mp hy)
  simp only [Function.comp_apply, List.getD_eq_getElem _ _ hx32, List.getD_eq_getElem _ _ hy32] at hxy
  have hcrew : crews[x / 32] = crews[y / 32] := by omega
  have hidx : x / 32 = y / 32 := (List.Nodup.getElem_inj_iff hc).mp hcrew
  rw [hcrew] at hxy
  omega

/-! ### The team (R141) -/

/-- The team that a placing makes. -/
def placedTeam (s : State) (l : Launch) (core : Nat) (vt : Option Nat) : Team :=
  { key := s.disp.nextTeam, launch := l.id, num := l.nextTeam, core := core, crews := teamSlots s l core, size := lrTeamSz l.raw, vt := vt,
    retired := false, requested := false, barriers := [], children := [], status := [] }

/-- A launch that has given its next team to a core. -/
def teamGiven (n : Nat) (l : Launch) : Launch := { l with nextTeam := l.nextTeam + 1, freeStacks := l.freeStacks.drop n }

/-- Whether a block is armed rests on the image of its launch. -/
theorem armed_congr {s t : State} {i : Nat} (h : (launch? t i).map (·.image) = (launch? s i).map (·.image)) (b : Nat) :
    armed t i b = armed s i b := by
  unfold armed blockAt imageOf
  rw [h]

theorem launch?_teamGiven {n : Nat} {u v : State} {i : Nat} {k : Launch} (h : launch? u i = some k) (hv : v.launches = u.launches) :
    launch? (modLaunch i (teamGiven n) v) i = some (teamGiven n k) := by
  rw [launch?_modLaunch (by exact fun _ => rfl), if_pos rfl, launch?_congr hv, h]
  rfl

/-- What a placing leaves, where the entry block of the launch is armed. -/
theorem placeTeam_armed {u : State} {l k : Launch} {core : Nat} {vt : Option Nat} (hk : launch? u l.id = some k)
    (ha : armed u l.id l.image.entry = true) :
    (placeTeam l core vt u).teams = u.teams ++ [placedTeam u l core vt] ∧
      launch? (placeTeam l core vt u) l.id = some (teamGiven (hwCrews l.image.width (lrTeamSz l.raw)) k) ∧
      (placeTeam l core vt u).threads =
        (newThreads l u.disp.nextTeam l.nextTeam (teamSlots u l core) u.cycles).foldl (fun t e => tabPut t e.1 e.2) u.threads ∧
      (placeTeam l core vt u).core.scratch = tabClear u.core.scratch (u.disp.nextTeam * 2 ^ 20) (2 ^ 20) ∧
      (placeTeam l core vt u).mem = u.mem ∧ (placeTeam l core vt u).skim = u.skim := by
  have harmed (v : State) (hv : v.launches = u.launches) :
      armed (modLaunch l.id (teamGiven (hwCrews l.image.width (lrTeamSz l.raw))) v) l.id l.image.entry = true := by
    rw [← ha]
    refine armed_congr ?_ _
    rw [launch?_teamGiven hk hv, hk]
    rfl
  unfold placeTeam
  extract_lets n slots keys rows key crew team d c v w
  have hw : armed w l.id l.image.entry = true := harmed v rfl
  rw [if_pos hw]
  exact ⟨rfl, launch?_teamGiven (v := v) hk rfl, rfl, rfl, rfl, rfl⟩

/-- A new team's scratchpad is zero. -/
theorem tabFind_tabClear {α : Type} (t : Tab α) {lo n x : Nat} (hlo : lo ≤ x) (hx : x < lo + n) : tabFind (tabClear t lo n) x = none := by
  have hnone (u : Tab α) (hu : ∀ e ∈ u, e.1 ≠ x) : tabFind u x = none := by
    induction u with
    | nil => rfl
    | cons e u ih =>
      obtain ⟨k, v⟩ := e
      obtain ⟨hk, hu⟩ := List.forall_mem_cons.mp hu
      simp only [tabFind, if_neg hk]
      split
      · rfl
      · exact ih hu
  refine hnone _ fun e he => ?_
  have hout := (List.mem_filter.mp he).2
  simp only [Bool.or_eq_true, decide_eq_true_eq] at hout
  omega

/-- The threads of a placed team wait in its entry block. -/
theorem thread?_placeTeam {u : State} {l k : Launch} {core : Nat} {vt : Option Nat} (hk : launch? u l.id = some k)
    (ha : armed u l.id l.image.entry = true)
    (hlen : (teamSlots u l core).length = hwCrews l.image.width (lrTeamSz l.raw)) {tid : Nat} (ht : tid < lrTeamSz l.raw) :
    ∃ th, thread? (placeTeam l core vt u) ((teamSlots u l core).getD (tid / 32) 0 * 32 + tid % 32) = some th ∧ th.launch = l.id ∧
      th.team = u.disp.nextTeam ∧ th.tid = tid ∧ th.st = .waiting l.image.entry ∧ th.fp = 0 := by
  obtain ⟨-, -, hthreads, -⟩ := placeTeam_armed (core := core) (vt := vt) hk ha
  unfold thread?
  rw [hthreads]
  have hnodup := nodup_newThreads (l := l) (key := u.disp.nextTeam) (num := l.nextTeam) (since := u.cycles) (nodup_teamSlots u l core)
    (fun tid htid => hlen ▸ crewIndex_lt htid)
  have hmem := List.mem_map_of_mem (f := fun tid => ((teamSlots u l core).getD (tid / 32) 0 * 32 + tid % 32,
    ({ launch := l.id, team := u.disp.nextTeam, tid := tid, fp := 0, st := .waiting l.image.entry, saved := false, since := u.cycles,
       replica := 0, prng := prngSeed (BitVec.ofNat 64 (lrSeed l.raw)) (BitVec.ofNat 32 (l.nextTeam * lrTeamSz l.raw + tid)),
       episodes := [] } : Thread))) (List.mem_range.mpr ht)
  exact ⟨_, tabFind_foldl_put_of_mem hnodup hmem u.threads, rfl, rfl, rfl, rfl, rfl⟩

/-! ### The event (R141, R150) -/

/-- A launch whose top-level launch has come to a die. -/
theorem launch?_joinDie {s : State} {id : Nat} {l : Launch} (hl : launch? s id = some l) (die : Nat) :
    launch? (joinDie (topOf s id) die s) id =
      some { l with dies := if topOf s id = id then insertNew die l.dies else l.dies } := by
  have h : launch? (joinDie (topOf s id) die s) id =
      launch? (modLaunch (topOf s id) (fun l => { l with dies := insertNew die l.dies }) s) id := rfl
  rw [h, launch?_modLaunch (by exact fun _ => rfl), hl]
  by_cases ht : topOf s id = id
  · rw [if_pos ht.symm, if_pos ht]; rfl
  · rw [if_neg (Ne.symm ht), if_neg ht]

section
variable {s : State} {id core : Nat} {l : Launch}

theorem exec_deadline (id : Nat) (s : State) : exec (.deadline id) s = .next (evDeadline id s) := rfl

theorem exec_hang (id : Nat) (s : State) : exec (.hang id) s = .next (evHang id s) := rfl

theorem exec_teamReady (id : Nat) (s : State) : exec (.teamReady id) s = .next (evTeamReady id s) := rfl

/-- A launch with a tag of its own places its next team under it. -/
theorem evTeamReady_placesUnder (hr : coresRun s = true) (hl : launch? s id = some l) (hst : l.stream = none) (hc : claimAbove s l.prio = false)
    (hcore : readyCore s l = some core) (hv : l.vt.isSome = true) :
    evTeamReady id s = placeTeam l core none (joinDie (topOf s id) (dieOf core) s) := by
  unfold evTeamReady
  rw [hl]
  dsimp only
  rw [hr, hst, hc, hcore]
  simp only [Bool.not_true, Option.isSome_none, Bool.or_self, Bool.false_eq_true, ↓reduceIte]
  rw [if_pos hv]

/-- Under GRAN = TEAM the next team takes a tag of its own. -/
theorem evTeamReady_placesTagged {v : Nat} (hr : coresRun s = true) (hl : launch? s id = some l) (hst : l.stream = none)
    (hc : claimAbove s l.prio = false) (hcore : readyCore s l = some core) (hv : l.vt = none) (hfree : 128 < freeTags s)
    (hpick : pickTag s = some v) :
    evTeamReady id s = placeTeam l core (some v) (newTag v id (some s.disp.nextTeam) none (joinDie (topOf s id) (dieOf core) s)) := by
  unfold evTeamReady
  rw [hl]
  dsimp only
  rw [hr, hst, hc, hcore]
  simp only [Bool.not_true, Option.isSome_none, Bool.or_self, Bool.false_eq_true, ↓reduceIte]
  rw [if_neg (by simp [hv]), if_neg (Nat.not_le.mpr hfree), hpick]
  rfl

/-- Under GRAN = TEAM a team waits while tags are scarce (R110). -/
theorem evTeamReady_scarce (hr : coresRun s = true) (hl : launch? s id = some l) (hst : l.stream = none) (hc : claimAbove s l.prio = false)
    (hcore : readyCore s l = some core) (hv : l.vt = none) (hfree : freeTags s ≤ 128) : evTeamReady id s = s := by
  unfold evTeamReady
  rw [hl]
  dsimp only
  rw [hr, hst, hc, hcore]
  simp only [Bool.not_true, Option.isSome_none, Bool.or_self, Bool.false_eq_true, ↓reduceIte]
  rw [if_neg (by simp [hv]), if_pos hfree]

/-- A launch of higher priority has the next claim on cores. -/
theorem evTeamReady_waits (hl : launch? s id = some l) (hc : claimAbove s l.prio = true) : evTeamReady id s = s := by
  unfold evTeamReady
  rw [hl]
  dsimp only
  rw [hc, Bool.or_true]
  rfl

end

theorem dispatching_of_resumable {s : State} {l : Launch} (h : resumable s = some l) : l.phase = .dispatching ∧ l.fault = none := by
  have hsome := List.find?_some h
  simp only [Bool.and_eq_true, beq_iff_eq, Option.isNone_iff_eq_none] at hsome
  exact ⟨hsome.1.1, hsome.2⟩

/-- What a placed team is, with its threads and its scratchpad, as the state `u` that has come to the core's die gives it. -/
theorem placeTeam_places {u : State} {l k : Launch} {core : Nat} {vt : Option Nat} (hk : launch? u l.id = some k)
    (ha : armed u l.id l.image.entry = true) (hlen : (teamSlots u l core).length = hwCrews l.image.width (lrTeamSz l.raw)) :
    ∃ m, (placeTeam l core vt u).teams = u.teams ++ [m] ∧ m.key = u.disp.nextTeam ∧ m.launch = l.id ∧ m.num = l.nextTeam ∧ m.core = core ∧
      m.crews = teamSlots u l core ∧ m.size = lrTeamSz l.raw ∧ m.vt = vt ∧ m.retired = false ∧
      launch? (placeTeam l core vt u) l.id = some (teamGiven (hwCrews l.image.width (lrTeamSz l.raw)) k) ∧
      (∀ tid < lrTeamSz l.raw, ∃ th, thread? (placeTeam l core vt u) ((teamSlots u l core).getD (tid / 32) 0 * 32 + tid % 32) = some th ∧
        th.launch = l.id ∧ th.team = u.disp.nextTeam ∧ th.tid = tid ∧ th.st = .waiting l.image.entry ∧ th.fp = 0) ∧
      (∀ i < 2 ^ 20, tabGet 0 (placeTeam l core vt u).core.scratch (u.disp.nextTeam * 2 ^ 20 + i) = 0) ∧
      (placeTeam l core vt u).mem = u.mem ∧ ∀ x, tag? (placeTeam l core vt u) x = tag? u x := by
  obtain ⟨hteams, hlaunch, -, hscratch, hmem, hskim⟩ := placeTeam_armed (core := core) (vt := vt) hk ha
  refine ⟨placedTeam u l core vt, hteams, rfl, rfl, rfl, rfl, rfl, rfl, rfl, rfl, hlaunch, fun tid ht => thread?_placeTeam hk ha hlen ht,
    fun i hi => ?_, hmem, fun x => by unfold tag?; rw [hskim]⟩
  rw [hscratch]
  unfold tabGet
  rw [tabFind_tabClear _ (Nat.le_add_right _ _) (Nat.add_lt_add_left hi _)]
  rfl

end Sys2Proof.Machine

section
open Sys2Proof Sys2Proof.Machine

/-- Settles O53: a dispatch keeps what it gave the launch through all its checks, a placing is one record for each thread and slot, and a
timer's event is the abort of a launch with an ACTIVE tag, which the map's own fault precedes. -/
theorem dispatchTeamsAndTimersActOnLaunches : Obligations.DispatchTeamsAndTimersActOnLaunches := by
  unfold Obligations.DispatchTeamsAndTimersActOnLaunches
  refine ⟨fun s q id core v w l h ps im hr =>
    ⟨fun hres hsel hw => ?_, fun hres hl hp => ⟨fun hb => ?_, fun hb hv hpre hrep htok hlog hws => ?_⟩,
    fun hl hc => ?_, fun hl hst hc hready ha _ _ _ => ?_⟩, fun s id l hl hp hrun hcause => ?_⟩
  · have hexec : exec .dispatch s = .next (dispatchRecord q w (noteHeads (unitsFit s) s)) :=
      (whileRunning_runs hr _).trans (congrArg _ (evDispatch_new hr hres hsel hw))
    obtain ⟨hnext, hwaiting, k, hk, hkey⟩ := dispatchRecord_takes (w := w) (lt_of_queueHead hw)
    have hprio := (queue_noteHeads (unitsFit s) s q).1
    simp only [placeKey, newLaunch, effPrio, hprio, Prod.mk.injEq] at hkey
    obtain ⟨hid, hraw, hqueue, hindex, hparent, hprio, hvt⟩ := hkey
    exact ⟨_, hexec, hnext, hwaiting, k, hk, hid, hraw, hqueue, hindex, hparent, hprio, hvt⟩
  · obtain ⟨hd, hf⟩ := dispatching_of_resumable hres
    obtain ⟨k, hk, hphase, hcause, hran⟩ := launch?_refuseLaunch (s := s) hl
    have hgo := (evDispatch_resumed (fits := unitsFit s) hr hres).trans (goDispatch_refused hl hd hf hp hb)
    exact ⟨_, k, (whileRunning_runs hr _).trans (congrArg _ hgo), hk, hphase, hcause, hran, refuseLaunch_mem⟩
  · obtain ⟨hd, hf⟩ := dispatching_of_resumable hres
    obtain ⟨hmem, hstart⟩ := goDispatch_starts hl hd hf hp hb hv hpre hrep htok hlog hws
    exact ⟨_, (whileRunning_runs hr _).trans (congrArg _ (evDispatch_resumed hr hres)), hmem, hstart⟩
  · exact (exec_teamReady id s).trans (congrArg _ (evTeamReady_waits hl hc))
  · have hk := launch?_joinDie hl (dieOf core)
    obtain rfl := launch?_id hl
    have hlen := length_teamSlots hready
    have harmed (u : State) (hu : u.launches = (joinDie (topOf s l.id) (dieOf core) s).launches) : armed u l.id l.image.entry = true := by
      rw [← ha]
      refine armed_congr ?_ _
      rw [launch?_congr hu, hk, hl]
      rfl
    refine ⟨fun hvt => ?_, fun hvt hfree hpick => ?_, fun hvt hfree => ?_⟩
    · obtain ⟨m, hteams, hkey, hml, hnum, hcore, hcrews, hsize, hmvt, hret, hlaunch, hthreads, hscratch, hmem, -⟩ :=
        placeTeam_places (core := core) (vt := none) hk (harmed _ rfl) hlen
      exact ⟨_, m, (exec_teamReady _ _).trans (congrArg _ (evTeamReady_placesUnder hr hl hst hc hready hvt)), hteams, hkey, hml, hnum, hcore,
        hcrews, hsize, hmvt, hret, hlaunch, hthreads, hscratch, hmem, nofun⟩
    · obtain ⟨m, hteams, hkey, hml, hnum, hcore, hcrews, hsize, hmvt, hret, hlaunch, hthreads, hscratch, hmem, htag⟩ :=
        placeTeam_places (u := newTag v l.id (some s.disp.nextTeam) none (joinDie (topOf s l.id) (dieOf core) s)) (core := core) (vt := some v)
          hk (harmed _ rfl) hlen
      refine ⟨_, m, (exec_teamReady _ _).trans (congrArg _ (evTeamReady_placesTagged hr hl hst hc hready hvt hfree hpick)), hteams, hkey, hml,
        hnum, hcore, hcrews, hsize, hmvt, hret, hlaunch, hthreads, hscratch, hmem, fun x hx => ?_⟩
      obtain rfl := Option.some.inj hx
      exact ⟨_, (htag v).trans (tabFind_put_same _ _ _), rfl, rfl, rfl⟩
    · exact (exec_teamReady _ _).trans (congrArg _ (evTeamReady_scarce hr hl hst hc hready hvt hfree))
  · intro ends x late hangs settled
    have hends {t : State} {i : Instr} {c : Nat} (hi : exec i s = .next t) (h : AbortedWith id c t) : ends i c := by
      obtain ⟨⟨k, hk, hphase, hc⟩, hteams⟩ := h
      exact ⟨t, k, hi, hk, hphase, hc, hteams⟩
    refine ⟨fun ha hcmd hpin => ⟨fun hlate hno => ?_, fun hdue hset hmap => ⟨?_, fun hlate => ?_⟩, fun hdue hset hmap hsp hw => ?_⟩,
      fun h => ?_, fun h => ?_⟩
    · have hz := frozen_of_no_cause hcmd hpin
      have hnot : hangDue s id = false := by
        rw [← Bool.not_eq_true, hangDue_iff hl hp ha]
        exact hno
      have hev := evDeadline_due hl hp ha hz hlate.1 hlate.2
      rw [evHang_notDue hnot] at hev
      exact hends ((exec_deadline id s).trans (congrArg _ hev)) (abortedWith_abortLaunch hl hcause ha _ _)
    · exact hends rfl (abortedWith_evHang hl hcause ha ((hangDue_iff hl hp ha).mpr hdue) hset hmap)
    · have hev := evDeadline_due hl hp ha (frozen_of_no_cause hcmd hpin) hlate.1 hlate.2
      exact hends ((exec_deadline id s).trans (congrArg _ hev))
          ((abortedWith_evHang hl hcause ha ((hangDue_iff hl hp ha).mpr hdue) hset hmap).abortLaunch (by decide) _ _)
    · obtain ⟨habort, herr⟩ := evHang_perm hl hcause ha ((hangDue_iff hl hp ha).mpr hdue) hset hmap hsp hw
      exact ⟨hends rfl habort, _, rfl, herr⟩
    · exact (exec_deadline id s).trans (congrArg _ (evDeadline_idle hl hcause h))
    · exact (exec_hang id s).trans (congrArg _ (evHang_notDue (hangDue_idle hl h)))

end

/-! ## What a cause of R163 leaves of the launch that it reaches first (R125, R163, R164) -/

namespace Sys2Proof.Machine

/-- A launch without descendants that no cause has reached, with an ACTIVE tag of its own. -/
structure Untouched (s : State) (id v : Nat) (l : Launch) (g : VTag) : Prop where
  launch : launch? s id = some l
  own : l.vt = some v
  tag : tag? s v = some g
  holder : g.launch = id
  active : g.st = .active
  cause : l.cause = none
  alone : descendants s id = []

/-- What stands of that launch once a cause has ended it: its record with the cause and the report, its tag, its teams, and the low bits
of the completion word that it will have (R91). -/
def EndedWith (id v : Nat) (l : Launch) (code : Nat) (rep : Option Report) (t : State) : Prop :=
  ∃ k h, launch? t id = some k ∧ k.phase = .aborted ∧ k.cause = some code ∧
    k.report = rep ∧ k.ran = l.ran ∧ tag? t v = some h ∧ h.st = .aborting ∧ h.cause = code ∧ (∀ m ∈ t.teams, m.launch = id → m.retired = true) ∧
    doneWord k % 2 ^ 15 = code + (if k.tern then 2 ^ 8 else 0) + (if lrTeamGran k.raw = true ∧ 0 < k.teamCommits then 2 ^ 9 else 0)

/-- The low bits of a completion word with a cause. -/
theorem doneWord_low {k : Launch} {code : Nat} (hk : k.cause = some code) (hc : code < 2 ^ 8) :
    doneWord k % 2 ^ 15 = code + (if k.tern then 2 ^ 8 else 0) + (if lrTeamGran k.raw = true ∧ 0 < k.teamCommits then 2 ^ 9 else 0) := by
  have hbit (b : Bool) (i : Nat) : boolBit b i = if b then 2 ^ i else 0 := by cases b <;> simp [boolBit]
  have hgran : (lrTeamGran k.raw && k.cause.isSome && decide (0 < k.teamCommits)) = true ↔ lrTeamGran k.raw = true ∧ 0 < k.teamCommits := by
    simp [hk]
  unfold doneWord
  rw [hk, hbit, hbit, Option.getD_some]
  simp only [← hk, hgran]
  generalize lrCookie k.raw % 2 ^ 32 = cookie
  split <;> split <;> omega

theorem stamped_of_none {l : Launch} (h : l.cause = none) (cause causeAt vt : Nat) (rep : Option Report) :
    stamped cause causeAt vt rep l =
      { l with cause := some cause, causeAt := causeAt, causeVt := vt, report := rep, phase := .aborted, fault := none } := by
  unfold stamped
  rw [h]

section
variable {s t : State} {id v : Nat} {l : Launch} {g : VTag}

theorem Untouched.isActive (h : Untouched s id v l g) : topActive s l = true := by
  have hid := launch?_id h.launch
  unfold topActive
  simp [h.own, h.tag, h.active, h.holder, hid]

/-- A launch stays untouched where launches and tags stay. -/
theorem Untouched.congr (h : Untouched s id v l g) (hl : t.launches = s.launches) (ht : t.skim.tags = s.skim.tags) : Untouched t id v l g where
  launch := (launch?_congr hl id).trans h.launch
  own := h.own
  tag := by unfold tag?; rw [ht]; exact h.tag
  holder := h.holder
  active := h.active
  cause := h.cause
  alone := by
    have hgo (k : Nat) (ids : List Nat) : descendants.go t k ids = descendants.go s k ids := by
      induction k generalizing ids with
      | zero => rfl
      | succ k ih => rw [descendants_go_succ, descendants_go_succ, hl, ih]
    exact (hgo 11 [id]).trans h.alone

/-- The abort of such a launch leaves it as R125, R163 and R164 say. -/
theorem Untouched.aborted (h : Untouched s id v l g) {code : Nat} (hcode : code < 2 ^ 8) (byRelative : Bool) (rep : Option Report) :
    EndedWith id v l code rep (abortLaunch id code byRelative rep s) := by
  have hlive : v ∈ liveTags s l code byRelative := by
    refine List.mem_filter.mpr ⟨?_, by simp [tagIn, h.tag, h.active]⟩
    simp [endTags, h.own, h.tag, h.holder, launch?_id h.launch]
  obtain ⟨-, hteams⟩ := abortedWith_abortLaunch (cause := code) h.launch h.cause h.isActive byRelative rep
  rw [abortLaunch_of_topActive h.launch h.cause h.isActive, h.alone] at hteams ⊢
  obtain ⟨k, at_, hk, he⟩ := launch?_strike code (namedTag s l) rep (liveTags s l code byRelative) h.launch
  rw [stamped_of_none h.cause] at he
  have hcause : k.cause = some code := congrArg Launch.cause he
  have htag := tag?_strike id code (namedTag s l) rep (liveTags s l code byRelative) s v
  rw [if_pos hlive, h.tag] at htag
  exact ⟨k, _, hk, (congrArg Launch.phase he :), hcause, (congrArg Launch.report he :), (congrArg Launch.ran he :), htag, rfl, rfl,
    hteams, doneWord_low hcause hcode⟩

theorem Untouched.abortedVt (h : Untouched s id v l g) {code : Nat} (hcode : code < 2 ^ 8) (rep : Option Report) :
    EndedWith id v l code rep (abortVt v code false rep s) := by
  unfold abortVt
  rw [h.tag]
  dsimp only
  rw [if_pos (by simp [abortable, h.tag, h.active]), h.holder]
  exact h.aborted hcode _ _

/-! ### The three ways to end a launch on a node's account (R163, R164) -/

variable {f : Firing}

theorem Untouched.trapped (h : Untouched s id v l g) (hf : f.launch = id) {code : Nat} (hcode : code < 2 ^ 8) (x : Nat) :
    EndedWith id v l code (some (nodeReport s f true x)) (trap f code x s) := by
  unfold trap
  rw [hf]
  exact h.aborted hcode _ _

theorem Untouched.trappedNode (h : Untouched s id v l g) (hf : f.launch = id) {code : Nat} (hcode : code < 2 ^ 8) :
    EndedWith id v l code (some (nodeReport s f false 0)) (trapNode f code s) := by
  unfold trapNode
  rw [hf]
  exact h.aborted hcode _ _

theorem Untouched.abortedOf (h : Untouched s id v l g) (hf : f.launch = id) {code : Nat} (hcode : code < 2 ^ 8) :
    EndedWith id v l code none (abortOf f code s) := by
  unfold abortOf
  rw [hf]
  exact h.aborted hcode _ _

/-- The report of PAGE and PERM: the address alone (R164). -/
def addressReport (s : State) (l : Launch) (f : Firing) (va : Nat) : Report :=
  { emptyReport l.depth ((vtOfFiring s f).getD 0) with addrValid := true, addr := BitVec.ofNat 64 (va % 2 ^ 54) }

theorem Untouched.faulted (h : Untouched s id v l g) (hf : f.launch = id) (kind reason va : Nat) :
    EndedWith id v l (if reason = 1 ∨ reason = 3 then 0x02 else 0x01) (some (addressReport s l f va)) (fatalOf f kind reason va s) := by
  unfold fatalOf
  rw [hf, h.launch]
  dsimp only
  obtain ⟨hl, -, ht, -, -⟩ := fatalFault_same
    { key := 0, id := none, space := l.space, va := va, kind := kind, reason := reason,
      vt := ((thread? s f.thread).bind (fun t => vtOf s id t.team)).getD 0, core := f.core, cookie := BitVec.ofNat 64 (lrCookie l.raw) } s
  have hrep : addressReport s l f va =
      { emptyReport l.depth (((thread? s f.thread).bind (fun t => vtOf s id t.team)).getD 0) with
        addrValid := true, addr := BitVec.ofNat 64 (va % 2 ^ 54) } := by
    unfold addressReport vtOfFiring
    rw [hf]
  rw [hrep]
  exact (h.congr hl ht).aborted (by split <;> decide) _ _

end

end Sys2Proof.Machine

/-! ## Causes that nodes raise as they fire (R163, R295, R301, R402, R403) -/

namespace Sys2Proof.Machine

section
variable {s : State} {f : Firing} {n : Node}

theorem execTrap_fires (h : Fires s f [opd64 n.a] []) : execTrap n s = .next (trap f 0x14 (opVal s f n (opd64 n.a)) (fired s)) :=
  runNode_fires h

theorem execAbort_fires (h : Fires s f [opd64 n.a] []) : execAbort n s = .next (trap f 0x16 (opVal s f n (opd64 n.a)) (fired s)) :=
  runNode_fires h

/-- An ASSERT whose condition does not hold traps with its operand B (R403). -/
theorem execAssert_fails (h : Fires s f [condOpd n.a, opd64 n.b] []) (hc : opVal s f n (condOpd n.a) % 2 = 0) :
    execAssert n s = .next (trap f 0x13 (opVal s f n (opd64 n.b)) (fired s)) := by
  refine (runNode_fires h).trans (congrArg _ (if_neg ?_))
  simpa using hc

/-- An unassigned word in the handler block (R163). -/
theorem execUndef_inHandler {w : NodeWord} (hcur : s.cur = some f) (hh : isHandler s f.launch f.block = true) :
    execUndef w s = .next (trapNode f 0x05 (fired s)) := by
  unfold execUndef
  rw [hcur]
  exact congrArg _ (if_pos hh)

/-! ### Call words and targets (R295, R301) -/

/-- A target that names a block of the image which is not its handler block. -/
def blockOk (m : Image) (t : Nat) : Prop := t < m.blocks.length ∧ ¬(m.emulate = true ∧ m.emuh = t)

theorem targetOk_iff (m : Image) (t : Nat) : targetOk m t = true ↔ t = 65535 ∨ blockOk m t := by
  unfold targetOk blockOk
  simp only [Bool.or_eq_true, beq_iff_eq, Bool.and_eq_true, decide_eq_true_eq, Bool.not_eq_true', Bool.and_eq_false_iff, beq_eq_false_iff_ne,
    ne_eq, not_and_or, Bool.not_eq_true]

theorem callOk_iff {m : Image} {word : Nat} (hw : word < 2 ^ 32) :
    callOk m word = true ↔
      word % 65536 ≠ 65535 ∧ blockOk m (word % 65536) ∧ (word / 65536 = 65535 ∨ blockOk m (word / 65536)) := by
  have hhigh : word / 65536 % 65536 = word / 65536 := Nat.mod_eq_of_lt (by omega)
  unfold callOk
  rw [hhigh, Bool.and_eq_true, Bool.and_eq_true, targetOk_iff, targetOk_iff, bne_iff_ne, and_assoc]
  constructor
  · rintro ⟨hne, hlow | hlow, hup⟩
    · exact absurd hlow hne
    · exact ⟨hne, hlow, hup⟩
  · rintro ⟨hne, hlow, hup⟩
    exact ⟨hne, .inr hlow, hup⟩

theorem opVal_opd32_lt (s : State) (f : Firing) (n : Node) (src : Src) : opVal s f n (opd32 src) < 2 ^ 32 :=
  Nat.mod_lt _ (by decide)

theorem execCall_fires {k : Fin 32} (h : FiresOut s f [opd32 n.b] []) :
    execCall n k s = .next (callTo (.call n k) f (k.val + 1) (opVal s f n (opd32 n.b)) (fired s)) := by
  unfold execCall
  rw [unlessHandler_out h.1.1 h.2]
  exact runNode_fires h.1

theorem execCalli_fires {k : Fin 32} (h : FiresOut s f [opd32 n.b] []) :
    execCalli n k s = .next (callTo (.calli n k) f (k.val + 1) (opVal s f n (opd32 n.b)) (fired s)) := by
  unfold execCalli
  rw [unlessHandler_out h.1.1 h.2]
  exact runNode_fires h.1

theorem execExit_fires (h : FiresOut s f [opd32 n.b] []) :
    execExit n s = .next (departTo f (opVal s f n (opd32 n.b)) (fpOf (fired s) f.thread) (fired s)) := by
  unfold execExit
  rw [unlessHandler_out h.1.1 h.2]
  exact runNode_fires h.1

/-- A word that names no callable block ends the launch with FORMAT (R301). -/
theorem callTo_bad {i : Instr} {k word : Nat} {m : Image} (him : imageOf s f.launch = some m) (hw : callOk m word = false) :
    callTo i f k word s = abortOf f 0x06 s := by
  unfold callTo
  rw [him]
  exact if_pos (by rw [hw]; rfl)

/-- A call past the stack's end traps (R188, R301). -/
theorem callTo_deep {i : Instr} {k word : Nat} {m : Image} (him : imageOf s f.launch = some m) (hw : callOk m word = true)
    (ht : windowTop s f.launch < fpOf s f.thread + k + 32) : callTo i f k word s = trapNode f 0x10 s := by
  unfold callTo
  rw [him]
  dsimp only
  rw [if_neg (by rw [hw]; decide), if_pos ht]

theorem departTo_bad {target fp : Nat} {m : Image} (him : imageOf s f.launch = some m) (ht : targetOk m target = false) :
    departTo f target fp s = abortOf f 0x06 s := by
  unfold departTo
  rw [him]
  exact if_neg (by rw [ht]; decide)

end

end Sys2Proof.Machine

/-! ## Causes that accesses raise as they perform (R163, R372 to R401) -/

namespace Sys2Proof.Machine

section
variable {s t : State} {a : Access}

theorem attempt_inFlight (h : InFlight s a) : attempt a.id s = settle a.id (perform a s) := by
  obtain ⟨hfind, hst, hport, harray, hforce, horder⟩ := h
  unfold attempt
  rw [hfind]
  dsimp only
  rw [hst, hport, harray, hforce, horder]
  rfl

/-- An access that ends its launch leaves what its performance leaves. -/
theorem attempt_gone (h : InFlight s a) (hp : perform a s = (.gone, t)) : attempt a.id s = t := by
  rw [attempt_inFlight h, hp]
  rfl

/-! ### Alignment (R372, R377, R378) -/

/-- The accesses that R372 wants aligned to their type. -/
def alignedForms (n : Node) (sp : Sp) (m : MemFlags) : List Instr :=
  [.ld n sp m, .ldu n sp, .iread n sp, .st n sp m, .stu n sp, .iwrite n sp, .aadd n sp m, .afadd n sp m, .amin n sp m, .amax n sp m,
    .aand n sp m, .aor n sp m, .axor n sp m, .axchg n sp m, .acas n sp m, .ainc n sp m, .adec n sp m]

section
variable {sp : Sp} {n : Nat}

theorem doLoad_misaligned (h : a.a.toNat % 2 ^ 64 % n ≠ 0) : doLoad a sp n s = (.gone, trap a.f 0x03 (a.a.toNat % 2 ^ 64) s) := by
  unfold doLoad loadFrom
  dsimp only
  rw [if_pos h]
  rfl

theorem doStore_misaligned (h : a.a.toNat % 2 ^ 64 % n ≠ 0) : doStore a sp n s = (.gone, trap a.f 0x03 (a.a.toNat % 2 ^ 64) s) := by
  unfold doStore
  dsimp only
  rw [if_pos h]
  rfl

theorem doIwrite_misaligned (h : a.a.toNat % 2 ^ 64 % n ≠ 0) : doIwrite a sp n s = (.gone, trap a.f 0x03 (a.a.toNat % 2 ^ 64) s) := by
  unfold doIwrite
  dsimp only
  rw [if_pos h]
  rfl

theorem doAtomic_misaligned {m : MemFlags} {g : Nat → Nat} (h : a.a.toNat % 2 ^ 64 % n ≠ 0) :
    doAtomic a sp m n g s = (.gone, trap a.f 0x03 (a.a.toNat % 2 ^ 64) s) := by
  unfold doAtomic
  dsimp only
  rw [if_pos h]
  rfl

end

/-- Each of them traps at an address that is not a multiple of its size. -/
theorem perform_misaligned {n : Node} {sp : Sp} {m : MemFlags} (hi : a.i ∈ alignedForms n sp m)
    (h : a.a.toNat % 2 ^ 64 % (tyBits n.ty / 8) ≠ 0) : perform a s = (.gone, trap a.f 0x03 (a.a.toNat % 2 ^ 64) s) := by
  simp only [alignedForms, List.mem_cons, List.not_mem_nil, or_false] at hi
  rcases hi with hi | hi | hi | hi | hi | hi | hi | hi | hi | hi | hi | hi | hi | hi | hi | hi | hi <;>
    simp only [perform, hi, nodeBytes, doLoad_misaligned h, doStore_misaligned h, doIwrite_misaligned h, doAtomic_misaligned h]

/-! ### Translation (R72, R80, R31) -/

section
variable {f : Firing} {kind va : Nat} {need : Need} {l : Launch}

/-- A page that is not mapped or may not be written, while faults do not park, ends the launch. -/
theorem reach_park {r : Nat} (hl : launch? s f.launch = some l) (hfq : s.xlat.fqEnable = false)
    (ht : translate s f.core l.space va need = .park r) : reach f kind va need s = stop .gone (fatalOf f kind r va s) := by
  unfold reach
  rw [hl]
  dsimp only
  rw [ht]
  exact if_neg (by rw [hfq]; decide)

theorem reach_page (hl : launch? s f.launch = some l) (ht : translate s f.core l.space va need = .page) :
    reach f kind va need s = stop .gone (fatalOf f kind 2 va s) := by
  unfold reach
  rw [hl]
  dsimp only
  rw [ht]

theorem reach_perm (hl : launch? s f.launch = some l) (ht : translate s f.core l.space va need = .perm) :
    reach f kind va need s = stop .gone (fatalOf f kind 3 va s) := by
  unfold reach
  rw [hl]
  dsimp only
  rw [ht]

theorem reach_link (hl : launch? s f.launch = some l) (ht : translate s f.core l.space va need = .link) :
    reach f kind va need s = stop .gone (abortOf f 0x15 s) := by
  unfold reach
  rw [hl]
  dsimp only
  rw [ht]

theorem reach_ok {pa p lvl : Nat} (hl : launch? s f.launch = some l) (ht : translate s f.core l.space va need = .ok pa p lvl) :
    reach f kind va need s = good (pa, p) (fillTlb f.core l.space va s) := by
  unfold reach
  rw [hl]
  dsimp only
  rw [ht]

end

/-- A translation that enters the core's caches leaves the launches, the teams and the Skim. -/
theorem fillTlb_same (core sp va : Nat) (s : State) :
    (fillTlb core sp va s).launches = s.launches ∧ (fillTlb core sp va s).threads = s.threads ∧ (fillTlb core sp va s).teams = s.teams ∧
      (fillTlb core sp va s).skim = s.skim := by
  unfold fillTlb
  split
  · exact ⟨rfl, rfl, rfl, rfl⟩
  split <;> exact ⟨rfl, rfl, rfl, rfl⟩

/-! ### Loads of .G (R374, R29) -/

/-- An aligned load of .G performs as its read of memory goes. -/
theorem perform_ldG {n : Node} {m : MemFlags} (hi : a.i = .ld n .g m) (ha : a.a.toNat % 2 ^ 64 % (tyBits n.ty / 8) = 0) {u : State}
    (hload : loadG a.f 0 false (a.a.toNat % 2 ^ 64) (tyBits n.ty / 8) s = stop .gone u) : perform a s = (.gone, u) := by
  unfold perform
  rw [hi]
  unfold doLoad loadFrom nodeBytes
  dsimp only
  rw [if_neg (not_not.mpr ha), hload]
  rfl

theorem loadG_stop {f : Firing} {kind va n : Nat} {home : Bool} {u : State} (h : reach f kind va .read s = stop .gone u) :
    loadG f kind home va n s = stop .gone u := by
  unfold loadG
  rw [h]
  rfl

/-- A read of an open page of the device meets an uncorrectable error. -/
theorem loadG_ue {f : Firing} {kind va n pa p lvl : Nat} {l : Launch} {e : Nat × Nat × Nat} (hl : launch? s f.launch = some l)
    (ht : translate s f.core l.space va .read = .ok pa p lvl) (ho : pteOpen p = true) (hpa : pa < 2 ^ 51)
    (hbad : badSeen (fillTlb f.core l.space va s) (dieOf f.core) pa n = some e) :
    loadG f kind false va n s = stop .gone (memUe f e (fillTlb f.core l.space va s)) := by
  unfold loadG
  rw [reach_ok hl ht]
  dsimp only [thenDo, good]
  rw [if_neg (Nat.not_le.mpr hpa), if_pos ho]
  simp only [Bool.false_eq_true, if_false, hbad]

/-- With no shadow lines an uncorrectable error reaches the launch alone. -/
theorem memUe_alone {f : Firing} {e : Nat × Nat × Nat} (h : s.skim.lines = []) :
    memUe f e s = abortLaunch f.launch 0x0E false none (logUe e.2.1 e.2.2 (32 * e.1) s) := by
  have hnone : ueHolder s (vtOfFiring s f) e = none := by
    unfold ueHolder
    rw [h]
    simp
  unfold memUe ueAbort
  dsimp only
  rw [hnone]

theorem logUe_same (source die pa : Nat) (s : State) :
    (logUe source die pa s).launches = s.launches ∧ (logUe source die pa s).skim = s.skim := by
  unfold logUe raiseAlert
  rw [setAlerts_eq]
  exact ⟨rfl, rfl⟩

/-! ### Stores of .G (R114, R115, R375) -/

theorem perform_stG {n : Node} {m : MemFlags} (hi : a.i = .st n .g m) (hrel : m.rel = false)
    (ha : a.a.toNat % 2 ^ 64 % (tyBits n.ty / 8) = 0) {u : State}
    (hstore : storeG a.f 1 false (a.a.toNat % 2 ^ 64) (toBytes (tyBits n.ty / 8) a.b.toNat) s = stop .gone u) :
    perform a s = (.gone, u) := by
  have hfor : releaseFor a s = s := by
    unfold releaseFor releases scCompanion relScope
    rw [hi]
    simp [hrel]
  unfold perform
  rw [hi]
  unfold doStore nodeBytes
  dsimp only
  rw [if_neg (not_not.mpr ha), hfor, hstore]
  rfl

theorem storeG_stop {f : Firing} {kind va : Nat} {home : Bool} {data : List Byte} {u : State} (h : reach f kind va .write s = stop .gone u) :
    storeG f kind home va data s = stop .gone u := by
  unfold storeG
  rw [h]
  rfl

/-- A store to a page that is not open, of which the Skim takes no further writer. -/
theorem storeG_refused {f : Firing} {kind va pa p lvl v : Nat} {l : Launch} {data : List Byte} {u : State} (hl : launch? s f.launch = some l)
    (ht : translate s f.core l.space va .write = .ok pa p lvl) (ho : pteOpen p = false) (hpa : pa < 2 ^ 51)
    (hv : vtOfFiring (fillTlb f.core l.space va s) f = some v)
    (hadd : addWriter v (unitOf pa p) (fillTlb f.core l.space va s) = (.gone, u)) : storeG f kind false va data s = stop .gone u := by
  unfold storeG
  rw [reach_ok hl ht]
  dsimp only [thenDo, good]
  rw [if_neg (Nat.not_le.mpr hpa), if_neg (by rw [ho]; decide)]
  unfold shadowWrite
  rw [hv]
  dsimp only
  rw [hadd]
  rfl

/-- A unit with four writers takes no fifth (R115). -/
theorem addWriter_conflict {v : Nat} {u : Nat × Nat} {e : SkimEntry} (hheld : unitHeld s v u = false)
    (he : s.skim.entries.find? (fun e => e.unit_ == u.1 && e.len == u.2) = some e) (hw : v ∉ e.writers) (h4 : 4 ≤ e.writers.length) :
    addWriter v u s = (.gone, abortVt v 0x09 false none s) := by
  unfold addWriter entry?
  rw [if_neg (by rw [hheld]; decide), he]
  dsimp only
  rw [if_neg (by simpa using hw), if_pos h4]

/-- A new entry for which its home has no room (R114). -/
theorem addWriter_full {v : Nat} {u : Nat × Nat} (hheld : unitHeld s v u = false)
    (he : s.skim.entries.find? (fun e => e.unit_ == u.1 && e.len == u.2) = none) (hroom : makeEntryRoom v u.1 s = (false, s)) :
    addWriter v u s = (.gone, abortVt v 0x08 false none s) := by
  unfold addWriter entry?
  rw [if_neg (by rw [hheld]; decide), he]
  dsimp only
  rw [hroom]

theorem unitHeld_congr (h : t.skim = s.skim) (v : Nat) (u : Nat × Nat) : unitHeld t v u = unitHeld s v u := by
  unfold unitHeld entry?
  rw [h]

theorem vtOfFiring_congr (hl : t.launches = s.launches) (hth : t.threads = s.threads) (ht : t.teams = s.teams) (f : Firing) :
    vtOfFiring t f = vtOfFiring s f := by
  unfold vtOfFiring thread? vtOf team?
  rw [hth, ht, launch?_congr hl]

/-! ### A peer that is gone (R201, R416) -/

theorem perform_ldP_gone {n : Node} {m : MemFlags} {tm : Team} {im : Image} (hi : a.i = .ld n .p m)
    (ha : a.a.toNat % 2 ^ 64 % (tyBits n.ty / 8) = 0) (htm : teamOf s a.f = some tm) (him : imageOf s a.f.launch = some im)
    (hva : a.a.toNat % 2 ^ 64 < 2 ^ 52) (hin : a.a.toNat % 2 ^ 64 % 2 ^ 20 + tyBits n.ty / 8 ≤ im.scratch)
    (hother : a.a.toNat % 2 ^ 64 / 2 ^ 20 ≠ tm.num)
    (hgone : ∀ x, s.teams.find? (fun x => x.launch == a.f.launch && x.num == a.a.toNat % 2 ^ 64 / 2 ^ 20) = some x →
      x.retired = true ∨ x.core / 4 ≠ tm.core / 4) : perform a s = (.gone, trap a.f 0x07 (a.a.toNat % 2 ^ 64) s) := by
  generalize hx : a.a.toNat % 2 ^ 64 = va at *
  have hnum : va / 2 ^ 20 % 2 ^ 32 = va / 2 ^ 20 := Nat.mod_eq_of_lt (by omega)
  have hpad : padOf a.f 0 .p va (tyBits n.ty / 8) s = stop .gone (trap a.f 0x07 va s) := by
    unfold padOf
    rw [htm, him]
    dsimp only [Option.map_some, Option.getD_some]
    rw [hnum, if_neg (by decide), if_neg (by omega), if_neg hother]
    split
    next x hfind =>
      refine if_pos ?_
      rcases hgone x hfind with hr | hc
      · simp [hr]
      · simp [clusterOf, hc]
    next => rfl
  unfold perform
  rw [hi]
  unfold doLoad loadFrom nodeBytes
  dsimp only
  rw [hx, if_neg (not_not.mpr ha), hpad]
  rfl

/-! ### Child launches and the network (R395 to R401) -/

theorem perform_launch_deep {n : Node} {l : Launch} {tm : Team} (hi : a.i = .launch n) (hl : launch? s a.f.launch = some l)
    (htm : teamOf s a.f = some tm) (hp : l.phase = .running) (hd : l.depth = 10) : perform a s = (.gone, trapNode a.f 0x11 s) := by
  unfold perform
  rw [hi]
  unfold doLaunch
  dsimp only
  rw [hl, htm]
  dsimp only
  rw [hp, if_neg (by decide), if_pos hd]

theorem perform_lwait_bad {n : Node} {tm : Team} (hi : a.i = .lwait n) (htm : teamOf s a.f = some tm)
    (hc : tm.children.length ≤ a.a.toNat % 2 ^ 64) : perform a s = (.gone, abortOf a.f 0x06 s) := by
  unfold perform
  rw [hi]
  unfold doLwait
  dsimp only
  rw [htm]
  exact if_pos hc

/-- An NSEND or NRECV whose connection table the companion does not answer for. -/
theorem perform_net_cut {n : Node} {u : Bool} (hi : a.i = .nsend n u ∨ a.i = .nrecv n u)
    (hc : entryCut s (spaceOf s a.f) (a.c.toNat % 2 ^ 64) = true) : perform a s = (.gone, abortOf a.f 0x15 s) := by
  unfold perform
  rcases hi with hi | hi
  · rw [hi]
    exact if_pos hc
  · rw [hi]
    exact if_pos hc

/-- One that names no usable connection, or more than 16 MiB. -/
theorem perform_net_bad {n : Node} {u : Bool} (hi : a.i = .nsend n u ∨ a.i = .nrecv n u)
    (hc : entryCut s (spaceOf s a.f) (a.c.toNat % 2 ^ 64) = false) (hue : entryUe s (spaceOf s a.f) (a.c.toNat % 2 ^ 64) = none)
    (hbad : handleOf s (spaceOf s a.f) (a.c.toNat % 2 ^ 64) = none ∨ 16777216 < a.b.toNat % 2 ^ 64) :
    perform a s = (.gone, abortOf a.f 0x06 s) := by
  have hsend : doNsend a s = (.gone, abortOf a.f 0x06 s) := by
    unfold doNsend
    dsimp only
    rw [if_neg (by rw [hc]; decide), hue]
    cases hh : handleOf s (spaceOf s a.f) (a.c.toNat % 2 ^ 64) with
    | none => rfl
    | some x => exact if_pos (hbad.resolve_left (by rw [hh]; exact nofun))
  have hrecv : doNrecv a s = (.gone, abortOf a.f 0x06 s) := by
    unfold doNrecv
    dsimp only
    rw [if_neg (by rw [hc]; decide), hue]
    cases hh : handleOf s (spaceOf s a.f) (a.c.toNat % 2 ^ 64) with
    | none => rfl
    | some x => exact if_pos (hbad.resolve_left (by rw [hh]; exact nofun))
  unfold perform
  rcases hi with hi | hi
  · rw [hi]
    exact hsend
  · rw [hi]
    exact hrecv

end

end Sys2Proof.Machine

/-! ## Causes that events raise, and cut-overs (R48, R143 to R145, R159, R200) -/

namespace Sys2Proof.Machine

section
variable {s t : State} {id v : Nat} {l : Launch} {g : VTag}

/-- What stands of a launch rests on the launches, the tags and the teams. -/
theorem EndedWith.congr {code : Nat} {rep : Option Report} (h : EndedWith id v l code rep s) (hl : t.launches = s.launches)
    (hg : t.skim.tags = s.skim.tags) (ht : t.teams = s.teams) : EndedWith id v l code rep t := by
  unfold EndedWith tag? at h ⊢
  rw [launch?_congr hl, hg, ht]
  exact h

/-- A hang of a launch whose space has no map (R159, R160). -/
theorem Untouched.hung (h : Untouched s id v l g) (hdue : hangDue s id = true)
    (hq : ∀ a ∈ s.accesses, a.st ≠ .flight ∧ a.st ≠ .held ∧ (a.st = .blocked → a.left = [])) (hm : (space s l.space).hmSize = 0) :
    EndedWith id v l 0x0C none (evHang id s) := by
  rw [evHang_due h.launch hdue hq, occupancyMap_off hm]
  exact h.aborted (by decide) _ _

theorem Untouched.late (h : Untouched s id v l g) (hdue : hangDue s id = false) (hp : l.parent = none) (hz : frozen s = false)
    (hd : 0 < lrDeadline l.raw) (ht : 700 * lrDeadline l.raw ≤ l.deadline) : EndedWith id v l 0x0D none (evDeadline id s) := by
  rw [evDeadline_due h.launch hp h.isActive hz hd ht, evHang_notDue hdue]
  exact h.aborted (by decide) _ _

/-! ### Kills (R145) -/

/-- That a kill counts what it ends changes nothing of the launch. -/
theorem EndedWith.countedKill {code : Nat} {rep : Option Report} (h : EndedWith id v l code rep s) (p : Bool) (d : Disp) :
    EndedWith id v l code rep (if p then { s with disp := d } else s) := by
  cases p
  · exact h
  · exact h.congr rfl rfl rfl

/-- A kill of a record whose launch runs. -/
theorem Untouched.killed {q index : Nat} (h : Untouched s id v l g) (hdue : hangDue s id = false) (hp : l.parent = none)
    (hw : (queue s q).waiting.find? (·.index == index) = none)
    (hfind : s.launches.find? (fun l => l.queue == q && l.index == index && l.parent.isNone) = some l) :
    EndedWith id v l 0x17 none (killRecord q index s) := by
  have hid := launch?_id h.launch
  have hended := h.aborted (code := 0x17) (by decide) false none
  unfold killRecord
  rw [hw, hfind]
  dsimp only
  rw [hid, hangFirst_top h.launch hp, evHang_notDue hdue]
  exact hended.countedKill _ _

/-- KILL reaches the record that its registers name. -/
theorem execKill_eq {d : Word32} (hb : s.disp.killBusy = false) (hf : s.boot.failed = false) (hz : frozen s = false) :
    execKill d s = .next (killRecord (d.setWidth 6 : BitVec 6).toNat (s.disp.killHi.toNat * 2 ^ 32 + s.disp.killLo.toNat)
      { s with disp := { s.disp with killQ := d.setWidth 6, killAll := d.getLsbD 8, killBusy := true, killed := [] } }) := by
  unfold execKill startKill
  rw [hb, answers_of_not_failed hf, hz]
  rfl

/-- Whether a launch hangs does not rest on the dispatcher's registers. -/
theorem hangDue_withDisp (d : Disp) (s : State) (id : Nat) : hangDue { s with disp := d } id = hangDue s id := rfl

/-! ### Cluster resets (R200) -/

theorem Untouched.reset {c : Nat} (h : Untouched s id v l g) (hdue : hangDue s id = false) (hp : l.parent = none) (hc : c < 40)
    (hids : ((s.placed.filter (fun q => q.core / 4 == c && isStitched s q.launch q.block)).map (·.launch)).eraseDups = [id]) :
    EndedWith id v l 0x18 none (evClusterReset c s) := by
  unfold evClusterReset
  rw [if_neg (Nat.not_le.mpr hc), hids]
  dsimp only [List.foldl]
  rw [hangFirst_top h.launch hp, evHang_notDue hdue]
  exact (h.aborted (code := 0x18) (by decide) false none).congr rfl rfl rfl

end

/-! ### The end of a grace period (R48) -/

/-- A launch alone in the machine has no descendants. -/
theorem descendants_alone {s : State} {l : Launch} (hs : s.launches = [l]) (hp : l.parent = none) (id : Nat) : descendants s id = [] := by
  have hkids : (s.launches.filter (createdBy [id])).map (·.id) = [] := by
    rw [hs]
    simp [createdBy, hp]
  unfold descendants
  rw [descendants_go_succ, hkids]
  rfl

section
variable {s : State} {l : Launch}

/-- The record of a launch without descendants after its abort. -/
theorem launch?_abortLaunch_alone {id : Nat} (hl : launch? s id = some l) (hc : l.cause = none) (ha : topActive s l = true)
    (hd : descendants s id = []) (cause : Nat) (byRelative : Bool) (rep : Option Report) :
    ∃ k at_, launch? (abortLaunch id cause byRelative rep s) id = some k ∧ withoutStacks k = withoutStacks { l with
      cause := some cause, causeAt := at_, causeVt := namedTag s l, report := rep, phase := .aborted, fault := none } := by
  obtain ⟨k, at_, hk, he⟩ := launch?_strike cause (namedTag s l) rep (liveTags s l cause byRelative) hl
  rw [stamped_of_none hc] at he
  rw [abortLaunch_of_topActive hl hc ha, hd]
  exact ⟨k, at_, hk, he⟩

end

end Sys2Proof.Machine

namespace Sys2Proof.Machine

/-! ### Cut-overs (R48) -/

section
variable {s : State} {l : Launch}

/-- A tag in COMMITTING alone makes a launch count as one that commits. -/
theorem not_committing {k : Launch} (h : ∀ e ∈ s.skim.tags, e.2.st ≠ .committing) :
    ((endTags s k none).any fun v => (tag? s v).any (·.st == .committing)) = false := by
  refine List.any_eq_false.mpr fun v _ => ?_
  cases hg : tag? s v with
  | none => simp
  | some g => simpa using h _ (mem_of_tabFind hg)

/-- At the end of the grace period a launch that has committed a team ends for good, and any other goes back to its queue. -/
theorem cutLaunch_running (hl : launch? s l.id = some l) (hc : l.cause = none) (ha : topActive s l = true) (hd : descendants s l.id = [])
    (hdue : hangDue s l.id = false) (hg : ∀ e ∈ s.skim.tags, e.2.st ≠ .committing) :
    ∃ k, launch? (cutLaunch l.id s) l.id = some k ∧ k.phase = .aborted ∧ k.report = none ∧
      (if lrTeamGran l.raw = true ∧ 0 < l.teamCommits then k.cause = some 0x1A ∧ k.requeue = l.requeue
       else k.cause = some 0x19 ∧ k.requeue = true) := by
  unfold cutLaunch
  rw [hl]
  dsimp only
  rw [if_neg (by rw [hdue]; decide), not_committing hg, Bool.or_false]
  by_cases hteam : lrTeamGran l.raw = true ∧ 0 < l.teamCommits
  · rw [if_pos (by simpa using hteam)]
    obtain ⟨k, at_, hk, he⟩ := launch?_abortLaunch_alone hl hc ha hd 0x1A false none
    refine ⟨k, hk, (congrArg Launch.phase he :), (congrArg Launch.report he :), ?_⟩
    rw [if_pos hteam]
    exact ⟨(congrArg Launch.cause he :), (congrArg Launch.requeue he :)⟩
  · rw [if_neg (by simpa using hteam)]
    obtain ⟨k, at_, hk, he⟩ := launch?_abortLaunch_alone hl hc ha hd 0x19 false none
    have hcause : k.cause = some 0x19 := congrArg Launch.cause he
    have hrequeued : launch? (modLaunch l.id (fun k => { k with requeue := true }) (abortLaunch l.id 0x19 false none s)) l.id =
        some { k with requeue := true } := by
      rw [launch?_modLaunch (by exact fun _ => rfl), if_pos rfl, hk]
      rfl
    rw [hk]
    dsimp only
    rw [if_pos (by rw [hc, hcause]; rfl)]
    refine ⟨_, hrequeued, (congrArg Launch.phase he :), (congrArg Launch.report he :), ?_⟩
    rw [if_neg hteam]
    exact ⟨hcause, rfl⟩

/-- The end of a grace period in a machine with one launch, of the slot's space. -/
theorem evGraceExpiry_one {n at_ : Nat} (hr : ramblerRuns s = true) (h3 : (rambler s n).state = 3) (hc : (rambler s n).cutAt = some at_)
    (ht : at_ + 700 * (rambler s n).grace.toNat ≤ s.cycles) (hs : s.launches = [l]) (hsp : l.space = (rambler s n).space.toNat)
    (hp : l.parent = none) : (evGraceExpiry n s).launches = (cutLaunch l.id s).launches := by
  have hids : (s.launches.filter (fun l => l.space == (rambler s n).space.toNat && l.parent.isNone)).map (·.id) = [l.id] := by
    rw [hs]
    simp [hsp, hp]
  unfold evGraceExpiry
  dsimp only
  rw [hc, hids]
  dsimp only
  rw [if_neg]
  · rfl
  · rw [hr, h3]
    simp only [Bool.not_true, bne_self_eq_false, Bool.or_self, Bool.false_or, decide_eq_true_eq]
    omega

end

/-! ### The completion word and the abort report of a launch that has aborted (R91, R164) -/

theorem linesWf_writeSys (pa : Nat) (data : List Byte) {s : State} (hm : s.MemOk) (hl : LinesWf s) : LinesWf (writeSys pa data s) := by
  have hcomp (pa : Nat) (data : List Byte) (u : State) : (writeRun writeCompByte pa data u).skim = u.skim := by
    induction data generalizing pa u with
    | nil => rfl
    | cons b data ih =>
      refine (ih (pa + 1) (writeCompByte pa b u)).trans ?_
      unfold writeCompByte dropVerdicts
      dsimp only
      split <;> rfl
  unfold writeSys
  split
  · exact hl
  split
  · have hskim : (healWords pa data.length (writeRun writeCompByte pa data s)).skim = s.skim := hcomp pa data s
    unfold LinesWf
    rw [hskim]
    exact hl
  · exact (writeRun_homeBytes pa data hm hl).2.1

/-- A write by the system is not seen past its range. -/
theorem readHome_writeSys_other {pa q n : Nat} {data : List Byte} {s : State} (hp : pa < 2 ^ 51) (hq : q + n ≤ 2 ^ 51)
    (hd : q + n ≤ pa ∨ pa + data.length ≤ q) (hm : s.MemOk) (hl : LinesWf s) : readHome (writeSys pa data s) q n = readHome s q n := by
  refine List.map_congr_left fun i hi => ?_
  have hin := List.mem_range.mp hi
  rw [if_neg (by omega), if_neg (by omega), homeByte_writeSys data hp hm hl, written, if_neg (by omega)]

/-- The abort report of a launch, where there is one, comes before its completion word. -/
def reported (l : Launch) (s : State) : State :=
  if l.ran && l.cause.isSome && lrReport l.raw ≠ 0 then writeReport l.space (lrReport l.raw + 64) (abortReport l l.causeVt) s else s

theorem memOk_reported {l : Launch} {s : State} (hm : s.MemOk) : (reported l s).MemOk := by
  unfold reported writeReport
  split
  · split
    · split
      · exact memOk_writeSys _ _ hm
      · exact hm
    · exact hm
  · exact hm

theorem linesWf_reported {l : Launch} {s : State} (hm : s.MemOk) (hl : LinesWf s) : LinesWf (reported l s) := by
  unfold reported writeReport
  split
  · split
    · split
      · exact linesWf_writeSys _ _ hm hl
      · exact hl
    · exact hl
  · exact hl

theorem abortReport_length (l : Launch) (top : Nat) : (abortReport l top).length = 64 := by
  simp [abortReport]

/-- A report that its page takes is read there. -/
theorem readHome_reported {l : Launch} {s : State} {rp c : Nat} (hm : s.MemOk) (hl : LinesWf s) (hran : l.ran = true) (hc : l.cause = some c)
    (hr : lrReport l.raw ≠ 0) (ht : openTarget s l.space (lrReport l.raw + 64) 64 = some rp) (hp : rp + 64 ≤ 2 ^ 51) :
    readHome (reported l s) rp 64 = abortReport l l.causeVt := by
  have hread := readHome_writeSys (pa := rp) (data := abortReport l l.causeVt) (by rwa [abortReport_length]) hm hl
  unfold reported writeReport
  rw [if_pos (by simp [hran, hc, hr]), ht]
  dsimp only
  rw [reachable_of_device s (by omega), if_pos rfl]
  rwa [abortReport_length] at hread

/-- The completion word of a launch that has aborted, in an open page (R91, R231). -/
theorem evCompletionWord_aborted {s : State} {id pa p lvl : Nat} {l : Launch} (hl : launch? s id = some l) (hw : wordReady s l = true)
    (hq : l.requeue = false) (ht : translate s 160 l.space (lrDone l.raw) .devWrite = .ok pa p lvl)
    (ho : pteOpen p = true) (hs : pteSys p = false) (hp : pa < 2 ^ 51) :
    evCompletionWord id s = forgetLaunch id (writeSys pa (toBytes 8 (doneWord l)) (reported l (drainDies l.dies s))) := by
  have hpos (b : Bool) : (decide (2 ^ 51 ≤ pa) && b) = false := by rw [decide_eq_false (by omega), Bool.false_and]
  simp only [evCompletionWord, hl, hw, hq, ht, ho, hs, hpos, reachable_of_device s hp, Bool.not_true, Bool.false_and, Bool.or_self,
    Bool.false_eq_true, if_false, reported]

/-- The word of a launch with a cause (R91). -/
theorem doneWord_aborted {l : Launch} {c : Nat} (h : l.cause = some c) :
    doneWord l = c + (if l.tern then 2 ^ 8 else 0) + (if lrTeamGran l.raw = true ∧ 0 < l.teamCommits then 2 ^ 9 else 0) + 2 ^ 15 +
      2 ^ 32 * (lrCookie l.raw % 2 ^ 32) := by
  simp [doneWord, h, boolBit]

end Sys2Proof.Machine

namespace Sys2Proof.Machine

/-! ### Reports (R164) -/

/-- The report of a node, where its thread, team and launch stand. -/
theorem nodeReport_eq {s : State} {f : Firing} {l : Launch} {m : Team} {th : Thread} (hth : thread? s f.thread = some th)
    (hm : team? s th.team = some m) (hl : launch? s f.launch = some l) (x : Bool) (addr : Nat) :
    nodeReport s f x addr =
      { nodeValid := true, addrValid := x, block := f.block, node := f.node, thread := th.tid, team := m.num, depth := l.depth,
        vt := ((if l.vt.isSome then l.vt else m.vt).getD 0xFFFF), addr := BitVec.ofNat 64 addr } := by
  have hvt : vtOf s f.launch th.team = if l.vt.isSome then l.vt else m.vt := by
    unfold vtOf
    rw [hl]
    dsimp only
    split
    next v hv => rw [hv]; rfl
    next hv => rw [hv, hm]; rfl
  unfold nodeReport
  rw [hth, hl]
  dsimp only
  rw [hm, hvt]
  rfl

theorem execClusterReset_runs {s : State} {c : Nat} (hz : frozen s = false) : exec (.clusterReset c) s = .next (evClusterReset c s) := by
  show (.next (if frozen s then s else evClusterReset c s) : Out) = _
  simp [hz]

section
variable {s : State} {id v : Nat} {l : Launch} {g : VTag}

/-! ### The launch of a firing or an access -/

theorem Untouched.afterFiring (h : Untouched s id v l g) : Untouched (fired s) id v l g := h.congr rfl rfl

theorem Untouched.afterFill (h : Untouched s id v l g) (core sp va : Nat) : Untouched (fillTlb core sp va s) id v l g := by
  obtain ⟨hl, -, -, hskim⟩ := fillTlb_same core sp va s
  exact h.congr hl (congrArg (·.tags) hskim)

theorem Untouched.space_eq (h : Untouched s id v l g) {f : Firing} (hf : f.launch = id) : spaceOf s f = l.space := by
  unfold spaceOf
  rw [hf, h.launch]
  rfl

theorem Untouched.image_fired (h : Untouched s id v l g) {f : Firing} (hf : f.launch = id) : imageOf (fired s) f.launch = some l.image := by
  unfold imageOf
  rw [hf, h.afterFiring.launch]
  rfl

/-- An uncorrectable error under a read of such a launch, where nothing is shadowed (R29, R130). -/
theorem Untouched.memUeAborted (h : Untouched s id v l g) {f : Firing} (hf : f.launch = id) (e : Nat × Nat × Nat) (hs : s.skim.lines = []) :
    EndedWith id v l 0x0E none (memUe f e s) := by
  obtain ⟨hl, hskim⟩ := logUe_same e.2.1 e.2.2 (32 * e.1) s
  rw [memUe_alone hs, hf]
  exact (h.congr hl (congrArg (·.tags) hskim)).aborted (by decide) _ _

end

/-! ### The clauses, cause by cause -/

section
variable {s : State} {id v : Nat} {l : Launch} {g : VTag}

/-- TRAP, ABORT and ASSERT (R402, R403). -/
theorem Untouched.traps (h : Untouched s id v l g) {n : Node} {f : Firing} (hf : f.launch = id) (hfire : Fires s f [opd64 n.a] []) :
    (∃ t, exec (.trap n) s = .next t ∧ EndedWith id v l 0x14 (some (nodeReport (fired s) f true (opVal s f n (opd64 n.a)))) t) ∧
      ∃ t, exec (.abort n) s = .next t ∧ EndedWith id v l 0x16 (some (nodeReport (fired s) f true (opVal s f n (opd64 n.a)))) t :=
  ⟨⟨_, execTrap_fires hfire, h.afterFiring.trapped hf (by decide) _⟩, _, execAbort_fires hfire, h.afterFiring.trapped hf (by decide) _⟩

theorem Untouched.asserts (h : Untouched s id v l g) {n : Node} {f : Firing} (hf : f.launch = id)
    (hfire : Fires s f [condOpd n.a, opd64 n.b] []) (hc : opVal s f n (condOpd n.a) % 2 = 0) :
    ∃ t, exec (.assert_ n) s = .next t ∧ EndedWith id v l 0x13 (some (nodeReport (fired s) f true (opVal s f n (opd64 n.b)))) t :=
  ⟨_, execAssert_fails hfire hc, h.afterFiring.trapped hf (by decide) _⟩

/-- CALL and CALLI with a word that names no callable block (R301, R302). -/
theorem Untouched.calls_bad (h : Untouched s id v l g) {n : Node} {f : Firing} (k : Fin 32) (hf : f.launch = id)
    (hfire : FiresOut s f [opd32 n.b] []) (hw : callOk l.image (opVal s f n (opd32 n.b)) = false) :
    (∃ t, exec (.call n k) s = .next t ∧ EndedWith id v l 0x06 none t) ∧ ∃ t, exec (.calli n k) s = .next t ∧ EndedWith id v l 0x06 none t := by
  have hended := h.afterFiring.abortedOf (code := 0x06) hf (by decide)
  have him := h.image_fired hf
  exact ⟨⟨_, (execCall_fires hfire).trans (congrArg _ (callTo_bad him hw)), hended⟩,
    _, (execCalli_fires hfire).trans (congrArg _ (callTo_bad him hw)), hended⟩

/-- CALL and CALLI past the end of the window stack (R188, R301). -/
theorem Untouched.calls_deep (h : Untouched s id v l g) {n : Node} {f : Firing} {th : Thread} (k : Fin 32) (hf : f.launch = id)
    (hth : thread? s f.thread = some th) (hfire : FiresOut s f [opd32 n.b] []) (hw : callOk l.image (opVal s f n (opd32 n.b)) = true)
    (hd : Nat.max 64 (lrWsRows l.raw) < th.fp + (k.val + 1) + 32) :
    (∃ t, exec (.call n k) s = .next t ∧ EndedWith id v l 0x10 (some (nodeReport (fired s) f false 0)) t) ∧
      ∃ t, exec (.calli n k) s = .next t ∧ EndedWith id v l 0x10 (some (nodeReport (fired s) f false 0)) t := by
  have hended := h.afterFiring.trappedNode (code := 0x10) hf (by decide)
  have him := h.image_fired hf
  have htop : windowTop (fired s) f.launch < fpOf (fired s) f.thread + (k.val + 1) + 32 := by
    unfold windowTop fpOf
    rw [hf, h.afterFiring.launch, show thread? (fired s) f.thread = some th from hth]
    exact hd
  exact ⟨⟨_, (execCall_fires hfire).trans (congrArg _ (callTo_deep him hw htop)), hended⟩,
    _, (execCalli_fires hfire).trans (congrArg _ (callTo_deep him hw htop)), hended⟩

/-- EXIT to what is no block (R295). -/
theorem Untouched.exit_bad (h : Untouched s id v l g) {n : Node} {f : Firing} (hf : f.launch = id) (hfire : FiresOut s f [opd32 n.b] [])
    (hw : targetOk l.image (opVal s f n (opd32 n.b)) = false) : ∃ t, exec (.exit n) s = .next t ∧ EndedWith id v l 0x06 none t :=
  ⟨_, (execExit_fires hfire).trans (congrArg _ (departTo_bad (h.image_fired hf) hw)), h.afterFiring.abortedOf hf (by decide)⟩

/-! ### Accesses (R372 to R401) -/

variable {a : Access} {n : Node}

/-- A load of .G that its translation bars. -/
theorem Untouched.ldG_barred (h : Untouched s id v l g) {m : MemFlags} (hin : InFlight s a) (hf : a.f.launch = id) (hi : a.i = .ld n .g m)
    (ha : a.a.toNat % 2 ^ 64 % (tyBits n.ty / 8) = 0) (hfq : s.xlat.fqEnable = false) :
    let va := a.a.toNat % 2 ^ 64
    (translate s a.f.core l.space va .read = .park 0 ∨ translate s a.f.core l.space va .read = .page →
      EndedWith id v l 0x01 (some (addressReport s l a.f va)) (attempt a.id s)) ∧
    (translate s a.f.core l.space va .read = .perm → EndedWith id v l 0x02 (some (addressReport s l a.f va)) (attempt a.id s)) ∧
    (translate s a.f.core l.space va .read = .link → EndedWith id v l 0x15 none (attempt a.id s)) := by
  have hl : launch? s a.f.launch = some l := hf ▸ h.launch
  have hgone {u : State} (hr : reach a.f 0 (a.a.toNat % 2 ^ 64) .read s = stop .gone u) : attempt a.id s = u :=
    attempt_gone hin (perform_ldG hi ha (loadG_stop hr))
  refine ⟨fun ht => ?_, fun ht => ?_, fun ht => ?_⟩
  · rcases ht with ht | ht
    · rw [hgone (reach_park hl hfq ht)]
      exact h.faulted hf 0 0 _
    · rw [hgone (reach_page hl ht)]
      exact h.faulted hf 0 2 _
  · rw [hgone (reach_perm hl ht)]
    exact h.faulted hf 0 3 _
  · rw [hgone (reach_link hl ht)]
    exact h.abortedOf hf (by decide)

/-- A load of .G that meets an uncorrectable error. -/
theorem Untouched.ldG_ue (h : Untouched s id v l g) {m : MemFlags} {pa p lvl : Nat} {e : Nat × Nat × Nat} (hin : InFlight s a)
    (hf : a.f.launch = id) (hi : a.i = .ld n .g m) (ha : a.a.toNat % 2 ^ 64 % (tyBits n.ty / 8) = 0)
    (ht : translate s a.f.core l.space (a.a.toNat % 2 ^ 64) .read = .ok pa p lvl) (ho : pteOpen p = true) (hpa : pa < 2 ^ 51)
    (hlines : s.skim.lines = [])
    (hbad : badSeen (fillTlb a.f.core l.space (a.a.toNat % 2 ^ 64) s) (dieOf a.f.core) pa (tyBits n.ty / 8) = some e) :
    EndedWith id v l 0x0E none (attempt a.id s) := by
  have hl : launch? s a.f.launch = some l := hf ▸ h.launch
  rw [attempt_gone hin (perform_ldG hi ha (loadG_ue hl ht ho hpa hbad))]
  refine (h.afterFill _ _ _).memUeAborted hf e ?_
  rw [(fillTlb_same _ _ _ s).2.2.2]
  exact hlines

/-- A store of .G of which the Skim takes no further writer (R114, R115). -/
theorem Untouched.stG_refused (h : Untouched s id v l g) {m : MemFlags} {pa p lvl code : Nat} (hin : InFlight s a) (hf : a.f.launch = id)
    (hi : a.i = .st n .g m) (hrel : m.rel = false) (ha : a.a.toNat % 2 ^ 64 % (tyBits n.ty / 8) = 0)
    (ht : translate s a.f.core l.space (a.a.toNat % 2 ^ 64) .write = .ok pa p lvl) (ho : pteOpen p = false) (hpa : pa < 2 ^ 51)
    (hv : vtOfFiring s a.f = some v) (hcode : code < 2 ^ 8)
    (hadd : addWriter v (unitOf pa p) (fillTlb a.f.core l.space (a.a.toNat % 2 ^ 64) s) =
      (.gone, abortVt v code false none (fillTlb a.f.core l.space (a.a.toNat % 2 ^ 64) s))) :
    EndedWith id v l code none (attempt a.id s) := by
  have hl : launch? s a.f.launch = some l := hf ▸ h.launch
  obtain ⟨hlaunches, hthreads, hteams, -⟩ := fillTlb_same a.f.core l.space (a.a.toNat % 2 ^ 64) s
  have hvt := (vtOfFiring_congr hlaunches hthreads hteams a.f).trans hv
  rw [attempt_gone hin (perform_stG hi hrel ha (storeG_refused hl ht ho hpa hvt hadd))]
  exact (h.afterFill _ _ _).abortedVt hcode none

end

end Sys2Proof.Machine

section
open Sys2Proof Sys2Proof.Machine

/-- Settles O3: whatever raises the cause, what it leaves is the abort of a launch with an ACTIVE tag of its own, and the completion word
and the report are read in memory as they were written. -/
theorem causesHaveTheirCodesAndOutcomes : Obligations.CausesHaveTheirCodesAndOutcomes := by
  unfold Obligations.CausesHaveTheirCodesAndOutcomes
  refine ⟨fun s id v l g hl hv hg hgl hst hc hd => ?_, fun s f x addr l m th hth hm hl => nodeReport_eq hth hm hl x addr,
    fun s n id at_ l hn hr hcmd hpin h3 hcut ht hs hid hsp hp hc ha hdue hcommit => ?_,
    fun s id pa p lvl rp c l hrun hl hphase hcause hc hw hq ht ho hsys hpa hm hlines _ => ?_⟩
  · have h : Untouched s id v l g := ⟨hl, hv, hg, hgl, hst, hc, hd⟩
    intro ended
    refine ⟨fun n f w k im th hf hth => ?_, fun a n sp m u hin hf => ?_, fun d c hrel hfail hcmd hpin => ?_⟩
    · intro named bare ends b cond word block ok
      have hok : callOk im word = true ↔ ok := callOk_iff (opVal_opd32_lt s f n n.b)
      refine ⟨fun hfire => h.traps hf hfire, fun hfire hz => h.asserts hf hfire hz, fun hcur hh => ?_, fun hfire him => ?_⟩
      · exact ⟨_, execUndef_inHandler hcur hh, h.afterFiring.trappedNode hf (by decide)⟩
      · subst him
        refine ⟨fun hbad => ?_, fun hgood hdeep => ?_, fun hne hno => ?_⟩
        · exact h.calls_bad k hf hfire (Bool.eq_false_iff.mpr (mt hok.mp hbad))
        · exact h.calls_deep k hf hth hfire (hok.mpr hgood) hdeep
        · exact h.exit_bad hf hfire (Bool.eq_false_iff.mpr fun htarget => ((targetOk_iff _ _).mp htarget).elim hne hno)
    · intro va count size named bare address ends
      have hla : launch? s a.f.launch = some l := hf ▸ hl
      have hgone {code : Nat} {rep : Option Report} {t : State} (hp : perform a s = (.gone, t)) (he : EndedWith id v l code rep t) :
          ends code rep := by
        rw [← attempt_gone hin hp] at he
        exact he
      have hspace : spaceOf s a.f = l.space := h.space_eq hf
      refine ⟨fun hva hi => ?_, fun hi _ hva hfq => ?_, fun hi hrel _ _ hva => ⟨fun hfq hpark => ?_, fun pa p lvl ht ho hpa hvt => ?_⟩,
        fun tm im hi _ hva htm him h52 hsize hnum hpeer => ?_, fun tm hi hphase htm hdepth => ?_, fun tm hi htm hchild => ?_,
        fun hi => ⟨fun hcut => ?_, fun hcut hue hbad => ?_⟩⟩
      · exact hgone (perform_misaligned hi hva) (h.trapped hf (by decide) _)
      · obtain ⟨hpage, hperm, hlink⟩ := h.ldG_barred hin hf hi hva hfq
        exact ⟨hpage, hperm, hlink, fun pa p lvl e ht ho hpa hlines hbad => h.ldG_ue hin hf hi hva ht ho (by omega) hlines hbad⟩
      · exact hgone (perform_stG hi hrel hva (storeG_stop (reach_park hla hfq hpark))) (h.faulted hf 1 1 _)
      · intro t here hheld
        have hskim : t.skim = s.skim := (fillTlb_same a.f.core l.space va s).2.2.2
        have hfree : unitHeld t v (unitOf pa p) = false := (unitHeld_congr hskim v _).trans hheld
        have hfind : t.skim.entries.find? here = s.skim.entries.find? here := by rw [hskim]
        have hlow : pa < 2 ^ 51 := by omega
        refine ⟨fun e he hw h4 => ?_, fun he hroom => ?_⟩
        · exact h.stG_refused hin hf hi hrel hva ht ho hlow hvt (by decide) (addWriter_conflict hfree (hfind.trans he) hw h4)
        · exact h.stG_refused hin hf hi hrel hva ht ho hlow hvt (by decide) (addWriter_full hfree (hfind.trans he) hroom)
      · exact hgone (perform_ldP_gone hi hva htm him h52 hsize hnum (hf ▸ hpeer)) (h.trapped hf (by decide) _)
      · exact hgone (perform_launch_deep hi hla htm hphase hdepth) (h.trappedNode hf (by decide))
      · exact hgone (perform_lwait_bad hi htm hchild) (h.abortedOf hf (by decide))
      · exact hgone (perform_net_cut hi (hspace ▸ hcut)) (h.abortedOf hf (by decide))
      · exact hgone (perform_net_bad hi (hspace ▸ hcut) (hspace ▸ hue) (hspace ▸ hbad)) (h.abortedOf hf (by decide))
    · intro ends quiet
      have hz := frozen_of_no_cause hcmd hpin
      refine ⟨fun hdue hq hmap => ⟨_, rfl, h.hung hdue hq hmap⟩, fun hdue hp => ⟨fun hlimit hlate => ?_, fun hbusy hindex hqueue hwait hfind => ?_,
        fun hcluster hids => ?_⟩⟩
      · exact ⟨_, rfl, h.late hdue hp hz hlimit hlate⟩
      · have hstarted := (h.congr (t := { s with disp := { s.disp with
          killQ := d.setWidth 6, killAll := d.getLsbD 8, killBusy := true, killed := [] } }) rfl rfl).killed (q := l.queue) (index := l.index)
          hdue hp hwait hfind
        refine ⟨_, execKill_eq hbusy hfail hz, ?_⟩
        rw [hindex, hqueue]
        exact hstarted
      · exact ⟨_, execClusterReset_runs hz, h.reset hdue hp hcluster hids⟩
  · subst hid
    have hl : launch? s l.id = some l := by unfold launch?; rw [hs]; simp
    have hrun : ramblerRuns s = true := by
      unfold ramblerRuns
      rw [hr, frozen_of_no_cause hcmd hpin]
      rfl
    obtain ⟨k, hk, hends⟩ := cutLaunch_running hl hc ha (descendants_alone hs hp l.id) hdue hcommit
    exact ⟨_, k, rfl, (launch?_congr (evGraceExpiry_one hrun h3 hcut ht hs hsp hp) l.id).trans hk, hends⟩
  · obtain rfl := launch?_id hl
    intro word r
    have hlow : pa < 2 ^ 51 := by omega
    have hdm := memOk_drainDies (dies := l.dies) hm
    have hdl := linesWf_drainDies (dies := l.dies) hm (linesWf_of_none hlines)
    have hrm := memOk_reported (l := l) hdm
    have hrl := linesWf_reported (l := l) hdm hdl
    have hword : doneWord l = word := doneWord_aborted hcause
    have hbytes := readHome_writeSys (pa := pa) (data := toBytes 8 word) (by rwa [toBytes_length]) hrm hrl
    rw [toBytes_length] at hbytes
    have hgo := evCompletionWord_aborted hl hw hq ht ho hsys hlow
    rw [hword] at hgo
    refine ⟨_, (whileRunning_runs hrun _).trans (congrArg _ hgo), launch?_forgetLaunch_same l.id _, ?_, fun hran hrep htarget hrp hdis => ?_⟩
    · refine (congrArg ofBytes hbytes).trans ?_
      rw [ofBytes_toBytes]
      refine Nat.mod_eq_of_lt ?_
      dsimp only [word]
      split <;> split <;> omega
    · have hother := readHome_writeSys_other (pa := pa) (q := rp) (n := 64) (data := toBytes 8 word) hlow hrp (by rwa [toBytes_length]) hrm hrl
      refine (hother.trans (readHome_reported hdm hdl hran hcause hrep htarget hrp)).trans ?_
      unfold abortReport
      rw [hcause]
      rfl

end

/-! ## A gather whose number is another access's too (R214, R367, R369) -/

namespace Sys2Proof.Machine

/-- A node of eight 32-bit lanes. -/
def gatherNode : Node :=
  { ty := .b32, ari := 2, tag := .keep, a := .port 0, b := .port 1, low := .imm 0, d0 := none, d1 := none }

/-- A gather in .S of eight words, in flight: each lane names the word at 64, which is present. -/
def twinGather : Access :=
  { id := 5
    i := .gather gatherNode .s true false
    f := { thread := 0, core := 0, launch := 0, block := 0, replica := 0, node := 0, wave := 0, toks := [] }
    a := 64, b := 0, c := 0, st := .flight, order := 5, left := [], got := [], result := 0, drop := false, age := 0, fence := none, issued := 0 }

/-- The machine with that gather under way, and after it with a second access of its number, which has had its lane 0. -/
def sharedAccessNumber : State :=
  { fetchState State.reset 0 with accesses := [twinGather, { twinGather with left := [0] }] }

/-- Each lane's address, as the model computes it. -/
theorem laneAddr_twinGather : ∀ i < 8, (laneIndex true twinGather.b.toNat i).map (laneAddr 64 4) = some 64 := by decide

/-- The lanes that each access of the number 5 has had once the gather performs: the second keeps its lane 0 before the eight that it
is given with the first. -/
theorem left_attempt_sharedAccessNumber :
    (attempt 5 sharedAccessNumber).accesses.map (·.left) = [List.range 8, 0 :: List.range 8] := by decide +kernel

end Sys2Proof.Machine

section
open Sys2Proof Sys2Proof.Machine

/-- Refutes O34: its clause on gathers in .S asks for no distinct numbers of accesses. Where a second access bears the gather's number,
each lane's delivery is added to the lanes that the second one has had already (`deliver`), while the statement has both end with the
same eight lanes. -/
theorem not_engineAndTileNodesHandOverAndAct : ¬ Obligations.EngineAndTileNodesHandOverAndAct := by
  unfold Obligations.EngineAndTileNodesHandOverAndAct
  intro h
  obtain ⟨-, -, -, -, hlanes, -⟩ := h
  obtain ⟨-, hgather, -⟩ := hlanes sharedAccessNumber twinGather fetchTeam (fetchImage 0) gatherNode true false
    { unord := false, scope := .crew, acq := false, rel := false, sc := false }
    (by unfold InFlight; decide +kernel) (by decide +kernel) (by decide +kernel) (by decide) rfl rfl (.inl rfl)
  have hat {i x : Nat} (hi : i < 8) (hx : (laneIndex true twinGather.b.toNat i).map (laneAddr 64 4) = some x) : x = 64 :=
    Option.some.inj (hx.symm.trans (laneAddr_twinGather i hi))
  obtain ⟨hready, -⟩ := hgather rfl (by decide) (fun i hi x hx => hat hi hx ▸ by decide)
  obtain ⟨v, -, hattempt⟩ := hready (fun i hi x hx => hat hi hx ▸ by decide +kernel)
  have hleft : (attempt 5 sharedAccessNumber).accesses.map (·.left) = [List.range 8, List.range 8] := by
    rw [show attempt 5 sharedAccessNumber = _ from hattempt]
    rfl
  exact absurd (left_attempt_sharedAccessNumber.symm.trans hleft) (by decide)

end

/-! ## The range of an integer result (R236, R237) -/

namespace Sys2Proof.Machine

/-- The least value of a `w`-bit type (R236). -/
def intLo (w : Nat) (sg : Bool) : Int := if sg then -(2 ^ (w - 1)) else 0

/-- The greatest value of a `w`-bit type (R236). -/
def intHi (w : Nat) (sg : Bool) : Int := if sg then 2 ^ (w - 1) - 1 else 2 ^ w - 1

section
variable {w : Nat} {sg : Bool} {x y : Int}

/-- A type's range holds 2^w consecutive values. -/
theorem intHi_eq (hw : 0 < w) : intHi w sg = intLo w sg + 2 ^ w - 1 := by
  have hpow : (2 : Int) ^ (w - 1) * 2 = 2 ^ w := pow_sub_one_mul hw.ne' 2
  cases sg <;> simp only [intHi, intLo, Bool.false_eq_true, if_true, if_false] <;> omega

theorem intLo_le_intHi (hw : 0 < w) : intLo w sg ≤ intHi w sg := by
  have hpow : (0 : Int) < 2 ^ w := by positivity
  rw [intHi_eq hw]
  omega

/-- Two values of one range that differ by a multiple of 2^w are the same. -/
theorem eq_of_dvd_sub_of_range (hw : 0 < w) (hd : (2 ^ w : Int) ∣ x - y) (hx : intLo w sg ≤ x ∧ x ≤ intHi w sg)
    (hy : intLo w sg ≤ y ∧ y ≤ intHi w sg) : x = y := by
  rw [intHi_eq hw] at hx hy
  exact Int.sub_eq_zero.mp (Int.eq_zero_of_abs_lt_dvd hd (abs_lt.mpr ⟨by omega, by omega⟩))

/-- What is read back at a type is in the type's range. -/
theorem intOperand_mem_range (v : Nat) (hw : 0 < w) : intLo w sg ≤ intOperand v w sg ∧ intOperand v w sg ≤ intHi w sg := by
  have hlow : ((v % 2 ^ w : Nat) : Int) < 2 ^ w := by exact_mod_cast Nat.mod_lt v (by positivity)
  have hpow : (2 : Int) ^ (w - 1) * 2 = 2 ^ w := pow_sub_one_mul hw.ne' 2
  have htop : 2 ^ (w - 1) ≤ v % 2 ^ w ↔ (2 : Int) ^ (w - 1) ≤ (v % 2 ^ w : Nat) := by exact_mod_cast Iff.rfl
  cases sg
  case false =>
    simp only [intOperand, intLo, intHi, Bool.false_and, Bool.false_eq_true, if_false]
    omega
  case true =>
    simp only [intOperand, intLo, intHi, Bool.true_and, decide_eq_true_eq, if_true, htop]
    split <;> omega

/-- Reading at a type keeps the value modulo 2^w. -/
theorem dvd_sub_intOperand (v w : Nat) (sg : Bool) : (2 ^ w : Int) ∣ v - intOperand v w sg := by
  have hmod : (2 ^ w : Int) ∣ v - (v % 2 ^ w : Nat) := by
    rw [Int.natCast_mod, Nat.cast_pow]
    exact Int.dvd_self_sub_emod
  dsimp only [intOperand]
  split
  · rw [← sub_add]
    exact hmod.add dvd_rfl
  · exact hmod

theorem intResult_wrap_cast (x : Int) (w : Nat) (sg : Bool) : (intResult x w sg false : Int) = x % 2 ^ w :=
  Int.toNat_of_nonneg (Int.emod_nonneg x (by positivity))

theorem intResult_lt (x : Int) (w : Nat) (sg sat : Bool) : intResult x w sg sat < 2 ^ w := by
  dsimp only [intResult]
  rw [Int.toNat_lt' (by positivity), Nat.cast_pow]
  exact Int.emod_lt_of_pos _ (by positivity)

/-- A result that is inside the range takes no notice of SAT. -/
theorem intResult_inside (sat : Bool) (hlo : intLo w sg ≤ x) (hhi : x ≤ intHi w sg) :
    intResult x w sg sat = intResult x w sg false := by
  have h : (if sat then if x < intLo w sg then intLo w sg else if intHi w sg < x then intHi w sg else x else x) = x := by
    rw [if_neg hlo.not_gt, if_neg hhi.not_gt, ite_self]
  exact congrArg (fun y : Int => (y % 2 ^ w).toNat) h

theorem intResult_below (h : x < intLo w sg) : intResult x w sg true = intResult (intLo w sg) w sg false :=
  congrArg (fun y : Int => (y % 2 ^ w).toNat) (if_pos h)

theorem intResult_above (hw : 0 < w) (h : intHi w sg < x) : intResult x w sg true = intResult (intHi w sg) w sg false :=
  congrArg (fun y : Int => (y % 2 ^ w).toNat) ((if_neg ((intLo_le_intHi hw).trans h.le).not_gt).trans (if_pos h))

/-- Without SAT the value read back is the exact one modulo 2^w. -/
theorem dvd_sub_intOperand_intResult (x : Int) (w : Nat) (sg : Bool) :
    (2 ^ w : Int) ∣ x - intOperand (intResult x w sg false) w sg := by
  have hread := dvd_sub_intOperand (intResult x w sg false) w sg
  rw [intResult_wrap_cast] at hread
  rw [← sub_add_sub_cancel x (x % 2 ^ w)]
  exact Int.dvd_self_sub_emod.add hread

/-- A value of the type's range is read back as it was. -/
theorem intOperand_intResult (hw : 0 < w) (hlo : intLo w sg ≤ x) (hhi : x ≤ intHi w sg) :
    intOperand (intResult x w sg false) w sg = x :=
  (eq_of_dvd_sub_of_range hw (dvd_sub_intOperand_intResult x w sg) ⟨hlo, hhi⟩ (intOperand_mem_range _ hw)).symm

end

end Sys2Proof.Machine

section
open Sys2Proof Sys2Proof.Machine

/-- Settles O11: reading back keeps the result modulo 2^w and lands in the type's range, which holds each residue once; SAT replaces
a value outside the range by the range's end. -/
theorem integerResultWrapsOrSaturates : Obligations.IntegerResultWrapsOrSaturates := by
  unfold Obligations.IntegerResultWrapsOrSaturates
  intro x w sg sat hw lo hi v back
  obtain ⟨hback_lo, hback_hi⟩ : intLo w sg ≤ back ∧ back ≤ intHi w sg := intOperand_mem_range v hw
  have hends : intLo w sg ≤ intHi w sg := intLo_le_intHi hw
  have hread {y : Int} (hv : v = intResult y w sg false) (hlo : lo ≤ y) (hhi : y ≤ hi) : back = y :=
    (congrArg (intOperand · w sg) hv).trans (intOperand_intResult hw hlo hhi)
  refine ⟨intResult_lt x w sg sat, hback_lo, hback_hi, fun hlo hhi => hread (intResult_inside sat hlo hhi) hlo hhi, ?_, ?_⟩
  · rintro rfl
    exact dvd_sub_intOperand_intResult x w sg
  · rintro rfl
    exact ⟨fun hlt => hread (intResult_below hlt) le_rfl hends, fun hgt => hread (intResult_above hw hgt) hends le_rfl⟩

end

/-! ## Words and nodes (R255 to R271) -/

namespace Sys2Proof.Machine

/-! ### Readers that answer or refuse -/

@[simp] theorem bind_eq_ok_iff {ε α β : Type} {x : Except ε α} {g : α → Except ε β} {y : β} :
    (x >>= g) = .ok y ↔ ∃ a, x = .ok a ∧ g a = .ok y := by
  cases x <;> simp [Bind.bind, Except.bind]

@[simp] theorem pure_eq_ok_iff {ε α : Type} {x y : α} : (pure x : Except ε α) = .ok y ↔ x = y := by
  simp [pure, Except.pure]

@[simp] theorem variant_eq_ok_iff {α : Type} {o : Option α} {x : α} : variant o = .ok x ↔ o = some x := by
  cases o <;> simp [variant]

@[simp] theorem assigned_eq_ok_iff {α : Type} {o : Option α} {x : α} : assigned o = .ok x ↔ o = some x := by
  cases o <;> simp [assigned]

/-! ### The codes of single fields

Each reader answers a value for that value's own code and for no other. -/

section
variable {c : Nat}

@[simp] theorem zero_eq_some_iff {u : Unit} : zero c = some u ↔ 0 = c := by
  simp [zero, eq_comm]

@[simp] theorem only_eq_some_iff {y : Nat} {u : Unit} : only c y = some u ↔ y = c := by
  simp [only, eq_comm]

@[simp] theorem finOf_eq_some_iff {n : Nat} {x : Fin n} : finOf n c = some x ↔ x.val = c := by
  unfold finOf
  split
  · simp [Fin.ext_iff, eq_comm]
  · simp; omega

@[simp] theorem tyOf_eq_some_iff {x : Ty} : tyOf c = some x ↔ tyCode x = c :=
  ⟨fun h => by simpa using List.find?_some h, by rintro rfl; cases x <;> rfl⟩

@[simp] theorem tagOf_eq_some_iff {x : Tag} : tagOf c = some x ↔ tagCode x = c :=
  ⟨by fun_cases tagOf <;> rintro ⟨⟩ <;> rfl, by rintro rfl; cases x <;> rfl⟩

@[simp] theorem steerOf_eq_some_iff {x : Steer} : steerOf c = some x ↔ steerCode x = c :=
  ⟨by fun_cases steerOf <;> rintro ⟨⟩ <;> rfl, by rintro rfl; cases x <;> rfl⟩

@[simp] theorem clsOf_eq_some_iff {x : Cls} : clsOf c = some x ↔ clsCode x = c :=
  ⟨by fun_cases clsOf <;> rintro ⟨⟩ <;> rfl, by rintro rfl; cases x <;> rfl⟩

@[simp] theorem rndOf_eq_some_iff {x : Rnd} : rndOf c = some x ↔ rndCode x = c :=
  ⟨by fun_cases rndOf <;> rintro ⟨⟩ <;> rfl, by rintro rfl; cases x <;> rfl⟩

@[simp] theorem spOf_eq_some_iff {x : Sp} : spOf c = some x ↔ spCode x = c :=
  ⟨by fun_cases spOf <;> rintro ⟨⟩ <;> rfl, by rintro rfl; cases x <;> rfl⟩

@[simp] theorem scopeOf_eq_some_iff {x : Scope} : scopeOf c = some x ↔ scopeCode x = c :=
  ⟨by fun_cases scopeOf <;> rintro ⟨⟩ <;> rfl, by rintro rfl; cases x <;> rfl⟩

@[simp] theorem pollOf_eq_some_iff {x : Poll} : pollOf c = some x ↔ pollCode x = c :=
  ⟨by fun_cases pollOf <;> rintro ⟨⟩ <;> rfl, by rintro rfl; cases x <;> rfl⟩

@[simp] theorem pullOf_eq_some_iff {x : Pull} : pullOf c = some x ↔ pullCode x = c :=
  ⟨by fun_cases pullOf <;> rintro ⟨⟩ <;> rfl, by rintro rfl; cases x <;> rfl⟩

@[simp] theorem redOf_eq_some_iff {x : RedOp} : redOf c = some x ↔ redCode x = c :=
  ⟨by fun_cases redOf <;> rintro ⟨⟩ <;> rfl, by rintro rfl; cases x <;> rfl⟩

@[simp] theorem combOf_eq_some_iff {x : CombOp} : combOf c = some x ↔ combCode x = c :=
  ⟨by fun_cases combOf <;> rintro ⟨⟩ <;> rfl, by rintro rfl; cases x <;> rfl⟩

@[simp] theorem itestOf_eq_some_iff {x : ITest} : itestOf c = some x ↔ itestCode x = c :=
  ⟨by fun_cases itestOf <;> rintro ⟨⟩ <;> rfl, by rintro rfl; cases x <;> rfl⟩

@[simp] theorem ftestOf_eq_some_iff {x : FTest} : ftestOf c = some x ↔ ftestCode x = c :=
  ⟨by fun_cases ftestOf <;> rintro ⟨⟩ <;> rfl, by rintro rfl; cases x <;> rfl⟩

@[simp] theorem scaleOf_eq_some_iff {x : ScaleKind} : scaleOf c = some x ↔ scaleCode x = c :=
  ⟨by fun_cases scaleOf <;> rintro ⟨⟩ <;> rfl, by rintro rfl; cases x <;> rfl⟩

/-- PTEST's variant has its reader in `decodeFlow` alone. -/
@[simp] theorem ptestOf_eq_some_iff {x : PTest} :
    (if c = 0 then some PTest.nz else if c = 1 then some .z else if c = 2 then some .bit else none) = some x ↔ ptestCode x = c := by
  cases x <;> grind [ptestCode]

@[simp] theorem boolOf_eq_some_iff {b : Bool} : boolOf c = some b ↔ b2n b = c := by
  cases b <;> grind [boolOf, b2n]

@[simp] theorem satOf_eq_some_iff {b : Bool} : satOf c = some b ↔ 8 * b2n b = c := by
  cases b <;> grind [satOf, b2n]

@[simp] theorem caOf_eq_some_iff {b : Bool} : caOf c = some b ↔ 16 * b2n b = c := by
  cases b <;> grind [caOf, b2n]

@[simp] theorem flag_eq_iff {i : Nat} {b : Bool} : flag c i = b ↔ c / 2 ^ i % 2 = b2n b := by
  cases b <;> simp [flag, b2n]

@[simp] theorem b2n_flag (i : Nat) : b2n (flag c i) = c / 2 ^ i % 2 := (flag_eq_iff.mp rfl).symm

end

/-! ### The sizes of the codes -/

@[simp] theorem b2n_false : b2n false = 0 := rfl

theorem b2n_lt (b : Bool) : b2n b < 2 := by cases b <;> decide
theorem tyCode_lt (x : Ty) : tyCode x < 28 := by cases x <;> decide
theorem tagCode_lt (x : Tag) : tagCode x < 6 := by cases x <;> decide
theorem netCode_lt (x : Net) : netCode x < 4 := by cases x <;> decide
theorem steerCode_lt (x : Steer) : steerCode x < 3 := by cases x <;> decide
theorem clsCode_lt (x : Cls) : clsCode x < 3 := by cases x <;> decide
theorem rndCode_lt (x : Rnd) : rndCode x < 5 := by cases x <;> decide
theorem spCode_lt (x : Sp) : spCode x < 5 := by cases x <;> decide
theorem scopeCode_lt (x : Scope) : scopeCode x < 6 := by cases x <;> decide
theorem pollCode_lt (x : Poll) : pollCode x < 4 := by cases x <;> decide
theorem pullCode_lt (x : Pull) : pullCode x < 3 := by cases x <;> decide
theorem redCode_lt (x : RedOp) : redCode x < 3 := by cases x <;> decide
theorem combCode_lt (x : CombOp) : combCode x < 6 := by cases x <;> decide
theorem itestCode_lt (x : ITest) : itestCode x < 6 := by cases x <;> decide
theorem ftestCode_lt (x : FTest) : ftestCode x < 8 := by cases x <;> decide
theorem ptestCode_lt (x : PTest) : ptestCode x < 3 := by cases x <;> decide
theorem scaleCode_lt (x : ScaleKind) : scaleCode x < 4 := by cases x <;> decide

theorem roundCode_lt (r : Round) : roundCode r < 16 := by
  grind [roundCode, rndCode_lt, b2n_lt]

theorem scopeFlg_lt (x : Scope) : scopeFlg x < 12 := by
  grind [scopeFlg, scopeCode_lt]

theorem memCode_lt (m : MemFlags) : memCode m < 128 := by
  grind [memCode, scopeCode_lt, b2n_lt]

theorem crewFlg_lt (slot : Fin 64) (all : Bool) : crewFlg slot all < 128 := by
  grind [crewFlg, b2n_lt]

/-! ### FLG and VAR fields of several parts (R245, R265, R328, R338, R351, R370) -/

section
variable {c : Nat}

@[simp] theorem roundOf_eq_some_iff {r : Round} : roundOf c = some r ↔ roundCode r = c := by
  obtain ⟨rnd, sat⟩ := r
  simp [roundOf, roundCode]
  grind [rndCode_lt, b2n_lt]

@[simp] theorem memOf_eq_some_iff {m : MemFlags} : memOf c = some m ↔ memCode m = c := by
  obtain ⟨unord, scope, acq, rel, sc⟩ := m
  simp [memOf, memCode]
  grind [scopeCode_lt, b2n_lt]

@[simp] theorem onlyScope_eq_some_iff {x : Scope} : onlyScope c = some x ↔ scopeFlg x = c := by
  simp [onlyScope, scopeFlg]
  grind [scopeCode_lt]

@[simp] theorem slotOf_eq_some_iff {p : Fin 64 × Bool} : slotOf c = some p ↔ crewFlg p.1 p.2 = c := by
  obtain ⟨slot, all⟩ := p
  simp [slotOf, crewFlg]
  grind [b2n_lt]

@[simp] theorem cacbOf_eq_some_iff {p : Bool × Bool} : cacbOf c = some p ↔ 16 * b2n p.1 + 32 * b2n p.2 = c := by
  obtain ⟨ca, cb⟩ := p
  simp [cacbOf]
  grind [b2n_lt]

@[simp] theorem roundCaOf_eq_some_iff {p : Round × Bool} : roundCaOf c = some p ↔ roundCode p.1 + 16 * b2n p.2 = c := by
  obtain ⟨r, ca⟩ := p
  simp [roundCaOf]
  grind [roundCode_lt, b2n_lt]

@[simp] theorem varTy_eq_some_iff {t : Ty} : varTy c = some t ↔ tyCode t = c := by
  simp [varTy]
  grind [tyCode_lt]

@[simp] theorem varFrom_eq_some_iff {t : Ty} : varFrom c = some t ↔ tyCode t = c ∧ t ∈ tyPlain ++ tyMx := by
  simp [varFrom]

@[simp] theorem sp3_eq_some_iff {x : Sp} : sp3 c = some x ↔ spCode x = c ∧ x ≠ .k := by
  cases x <;> grind [sp3, spOf_eq_some_iff, spCode]

@[simp] theorem spPad_eq_some_iff {x : Sp} : spPad c = some x ↔ spCode x = c ∧ spS x = true := by
  cases x <;> grind [spPad, spCode, spS]

/-- PROBE's variant has its reader in `decodeSys` alone. -/
@[simp] theorem probeSp_eq_some_iff {x : Sp} :
    (if c = 0 then some Sp.g else spPad c) = some x ↔ spCode x = c ∧ (x = .g ∨ x = .s ∨ x = .p) := by
  cases x <;> grind [spPad, spCode]

end

/-! ### Arms of the decoder that many nodes share -/

section
variable {var flg : Nat} {mk : Node → Instr}

@[simp] theorem plain_eq_ok_iff {K : Node → Instr} : plain var flg K = .ok mk ↔ 0 = var ∧ 0 = flg ∧ K = mk := by
  simp [plain, -bind_pure_comp]

@[simp] theorem carry_eq_ok_iff {K : Node → Cls → Instr} :
    carry var flg K = .ok mk ↔ ∃ c, clsCode c = var ∧ 0 = flg ∧ (K · c) = mk := by
  simp [carry, -bind_pure_comp]

@[simp] theorem satNode_eq_ok_iff {K : Node → Bool → Instr} :
    satNode var flg K = .ok mk ↔ 0 = var ∧ ∃ s, 8 * b2n s = flg ∧ (K · s) = mk := by
  simp [satNode, -bind_pure_comp]

@[simp] theorem roundNode_eq_ok_iff {K : Node → Round → Instr} :
    roundNode var flg K = .ok mk ↔ 0 = var ∧ ∃ r, roundCode r = flg ∧ (K · r) = mk := by
  simp [roundNode, -bind_pure_comp]

@[simp] theorem crewNode_eq_ok_iff {K : Node → Fin 64 → Bool → Instr} :
    crewNode flg K = .ok mk ↔ ∃ slot all, crewFlg slot all = flg ∧ (K · slot all) = mk := by
  simp [crewNode, -bind_pure_comp, -Bool.exists_bool]

@[simp] theorem memNode_eq_ok_iff {o : Option Sp} {K : Node → Sp → MemFlags → Instr} :
    memNode o flg K = .ok mk ↔ ∃ sp, o = some sp ∧ ∃ m, memCode m = flg ∧ (K · sp m) = mk := by
  simp [memNode, -bind_pure_comp]

@[simp] theorem scopeNode_eq_ok_iff {K : Node → Scope → Instr} :
    scopeNode flg K = .ok mk ↔ ∃ x, scopeFlg x = flg ∧ (K · x) = mk := by
  simp [scopeNode, -bind_pure_comp]

end

/-! ### What the decoder makes of a word's codes has a form with those codes

The readers above are exact, so an arm that answers has read the very codes that its constructor's form writes. Binds and
quantifiers over truth values are left as they stand, for one pattern to take each arm's answer apart. -/

/-- Each instruction that `mk` makes has a form with the given codes and its own node, whose low field is read as a blank node's is. -/
def FormHasCodes (opc var flg : Nat) (mk : Node → Instr) : Prop :=
  ∀ n, ∃ f, form (mk n) = some f ∧ f.opc = opc ∧ f.var = var ∧ f.flg = flg ∧ f.node = n ∧ f.seq = seqOf (mk blankNode)

section
variable {opc var flg tag : Nat} {mk : Node → Instr}

theorem formHasCodes_of_decodeFlow (h : decodeFlow opc var flg tag = .ok mk) : FormHasCodes opc var flg mk := by
  unfold decodeFlow at h
  split at h
  case h_19 => -- PASS, by the tag
    split at h <;>
    · obtain ⟨c, rfl, rfl, rfl⟩ := carry_eq_ok_iff.mp h
      exact fun n => ⟨_, rfl, rfl, rfl, rfl, rfl, rfl⟩
  all_goals simp [-bind_pure_comp, -Bool.exists_bool] at h
  all_goals
    casesm* _ ∧ _, ∃ _, _
    subst_vars
    exact fun n => ⟨_, rfl, rfl, rfl, rfl, rfl, rfl⟩

theorem formHasCodes_of_decodeInt (h : decodeInt opc var flg = .ok mk) : FormHasCodes opc var flg mk := by
  unfold decodeInt at h
  split at h <;> simp [-bind_pure_comp, -Bool.exists_bool] at h
  all_goals
    casesm* _ ∧ _, ∃ _, _
    subst_vars
    refine fun n => ⟨_, rfl, rfl, ?_, ?_, rfl, rfl⟩ <;> simp [form1, form2, form3]
  all_goals omega

theorem formHasCodes_of_decodeFloat (h : decodeFloat opc var flg = .ok mk) : FormHasCodes opc var flg mk := by
  unfold decodeFloat at h
  split at h <;> simp [-bind_pure_comp, -Bool.exists_bool] at h
  all_goals
    casesm* _ ∧ _, ∃ _, _
    subst_vars
    exact fun n => ⟨_, rfl, rfl, rfl, rfl, rfl, rfl⟩

theorem formHasCodes_of_decodeVec (h : decodeVec opc var flg = .ok mk) : FormHasCodes opc var flg mk := by
  unfold decodeVec at h
  split at h
  case h_15 => -- VCVT, whose source type is outside the table for VAR[5] = 1
    dsimp only at h
    split at h <;> simp [-bind_pure_comp, Option.bind_eq_some_iff] at h
    obtain ⟨t, ⟨rfl, -⟩, r, ⟨hlt, hr⟩, k, hk, rfl⟩ := h
    refine fun n => ⟨_, rfl, rfl, rfl, ?_, rfl, rfl⟩
    simp [form2]
    omega
  all_goals simp [-bind_pure_comp, -Bool.exists_bool] at h
  all_goals
    casesm* _ ∧ _, ∃ _, _
    subst_vars
    exact fun n => ⟨_, rfl, rfl, rfl, rfl, rfl, rfl⟩

theorem formHasCodes_of_decodeCrew (h : decodeCrew opc var flg = .ok mk) : FormHasCodes opc var flg mk := by
  unfold decodeCrew at h
  split at h <;> simp [-bind_pure_comp, -Bool.exists_bool] at h
  all_goals
    casesm* _ ∧ _, ∃ _, _
    subst_vars
    refine fun n => ⟨_, rfl, rfl, ?_, ?_, rfl, rfl⟩ <;> simp [formCrew]
  all_goals omega

theorem formHasCodes_of_decodeTile (hflg : flg < 2 ^ 8) (h : decodeTile opc var flg = .ok mk) : FormHasCodes opc var flg mk := by
  unfold decodeTile at h
  split at h <;> simp [-bind_pure_comp, -Bool.exists_bool] at h
  case h_17 => -- STRM.CLOSE
    obtain ⟨leave, rfl, u, rfl, rfl⟩ := h
    cases leave <;> exact fun n => ⟨_, rfl, rfl, rfl, rfl, rfl, rfl⟩
  all_goals
    casesm* _ ∧ _, ∃ _, _
    subst_vars
    refine fun n => ⟨_, rfl, rfl, ?_, ?_, rfl, rfl⟩ <;> simp [form2, formMem, formPorts]
  all_goals omega

theorem formHasCodes_of_decodeAtom {op : Nat} {sp : Sp} {m : MemFlags} (h : decodeAtom op sp m = .ok mk) :
    FormHasCodes 0xEA (op + 16 * spCode sp) (memCode m) mk := by
  unfold decodeAtom at h
  split at h <;> cases h <;> exact fun n => ⟨_, rfl, rfl, rfl, rfl, rfl, rfl⟩

theorem formHasCodes_of_decodeMem (hvar : var < 2 ^ 6) (h : decodeMem opc var flg = .ok mk) : FormHasCodes opc var flg mk := by
  unfold decodeMem at h
  split at h <;> simp [-bind_pure_comp, -Bool.exists_bool] at h
  case h_8 => -- SPSET and SPCLR
    obtain ⟨clr, hclr, sp, ⟨hsp, -⟩, u, rfl, rfl⟩ := h
    cases clr <;> refine fun n => ⟨_, rfl, rfl, ?_, rfl, rfl, rfl⟩ <;> simp [formMem] <;> grind [b2n]
  case h_11 => -- the atomics
    obtain ⟨-, sp, ⟨hsp, -⟩, m, rfl, hmk⟩ := h
    rw [← Nat.mod_add_div var 16, ← hsp]
    exact formHasCodes_of_decodeAtom hmk
  case h_17 => -- BAR
    obtain ⟨hlt, x, rfl, rfl⟩ := h
    interval_cases var <;> exact fun n => ⟨_, rfl, rfl, rfl, rfl, rfl, rfl⟩
  case h_18 => -- CBAR and CSYNC
    split at h <;> simp at h
    · obtain ⟨rfl, rfl, rfl⟩ := h
      exact fun n => ⟨_, rfl, rfl, rfl, rfl, rfl, rfl⟩
    · obtain ⟨rfl, x, rfl, rfl⟩ := h
      exact fun n => ⟨_, rfl, rfl, rfl, rfl, rfl, rfl⟩
  case h_19 => -- SEM
    obtain ⟨hlt, x, rfl, rfl⟩ := h
    interval_cases var <;> exact fun n => ⟨_, rfl, rfl, rfl, rfl, rfl, rfl⟩
  case h_20 => -- COPY and COPYS
    obtain ⟨rows, hrows, u, rfl, rfl⟩ := h
    cases rows <;> refine fun n => ⟨_, rfl, rfl, ?_, rfl, rfl, rfl⟩ <;> simp [formPorts] <;> grind [b2n]
  case h_22 => -- NSEND, NRECV and NFENCE
    split at h <;> simp [-bind_pure_comp, -Bool.exists_bool] at h
    next hvar =>
      obtain ⟨rfl, rfl⟩ := h
      exact fun n => ⟨_, rfl, rfl, hvar.symm, rfl, rfl, rfl⟩
    next =>
      obtain ⟨recv, rfl, u, rfl, rfl⟩ := h
      cases recv <;> exact fun n => ⟨_, rfl, rfl, rfl, rfl, rfl, rfl⟩
  all_goals
    casesm* _ ∧ _, ∃ _, _
    subst_vars
    exact fun n => ⟨_, rfl, rfl, rfl, rfl, rfl, rfl⟩

theorem formHasCodes_of_decodeSys (h : decodeSys opc var flg = .ok mk) : FormHasCodes opc var flg mk := by
  unfold decodeSys at h
  split at h <;> simp [-bind_pure_comp, -Bool.exists_bool] at h
  case h_8 => -- YIELD, HALT and NOP
    obtain ⟨hlt, rfl, rfl⟩ := h
    interval_cases var <;> exact fun n => ⟨_, rfl, rfl, rfl, rfl, rfl, rfl⟩
  all_goals
    casesm* _ ∧ _, ∃ _, _
    subst_vars
    exact fun n => ⟨_, rfl, rfl, rfl, rfl, rfl, rfl⟩

/-- The instruction that a word's major, variant and flags name has a form with that major, variant and flags. -/
theorem formHasCodes_of_decodeOp (hvar : var < 2 ^ 6) (hflg : flg < 2 ^ 8) (h : decodeOp opc var flg tag = .ok mk) :
    FormHasCodes opc var flg mk := by
  unfold decodeOp at h
  split_ifs at h
  · exact formHasCodes_of_decodeFlow h
  · exact formHasCodes_of_decodeInt h
  · exact formHasCodes_of_decodeFloat h
  · exact formHasCodes_of_decodeVec h
  · exact formHasCodes_of_decodeCrew h
  · exact formHasCodes_of_decodeTile hflg h
  · exact formHasCodes_of_decodeMem hvar h
  · exact formHasCodes_of_decodeSys h

/-- Where the decoder makes an instruction of a node from codes, these are the codes of the instruction's form, and the node is its own. -/
theorem form_of_decodeOp {i : Instr} {n : Node} {f : Form} (hvar : var < 2 ^ 6) (hflg : flg < 2 ^ 8)
    (h : decodeOp opc var flg tag = .ok mk) (hi : mk n = i) (hf : form i = some f) :
    f.opc = opc ∧ f.var = var ∧ f.flg = flg ∧ f.node = n ∧ f.seq = seqOf (mk blankNode) := by
  subst hi
  obtain ⟨f', hf', hcodes⟩ := formHasCodes_of_decodeOp hvar hflg h n
  cases hf.symm.trans hf'
  exact hcodes

end

/-! ### The codes of a form are read back

On a form's own codes the decoder's arm asks for values with those codes: the instruction's own are such values, and the sizes of
the codes keep the parts of VAR and FLG apart. The arms that choose between two nodes are given theirs by name. -/

/-- The codes of a form fit the fields of a word, and what the decoder makes of them gives the instruction back. -/
def CodesReadBack (f : Form) (i : Instr) : Prop :=
  0 < f.opc ∧ f.opc < 2 ^ 8 ∧ f.var < 2 ^ 6 ∧ f.flg < 2 ^ 8 ∧
    ∃ mk, decodeOp f.opc f.var f.flg (tagCode f.node.tag) = .ok mk ∧ mk f.node = i

/-- Port-return is the tag of PASS's second form alone (R256, R274). -/
theorem pret_not_mem_tagsOf (net : Option Net) : Tag.pret ∉ tagsOf net := by
  fun_cases tagsOf <;> decide

@[simp] theorem tagCode_eq_five_iff {t : Tag} : tagCode t = 5 ↔ t = .pret := by cases t <;> decide

theorem spCode_lt_of_ne_k {sp : Sp} (h : sp ≠ .k) : spCode sp < 4 := by
  cases sp <;> simp_all [spCode]

theorem spCode_of_spS {sp : Sp} (h : spS sp = true) : 2 ≤ spCode sp ∧ spCode sp < 4 := by
  cases sp <;> simp_all [spS, spCode]

section
variable {i : Instr} {f : Form}

/-- The atomics share major 0xEA: VAR holds the operation below the space (R271). -/
theorem codesReadBack_of_decodeAtom {op : Nat} {sp : Sp} {m : MemFlags} {mk : Node → Instr} (hopc : f.opc = 0xEA)
    (hvar : f.var = op + 16 * spCode sp) (hflg : f.flg = memCode m) (hop : op < 11) (hsp : sp ≠ .k)
    (hmk : decodeAtom op sp m = .ok mk) (hi : mk f.node = i) : CodesReadBack f i := by
  have hmod : (op + 16 * spCode sp) % 16 = op := by omega
  have hdiv : (op + 16 * spCode sp) / 16 = spCode sp := by omega
  have hlt := spCode_lt_of_ne_k hsp
  unfold CodesReadBack
  rw [hopc, hvar, hflg]
  refine ⟨by decide, by decide, by omega, (memCode_lt m).trans (by decide), mk, ?_, hi⟩
  simp [decodeOp, decodeMem, hmod, hdiv, hop]
  exact ⟨sp, ⟨rfl, hsp⟩, m, rfl, hmk⟩

theorem codesReadBack_of_formFlow (h : formFlow i = some f) (ht : f.tags.contains f.node.tag = true) : CodesReadBack f i := by
  unfold formFlow at h
  split at h <;> cases h
  case h_19.refl n c => -- PASS
    have hne : n.tag ≠ .pret := fun he => pret_not_mem_tagsOf (some (clsNet c)) (by simpa [formCarry, form1, he] using ht)
    simp [CodesReadBack, decodeOp, decodeFlow, formCarry, form1, hne]
    grind [clsCode_lt]
  case h_20.refl n c => -- PASS with a port-return
    have hpret : n.tag = .pret := by simpa [formCarry, form1] using ht
    simp [CodesReadBack, decodeOp, decodeFlow, formCarry, form1, hpret]
    grind [clsCode_lt]
  all_goals simp [-bind_pure_comp, -Bool.exists_bool, CodesReadBack, decodeOp, decodeFlow, form1, form2, form3, formEnd, formCarry]
  all_goals grind [b2n_lt, clsCode_lt, ptestCode_lt]

theorem codesReadBack_of_formInt (h : formInt i = some f) : CodesReadBack f i := by
  unfold formInt at h
  split at h <;> cases h
  all_goals simp [-bind_pure_comp, -Bool.exists_bool, CodesReadBack, decodeOp, decodeInt, form1, form2, form3]
  all_goals grind [b2n_lt, itestCode_lt]

theorem codesReadBack_of_formFloat (h : formFloat i = some f) : CodesReadBack f i := by
  unfold formFloat at h
  split at h <;> cases h
  all_goals simp [-bind_pure_comp, -Bool.exists_bool, CodesReadBack, decodeOp, decodeFloat, form1, form2, form3]
  all_goals grind [b2n_lt, rndCode_lt, roundCode_lt, ftestCode_lt, tyCode_lt]

theorem codesReadBack_of_formVec (h : formVec i = some f) (hr : f.rest = true) : CodesReadBack f i := by
  unfold formVec at h
  split at h <;> cases h
  case h_15.refl n t r k => -- VCVT
    have hty : tyCode t < 32 := (tyCode_lt t).trans (by decide)
    simp only [form2, Bool.and_eq_true] at hr
    simp [-bind_pure_comp, CodesReadBack, decodeOp, decodeVec, form2, hty, Option.bind_eq_some_iff]
    grind [roundCode_lt]
  all_goals simp [-bind_pure_comp, -Bool.exists_bool, CodesReadBack, decodeOp, decodeVec, form1, form2, form3]
  all_goals grind [roundCode_lt, redCode_lt, ftestCode_lt]

theorem codesReadBack_of_formCrewOp (h : formCrewOp i = some f) : CodesReadBack f i := by
  unfold formCrewOp at h
  split at h <;> cases h
  all_goals simp [-bind_pure_comp, -Bool.exists_bool, CodesReadBack, decodeOp, decodeCrew, formCrew]
  all_goals grind [b2n_lt, crewFlg_lt, pollCode_lt, pullCode_lt, combCode_lt]

theorem codesReadBack_of_formTile (h : formTile i = some f) (hr : f.rest = true) : CodesReadBack f i := by
  unfold formTile at h
  split at h <;> cases h
  case h_17.refl n u => -- STRM.CLOSE at its end
    simp [-bind_pure_comp, -Bool.exists_bool, CodesReadBack, decodeOp, decodeTile, formMem]
    exact ⟨(b2n_lt u).trans (by decide), false, rfl, u, rfl, rfl⟩
  case h_18.refl n u => -- STRM.CLOSE as a subscriber leaves
    simp [-bind_pure_comp, -Bool.exists_bool, CodesReadBack, decodeOp, decodeTile, formMem]
    exact ⟨(b2n_lt u).trans (by decide), true, rfl, u, rfl, rfl⟩
  all_goals
    simp only [form2, formMem, formPorts] at hr
    simp [-bind_pure_comp, -Bool.exists_bool, CodesReadBack, decodeOp, decodeTile, form2, formMem, formPorts]
  all_goals grind [b2n_lt, roundCode_lt, memCode_lt, tyCode_lt, spCode_lt, redCode_lt, scaleCode_lt]

theorem codesReadBack_of_formMemOp (h : formMemOp i = some f) (hr : f.rest = true) : CodesReadBack f i := by
  unfold formMemOp at h
  split at h <;> cases h
  case h_12 | h_13 | h_14 | h_15 | h_16 | h_17 | h_18 | h_19 | h_20 | h_21 | h_22 => -- the atomics
    obtain ⟨-, hsp⟩ := Bool.and_eq_true_iff.mp hr
    exact codesReadBack_of_decodeAtom rfl rfl rfl (by decide) (bne_iff_ne.mp hsp) rfl rfl
  case h_8.refl n sp u => -- SPSET
    obtain ⟨hlo, hhi⟩ := spCode_of_spS hr
    simp [-bind_pure_comp, -Bool.exists_bool, CodesReadBack, decodeOp, decodeMem, formMem]
    exact ⟨by omega, (b2n_lt u).trans (by decide), false, sp, u, ⟨rfl, ⟨by omega, hr⟩, rfl⟩, rfl⟩
  case h_9.refl n sp u => -- SPCLR
    obtain ⟨hlo, hhi⟩ := spCode_of_spS hr
    simp [-bind_pure_comp, -Bool.exists_bool, CodesReadBack, decodeOp, decodeMem, formMem]
    exact ⟨by omega, (b2n_lt u).trans (by decide), true, sp, u, ⟨rfl, ⟨by omega, hr⟩, rfl⟩, rfl⟩
  case h_37.refl n s d u => -- COPY
    simp [-bind_pure_comp, -Bool.exists_bool, CodesReadBack, decodeOp, decodeMem, formPorts]
    exact ⟨by grind [b2n_lt], (b2n_lt u).trans (by decide), false, by simp; omega, u, rfl, by simp; grind [b2n_lt]⟩
  case h_38.refl n s d u => -- COPYS
    simp [-bind_pure_comp, -Bool.exists_bool, CodesReadBack, decodeOp, decodeMem, formPorts]
    exact ⟨by grind [b2n_lt], (b2n_lt u).trans (by decide), true, by grind [b2n], u, rfl, by simp; grind [b2n_lt]⟩
  case h_40.refl n u => -- NSEND
    simp [-bind_pure_comp, -Bool.exists_bool, CodesReadBack, decodeOp, decodeMem, formPorts]
    exact ⟨(b2n_lt u).trans (by decide), false, rfl, u, rfl, rfl⟩
  case h_41.refl n u => -- NRECV
    simp [-bind_pure_comp, -Bool.exists_bool, CodesReadBack, decodeOp, decodeMem, formPorts]
    exact ⟨(b2n_lt u).trans (by decide), true, rfl, u, rfl, rfl⟩
  all_goals
    simp only [form2, formMem, formImm] at hr
    simp [-bind_pure_comp, -Bool.exists_bool, CodesReadBack, decodeOp, decodeMem, decodeSys, form2, formMem, formImm]
  all_goals grind [b2n_lt, memCode_lt, scopeFlg_lt, spCode_lt, combCode_lt]

theorem codesReadBack_of_formSys (h : formSys i = some f) (hr : f.rest = true) : CodesReadBack f i := by
  unfold formSys at h
  split at h <;> cases h
  case h_9.refl n sp => -- PROBE
    have hsp : sp = .g ∨ sp = .s ∨ sp = .p := by simpa [formImm, or_assoc] using hr
    simp [-bind_pure_comp, CodesReadBack, decodeOp, decodeSys, formImm]
    exact ⟨(spCode_lt sp).trans (by decide), probeSp_eq_some_iff.mpr ⟨rfl, hsp⟩⟩
  all_goals simp [-bind_pure_comp, CodesReadBack, decodeOp, decodeSys, formMem, formImm]
  all_goals omega

/-- The codes of each form that meets its own description are read back. -/
theorem codesReadBack_of_form (h : form i = some f) (ht : f.tags.contains f.node.tag = true) (hr : f.rest = true) : CodesReadBack f i := by
  simp only [form, Option.orElse_eq_some] at h
  obtain h | ⟨-, h | ⟨-, h | ⟨-, h | ⟨-, h | ⟨-, h | ⟨-, h | ⟨-, h⟩⟩⟩⟩⟩⟩⟩ := h
  · exact codesReadBack_of_formFlow h ht
  · exact codesReadBack_of_formInt h
  · exact codesReadBack_of_formFloat h
  · exact codesReadBack_of_formVec h hr
  · exact codesReadBack_of_formCrewOp h
  · exact codesReadBack_of_formTile h hr
  · exact codesReadBack_of_formMemOp h hr
  · exact codesReadBack_of_formSys h hr

end

/-! ### The fields that every node has (R255, R257, R259, R261) -/

/-- A number in two parts, the lower one below `k`. -/
theorem mul_add_eq_iff {hi lo k w : Nat} (h : lo < k) : hi * k + lo = w ↔ hi = w / k ∧ lo = w % k := by
  rw [eq_comm (b := w / k), eq_comm (b := w % k), Nat.div_mod_unique (by omega), mul_comm, add_comm, and_iff_left h]

@[simp] theorem srcOf_eq_some_iff {c : Nat} {x : Src} : srcOf c = some x ↔ srcCode x = c := by
  constructor
  · intro h
    have hc := Nat.div_add_mod c 8192
    unfold srcOf at h
    split at h <;> simp at h <;> grind [srcCode]
  · rintro rfl
    have kind {k j : Nat} (hj : j < 8192) : (8192 * k + j) / 8192 = k ∧ (8192 * k + j) % 8192 = j := by omega
    cases x with
    | none => rfl
    | port p => simp [srcOf, srcCode, kind (k := 1) (p.isLt.trans (by decide))]
    | win j => simp [srcOf, srcCode, kind (k := 2) (j.isLt.trans (by decide))]
    | kreg j => simp [srcOf, srcCode, kind (k := 3) (j.isLt.trans (by decide))]
    | imm => rfl
    | sr j => simp [srcOf, srcCode, kind (k := 5) (j.isLt.trans (by decide))]
    | pool j => simp [srcOf, srcCode, kind (k := 6) j.isLt]

theorem srcCode_lt (x : Src) : srcCode x < 2 ^ 16 := by
  cases x <;> simp [srcCode] <;> omega

theorem netOf_eq_iff {c : Nat} {x : Net} (h : c < 4) : netOf c = x ↔ netCode x = c := by
  interval_cases c <;> cases x <;> decide

theorem dstCode_lt (d : Option Dst) : dstCode d < 2 ^ 24 := by
  cases d with
  | none => decide
  | some d => grind [dstCode, netCode_lt, steerCode_lt]

/-- The fields of a valid destination, each in its place (R261). -/
theorem dstCode_some_eq_iff {d : Dst} {x : Nat} :
    dstCode (some d) = x ↔ x / 2 ^ 23 = 1 ∧ netCode d.net = x / 2 ^ 21 % 4 ∧ d.page.val = x / 2 ^ 15 % 64 ∧
      d.pe.val = x / 2 ^ 11 % 16 ∧ d.slot.val = x / 2 ^ 8 % 8 ∧ d.port.val = x / 2 ^ 6 % 4 ∧ steerCode d.steer = x / 2 ^ 4 % 4 ∧ x % 16 = 0 := by
  have hnet := netCode_lt d.net
  have hsteer := steerCode_lt d.steer
  simp only [dstCode]
  omega

theorem dstOfV_eq_some_iff {x : Nat} {d : Dst} (hv : x / 2 ^ 23 = 1) : dstOfV x = some d ↔ dstCode (some d) = x := by
  obtain ⟨net, page, pe, slot, port, steer⟩ := d
  simp only [dstCode_some_eq_iff, hv, true_and, ← netOf_eq_iff (Nat.mod_lt (x / 2 ^ 21) (show 0 < 4 by decide))]
  constructor
  · intro h
    unfold dstOfV at h
    split at h
    next hpage hpe hslot hport hsteer =>
      simp only [finOf_eq_some_iff, steerOf_eq_some_iff] at hpage hpe hslot hport hsteer
      split at h
      next hlow =>
        cases h
        exact ⟨rfl, hpage, hpe, hslot, hport, hsteer, hlow⟩
      next => cases h
    next => cases h
  · rintro ⟨hnet, hpage, hpe, hslot, hport, hsteer, hlow⟩
    have epage : finOf 64 (dstOfV.bits' x 20 15) = some page := finOf_eq_some_iff.mpr hpage
    have epe : finOf 16 (dstOfV.bits' x 14 11) = some pe := finOf_eq_some_iff.mpr hpe
    have eslot : finOf 8 (dstOfV.bits' x 10 8) = some slot := finOf_eq_some_iff.mpr hslot
    have eport : finOf 3 (dstOfV.bits' x 7 6) = some port := finOf_eq_some_iff.mpr hport
    have esteer : steerOf (dstOfV.bits' x 5 4) = some steer := steerOf_eq_some_iff.mpr hsteer
    have enet : netOf (dstOfV.bits' x 22 21) = net := hnet
    simp only [dstOfV, epage, epe, eslot, eport, esteer, enet, hlow, if_true]

theorem dstOf_eq_some_iff {x : Nat} {d : Option Dst} (hx : x < 2 ^ 24) : dstOf x = some d ↔ dstCode d = x := by
  unfold dstOf
  split
  next hv =>
    cases d with
    | none => simp [dstCode, eq_comm]
    | some d =>
      simp [dstCode_some_eq_iff]
      omega
  next hv =>
    cases d with
    | none =>
      simp [dstCode]
      omega
    | some d => simp [dstOfV_eq_some_iff (show x / 2 ^ 23 = 1 by omega)]

/-- The kinds of bits [63:48] that a node with operands `a` and `b` may hold where its form reads them as `k` (R259). -/
def LowFits (k : SeqKind) (a b : Src) : Low → Prop
  | .src _ => k = .plain ∧ ¬(a = .imm ∨ b = .imm)
  | .imm _ => k = .plain ∧ (a = .imm ∨ b = .imm)
  | .seq _ _ _ => k = .seq
  | .ignored _ => k = .ignored

theorem lowCode_lt (l : Low) : lowCode l < 2 ^ 16 := by
  cases l with
  | src s => exact srcCode_lt s
  | imm v => exact v.isLt
  | seq q p u => simp [lowCode]; omega
  | ignored v => exact v.isLt

theorem ofNat_eq_iff {n x : Nat} {v : BitVec n} (h : x < 2 ^ n) : BitVec.ofNat n x = v ↔ v.toNat = x := by
  simp [BitVec.toNat_eq, Nat.mod_eq_of_lt h, eq_comm]

theorem lowOf_eq_some_iff {k : SeqKind} {a b : Src} {x : Nat} {l : Low} (hx : x < 2 ^ 16) :
    lowOf k a b x = some l ↔ lowCode l = x ∧ LowFits k a b l := by
  cases k with
  | seq =>
    cases l <;> simp [lowOf, LowFits, lowCode, BitVec.toNat_eq]
    omega
  | ignored => cases l <;> simp [lowOf, LowFits, lowCode, ofNat_eq_iff hx]
  | plain =>
    unfold lowOf
    by_cases himm : a = .imm ∨ b = .imm <;> cases l <;> simp [LowFits, lowCode, himm, ofNat_eq_iff hx]

theorem nodeFields_eq_some_iff {k : SeqKind} {w : Nat} {n : Node} :
    nodeFields k w = some n ↔
      tyCode n.ty = w / 2 ^ 109 % 32 ∧ n.ari.val = w / 2 ^ 107 % 4 ∧ tagCode n.tag = w / 2 ^ 104 % 8 ∧
      srcCode n.a = w / 2 ^ 80 % 65536 ∧ srcCode n.b = w / 2 ^ 64 % 65536 ∧
      (lowCode n.low = w / 2 ^ 48 % 65536 ∧ LowFits k n.a n.b n.low) ∧
      dstCode n.d0 = w / 2 ^ 24 % 2 ^ 24 ∧ dstCode n.d1 = w % 2 ^ 24 := by
  obtain ⟨ty, ari, tag, a, b, low, d0, d1⟩ := n
  have hlow := Nat.mod_lt (w / 2 ^ 48) (show 0 < 65536 by decide)
  have hd0 := Nat.mod_lt (w / 2 ^ 24) (show 0 < 2 ^ 24 by decide)
  have hd1 := Nat.mod_lt w (show 0 < 2 ^ 24 by decide)
  simp only [nodeFields, Option.bind_eq_bind, Option.bind_eq_some_iff, tyOf_eq_some_iff, finOf_eq_some_iff, tagOf_eq_some_iff,
    srcOf_eq_some_iff, lowOf_eq_some_iff hlow, dstOf_eq_some_iff hd0, dstOf_eq_some_iff hd1, Option.some.injEq, Node.mk.injEq]
  constructor
  · rintro ⟨_, h1, _, h2, _, h3, _, h4, _, h5, _, h6, _, h7, _, h8, rfl, rfl, rfl, rfl, rfl, rfl, rfl, rfl⟩
    exact ⟨h1, h2, h3, h4, h5, h6, h7, h8⟩
  · rintro ⟨h1, h2, h3, h4, h5, h6, h7, h8⟩
    exact ⟨_, h1, _, h2, _, h3, _, h4, _, h5, _, h6, _, h7, _, h8, rfl, rfl, rfl, rfl, rfl, rfl, rfl, rfl⟩

/-! ### The word of a form and its fields -/

/-- A number by eleven fields of a word's widths, from the highest down (R255). -/
theorem wordFields_eq_iff {o v t r g f a b l d e w : Nat} (hv : v < 2 ^ 6) (ht : t < 2 ^ 5) (hr : r < 2 ^ 2) (hg : g < 2 ^ 3)
    (hf : f < 2 ^ 8) (ha : a < 2 ^ 16) (hb : b < 2 ^ 16) (hl : l < 2 ^ 16) (hd : d < 2 ^ 24) (he : e < 2 ^ 24) :
    o * 2 ^ 120 + v * 2 ^ 114 + t * 2 ^ 109 + r * 2 ^ 107 + g * 2 ^ 104 + f * 2 ^ 96 + a * 2 ^ 80 + b * 2 ^ 64 + l * 2 ^ 48 +
        d * 2 ^ 24 + e = w ↔
      o = w / 2 ^ 120 ∧ v = w / 2 ^ 114 % 2 ^ 6 ∧ t = w / 2 ^ 109 % 2 ^ 5 ∧ r = w / 2 ^ 107 % 2 ^ 2 ∧ g = w / 2 ^ 104 % 2 ^ 3 ∧
      f = w / 2 ^ 96 % 2 ^ 8 ∧ a = w / 2 ^ 80 % 2 ^ 16 ∧ b = w / 2 ^ 64 % 2 ^ 16 ∧ l = w / 2 ^ 48 % 2 ^ 16 ∧
      d = w / 2 ^ 24 % 2 ^ 24 ∧ e = w % 2 ^ 24 := by
  calc _ ↔ (((((((((o * 2 ^ 6 + v) * 2 ^ 5 + t) * 2 ^ 2 + r) * 2 ^ 3 + g) * 2 ^ 8 + f) * 2 ^ 16 + a) * 2 ^ 16 + b) * 2 ^ 16 + l) *
        2 ^ 24 + d) * 2 ^ 24 + e = w := by ring_nf
    _ ↔ _ := by
      simp only [mul_add_eq_iff, hv, ht, hr, hg, hf, ha, hb, hl, hd, he, Nat.div_div_eq_div_mul, ← pow_add, Nat.reduceAdd, and_assoc]

/-- The word of a form is `w` where its codes and its node's fields are those of `w`. -/
theorem packWord_eq_iff {f : Form} {w : NodeWord} (hopc : f.opc < 2 ^ 8) (hvar : f.var < 2 ^ 6) (hflg : f.flg < 2 ^ 8)
    (hlow : LowFits f.seq f.node.a f.node.b f.node.low) :
    packWord f = w ↔ f.opc = w.toNat / 2 ^ 120 % 256 ∧ f.var = w.toNat / 2 ^ 114 % 64 ∧ f.flg = w.toNat / 2 ^ 96 % 256 ∧
      nodeFields f.seq w.toNat = some f.node := by
  have hty := (tyCode_lt f.node.ty).trans (show 28 < 2 ^ 5 by decide)
  have htag := (tagCode_lt f.node.tag).trans (show 6 < 2 ^ 3 by decide)
  have hari := f.node.ari.isLt
  have ha := srcCode_lt f.node.a
  have hb := srcCode_lt f.node.b
  have hl := lowCode_lt f.node.low
  have hd := dstCode_lt f.node.d0
  have he := dstCode_lt f.node.d1
  have htop : w.toNat / 2 ^ 120 % 256 = w.toNat / 2 ^ 120 := Nat.mod_eq_of_lt (Nat.div_lt_of_lt_mul w.isLt)
  unfold packWord
  rw [ofNat_eq_iff (by omega), eq_comm, wordFields_eq_iff hvar hty hari htag hflg ha hb hl hd he, nodeFields_eq_some_iff, htop]
  constructor
  · rintro ⟨ho, hv, ht, hr, hg, hf, ha, hb, hl, hd, he⟩
    exact ⟨ho, hv, hf, ht, hr, hg, ha, hb, ⟨hl, hlow⟩, hd, he⟩
  · rintro ⟨ho, hv, hf, ht, hr, hg, ha, hb, ⟨hl, -⟩, hd, he⟩
    exact ⟨ho, hv, ht, hr, hg, hf, ha, hb, hl, hd, he⟩

/-- A flawless form meets its description's own limits, and its low field is of the kind that its operands ask for. -/
theorem fits_of_flaw_eq_none {f : Form} (h : flaw f = none) :
    f.tags.contains f.node.tag = true ∧ f.rest = true ∧ LowFits f.seq f.node.a f.node.b f.node.low := by
  have hres : reservedOk f = true := by
    by_contra hn
    simp [flaw, eq_false_of_ne_true hn] at h
  simp only [reservedOk, Bool.and_eq_true] at hres
  obtain ⟨⟨⟨⟨⟨⟨⟨-, htag⟩, -⟩, -⟩, hlow⟩, -⟩, -⟩, hrest⟩ := hres
  refine ⟨htag, hrest, ?_⟩
  unfold lowOk at hlow
  split at hlow <;> simp_all [LowFits]

theorem parse_eq_ok_iff {i : Instr} {w : Nat} :
    parse w = .ok i ↔ w / 2 ^ 120 % 256 ≠ 0 ∧
      ∃ mk, decodeOp (w / 2 ^ 120 % 256) (w / 2 ^ 114 % 64) (w / 2 ^ 96 % 256) (w / 2 ^ 104 % 8) = .ok mk ∧
        ∃ n, nodeFields (seqOf (mk blankNode)) w = some n ∧ mk n = i := by
  unfold parse
  split_ifs with hw hopc
  · simp [hw]
  · simp only [hopc, ne_eq, not_true_eq_false, false_and]
  · simp only [bind_eq_ok_iff, pure_eq_ok_iff, assigned_eq_ok_iff, ne_eq, hopc, not_false_eq_true, true_and]

/-- A flawless node is parsed from one word, the word of its form: what the decoder reads has the form's codes, and the form's
codes are read back. -/
theorem parse_eq_ok_iff_packWord {i : Instr} {f : Form} {w : NodeWord} (hf : form i = some f) (hflaw : flaw f = none) :
    parse w.toNat = .ok i ↔ packWord f = w := by
  obtain ⟨htags, hrest, hlow⟩ := fits_of_flaw_eq_none hflaw
  obtain ⟨hpos, hopc, hvar, hflg, mk, hmk, hi⟩ := codesReadBack_of_form hf htags hrest
  rw [parse_eq_ok_iff, packWord_eq_iff hopc hvar hflg hlow]
  constructor
  · rintro ⟨-, mk', hmk', n, hn, hi'⟩
    obtain ⟨ho, hv, hg, hnode, hseq⟩ := form_of_decodeOp (Nat.mod_lt _ (by decide)) (Nat.mod_lt _ (by decide)) hmk' hi' hf
    exact ⟨ho, hv, hg, by rw [hseq, hnode]; exact hn⟩
  · rintro ⟨ho, hv, hg, hn⟩
    obtain ⟨-, -, -, -, hseq⟩ := form_of_decodeOp hvar hflg hmk hi hf
    obtain ⟨-, -, htag, -⟩ := nodeFields_eq_some_iff.mp hn
    rw [ho, hv, hg, htag] at hmk
    exact ⟨by omega, mk, hmk, f.node, hseq ▸ hn, hi⟩

/-- The decoder answers what it parses where that is a node without a flaw. -/
theorem decode_eq_ok_iff_parse {i : Instr} {w : NodeWord} :
    decode w = .ok i ↔ parse w.toNat = .ok i ∧ ∃ f, form i = some f ∧ flaw f = none := by
  simp only [decode, bind_eq_ok_iff]
  constructor
  · rintro ⟨j, hj, h⟩
    split at h
    next f hf =>
      split at h
      next => cases h
      next hflaw =>
        cases h
        exact ⟨hj, f, hf, hflaw⟩
    next => cases h
  · rintro ⟨hi, f, hf, hflaw⟩
    exact ⟨i, hi, by simp [hf, hflaw]⟩

theorem wf_node_iff {i : Instr} : i.wf = true ∧ (form i).isSome = true ↔ ∃ f, form i = some f ∧ flaw f = none := by
  cases hf : form i <;> simp [Instr.wf, hf]

theorem encode_of_form {i : Instr} {f : Form} (hf : form i = some f) : encode i = packWord f := by
  simp [encode, hf]

/-- The one word that decodes to a well-formed node is its encoding, and no word decodes to anything else. -/
theorem decode_eq_ok_iff {i : Instr} {w : NodeWord} : decode w = .ok i ↔ encode i = w ∧ i.wf = true ∧ (form i).isSome = true := by
  rw [decode_eq_ok_iff_parse, wf_node_iff]
  refine and_congr_left fun ⟨f, hf, hflaw⟩ => ?_
  rw [encode_of_form hf]
  exact parse_eq_ok_iff_packWord hf hflaw

end Sys2Proof.Machine

section
open Sys2Proof Sys2Proof.Machine

/-- Settles O2: the decoder answers a node for exactly one word, which is the node's encoding; both directions read that equivalence. -/
theorem decodeAndEncodeAreInverse : Obligations.DecodeAndEncodeAreInverse :=
  ⟨fun _ hwf hform => decode_eq_ok_iff.mpr ⟨rfl, hwf, hform⟩, fun _ _ h => decode_eq_ok_iff.mp h⟩

/-- Settles O1: each worked word is the encoding of its well-formed node; the empty slot and major 0xFF are refused as they are read. -/
theorem writtenWordsDecodeToTheirNodes : Obligations.WrittenWordsDecodeToTheirNodes := by
  unfold Obligations.WrittenWordsDecodeToTheirNodes
  simp only [decode_eq_ok_iff]
  decide

end
